-- ==== Sys2Proof/Word.lean ====
section
/-! DEFINITION. The word types of the VX-640 and their plainest arithmetic (R4, R16, R50).
Nothing here is more than a width and a way to take it apart. -/

namespace Sys2Proof

/-- One byte. -/
abbrev Byte := BitVec 8

/-- A 32-bit register value (R15, R16). -/
abbrev Word := BitVec 32

/-- A 64-bit value: a register pair, a mask register, an address (R16, R204). -/
abbrev DWord := BitVec 64

/-- A set of logical lanes: bit i belongs to lane i (R16). -/
abbrev Mask := BitVec 64

/-- Bits hi..lo of a number (R4: both ends included). -/
def bits (x hi lo : Nat) : Nat := (x >>> lo) % 2 ^ (hi + 1 - lo)

/-- Bit i of a number. -/
def bit (x i : Nat) : Bool := x.testBit i

/-- The 64-bit value of a pair, low word in the even register (R16). -/
def pair64 (lo hi : Word) : DWord := hi ++ lo

/-- The low word of a 64-bit value. -/
def lo32 (x : DWord) : Word := x.setWidth 32

/-- The high word of a 64-bit value. -/
def hi32 (x : DWord) : Word := (x >>> 32).setWidth 32

end Sys2Proof
end

