-- ==== Sys2Proof/Config.lean ====
section
/-! DEFINITION. What an implementation fixes and what the spec leaves open. The constants without a body
are free values: a claim about the model holds whatever they are. -/

namespace Sys2Proof.Config

/-- Which of several possible next steps is taken (log 3): the order the spec leaves open (R221, R228,
R357 and every race of order between units). Applied to the counter of the state. -/
opaque pick : Nat → Nat

/-- A free 64-bit value, applied to the counter of the state: reads from memory that the module does not
home, %cycle in free mode. -/
opaque freeWord : Nat → DWord

/-- The fuse map that a side of a physical core ships with, before the limit of R33. -/
opaque shippedMap : Nat → Nat → BitVec 36

/-- How many bits of a map are 1. -/
def goodLanes (m : BitVec 36) : Nat := ((List.range 36).filter (fun i => m.getLsbD i)).length

/-- The shipped fuse map: at least 30 good lanes (R33). A constant that breaks the limit stands for the
full map. -/
def fuseMap (phys side : Nat) : BitVec 36 :=
  if 30 ≤ goodLanes (shippedMap phys side) then shippedMap phys side else BitVec.allOnes 36

/-- Whether an image carries a valid signature (R365): the check is the firmware's own. -/
opaque signatureOk : List Byte → Bool

/-- The SHA-512 digest of the body of the factory's image of an index, whose bytes the model does not hold (R370, R398); the
first 64 bytes count (log 80). -/
opaque factoryDigest : Nat → List Byte

/-- The attestation signature over a report (R370, R398); its first 512 bytes count. -/
opaque signReport : List Byte → List Byte

/-- The firmware version that VERSION answers (R364). -/
opaque firmwareVersion : DWord

/-- The stepping of this device (R395). -/
def stepping : Nat := 1

/-- The CXL expansion devices that start-up enumerates, in order, each by its capacity in bytes (R205, R360); the
first four count. -/
opaque cxlDevices : List Nat

/-- The launch state of a context (Table 15-8) as the dump holds it: its layout is not given (R354). -/
opaque savedState : Nat → List Byte

end Sys2Proof.Config
end

