-- ==== Sys2Proof/Syntax.lean ====
section
/-! DEFINITION. The instructions and the device steps of the VX-640, one constructor for each row of
the opcode table. An encoded instruction carries the fields of its word (R44, R47, R53); a step of the
device that has no encoding carries what tells one such step from another, and what the outside world
brings to it. -/

namespace Sys2Proof

/-- The fields of a short-form word (Table 3-2). `m` is length code bit 0: the word is the first of a
marked pair (Table 3-1). -/
structure SForm where
  ty   : BitVec 4
  pneg : Bool
  pred : BitVec 3
  a    : BitVec 8
  d    : BitVec 8
  m    : Bool
  deriving DecidableEq, Repr

/-- The fields of a long-form word (Table 3-4); `lit` is the third word of the literal form (R47). -/
structure LForm where
  d    : BitVec 8
  a    : BitVec 8
  b    : BitVec 8
  c    : BitVec 8
  pred : BitVec 3
  pneg : Bool
  ty   : BitVec 4
  mod  : BitVec 4
  fsel : Bool
  setf : Bool
  asc  : Bool
  bsc  : Bool
  mod2 : BitVec 4
  lit  : Option Word
  deriving DecidableEq, Repr

/-- The fields of a clause header (Table 3-8). -/
structure Header where
  rgn   : Bool
  yield : Bool
  bval  : Bool
  flagB : BitVec 4
  aval  : Bool
  flagA : BitVec 4
  wait  : BitVec 12
  deriving DecidableEq, Repr

/-- The words of an instruction whose opcode is not assigned (R45, R64). -/
inductive UWord where
  | short (w : Word)
  | long (lo hi : Word)
  | lit (lo hi l : Word)
  deriving DecidableEq, Repr

/-- What a walk is for (R211, R213): an instruction fetch of a cord, an access of an outstanding
operation, an engine request's access, an array's row-scale read, the read of a submitted record, or a ring. -/
inductive WalkSrc where
  | fetch (b c va : Nat)
  | op (b c o va : Nat)
  | eng (core r va : Nat)
  | array (core va : Nat)
  | submit (part ctx va : Nat)
  | ring (part r va : Nat)
  deriving DecidableEq, Repr

/-- What a cord is suspended for (R317). -/
inductive SuspendWhy where
  | debugger
  | trap
  | slowGear
  | emulation
  deriving DecidableEq, Repr

/-- Who writes a management or control register (Table 18-8): the host through BAR0, the control cores, the system
image of a partition, or the host through BAR2 of a partition's virtual function (Table 18-1). -/
inductive MgmtWho where
  | host
  | control
  | image (part : Nat)
  | function (part : Nat)
  deriving DecidableEq, Repr

/-- An access to device memory from outside (R355, R359, R378): a read, a write, or an atomic step with its
operation, type, operand and the value that a compare-and-swap expects. -/
inductive Outside where
  | read (len : Nat)
  | write (bytes : List Byte)
  | step (op ty : Nat) (val cmp : DWord)
  deriving DecidableEq, Repr

/-- What the other devices bring to a collective: their ranks' values, element by element in wire
format, and an error of Table 9-9 that arises outside this device (0 for none). -/
structure CollWorld where
  vals : List (Nat × List Nat)
  err  : Nat
  deriving DecidableEq, Repr

/-- What the far side of a port engine brings to a finished descriptor (Table 18-4). -/
structure RingWorld where
  status : Nat
  len    : Nat
  deriving DecidableEq, Repr

/-- Telemetry of a die at a sample (Table 18-6). -/
structure PowerSample where
  pmeas : Nat
  qpeak : Nat
  vcore : Nat
  deriving DecidableEq, Repr

/-- What the work of a start-up stage finds (R385, R386): an ERRCODE or 0, the physical clusters that the core test
fails, and the logical core map that it builds, as (logical cluster, physical cluster). -/
structure StartupWorld where
  fault  : Nat
  failed : List Nat
  maps   : List (Nat × Nat)
  deriving DecidableEq, Repr

/-- The result of an awl test (R389). -/
inductive AwlResult where
  | pass
  | lane (side lane : Nat)
  | other
  | aborted
  deriving DecidableEq, Repr

/-- Where an error that ECC cannot correct arises (R348, R351, R172); an error of an array that was corrected (R172),
or a poisoned code line that was prefetched and never decoded (R351), is only logged. -/
inductive EccWhere where
  | memory (pa len : Nat)
  | array (core i : Nat)
  | corrected (core : Nat)
  | discarded (pa : Nat)
  deriving DecidableEq, Repr

/-- A data object as the loader places it (R13): its global address and its bytes. `fills` are the words that receive
bits 31..0 or 63..32 of the address of a data object (R132): the offset, the number of the object in its file, and
whether the high half. -/
structure DataObject where
  addr  : Nat
  bytes : List Byte
  fills : List (Nat × Nat × Bool)
  deriving DecidableEq, Repr

/-- A region of a portable program (R396): the operations of each index, each as the words of its instruction; or the
block reduction of register a into register d, with the operation and the type of Table 5-6. -/
inductive PortableRegion where
  | each (ops : List (List Word))
  | reduce (op ty d a : Nat)
  deriving DecidableEq, Repr

/-- A portable program (R396): how many strand indices it has, how many registers each of them, and its regions, split
at barriers. -/
structure Portable where
  n       : Nat
  regs    : Nat
  regions : List PortableRegion
  deriving DecidableEq, Repr

/-- What the loader reads of a code object: its header (Table 18-7), where it installs it, the static descriptors
it declares (R180), for each entry of its kernel table the registers that take its parameter words (R9), the bytes of its
code, by physical address, its data objects (R13), and the program of a portable one (R396). -/
structure CodeObject where
  head     : BitVec 512
  base     : Nat
  len      : Nat
  tensors  : List (Nat × Nat)
  consts   : List (Nat × List Nat)
  bytes    : List (Nat × Byte)
  data     : List DataObject := []
  portable : Option Portable := none
  deriving DecidableEq, Repr

/-- The instructions and steps of the device, one constructor per row of the opcode table. -/
inductive Instr where
  /-- CLAUSE_HEADER: A PC group enters a clause header; the group issues the clause's first instruction once every flag named in WAIT is clear, a region starts if RGN is set, and an empty clause holds the issue slot for P cycles (R56). -/
  | clauseHeader (h : Header)
  /-- MOV_SHORT: Short form of MOV: copies vA to vD in the issuing strands where the predicate holds (R81). -/
  | movShort (f : SForm)
  /-- ADD_SHORT: Short form of ADD: vD := vD + vA, wrapped (R83). -/
  | addShort (f : SForm)
  /-- SUB_SHORT: Short form of SUB: vD := vD - vA, wrapped (R83). -/
  | subShort (f : SForm)
  /-- MUL_SHORT: Short form of MUL: vD := low half of vD * vA (R83). -/
  | mulShort (f : SForm)
  /-- MULH_SHORT: Short form of MULH: vD := high half of vD * vA (R83). -/
  | mulhShort (f : SForm)
  /-- MIN_SHORT: Short form of MIN: vD := min(vD, vA) (R83). -/
  | minShort (f : SForm)
  /-- MAX_SHORT: Short form of MAX: vD := max(vD, vA) (R83). -/
  | maxShort (f : SForm)
  /-- AND_SHORT: Short form of AND: vD := vD & vA (R85). -/
  | andShort (f : SForm)
  /-- OR_SHORT: Short form of OR: vD := vD | vA (R85). -/
  | orShort (f : SForm)
  /-- XOR_SHORT: Short form of XOR: vD := vD ^ vA (R85). -/
  | xorShort (f : SForm)
  /-- NOT_SHORT: Short form of NOT: vD := ~vA (R85). -/
  | notShort (f : SForm)
  /-- NEG_SHORT: Short form of NEG: vD := -vA, wrapped (R83). -/
  | negShort (f : SForm)
  /-- ABS_SHORT: Short form of ABS: vD := abs(vA), wrapped (R83). -/
  | absShort (f : SForm)
  /-- SHL_SHORT: Short form of SHL: vD := vD shifted left by vA (R86). -/
  | shlShort (f : SForm)
  /-- SHR_SHORT: Short form of SHR: vD := vD shifted right by vA with zero fill (R86). -/
  | shrShort (f : SForm)
  /-- SAR_SHORT: Short form of SAR: vD := vD shifted right by vA with sign fill (R86). -/
  | sarShort (f : SForm)
  /-- ROT_SHORT: Short form of ROT.l: vD := vD rotated left by vA (R86). -/
  | rotShort (f : SForm)
  /-- POPC_SHORT: Short form of POPC: vD := number of 1 bits of vA (R85). -/
  | popcShort (f : SForm)
  /-- CLZ_SHORT: Short form of CLZ: vD := leading zero count of vA (R85). -/
  | clzShort (f : SForm)
  /-- BREV_SHORT: Short form of BREV: vD := bit-reversed vA (R85). -/
  | brevShort (f : SForm)
  /-- FADD_SHORT: Short form of FADD: vD := vD + vA rounded to nearest even (R91). -/
  | faddShort (f : SForm)
  /-- FSUB_SHORT: Short form of FSUB: vD := vD - vA rounded to nearest even (R91). -/
  | fsubShort (f : SForm)
  /-- FMUL_SHORT: Short form of FMUL: vD := vD * vA rounded to nearest even (R91). -/
  | fmulShort (f : SForm)
  /-- FMIN_SHORT: Short form of FMIN: vD := FMIN(vD, vA) (R92). -/
  | fminShort (f : SForm)
  /-- FMAX_SHORT: Short form of FMAX: vD := FMAX(vD, vA) (R92). -/
  | fmaxShort (f : SForm)
  /-- FSAT_SHORT: Short form of FSAT: vD := vA limited to [+0, 1.0] (R92). -/
  | fsatShort (f : SForm)
  /-- NOP: Short NOP: retires with no effect and counts in %retired (R46). -/
  | nop (f : SForm)
  /-- MOV: Copies a register or pair to the destination bit for bit (R81). -/
  | mov (f : LForm)
  /-- MOVI: Writes the extended literal to the destination (R81). -/
  | movi (f : LForm)
  /-- SEL: Writes a or b to the destination according to predicate pC (R82). -/
  | sel (f : LForm)
  /-- ADD: Integer add per element, wrapped or saturated with .sat (R83). -/
  | add (f : LForm)
  /-- SUB: Integer subtract per element, wrapped or saturated (R83). -/
  | sub (f : LForm)
  /-- ADDC: Add with carry in and carry out through predicate pC (R84). -/
  | addc (f : LForm)
  /-- SUBB: Subtract with borrow in and borrow out through predicate pC (R84). -/
  | subb (f : LForm)
  /-- MUL: Integer multiply keeping the lower half (R83). -/
  | mul (f : LForm)
  /-- MULH: Integer multiply keeping the upper half of the double-width product (R83). -/
  | mulh (f : LForm)
  /-- MAD: Integer multiply-add a*b+c, wrapped (R83). -/
  | mad (f : LForm)
  /-- NEG: Integer negate, wrapped or saturated (R83). -/
  | neg (f : LForm)
  /-- ABS: Integer absolute value, wrapped or saturated (R83). -/
  | abs (f : LForm)
  /-- MIN: Integer minimum per element (R83). -/
  | min (f : LForm)
  /-- MAX: Integer maximum per element (R83). -/
  | max (f : LForm)
  /-- AND: Bitwise AND (R85). -/
  | and (f : LForm)
  /-- OR: Bitwise OR (R85). -/
  | or (f : LForm)
  /-- XOR: Bitwise exclusive OR (R85). -/
  | xor (f : LForm)
  /-- NOT: Bitwise complement (R85). -/
  | not (f : LForm)
  /-- SHL: Shift left by b, 0 when b is at least the width (R86). -/
  | shl (f : LForm)
  /-- SHR: Logical shift right by b (R86). -/
  | shr (f : LForm)
  /-- SAR: Arithmetic shift right by b (R86). -/
  | sar (f : LForm)
  /-- ROT: Rotate left or right by b mod width (R86). -/
  | rot (f : LForm)
  /-- POPC: Counts the 1 bits of a (R85). -/
  | popc (f : LForm)
  /-- CLZ: Counts the leading 0 bits of a (R85). -/
  | clz (f : LForm)
  /-- BREV: Reverses the bits of a (R85). -/
  | brev (f : LForm)
  /-- BFE: Extracts a bit field of a, zero- or sign-extended (R87). -/
  | bfe (f : LForm)
  /-- BFI: Inserts low bits of a into a field of c (R87). -/
  | bfi (f : LForm)
  /-- LEA: Forms a 64-bit address a + (extended b << shift) (R88). -/
  | lea (f : LForm)
  /-- ICMP: Integer compare writing a predicate, optionally combined with pC (R89). -/
  | icmp (f : LForm)
  /-- PSET: Sets a predicate from a nonzero test or from bit %lane of a 64-bit mask (R90). -/
  | pset (f : LForm)
  /-- PAND: Predicate AND (R90). -/
  | pand (f : LForm)
  /-- POR: Predicate OR (R90). -/
  | por (f : LForm)
  /-- PXOR: Predicate exclusive OR (R90). -/
  | pxor (f : LForm)
  /-- PNOT: Predicate complement (R90). -/
  | pnot (f : LForm)
  /-- FADD: Float add rounded in the selected mode, raising flags into %fpflags (R91). -/
  | fadd (f : LForm)
  /-- FSUB: Float subtract rounded in the selected mode (R91). -/
  | fsub (f : LForm)
  /-- FMUL: Float multiply rounded in the selected mode (R91). -/
  | fmul (f : LForm)
  /-- FFMA: Fused float multiply-add with one rounding (R91). -/
  | ffma (f : LForm)
  /-- FMIN: Float minimum with -0 below +0 and NaN handling (R92). -/
  | fmin (f : LForm)
  /-- FMAX: Float maximum with -0 below +0 and NaN handling (R92). -/
  | fmax (f : LForm)
  /-- FSAT: Limits a float to [+0, 1.0] (R92). -/
  | fsat (f : LForm)
  /-- FCMP: Float compare writing a predicate (R93). -/
  | fcmp (f : LForm)
  /-- FCLASS: Sets a predicate from the class of a under a class mask (R94). -/
  | fclass (f : LForm)
  /-- DIV: Queues a float or integer divide; integer divide by 0 writes 0xFFFF_FFFF and raises INT_DIVZ (R97). -/
  | div (f : LForm)
  /-- REM: Queues an integer remainder; remainder by 0 writes x and raises INT_DIVZ (R97). -/
  | rem (f : LForm)
  /-- RCP: Queues a correctly rounded reciprocal (R96). -/
  | rcp (f : LForm)
  /-- RSQ: Queues a correctly rounded reciprocal square root (R96). -/
  | rsq (f : LForm)
  /-- SQRT: Queues a correctly rounded square root (R96). -/
  | sqrt (f : LForm)
  /-- EXP2: Queues a correctly rounded 2^x (R96). -/
  | exp2 (f : LForm)
  /-- LOG2: Queues a correctly rounded log2 x (R96). -/
  | log2 (f : LForm)
  /-- SIN: Queues a correctly rounded sine (R96). -/
  | sin (f : LForm)
  /-- COS: Queues a correctly rounded cosine (R96). -/
  | cos (f : LForm)
  /-- TANH: Queues a correctly rounded hyperbolic tangent (R96). -/
  | tanh (f : LForm)
  /-- CVT: Queues a conversion of one value between integer and FP32 types (R100). -/
  | cvt (f : LForm)
  /-- PACK: Queues a conversion of two values into adjacent narrow elements of the destination (R101). -/
  | pack (f : LForm)
  /-- UNPACK: Queues an exact extraction of one packed element, raising FMT_ILL on a Q4O byte 0x88 (R102). -/
  | unpack (f : LForm)
  /-- CVTSC: Reads a descriptor's scale at issue and queues a quantise or dequantise with an optional row-scale load (R103). -/
  | cvtsc (f : LForm)
  /-- QUEUED_RESULT_WRITE: A special-function or conversion operation completes, writes its destinations, ORs its float flags and clears its flag (R78). -/
  | queuedResultWrite (b c o : Nat)
  /-- BRA: Branches participants to the PC-relative target after the target checks of R109 (R108). -/
  | bra (f : LForm)
  /-- BRX: Branches participants to the address held in a register pair (R108). -/
  | brx (f : LForm)
  /-- CALL: Writes the return address to a link pair and branches to the PC-relative target (R108). -/
  | call (f : LForm)
  /-- CALLX: Writes the return address to a link pair and branches to a register address (R108). -/
  | callx (f : LForm)
  /-- RET: Branches to a return address and releases a code-version reference (R108). -/
  | ret (f : LForm)
  /-- EXIT: Ends the participating strands, and the cord when its last strand ends (R112). -/
  | exit (f : LForm)
  /-- YIELD: Swaps the cord to the pending set, ready again at once (R113). -/
  | yield (f : LForm)
  /-- NOP_LONG: Long NOP: retires with no effect (R114). -/
  | nopLong (f : LForm)
  /-- JOIN: Sets the participants' bits in mask km (R115). -/
  | join (f : LForm)
  /-- LEAVE: Clears the participants' bits in mask km and rechecks release (R115). -/
  | leave (f : LForm)
  /-- WAITM: Parks strands whose bit is set in km and releases all members once every member is parked (R30). -/
  | waitm (f : LForm)
  /-- KSET: Writes a mask register from a scalar pair or literal (R117). -/
  | kset (f : LForm)
  /-- KMOV: Copies a mask register to a mask or scalar pair (R117). -/
  | kmov (f : LForm)
  /-- KAND: ANDs two mask registers, optionally with complement (R117). -/
  | kand (f : LForm)
  /-- KOR: ORs two mask registers (R117). -/
  | kor (f : LForm)
  /-- KPOP: Writes the population count or lowest set bit of a mask to a scalar (R117). -/
  | kpop (f : LForm)
  /-- VOTE: Combines a predicate across participants into any, all or a ballot (R118). -/
  | vote (f : LForm)
  /-- SHFL: Each participant pulls a value from another lane (R119). -/
  | shfl (f : LForm)
  /-- SHFLP: Each participant pushes a value to another lane; the highest sender wins (R120). -/
  | shflp (f : LForm)
  /-- REDUCE: Combines participants' values over the fixed lane tree (R121). -/
  | reduce (f : LForm)
  /-- SCAN: Prefix combination over the fixed tree nodes (R122). -/
  | scan (f : LForm)
  /-- MATCH: Sorts participants into classes of equal value and reports head, rank, peers or uniformity (R123). -/
  | matchLanes (f : LForm)
  /-- BAR: Arrives at a block barrier; the last arrival takes the block-scope boundary and releases all (R124). -/
  | bar (f : LForm)
  /-- BARB: Arrives at a braid barrier; the last arrival releases all at braid scope (R124). -/
  | barb (f : LForm)
  /-- GBAR: Arrives at the grid barrier; release at device scope, performing staged operations in deterministic mode (R126). -/
  | gbar (f : LForm)
  /-- LAUNCH: The block leader releases at device scope, reads a launch record and enqueues it, parking while the queue is full (R127). -/
  | launch (f : LForm)
  /-- LAUNCH_QUEUE_ROOM: A full launch queue gains room and accepts the record a parked LAUNCH holds, writing its handle (R127). -/
  | launchQueueRoom (b : Nat)
  /-- WAITCH: Parks the leader until the named or every child grid has ended, then writes its status and reclaims handles (R128). -/
  | waitch (f : LForm)
  /-- MFS: Reads a special register into a vector or scalar register (R129). -/
  | mfs (f : LForm)
  /-- MTS: Writes a writable special register from a scalar or literal (R130). -/
  | mts (f : LForm)
  /-- TRAP: Raises a precise TRAP record for the participants (R332). -/
  | trap (f : LForm)
  /-- BKPT: Suspends for the debugger, raises a BKPT trap, or acts as a NOP (R332). -/
  | bkpt (f : LForm)
  /-- TRET: Removes the record under delivery and returns the handler's strands to their saved PCs (R333). -/
  | tret (f : LForm)
  /-- TQPEEK: Copies the head trap record into twelve scalar registers (R334). -/
  | tqpeek (f : LForm)
  /-- TQDROP: Removes the oldest, or every, record not under delivery (R334). -/
  | tqdrop (f : LForm)
  /-- RGNEND: Ends the current region (R335). -/
  | rgnend (f : LForm)
  /-- CHKPT: Writes the region and braid status to a scalar pair (R335). -/
  | chkpt (f : LForm)
  /-- FWSAVE: Injected firmware form that writes the cord image to a physical address (R353). -/
  | fwsave (f : LForm)
  /-- FWREST: Injected firmware form that replaces the cord state from an image (R353). -/
  | fwrest (f : LForm)
  /-- FWARR: Injected firmware form that copies array accumulators, poison and sticky bits to or from memory (R353). -/
  | fwarr (f : LForm)
  /-- FWEND: Ends an injected firmware sequence (R353). -/
  | fwend (f : LForm)
  /-- LD: Issues a global load per participant, served from L1 or the home (R266). -/
  | ld (f : LForm)
  /-- ST: Issues a global store per participant, merged into L1 or made tentative (R267). -/
  | st (f : LForm)
  /-- LDX: Looks up the address in the tag table and reads the tagged line on a hit (R269). -/
  | ldx (f : LForm)
  /-- STX: Looks up the address in the tag table and writes the tagged line on a hit (R269). -/
  | stx (f : LForm)
  /-- LDC: Loads from the cluster scratchpad, waiting on presence (R266). -/
  | ldc (f : LForm)
  /-- STC: Stores to the cluster scratchpad, waiting on presence (R267). -/
  | stc (f : LForm)
  /-- PHASE: Takes a phase boundary at the given scope and meaning (R271). -/
  | phase (f : LForm)
  /-- FENCE_X: Orders the strand's accesses in two streams (R272). -/
  | fenceX (f : LForm)
  /-- FENCE_P: Orders two path classes and waits for the cord's earlier engine operations of those classes (R273). -/
  | fenceP (f : LForm)
  /-- PREF: Prefetches a line into L1 or the home cache (R270). -/
  | pref (f : LForm)
  /-- ATOM: Sends an atomic step per participant to the home and returns the old value (R276). -/
  | atom (f : LForm)
  /-- CAS: Sends a compare-and-swap step per participant in lane order (R277). -/
  | cas (f : LForm)
  /-- RED: Sends an atomic step per participant without returning a value (R276). -/
  | red (f : LForm)
  /-- ATOMR: Takes completion-queue credits and sends delegated atomic commands to the owner's atomic engine (R279). -/
  | atomr (f : LForm)
  /-- CQPOP: Takes the oldest completion-queue reply per participant (R280). -/
  | cqpop (f : LForm)
  /-- TST: Sends a tentative store that takes or joins a paired cell at the home (R281). -/
  | tst (f : LForm)
  /-- RETRACT: Withdraws a paired cell if unobserved, otherwise branches to the failure target (R283). -/
  | retract (f : LForm)
  /-- TCOMMIT: Frees the strand's braid's live cell, keeping the value (R284). -/
  | tcommit (f : LForm)
  /-- TDSET: Writes a descriptor entry from a scratchpad image after the checks of R146 (R178). -/
  | tdset (f : LForm)
  /-- TDGET: Writes a descriptor entry into a scratchpad image (R178). -/
  | tdget (f : LForm)
  /-- TDINV: Clears VALID of a descriptor entry (R178). -/
  | tdinv (f : LForm)
  /-- LOOKUP: Returns the tag slot matching an address or the miss code (R181). -/
  | lookup (f : LForm)
  /-- TAGSET: Binds a line address to a tag slot (R182). -/
  | tagset (f : LForm)
  /-- TAGCLR: Invalidates one or all tag slots (R182). -/
  | tagclr (f : LForm)
  /-- PRES: Returns the presence bit of a slot's line without waiting (R183). -/
  | pres (f : LForm)
  /-- KICK: Writes the kick register and hands a copy request to the request engine, waiting while the queue is full (R184). -/
  | kick (f : LForm)
  /-- BOINIT: Writes REMAIN and ARRIVE of a barrier object and clears its status bits (R185). -/
  | boinit (f : LForm)
  /-- BOARRIVE: Subtracts one from ARRIVE of a barrier object (R185). -/
  | boarrive (f : LForm)
  /-- BOWAIT: Parks the cord until REMAIN and ARRIVE of the object are both 0 (R186). -/
  | bowait (f : LForm)
  /-- MZERO: Queues zeroing of the accumulators, poison and sticky bits (R189). -/
  | mzero (f : LForm)
  /-- MMA: Queues a paired 64x64 matrix accumulation, slaving the follower's array (R190). -/
  | mma (f : LForm)
  /-- MMAS: Queues a single-core 32x64 matrix accumulation (R190). -/
  | mmas (f : LForm)
  /-- MDRAIN: Queues a drain of the accumulators with optional residual and dropout (R191). -/
  | mdrain (f : LForm)
  /-- MACCLD: Queues loading of the accumulators from scratchpad rows (R189). -/
  | maccld (f : LForm)
  /-- COLL: Hands a collective request to the collective engine, waiting while the queue is full (R193). -/
  | coll (f : LForm)
  /-- GSE: Hands a gather/scatter request to its engine, waiting while the queue is full (R197). -/
  | gse (f : LForm)
  /-- LOAD_DATA_RETURN: A load's data arrives from L1 or the home and is written to the destination, clearing its flag (R266). -/
  | loadDataReturn (b c o : Nat)
  /-- STORE_ARRIVAL_AT_HOME: Published store bytes arrive at their home and are ordered by its arbiter (R207). -/
  | storeArrivalAtHome (core n : Nat)
  /-- L1_WRITEBACK: The core writes unpublished bytes of its snapshot to their homes on its own (R207). -/
  | l1Writeback (core line : Nat)
  /-- TENTATIVE_STORE_ARRIVAL: A region or relaunchable braid store arrives at its home and takes, joins or stacks a cell, or is performed uncovered (R338). -/
  | tentativeStoreArrival (b c o dw : Nat)
  /-- UNCOVERED_STORE_REPORT: The core learns that a region store was performed without a cell and ends the region after it drains (R338). -/
  | uncoveredStoreReport (b c : Nat)
  /-- ATOMIC_STEP: The home arbiter performs an atomic step or merged group at a word and returns values (R221). -/
  | atomicStep (b c o pa : Nat)
  /-- ROUTER_MERGE_WINDOW: A router's 8-cycle hold for a mergeable atomic ends, or its group reaches 64, and the group is forwarded (R222). -/
  | routerMergeWindow (b c o pa : Nat)
  /-- TST_STEP: The home performs a TST: joins the braid's cell, or waits for a foreign cell to free and a free cell (R281). -/
  | tstStep (b c o dw : Nat)
  /-- TST_CELL_WAIT_TIMEOUT: A TST's waits pass 10 us and it writes its bytes without a cell, setting TFULL (R281). -/
  | tstCellWaitTimeout (b c o dw : Nat)
  /-- DELEGATED_ATOMIC_PERFORM: An owner's atomic engine performs an ATOMR command and sends its reply (R226). -/
  | delegatedAtomicPerform (core n : Nat)
  /-- CQ_REPLY_ARRIVAL: An ATOMR reply arrives and is placed in the completion queue, or discarded if its cord ended (R228). -/
  | cqReplyArrival (core n : Nat)
  /-- PAGE_WALK: A walker translates an address, setting ACC and DIRTY or finding a fault and taking a fault-buffer entry (R211). -/
  | pageWalk (w : WalkSrc)
  /-- FAULT_SERVICE: The hypervisor writes STATE 1 to a pending entry and the access is replayed from translation (R216). -/
  | faultService (die i : Nat)
  /-- FAULT_REJECT: The hypervisor writes STATE 2 to a pending entry and the access ends as Table 11-7 gives (R216). -/
  | faultReject (die i : Nat)
  /-- CONTEXT_SLOT_WRITE: The hypervisor writes a context slot's ROOT and VALID, ignored while cords are resident (R377). -/
  | contextSlotWrite (die k : Nat) (d0 d1 : DWord)
  /-- COPY_REQUEST_ACCEPT: The request engine accepts a copy request, reads and checks it and raises destination presence counts (R163). -/
  | copyRequestAccept (core : Nat)
  /-- COPY_DELIVERY: The engine moves bytes of a copy, counting them down on the barrier object and lowering presence counts (R162). -/
  | copyDelivery (core r : Nat)
  /-- GSE_REQUEST_ACCEPT: The gather/scatter engine accepts and checks a request and raises presence counts (R197). -/
  | gseRequestAccept (core : Nat)
  /-- GSE_ELEMENT_MOVE: The gather/scatter engine moves one element for one index (R198). -/
  | gseElementMove (core r k : Nat)
  /-- COLL_REQUEST_ACCEPT: The collective engine accepts and checks a collective request and raises presence counts (R193). -/
  | collRequestAccept (core : Nat)
  /-- COLLECTIVE_PERFORM: The ranks' values are combined over the canonical tree and written, counting down REMAIN and ARRIVE (R194). -/
  | collectivePerform (core r : Nat) (w : CollWorld)
  /-- ARRAY_MMA_PERFORM: An array performs a queued matrix operation slab by slab into its accumulators (R149). -/
  | arrayMmaPerform (core : Nat)
  /-- ARRAY_ZERO_LOAD_PERFORM: An array performs a queued MZERO or MACCLD (R189). -/
  | arrayZeroLoadPerform (core : Nat)
  /-- ARRAY_DRAIN_PERFORM: The drain unit writes the tile with residual and dropout and checks checksums (R171). -/
  | arrayDrainPerform (core : Nat)
  /-- FIRMWARE_EMULATION: A control core emulates an operation on E3M2 or I2 and then clears the flag and resumes the cord (R152). -/
  | firmwareEmulation (b c o : Nat)
  /-- HOST_SUBMIT: A host write to SUBMIT reads a launch record and queues it, or refuses it (R358). -/
  | hostSubmit (part ctx : Nat) (v : DWord)
  /-- LAUNCH_RECORD_ACCEPT: A record reaches the head of its queue and is checked against rows 2 to 5 of Table 15-3 (R291). -/
  | launchRecordAccept (part q : Nat)
  /-- LAUNCH_WAIT_SATISFIED: A completion word that an accepted record waits on reaches its value (R291). -/
  | launchWaitSatisfied (g k : Nat)
  /-- BLOCK_PLACEMENT: The distributor places a block or braid on a candidate core or cluster and starts its cords (R296). -/
  | blockPlacement (g : Nat)
  /-- AVOIDED_PLACEMENT_TIMEOUT: A block has waited 50 us with only avoided candidates and takes the coolest (R296). -/
  | avoidedPlacementTimeout (g : Nat)
  /-- BLOCK_RETIRE: A block whose cords and child grids have ended retires, and its braid retires with its last block (R23). -/
  | blockRetire (b : Nat)
  /-- STAGED_STEP_RELEASE: The ticket unit releases the ticket holder's next staged step in canonical tag order (R303). -/
  | stagedStepRelease (g : Nat)
  /-- GRID_COMPLETE: A grid's braids have retired; the device releases at SCOPE and writes SEQ to COMPL (R293). -/
  | gridComplete (g : Nat)
  /-- CONTROL_WORDS_WRITE: The hypervisor writes a context's control words, refused if out of range (R288). -/
  | controlWordsWrite (part ctx : Nat) (d0 d1 : DWord)
  /-- PREEMPT_REQUEST: The hypervisor pre-empts a context: placement stops and resident blocks drain (R313). -/
  | preemptRequest (part ctx : Nat)
  /-- CONTEXT_SAVE: With no block resident, firmware saves the context state and it becomes SAVED (R313). -/
  | contextSave (part ctx : Nat)
  /-- PREEMPT_DEADLINE_EXPIRY: The DEADLINE timer expires before the save and the context is forced to reset (R314). -/
  | preemptDeadlineExpiry (part ctx : Nat)
  /-- CONTEXT_RESTORE: A saved context resumes from its saved placement, ticket and log positions (R315). -/
  | contextRestore (part ctx : Nat)
  /-- CORD_SUSPEND: A suspension takes effect at an instruction boundary after queued results are written (R317). -/
  | cordSuspend (b c : Nat) (why : SuspendWhy)
  /-- DEBUGGER_RELEASE: The debugger releases a cord, removing a record it delivered and resuming as TRET would (R330). -/
  | debuggerRelease (b c : Nat)
  /-- HANG_DEADLINE_EXPIRY: A cord's hang clock reaches the deadline and the context takes a fatal error 0x0204 (R320). -/
  | hangDeadlineExpiry (b c : Nat)
  /-- REPLAY_FOREIGN_TIMEOUT: A recorded foreign step does not arrive within the hang deadline and replay diverges (R312). -/
  | replayForeignTimeout (part ctx : Nat)
  /-- TRAP_DELIVERY: The head record is delivered to the handler, the debugger, or causes a fatal error (R329). -/
  | trapDelivery (b c : Nat)
  /-- IMPRECISE_FAULT_REPORT: An imprecise cause is reported against the current region or as an uncovered KIND 2 record (R339). -/
  | impreciseFaultReport (b c n : Nat)
  /-- LATE_FAULT_RECORD: A late cause from an engine or array makes a KIND 3 record naming its instruction (R339). -/
  | lateFaultRecord (b c n : Nat)
  /-- REGION_END: A region's ending event takes effect once the region has drained, freeing its cells (R337). -/
  | regionEnd (b c : Nat)
  /-- REGION_COUNT_LIMIT: The 256th instruction of a region is counted and the region ends after it (R343). -/
  | regionCountLimit (b c : Nat)
  /-- REGION_WITHDRAWAL: After the region's stores are performed, its cells are sealed and retracted and registers restored, or it is unrecoverable (R340). -/
  | regionWithdrawal (b c : Nat)
  /-- SLOW_GEAR_STEP: The slow gear steps one strand one instruction, completing it before the next (R341). -/
  | slowGearStep (b c : Nat)
  /-- TWIN_MISMATCH: Twin-issue results disagree; a third issue votes, logging a corrected event or containing the braid (R347). -/
  | twinMismatch (b c : Nat) (side lane : Nat) (resolved : Bool)
  /-- BRAID_KILL: A braid is killed at its next instruction boundary, its cells retracted and it is relaunched or fatal (R349). -/
  | braidKill (g braid : Nat)
  /-- FATAL_ERROR_DUMP: Firmware stops the context after a fatal error, writes the dump and sends it to the host (R354). -/
  | fatalErrorDump (part ctx : Nat)
  /-- CODE_OBJECT_LOAD: The loader checks a code object header and installs it native, interlocked or translated (R395). -/
  | codeObjectLoad (part ctx : Nat) (o : CodeObject)
  /-- CODE_VERSION_REMOVE: A superseded code version whose reference count reaches 0 is removed (R352). -/
  | codeVersionRemove (part ctx v : Nat)
  /-- I3C_PRIVATE_WRITE: An I3C private write sets an offset and writes 8 bytes of the management registers (R363). -/
  | i3cPrivateWrite (off : Nat) (v : DWord)
  /-- MANAGEMENT_REGISTER_WRITE: A write to a management or control register with no behaviour of its own stores the value (R361). -/
  | managementRegisterWrite (who : MgmtWho) (off : Nat) (v : DWord)
  /-- RING_DOORBELL: A write to a ring doorbell makes the engine read PROD and serve new descriptors (R384). -/
  | ringDoorbell (part r : Nat)
  /-- RING_DESCRIPTOR_FINISH: The engine finishes a descriptor, writes STATUS and advances CONS with a release (R384). -/
  | ringDescriptorFinish (part r : Nat) (w : RingWorld)
  /-- FUNCTION_LEVEL_RESET: A PCIe Function Level Reset of virtual function n resets partition n (R355). -/
  | functionLevelReset (n : Nat)
  /-- HOST_MEMORY_ACCESS: A host CXL.mem read or write reaches device HBM at its home (R359). -/
  | hostMemoryAccess (pa : Nat) (a : Outside)
  /-- PEER_ACCESS_ARRIVAL: An access from a Frekolink peer arrives and is served at a home or rejected (R378). -/
  | peerAccessArrival (peer pa : Nat) (a : Outside)
  /-- PORT_RECOVERY_ENTER: A Frekolink port passes its error threshold, enters recovery and announces its window (R379). -/
  | portRecoveryEnter (port window : Nat)
  /-- PORT_RECOVERED: A recovering port recovers within its window and held traffic resumes (R379). -/
  | portRecovered (port : Nat)
  /-- PORT_RECOVERY_EXPIRY: A port's recovery window ends with the port down; it is lost and its operations end in error (R379). -/
  | portRecoveryExpiry (port : Nat)
  /-- GRADE_RECOMPUTE: Every second each port's GRADE is recomputed, logging an event on a rise to 2 or more (R380). -/
  | gradeRecompute (port corrected flits : Nat)
  /-- SENSOR_SAMPLE: Every 10 us a core's temperature is sampled and its avoidance state updated (R295). -/
  | sensorSample (core : Nat) (tj : Int) (p : PowerSample)
  /-- DROOP_EVENT: A core's supply falls below 320 mV; its clock stretches and its droop count rises (R391). -/
  | droopEvent (core : Nat)
  /-- HARDWARE_TRIP: A junction at 110 C or the input outside 46-60 V powers the module down and records the cause (R394). -/
  | hardwareTrip (cause die reading : Nat)
  /-- POWER_ON: Power-on starts stage 0: firmware signatures are verified and protection, mailbox and host link start (R385). -/
  | powerOn (sigOk : Bool)
  /-- STARTUP_STAGE_ADVANCE: Start-up completes a stage's work and advances, or stops with an ERRCODE (R385). -/
  | startupStageAdvance (w : StartupWorld)
  /-- AWL_TEST_START: A core idle for 1 ms starts a signed awl test kernel (R388). -/
  | awlTestStart (core : Nat)
  /-- AWL_TEST_COMPLETE: An awl test ends; two failures in a row fuse a lane or take the core out of service (R389). -/
  | awlTestComplete (core : Nat) (r : AwlResult)
  /-- FIELD_FUSE_APPLY: A field fuse takes effect once the core has no resident cord and queued records are rechecked (R33). -/
  | fieldFuseApply (core side lane : Nat)
  /-- UNASSIGNED_OPCODE: A fetched word whose short or long opcode is unassigned, or a privileged firmware opcode in a cord, is decoded and raises a precise ILLEGAL_OPCODE trap (R64). -/
  | unassignedOpcode (w : UWord)
  /-- L1_LINE_EVICTION: The core evicts a line from its L1 snapshot within a phase, so the next read of it goes to the home (R207). -/
  | l1LineEviction (core line : Nat)
  /-- UNCORRECTABLE_ECC_ERROR: An ECC error that cannot be corrected arises in memory, a code line or the accumulators, and poisons the bytes it affects (R348). -/
  | uncorrectableEccError (w : EccWhere)
  /-- CONTEXT_CREATION: The hypervisor creates a context: it takes a slot on every die of the partition, invalidates every descriptor entry and sets the control words and interlocked choice (R356). -/
  | contextCreation (part ctx : Nat) (d0 d1 : DWord) (intlk : Bool)
  /-- CONTEXT_DESTRUCTION: The hypervisor destroys a context, freeing its slots, which is the only way out of the RESET state besides recreation (R314). -/
  | contextDestruction (part ctx : Nat)
  /-- RE_OPTIMISED_TRANSLATION_INSTALL: The translator installs a re-optimised translation as a new code version at new addresses and directs new launch records to its entry (R352). -/
  | reOptimisedTranslationInstall (part ctx old base len : Nat)
  /-- PORT_LINK_UP: A Frekolink port that was lost trains again and carries traffic, so that it can later enter recovery or be lost again (R380). -/
  | portLinkUp (port : Nat)
  /-- FAULT_REPORT_WRITE: The die writes a fault report to the fault queue and advances FQPROD with a release (R375). -/
  | faultReportWrite
  /-- TLB_INVALIDATE: A write of INVCMD GO drops the context's translations in a range across the die (R376). -/
  | tlbInvalidate
  /-- VERSION: Mailbox command returning firmware version, stepping and layout versions (R364). -/
  | version
  /-- FW_UPLOAD: Mailbox command placing image bytes in the staging area (R365). -/
  | fwUpload
  /-- FW_COMMIT: Mailbox command verifying the staged image's signature and storing it (R365). -/
  | fwCommit
  /-- PART_SET: Mailbox command setting a partition record (R366). -/
  | partSet
  /-- PART_RESET: Mailbox command resetting a partition (R364). -/
  | partReset
  /-- DEV_SET: Mailbox command setting the device id and peer routing masks (R367). -/
  | devSet
  /-- COMM_SET: Mailbox command defining or removing a communicator (R368). -/
  | commSet
  /-- RING_SET: Mailbox command setting or removing a port-engine ring (R369). -/
  | ringSet
  /-- ATTEST: Mailbox command returning the signed attestation report for a nonce (R370). -/
  | attest
  /-- EVENT_READ: Mailbox command returning and removing management events (R371). -/
  | eventRead
  /-- I3C_PRIVATE_READ: An I3C private read returns 8 bytes at the last offset and advances it by 8 (R363). -/
  | i3cPrivateRead
  /-- TRIPREC_CLEAR: A host write to TRIPREC clears the trip record (R361). -/
  | triprecClear
  /-- FLUID_TABLE_SUBMIT: Writing 1 to FLUIDCTL VALID submits TSAT and the q_chf table for checking (R372). -/
  | fluidTableSubmit
  /-- FLUID_TABLE_WITHDRAW: Writing 0 to FLUIDCTL VALID withdraws the fluid table (R372). -/
  | fluidTableWithdraw
  /-- RING_POLL: Every 10 us the port engine reads PROD of each enabled ring (R384). -/
  | ringPoll
  /-- POWER_CAP_COMPUTE: Every 1 ms firmware computes P_fluid and CAPEFF for a die (R392). -/
  | powerCapCompute
  /-- CLOCK_STEP: A 1 ms window above CAPEFF, or 10 windows below 0.95 CAPEFF, steps FCLK down or up (R393). -/
  | clockStep
  /-- PERSISTENT_OVERCAP: A die stays above CAPEFF at 300 MHz for 100 ms and raises a management event (R393). -/
  | persistentOvercap
  deriving DecidableEq, Repr

end Sys2Proof
end

