-- ==== Sys2Proof/Decode.lean ====
section
/-! DEFINITION. The decoder: from bytes to an instruction, total, rejecting by name; and the encoder
written from the same tables (Tables 3-1 to 3-4, 3-8, 3-11). The decoder reads fields only. The checks
of Table 3-6 stand in Machine/Checks.lean, since each of them raises a trap that the cord takes (R52). -/

namespace Sys2Proof

/-- Why the decoder gives no instruction. `tooFewBytes`: the instruction runs past the bytes given.
`headerMarked`: a clause header with length code 0b01 (Table 3-6 row 1), which raises ILLEGAL_PAIR. -/
inductive Reject where
  | tooFewBytes
  | headerMarked
  deriving DecidableEq, Repr

/-- The long instruction with opcode `op` and fields `f` (Table 3-11), none where the code is unassigned (R64). -/
def ofLong (op : Nat) (f : LForm) : Option Instr :=
  match op with
  | 0x000 => some (.mov f)
  | 0x001 => some (.movi f)
  | 0x002 => some (.sel f)
  | 0x003 => some (.add f)
  | 0x004 => some (.sub f)
  | 0x005 => some (.addc f)
  | 0x006 => some (.subb f)
  | 0x007 => some (.mul f)
  | 0x008 => some (.mulh f)
  | 0x009 => some (.mad f)
  | 0x00A => some (.neg f)
  | 0x00B => some (.abs f)
  | 0x00C => some (.min f)
  | 0x00D => some (.max f)
  | 0x010 => some (.and f)
  | 0x011 => some (.or f)
  | 0x012 => some (.xor f)
  | 0x013 => some (.not f)
  | 0x014 => some (.shl f)
  | 0x015 => some (.shr f)
  | 0x016 => some (.sar f)
  | 0x017 => some (.rot f)
  | 0x018 => some (.popc f)
  | 0x019 => some (.clz f)
  | 0x01A => some (.brev f)
  | 0x01B => some (.bfe f)
  | 0x01C => some (.bfi f)
  | 0x01D => some (.lea f)
  | 0x020 => some (.icmp f)
  | 0x028 => some (.pset f)
  | 0x029 => some (.pand f)
  | 0x02A => some (.por f)
  | 0x02B => some (.pxor f)
  | 0x02C => some (.pnot f)
  | 0x100 => some (.fadd f)
  | 0x101 => some (.fsub f)
  | 0x102 => some (.fmul f)
  | 0x103 => some (.ffma f)
  | 0x104 => some (.fmin f)
  | 0x105 => some (.fmax f)
  | 0x106 => some (.fcmp f)
  | 0x107 => some (.fclass f)
  | 0x108 => some (.fsat f)
  | 0x180 => some (.div f)
  | 0x181 => some (.rem f)
  | 0x182 => some (.rcp f)
  | 0x183 => some (.rsq f)
  | 0x184 => some (.sqrt f)
  | 0x185 => some (.exp2 f)
  | 0x186 => some (.log2 f)
  | 0x187 => some (.sin f)
  | 0x188 => some (.cos f)
  | 0x189 => some (.tanh f)
  | 0x1C0 => some (.cvt f)
  | 0x1C1 => some (.pack f)
  | 0x1C2 => some (.unpack f)
  | 0x1C3 => some (.cvtsc f)
  | 0x200 => some (.bra f)
  | 0x201 => some (.brx f)
  | 0x202 => some (.call f)
  | 0x203 => some (.callx f)
  | 0x204 => some (.ret f)
  | 0x205 => some (.exit f)
  | 0x206 => some (.yield f)
  | 0x208 => some (.join f)
  | 0x209 => some (.leave f)
  | 0x20A => some (.waitm f)
  | 0x20C => some (.kset f)
  | 0x20D => some (.kmov f)
  | 0x20E => some (.kand f)
  | 0x20F => some (.kor f)
  | 0x210 => some (.kpop f)
  | 0x21F => some (.nopLong f)
  | 0x280 => some (.vote f)
  | 0x281 => some (.shfl f)
  | 0x282 => some (.shflp f)
  | 0x283 => some (.reduce f)
  | 0x284 => some (.scan f)
  | 0x285 => some (.matchLanes f)
  | 0x2C0 => some (.bar f)
  | 0x2C1 => some (.barb f)
  | 0x2C2 => some (.gbar f)
  | 0x2C4 => some (.launch f)
  | 0x2C5 => some (.waitch f)
  | 0x2C8 => some (.mfs f)
  | 0x2C9 => some (.mts f)
  | 0x2D0 => some (.trap f)
  | 0x2D1 => some (.bkpt f)
  | 0x2D2 => some (.tret f)
  | 0x2D3 => some (.tqpeek f)
  | 0x2D4 => some (.tqdrop f)
  | 0x2D5 => some (.rgnend f)
  | 0x2D6 => some (.chkpt f)
  | 0x2F0 => some (.fwsave f)
  | 0x2F1 => some (.fwrest f)
  | 0x2F2 => some (.fwarr f)
  | 0x2F3 => some (.fwend f)
  | 0x300 => some (.ld f)
  | 0x301 => some (.st f)
  | 0x302 => some (.ldx f)
  | 0x303 => some (.stx f)
  | 0x304 => some (.ldc f)
  | 0x305 => some (.stc f)
  | 0x308 => some (.phase f)
  | 0x309 => some (.fenceX f)
  | 0x30A => some (.fenceP f)
  | 0x30C => some (.pref f)
  | 0x380 => some (.atom f)
  | 0x381 => some (.cas f)
  | 0x382 => some (.red f)
  | 0x383 => some (.atomr f)
  | 0x384 => some (.cqpop f)
  | 0x388 => some (.tst f)
  | 0x389 => some (.retract f)
  | 0x38A => some (.tcommit f)
  | 0x3C0 => some (.tdset f)
  | 0x3C1 => some (.tdget f)
  | 0x3C2 => some (.tdinv f)
  | 0x3C4 => some (.lookup f)
  | 0x3C5 => some (.tagset f)
  | 0x3C6 => some (.tagclr f)
  | 0x3C7 => some (.pres f)
  | 0x3C8 => some (.kick f)
  | 0x3C9 => some (.boinit f)
  | 0x3CA => some (.boarrive f)
  | 0x3CB => some (.bowait f)
  | 0x3D0 => some (.mzero f)
  | 0x3D1 => some (.mma f)
  | 0x3D2 => some (.mmas f)
  | 0x3D3 => some (.mdrain f)
  | 0x3D4 => some (.maccld f)
  | 0x3D8 => some (.coll f)
  | 0x3D9 => some (.gse f)
  | _ => none

/-- The short instruction with opcode `op` and fields `f` (Table 3-3), none where the code is unassigned (R45). -/
def ofShort (op : Nat) (f : SForm) : Option Instr :=
  match op with
  | 0x01 => some (.movShort f)
  | 0x02 => some (.addShort f)
  | 0x03 => some (.subShort f)
  | 0x04 => some (.mulShort f)
  | 0x05 => some (.mulhShort f)
  | 0x06 => some (.minShort f)
  | 0x07 => some (.maxShort f)
  | 0x08 => some (.andShort f)
  | 0x09 => some (.orShort f)
  | 0x0A => some (.xorShort f)
  | 0x0B => some (.notShort f)
  | 0x0C => some (.negShort f)
  | 0x0D => some (.absShort f)
  | 0x0E => some (.shlShort f)
  | 0x0F => some (.shrShort f)
  | 0x10 => some (.sarShort f)
  | 0x11 => some (.rotShort f)
  | 0x12 => some (.popcShort f)
  | 0x13 => some (.clzShort f)
  | 0x14 => some (.brevShort f)
  | 0x15 => some (.faddShort f)
  | 0x16 => some (.fsubShort f)
  | 0x17 => some (.fmulShort f)
  | 0x18 => some (.fminShort f)
  | 0x19 => some (.fmaxShort f)
  | 0x1A => some (.fsatShort f)
  | 0x1B => some (.nop f)
  | _ => none

/-- What an instruction is as words: a clause header, a short form, a long form, an unassigned opcode,
or a step of the device, which has no words. -/
inductive Shape where
  | header (h : Header)
  | short (op : Nat) (f : SForm)
  | long (op : Nat) (f : LForm)
  | unassigned (w : UWord)
  | event
  deriving DecidableEq, Repr

/-- The opcode and fields of each instruction (Tables 3-3 and 3-11). -/
def Instr.shape (i : Instr) : Shape :=
  match i with
  | .clauseHeader h => .header h
  | .movShort f => .short 0x01 f
  | .addShort f => .short 0x02 f
  | .subShort f => .short 0x03 f
  | .mulShort f => .short 0x04 f
  | .mulhShort f => .short 0x05 f
  | .minShort f => .short 0x06 f
  | .maxShort f => .short 0x07 f
  | .andShort f => .short 0x08 f
  | .orShort f => .short 0x09 f
  | .xorShort f => .short 0x0A f
  | .notShort f => .short 0x0B f
  | .negShort f => .short 0x0C f
  | .absShort f => .short 0x0D f
  | .shlShort f => .short 0x0E f
  | .shrShort f => .short 0x0F f
  | .sarShort f => .short 0x10 f
  | .rotShort f => .short 0x11 f
  | .popcShort f => .short 0x12 f
  | .clzShort f => .short 0x13 f
  | .brevShort f => .short 0x14 f
  | .faddShort f => .short 0x15 f
  | .fsubShort f => .short 0x16 f
  | .fmulShort f => .short 0x17 f
  | .fminShort f => .short 0x18 f
  | .fmaxShort f => .short 0x19 f
  | .fsatShort f => .short 0x1A f
  | .nop f => .short 0x1B f
  | .mov f => .long 0x000 f
  | .movi f => .long 0x001 f
  | .sel f => .long 0x002 f
  | .add f => .long 0x003 f
  | .sub f => .long 0x004 f
  | .addc f => .long 0x005 f
  | .subb f => .long 0x006 f
  | .mul f => .long 0x007 f
  | .mulh f => .long 0x008 f
  | .mad f => .long 0x009 f
  | .neg f => .long 0x00A f
  | .abs f => .long 0x00B f
  | .min f => .long 0x00C f
  | .max f => .long 0x00D f
  | .and f => .long 0x010 f
  | .or f => .long 0x011 f
  | .xor f => .long 0x012 f
  | .not f => .long 0x013 f
  | .shl f => .long 0x014 f
  | .shr f => .long 0x015 f
  | .sar f => .long 0x016 f
  | .rot f => .long 0x017 f
  | .popc f => .long 0x018 f
  | .clz f => .long 0x019 f
  | .brev f => .long 0x01A f
  | .bfe f => .long 0x01B f
  | .bfi f => .long 0x01C f
  | .lea f => .long 0x01D f
  | .icmp f => .long 0x020 f
  | .pset f => .long 0x028 f
  | .pand f => .long 0x029 f
  | .por f => .long 0x02A f
  | .pxor f => .long 0x02B f
  | .pnot f => .long 0x02C f
  | .fadd f => .long 0x100 f
  | .fsub f => .long 0x101 f
  | .fmul f => .long 0x102 f
  | .ffma f => .long 0x103 f
  | .fmin f => .long 0x104 f
  | .fmax f => .long 0x105 f
  | .fsat f => .long 0x108 f
  | .fcmp f => .long 0x106 f
  | .fclass f => .long 0x107 f
  | .div f => .long 0x180 f
  | .rem f => .long 0x181 f
  | .rcp f => .long 0x182 f
  | .rsq f => .long 0x183 f
  | .sqrt f => .long 0x184 f
  | .exp2 f => .long 0x185 f
  | .log2 f => .long 0x186 f
  | .sin f => .long 0x187 f
  | .cos f => .long 0x188 f
  | .tanh f => .long 0x189 f
  | .cvt f => .long 0x1C0 f
  | .pack f => .long 0x1C1 f
  | .unpack f => .long 0x1C2 f
  | .cvtsc f => .long 0x1C3 f
  | .queuedResultWrite _ _ _ => .event
  | .bra f => .long 0x200 f
  | .brx f => .long 0x201 f
  | .call f => .long 0x202 f
  | .callx f => .long 0x203 f
  | .ret f => .long 0x204 f
  | .exit f => .long 0x205 f
  | .yield f => .long 0x206 f
  | .nopLong f => .long 0x21F f
  | .join f => .long 0x208 f
  | .leave f => .long 0x209 f
  | .waitm f => .long 0x20A f
  | .kset f => .long 0x20C f
  | .kmov f => .long 0x20D f
  | .kand f => .long 0x20E f
  | .kor f => .long 0x20F f
  | .kpop f => .long 0x210 f
  | .vote f => .long 0x280 f
  | .shfl f => .long 0x281 f
  | .shflp f => .long 0x282 f
  | .reduce f => .long 0x283 f
  | .scan f => .long 0x284 f
  | .matchLanes f => .long 0x285 f
  | .bar f => .long 0x2C0 f
  | .barb f => .long 0x2C1 f
  | .gbar f => .long 0x2C2 f
  | .launch f => .long 0x2C4 f
  | .launchQueueRoom _ => .event
  | .waitch f => .long 0x2C5 f
  | .mfs f => .long 0x2C8 f
  | .mts f => .long 0x2C9 f
  | .trap f => .long 0x2D0 f
  | .bkpt f => .long 0x2D1 f
  | .tret f => .long 0x2D2 f
  | .tqpeek f => .long 0x2D3 f
  | .tqdrop f => .long 0x2D4 f
  | .rgnend f => .long 0x2D5 f
  | .chkpt f => .long 0x2D6 f
  | .fwsave f => .long 0x2F0 f
  | .fwrest f => .long 0x2F1 f
  | .fwarr f => .long 0x2F2 f
  | .fwend f => .long 0x2F3 f
  | .ld f => .long 0x300 f
  | .st f => .long 0x301 f
  | .ldx f => .long 0x302 f
  | .stx f => .long 0x303 f
  | .ldc f => .long 0x304 f
  | .stc f => .long 0x305 f
  | .phase f => .long 0x308 f
  | .fenceX f => .long 0x309 f
  | .fenceP f => .long 0x30A f
  | .pref f => .long 0x30C f
  | .atom f => .long 0x380 f
  | .cas f => .long 0x381 f
  | .red f => .long 0x382 f
  | .atomr f => .long 0x383 f
  | .cqpop f => .long 0x384 f
  | .tst f => .long 0x388 f
  | .retract f => .long 0x389 f
  | .tcommit f => .long 0x38A f
  | .tdset f => .long 0x3C0 f
  | .tdget f => .long 0x3C1 f
  | .tdinv f => .long 0x3C2 f
  | .lookup f => .long 0x3C4 f
  | .tagset f => .long 0x3C5 f
  | .tagclr f => .long 0x3C6 f
  | .pres f => .long 0x3C7 f
  | .kick f => .long 0x3C8 f
  | .boinit f => .long 0x3C9 f
  | .boarrive f => .long 0x3CA f
  | .bowait f => .long 0x3CB f
  | .mzero f => .long 0x3D0 f
  | .mma f => .long 0x3D1 f
  | .mmas f => .long 0x3D2 f
  | .mdrain f => .long 0x3D3 f
  | .maccld f => .long 0x3D4 f
  | .coll f => .long 0x3D8 f
  | .gse f => .long 0x3D9 f
  | .loadDataReturn _ _ _ => .event
  | .storeArrivalAtHome _ _ => .event
  | .l1Writeback _ _ => .event
  | .tentativeStoreArrival _ _ _ _ => .event
  | .uncoveredStoreReport _ _ => .event
  | .atomicStep _ _ _ _ => .event
  | .routerMergeWindow _ _ _ _ => .event
  | .tstStep _ _ _ _ => .event
  | .tstCellWaitTimeout _ _ _ _ => .event
  | .delegatedAtomicPerform _ _ => .event
  | .cqReplyArrival _ _ => .event
  | .pageWalk _ => .event
  | .faultService _ _ => .event
  | .faultReject _ _ => .event
  | .contextSlotWrite _ _ _ _ => .event
  | .copyRequestAccept _ => .event
  | .copyDelivery _ _ => .event
  | .gseRequestAccept _ => .event
  | .gseElementMove _ _ _ => .event
  | .collRequestAccept _ => .event
  | .collectivePerform _ _ _ => .event
  | .arrayMmaPerform _ => .event
  | .arrayZeroLoadPerform _ => .event
  | .arrayDrainPerform _ => .event
  | .firmwareEmulation _ _ _ => .event
  | .hostSubmit _ _ _ => .event
  | .launchRecordAccept _ _ => .event
  | .launchWaitSatisfied _ _ => .event
  | .blockPlacement _ => .event
  | .avoidedPlacementTimeout _ => .event
  | .blockRetire _ => .event
  | .stagedStepRelease _ => .event
  | .gridComplete _ => .event
  | .controlWordsWrite _ _ _ _ => .event
  | .preemptRequest _ _ => .event
  | .contextSave _ _ => .event
  | .preemptDeadlineExpiry _ _ => .event
  | .contextRestore _ _ => .event
  | .cordSuspend _ _ _ => .event
  | .debuggerRelease _ _ => .event
  | .hangDeadlineExpiry _ _ => .event
  | .replayForeignTimeout _ _ => .event
  | .trapDelivery _ _ => .event
  | .impreciseFaultReport _ _ _ => .event
  | .lateFaultRecord _ _ _ => .event
  | .regionEnd _ _ => .event
  | .regionCountLimit _ _ => .event
  | .regionWithdrawal _ _ => .event
  | .slowGearStep _ _ => .event
  | .twinMismatch _ _ _ _ _ => .event
  | .braidKill _ _ => .event
  | .fatalErrorDump _ _ => .event
  | .codeObjectLoad _ _ _ => .event
  | .codeVersionRemove _ _ _ => .event
  | .i3cPrivateWrite _ _ => .event
  | .managementRegisterWrite _ _ _ => .event
  | .ringDoorbell _ _ => .event
  | .ringDescriptorFinish _ _ _ => .event
  | .functionLevelReset _ => .event
  | .hostMemoryAccess _ _ => .event
  | .peerAccessArrival _ _ _ => .event
  | .portRecoveryEnter _ _ => .event
  | .portRecovered _ => .event
  | .portRecoveryExpiry _ => .event
  | .gradeRecompute _ _ _ => .event
  | .sensorSample _ _ _ => .event
  | .droopEvent _ => .event
  | .hardwareTrip _ _ _ => .event
  | .powerOn _ => .event
  | .startupStageAdvance _ => .event
  | .awlTestStart _ => .event
  | .awlTestComplete _ _ => .event
  | .fieldFuseApply _ _ _ => .event
  | .unassignedOpcode w => .unassigned w
  | .l1LineEviction _ _ => .event
  | .uncorrectableEccError _ => .event
  | .contextCreation _ _ _ _ _ => .event
  | .contextDestruction _ _ => .event
  | .reOptimisedTranslationInstall _ _ _ _ _ => .event
  | .portLinkUp _ => .event
  | .faultReportWrite => .event
  | .tlbInvalidate => .event
  | .version => .event
  | .fwUpload => .event
  | .fwCommit => .event
  | .partSet => .event
  | .partReset => .event
  | .devSet => .event
  | .commSet => .event
  | .ringSet => .event
  | .attest => .event
  | .eventRead => .event
  | .i3cPrivateRead => .event
  | .triprecClear => .event
  | .fluidTableSubmit => .event
  | .fluidTableWithdraw => .event
  | .ringPoll => .event
  | .powerCapCompute => .event
  | .clockStep => .event
  | .persistentOvercap => .event

/-- The fields of a short-form word (Table 3-2). -/
def shortFields (w : Word) : SForm :=
  { ty := w.extractLsb' 28 4, pneg := w.getLsbD 27, pred := w.extractLsb' 24 3,
    a := w.extractLsb' 16 8, d := w.extractLsb' 8 8, m := w.getLsbD 0 }

/-- The short opcode of a word (Table 3-2). -/
def shortOp (w : Word) : Nat := (w.extractLsb' 2 6).toNat

/-- The fields of a clause header (Table 3-8). -/
def headerFields (w : Word) : Header :=
  { rgn := w.getLsbD 31, yield := w.getLsbD 30, bval := w.getLsbD 29, flagB := w.extractLsb' 25 4,
    aval := w.getLsbD 24, flagA := w.extractLsb' 20 4, wait := w.extractLsb' 8 12 }

/-- The fields of a long form from its two words, low first (Table 3-4); `lit` is the third word. -/
def longFields (lo hi : Word) (lit : Option Word) : LForm :=
  { d := lo.extractLsb' 12 8, a := lo.extractLsb' 20 8,
    b := hi.extractLsb' 0 4 ++ lo.extractLsb' 28 4, c := hi.extractLsb' 4 8,
    pred := hi.extractLsb' 12 3, pneg := hi.getLsbD 15, ty := hi.extractLsb' 16 4,
    mod := hi.extractLsb' 20 4, fsel := hi.getLsbD 24, setf := hi.getLsbD 25,
    asc := hi.getLsbD 26, bsc := hi.getLsbD 27, mod2 := hi.extractLsb' 28 4, lit := lit }

/-- The long opcode of the first word (Table 3-4). -/
def longOp (lo : Word) : Nat := (lo.extractLsb' 2 10).toNat

/-- How many words an instruction has, by the length code of its first word (Table 3-1). -/
def lengthWords (w : Word) : Nat :=
  match (w.extractLsb' 0 2).toNat with
  | 2 => 2
  | 3 => 3
  | _ => 1

/-- The instruction whose first words are given, and how many words it has (R43, R44, R47, R53). -/
def decodeWords (ws : List Word) : Except Reject (Instr × Nat) :=
  match ws with
  | [] => .error .tooFewBytes
  | w :: rest =>
    match lengthWords w, rest with
    | 1, _ =>
      if shortOp w = 0 then
        if w.getLsbD 0 then .error .headerMarked else .ok (.clauseHeader (headerFields w), 1)
      else
        match ofShort (shortOp w) (shortFields w) with
        | some i => .ok (i, 1)
        | none => .ok (.unassignedOpcode (.short w), 1)
    | 2, hi :: _ =>
      match ofLong (longOp w) (longFields w hi none) with
      | some i => .ok (i, 2)
      | none => .ok (.unassignedOpcode (.long w hi), 2)
    | 3, hi :: l :: _ =>
      match ofLong (longOp w) (longFields w hi (some l)) with
      | some i => .ok (i, 3)
      | none => .ok (.unassignedOpcode (.lit w hi l), 3)
    | _, _ => .error .tooFewBytes

/-- The word of four bytes, the first at the lowest address (R4). -/
def wordOfBytes (b0 b1 b2 b3 : Byte) : Word := b3 ++ b2 ++ b1 ++ b0

/-- The words of a run of bytes, as far as whole words go (R4). -/
def wordsOfBytes : List Byte → List Word
  | b0 :: b1 :: b2 :: b3 :: rest => wordOfBytes b0 b1 b2 b3 :: wordsOfBytes rest
  | _ => []

/-- The four bytes of a word, lowest address first (R4). -/
def bytesOfWord (w : Word) : List Byte :=
  [w.extractLsb' 0 8, w.extractLsb' 8 8, w.extractLsb' 16 8, w.extractLsb' 24 8]

/-- The decoder: the instruction at the front of the bytes, and the bytes after it. -/
def decodeBytes (bs : List Byte) : Except Reject (Instr × List Byte) :=
  match decodeWords (wordsOfBytes bs) with
  | .ok (i, n) => .ok (i, bs.drop (4 * n))
  | .error e => .error e

/-- A header as a word (Table 3-8). -/
def encodeHeader (h : Header) : Word :=
  BitVec.ofBool h.rgn ++ BitVec.ofBool h.yield ++ BitVec.ofBool h.bval ++ h.flagB
    ++ BitVec.ofBool h.aval ++ h.flagA ++ h.wait ++ (0 : BitVec 8)

/-- A short form as a word (Table 3-2). -/
def encodeShort (op : Nat) (f : SForm) : Word :=
  f.ty ++ BitVec.ofBool f.pneg ++ f.pred ++ f.a ++ f.d ++ BitVec.ofNat 6 op ++ (0 : BitVec 1)
    ++ BitVec.ofBool f.m

/-- The first word of a long or literal form (Table 3-4). -/
def encodeLongLo (op : Nat) (f : LForm) : Word :=
  f.b.extractLsb' 0 4 ++ f.a ++ f.d ++ BitVec.ofNat 10 op ++ (1 : BitVec 1)
    ++ BitVec.ofBool f.lit.isSome

/-- The second word of a long or literal form (Table 3-4). -/
def encodeLongHi (f : LForm) : Word :=
  f.mod2 ++ BitVec.ofBool f.bsc ++ BitVec.ofBool f.asc ++ BitVec.ofBool f.setf
    ++ BitVec.ofBool f.fsel ++ f.mod ++ f.ty ++ BitVec.ofBool f.pneg ++ f.pred ++ f.c
    ++ f.b.extractLsb' 4 4

/-- The words of an instruction, the first at the lowest address; a step of the device has none. -/
def encode (i : Instr) : List Word :=
  match i.shape with
  | .header h => [encodeHeader h]
  | .short op f => [encodeShort op f]
  | .long op f => [encodeLongLo op f, encodeLongHi f] ++ f.lit.toList
  | .unassigned (.short w) => [w]
  | .unassigned (.long lo hi) => [lo, hi]
  | .unassigned (.lit lo hi l) => [lo, hi, l]
  | .event => []

/-- How many bytes an instruction occupies (Table 3-1). -/
def Instr.length (i : Instr) : Nat := 4 * (encode i).length

/-- The words of the instruction whose bits are `w`, numbered from bit 0 of the first word, with every
bit at or above `nbits` zero. -/
def tableWords (nbits w : Nat) : List Word :=
  let x := w % 2 ^ nbits
  [BitVec.ofNat 32 x, BitVec.ofNat 32 (x / 2 ^ 32), BitVec.ofNat 32 (x / 2 ^ 64)]

/-- What the decoder reads from the instruction whose bits are `w`. -/
def decodeTableWord (nbits w : Nat) : Option Instr :=
  match decodeBytes ((tableWords nbits w).flatMap bytesOfWord) with
  | .ok (i, _) => some i
  | .error _ => none

end Sys2Proof
end

