-- ==== Sys2Proof/Machine/Checks.lean ====
section
/-! DEFINITION. The trap causes of Table 17-1 and the decode checks of Table 3-6: which types, modifiers,
forms and registers each instruction admits, and the trap that a word which breaks one of them raises.
Each row cites the rule of its instruction's entry. -/

namespace Sys2Proof.Machine
open Sys2Proof

/-- The causes that reach a cord (Table 17-1). -/
inductive Cause where
  | illegalOpcode | illegalType | illegalReg | illegalPair | illegalTarget | fetchFault
  | addrCanon | alignFault | scratchRange | opndField | cqCredit
  | descInvalid | descField | fmtPair | arrayBusy | arrayRole
  | launchDepth | launchLeader | launchRecord | launchHandles | gbarUndeclared
  | intDivz | fmtIll | protLate | copyErr | gseErr | collErr
  | trap | bkpt | vanished | corrected
  deriving DecidableEq, Repr

/-- The code of a cause (Table 17-1). -/
def Cause.code : Cause → Nat
  | .illegalOpcode => 0x01 | .illegalType => 0x02 | .illegalReg => 0x03 | .illegalPair => 0x04
  | .illegalTarget => 0x05 | .fetchFault => 0x06 | .addrCanon => 0x08 | .alignFault => 0x09
  | .scratchRange => 0x0A | .opndField => 0x0B | .cqCredit => 0x0C | .descInvalid => 0x10
  | .descField => 0x11 | .fmtPair => 0x12 | .arrayBusy => 0x13 | .arrayRole => 0x14
  | .launchDepth => 0x18 | .launchLeader => 0x19 | .launchRecord => 0x1A | .launchHandles => 0x1B
  | .gbarUndeclared => 0x1C | .intDivz => 0x20 | .fmtIll => 0x21 | .protLate => 0x22
  | .copyErr => 0x28 | .gseErr => 0x29 | .collErr => 0x2A | .trap => 0x30 | .bkpt => 0x31
  | .vanished => 0x38 | .corrected => 0x39

/-- A cause that reports an event with no fault behind it (R324). -/
def Cause.informational : Cause → Bool
  | .vanished | .corrected => true
  | _ => false

/-- What the decode checks depend on beside the words: V and W of the cord's grid (R15, R16), which
flags the clause's header makes valid (R53), and whether a control core injects the instruction into a
suspended cord (R353). -/
structure DecodeCtx where
  V     : Nat
  W     : Nat
  aval  : Bool
  bval  : Bool
  injected : Bool
  deriving DecidableEq, Repr

/-- A register field and its class (Table 3-7). `wide`: the even register of a pair. -/
inductive RegUse where
  | vec (n : Nat) (wide : Bool)
  | scal (n : Nat) (wide : Bool)
  | pred (n : Nat)
  | mask (n : Nat)
  /-- `span` vector registers from n, n a multiple of `align`. -/
  | vspan (n span align : Nat)
  /-- `span` scalar registers from n, n a multiple of `align`. -/
  | sspan (n span align : Nat)
  /-- a special register number, and whether it is to be written (R68). -/
  | special (n : Nat) (write : Bool)
  deriving DecidableEq, Repr

/-- The special registers of Table 3-12. -/
inductive SReg where
  | lane | strand | cord | width | passes | side | blkx | blky | blkz | nblkx | nblky | nblkz
  | core | cluster | depth | gooda | goodb | lmapa | lmapb | phase | det | cycle | retired
  | fpflags | trapstat | trapctl
  deriving DecidableEq, Repr

/-- The special register with a number (Table 3-12). -/
def SReg.ofNum (n : Nat) : Option SReg :=
  match n with
  | 0x00 => some .lane | 0x01 => some .strand | 0x02 => some .cord | 0x03 => some .width
  | 0x04 => some .passes | 0x05 => some .side | 0x08 => some .blkx | 0x09 => some .blky
  | 0x0A => some .blkz | 0x0C => some .nblkx | 0x0D => some .nblky | 0x0E => some .nblkz
  | 0x10 => some .core | 0x11 => some .cluster | 0x12 => some .depth | 0x14 => some .gooda
  | 0x15 => some .goodb | 0x16 => some .lmapa | 0x17 => some .lmapb | 0x20 => some .phase
  | 0x21 => some .det | 0x22 => some .cycle | 0x23 => some .retired | 0x28 => some .fpflags
  | 0x30 => some .trapstat | 0x31 => some .trapctl
  | _ => none

/-- Whether MTS may write the register (Table 3-12). -/
def SReg.writable : SReg → Bool
  | .fpflags | .trapctl => true
  | _ => false

/-- A register field within its class (Table 3-7). -/
def RegUse.ok (V : Nat) : RegUse → Bool
  | .vec n w => (!w || n % 2 == 0) && n < V
  | .scal n w => (!w || n % 2 == 0) && n < 64
  | .pred n => n < 8
  | .mask n => n < 12
  | .vspan n span align => n % align == 0 && n + span ≤ V
  | .sspan n span align => n % align == 0 && n + span ≤ 64
  | .special n w => match SReg.ofNum n with
    | some r => !w || r.writable
    | none => false

/-- What the entry of an instruction says of an encoding: whether it admits the type (row 3 of
Table 3-6), the other fields (row 4), a predicate, and the registers that the fields name (row 5). -/
structure Admits where
  typeOk   : Bool
  fieldsOk : Bool
  predOk   : Bool
  regs     : List RegUse
  deriving DecidableEq, Repr

/-- Types 4 and 5 name pairs (R48). -/
def wideTy (t : BitVec 4) : Bool := t == 4 || t == 5

/-- A type code among those listed (Table 3-5). -/
def tyIn (t : BitVec 4) (l : List Nat) : Bool := l.contains t.toNat

/-- Codes 0 to 14. -/
def tyAny : List Nat := [0, 1, 2, 3, 4, 5, 6, 7, 8, 9, 10, 11, 12, 13, 14]
/-- The types of ADD (Table 4-2). -/
def tyAdd : List Nat := [1, 2, 4, 5, 11, 13, 12, 14]
/-- The types of NEG and ABS (Table 4-2). -/
def tySigned : List Nat := [1, 4, 11, 12]
/-- s32 n32 s64 n64. -/
def tyInt : List Nat := [1, 2, 4, 5]
/-- The types of AND (Table 4-3). -/
def tyBits : List Nat := [0, 1, 2, 4, 5]
/-- b32 s32 n32. -/
def ty32 : List Nat := [0, 1, 2]
/-- f32 f16 bf16 (R91). -/
def tyFloat : List Nat := [3, 6, 7]
/-- The narrow types of PACK and CVTSC (R101, R103). -/
def tyNarrow : List Nat := [6, 7, 8, 9, 11, 13, 12, 14, 10]

/-- Elements of a packed type (Table 3-5). -/
def eltCount (t : Nat) : Nat :=
  match t with
  | 6 | 7 | 12 | 14 => 2
  | 8 | 9 | 11 | 13 => 4
  | 10 => 8
  | _ => 1

/-- The instruction is in scalar form (R48). -/
def LForm.scalar (f : LForm) : Bool := f.asc && f.bsc

/-- A typed register operand in field value n; `s`: a scalar register. -/
def opnd (n : BitVec 8) (t : BitVec 4) (s : Bool) : RegUse :=
  if s then .scal n.toNat (wideTy t) else .vec n.toNat (wideTy t)

/-- A single 32-bit register operand. -/
def opnd1 (n : BitVec 8) (s : Bool) : RegUse :=
  if s then .scal n.toNat false else .vec n.toNat false

/-- The even register of a pair, whatever the type. -/
def opnd2 (n : BitVec 8) (s : Bool) : RegUse :=
  if s then .scal n.toNat true else .vec n.toNat true

/-- No literal form, B unused: B and BSC are reserved but for the scalar form (R48, R76). -/
def noB (f : LForm) (scalarOk : Bool) : Bool :=
  f.lit.isNone && f.b == 0 && (!f.bsc || (f.asc && scalarOk))

/-- A scalar form only where admitted, and then without a predicate (R49, Table 3-6 row 4). -/
def scalarGate (f : LForm) (scalarOk : Bool) : Bool :=
  !LForm.scalar f || (scalarOk && f.pred == 0 && !f.pneg)

/-- B as a source: a literal takes its place and leaves B reserved, and BSC then serves the scalar
form alone (R47, R48). -/
def litB (f : LForm) (litOk : Bool) : Bool :=
  match f.lit with
  | some _ => litOk && f.b == 0 && (!f.bsc || f.asc)
  | none => true

/-- The register uses of B, none where the literal stands for it. -/
def useB (f : LForm) (u : RegUse) : List RegUse := if f.lit.isSome then [] else [u]

/-- Modifier codes that the entry lists; a code not listed is reserved (R76). -/
def modIn (f : LForm) (m : List Nat) (m2 : List Nat) : Bool :=
  m.contains f.mod.toNat && m2.contains f.mod2.toNat

/-- d := op(a) on typed registers (Tables 4-2, 4-3, 4-5): no B, no C, no literal. -/
def unary (f : LForm) (tys mods : List Nat) (scalarOk : Bool) : Admits :=
  { typeOk := tyIn f.ty tys
    fieldsOk := noB f scalarOk && scalarGate f scalarOk && f.c == 0 && modIn f mods [0]
    predOk := true
    regs := [opnd f.d f.ty (LForm.scalar f), opnd f.a f.ty f.asc] }

/-- d := a op b on typed registers. -/
def binary (f : LForm) (tys mods : List Nat) (scalarOk litOk : Bool) : Admits :=
  { typeOk := tyIn f.ty tys
    fieldsOk := litB f litOk && scalarGate f scalarOk && f.c == 0 && modIn f mods [0]
    predOk := true
    regs := [opnd f.d f.ty (LForm.scalar f), opnd f.a f.ty f.asc]
      ++ useB f (opnd f.b f.ty f.bsc) }

/-- d := op(a, b, c) on typed registers. -/
def ternary (f : LForm) (tys mods : List Nat) (scalarOk litOk : Bool) : Admits :=
  { binary f tys mods scalarOk litOk with
    fieldsOk := litB f litOk && scalarGate f scalarOk && modIn f mods [0]
    regs := [opnd f.d f.ty (LForm.scalar f), opnd f.a f.ty f.asc]
      ++ useB f (opnd f.b f.ty f.bsc) ++ [opnd f.c f.ty (LForm.scalar f)] }

/-- The .sat modifier is admitted for the 32-bit and packed types only (R83). -/
def satOk (f : LForm) : Bool := f.mod == 0 || !wideTy f.ty

/-- Conditions beside the shape. -/
def Admits.also (x : Admits) (b : Bool) : Admits := { x with fieldsOk := x.fieldsOk && b }

/-- Comparisons to a predicate with a combine code in MOD2 bits 1..0 (R89, R93, R94): C is a predicate
operand with one and reserved without. -/
def compare (f : LForm) (tys mods mods2 : List Nat) (b : RegUse) : Admits :=
  { typeOk := tyIn f.ty tys
    fieldsOk := litB f true && scalarGate f false && modIn f mods mods2
      && (f.mod2.toNat % 4 != 0 || f.c == 0)
    predOk := true
    regs := [.pred f.d.toNat, opnd f.a f.ty f.asc] ++ useB f b
      ++ (if f.mod2.toNat % 4 == 0 then [] else [.pred f.c.toNat]) }

/-- Predicate instructions (R90). -/
def predOp (f : LForm) (two : Bool) : Admits :=
  { typeOk := f.ty == 0
    fieldsOk := f.lit.isNone && !f.asc && !f.bsc && f.c == 0 && modIn f [0] [0] && (two || f.b == 0)
    predOk := true
    regs := [.pred f.d.toNat, .pred f.a.toNat] ++ (if two then [.pred f.b.toNat] else []) }

/-- The special-function queue on one operand (R95): no scalar form; A may be scalar. -/
def sfu (f : LForm) (mods : List Nat) : Admits :=
  { unary f tyFloat mods false with
    fieldsOk := f.lit.isNone && f.b == 0 && !f.bsc && f.c == 0 && modIn f mods [0]
    regs := [opnd1 f.d false, opnd1 f.a f.asc] }

/-- Every field but those named is zero. -/
structure Zero where
  d : Bool := true
  a : Bool := true
  b : Bool := true
  c : Bool := true

/-- The fields marked are zero, and so are ASC and BSC where their fields are. -/
def zero (f : LForm) (z : Zero) : Bool :=
  (!z.d || f.d == 0) && (!z.a || (f.a == 0 && !f.asc)) && (!z.b || (f.b == 0 && !f.bsc))
    && (!z.c || f.c == 0)

/-- An instruction without a type and without the literal form, whose other conditions are given. -/
def plain (f : LForm) (ok predOk : Bool) (regs : List RegUse) : Admits :=
  { typeOk := f.ty == 0, fieldsOk := f.lit.isNone && ok, predOk := predOk, regs := regs }

/-- A source named by A with ASC set, or the literal, with A then reserved (KSET, MTS, WAITCH, TRAP). -/
def scalarOrLit (f : LForm) : Bool :=
  match f.lit with
  | some _ => f.a == 0 && !f.asc
  | none => f.asc

/-- The operations of REDUCE and SCAN and their types (Table 5-6). A reserved operation, MOD 6 to 15, pairs with no type
that the table gives: with a type of the family it is an illegal opcode, with another an illegal type (log 90, DESIGN
CHOICE: R76 and R121 can each be read as the row that comes first). -/
def reduceTy (m t : Nat) : Bool :=
  match m with
  | 0 | 1 | 2 => [1, 2, 4, 5, 3].contains t
  | 3 | 4 | 5 => t == 0
  | _ => [0, 1, 2, 3, 4, 5].contains t

/-- Access sizes and types (Table 13-4). -/
def sizeTy (m2 t : Nat) : Bool :=
  match m2 % 4 with
  | 0 => t < 15
  | 1 | 2 => [0, 1, 2].contains t
  | _ => t == 0

/-- Atomic operations and types (Table 13-6). -/
def atomTy (op t : Nat) : Bool :=
  match op with
  | 0 => [1, 2, 4, 5, 3, 7].contains t
  | 1 | 2 => [1, 2, 4, 5, 3].contains t
  | 3 | 4 | 5 | 6 => [0, 5].contains t
  | _ => [0, 1, 2, 4, 5].contains t

/-- The type of ATOM and RED; the reserved operation 7 has no type list of its own and falls under row 4. -/
def atomTyped (f : LForm) : Bool :=
  atomTy (f.mod2.toNat % 8) f.ty.toNat
    || (f.mod2.toNat % 8 == 7 && tyIn f.ty [0, 1, 2, 3, 4, 5, 7])

/-- A base: the even register of a pair for a global operand (R259). -/
def base (f : LForm) : RegUse := opnd2 f.a f.asc

/-- The data operand of a store or the operand of an atomic: a register, or the literal in its place. A .w128 store whose
data is scalar stores sB to sB+3 (log 103, DESIGN CHOICE: R265 speaks of vB to vB+3 only). -/
def dataB (f : LForm) (w128 : Bool) : List RegUse :=
  if f.lit.isSome then []
  else if w128 then (if f.bsc then [.sspan f.b.toNat 4 4] else [.vspan f.b.toNat 4 4])
  else [opnd f.b f.ty f.bsc]

/-- The literal form of a store or an atomic leaves B and BSC zero (R259). -/
def litData (f : LForm) (litOk : Bool) : Bool :=
  match f.lit with
  | some _ => litOk && f.b == 0 && !f.bsc
  | none => true

/-- Loads (R265, R269): `hit` for LDX, whose B is a predicate operand; `b1` for LDC's 32-bit base. -/
def loadForm (f : LForm) (hit local32 : Bool) : Admits :=
  { typeOk := sizeTy f.mod2.toNat f.ty.toNat
    fieldsOk := f.lit.isNone && !f.bsc && (hit || f.b == 0) && f.mod2.toNat < 4
    predOk := true
    regs := [if f.mod2.toNat % 4 == 3 then .vspan f.d.toNat 4 4 else opnd f.d f.ty false,
        if local32 then opnd1 f.a f.asc else base f]
      ++ (if hit then [.pred f.b.toNat] else []) ++ [.vec f.c.toNat false] }

/-- Stores (R265). -/
def storeForm (f : LForm) (local32 : Bool) : Admits :=
  { typeOk := sizeTy f.mod2.toNat f.ty.toNat
    fieldsOk := f.d == 0 && f.mod2.toNat < 4 && litData f (f.mod2.toNat % 4 != 3)
    predOk := true
    regs := [if local32 then opnd1 f.a f.asc else base f]
      ++ dataB f (f.mod2.toNat % 4 == 3) ++ [.vec f.c.toNat false] }

/-- An ordered atomic has a nonzero order code (R275). -/
def orderOk (f : LForm) : Bool := f.mod2.toNat < 8 || f.mod != 0

/-- The order of the rows a register operand of a matrix instruction reads (R187): how many registers. -/
def mmaSpan (rows W : Nat) : Nat := 16 * ((rows + W - 1) / W)

/-- MMA and MMAS (R187): each operand a scalar pair or a vector base; C a scalar register. -/
def mmaForm (f : LForm) (rowsA W : Nat) : Admits :=
  plain f (f.d == 0 && modIn f [0] [0]) true
    [ (if f.asc then .scal f.a.toNat true else .vspan f.a.toNat (mmaSpan rowsA W) 1),
      (if f.bsc then .scal f.b.toNat true else .vspan f.b.toNat (mmaSpan 64 W) 1),
      .scal f.c.toNat false ]

/-- The long form that a short form stands for (R45, R66): the first source is D and the second A for
the binary operations. -/
def SForm.long (f : SForm) (two : Bool) : LForm :=
  { d := f.d, a := if two then f.d else f.a, b := if two then f.a else 0, c := 0, pred := f.pred,
    pneg := f.pneg, ty := f.ty, mod := 0, fsel := false, setf := false, asc := false, bsc := false,
    mod2 := 0, lit := none }

/-- One of the shared short forms: a binary operation on vector registers. -/
def short2 (f : SForm) (tys : List Nat) : Admits := binary (SForm.long f true) tys [0] false false
/-- One of the shared short forms: a unary operation on vector registers. -/
def short1 (f : SForm) (tys : List Nat) : Admits := unary (SForm.long f false) tys [0] false

/-- What the entry of each instruction admits. A step of the device is not decoded and admits all. -/
def admits (W : Nat) (i : Instr) : Admits :=
  match i with
  | .movShort f => short1 f tyAny
  | .addShort f => short2 f tyAdd
  | .subShort f => short2 f tyAdd
  | .mulShort f => short2 f tyAdd
  | .mulhShort f => short2 f tyInt
  | .minShort f => short2 f tyAdd
  | .maxShort f => short2 f tyAdd
  | .andShort f => short2 f tyBits
  | .orShort f => short2 f tyBits
  | .xorShort f => short2 f tyBits
  | .notShort f => short1 f tyBits
  | .negShort f => short1 f tySigned
  | .absShort f => short1 f tySigned
  | .shlShort f => short2 f tyBits
  | .shrShort f => short2 f tyBits
  | .sarShort f => short2 f tyBits
  | .rotShort f => short2 f tyBits
  | .popcShort f => short1 f ty32
  | .clzShort f => short1 f ty32
  | .brevShort f => short1 f ty32
  | .faddShort f => short2 f tyFloat
  | .fsubShort f => short2 f tyFloat
  | .fmulShort f => short2 f tyFloat
  | .fminShort f => short2 f tyFloat
  | .fmaxShort f => short2 f tyFloat
  | .fsatShort f => short1 f tyFloat
  -- R46
  | .nop f => { typeOk := f.ty == 0, fieldsOk := f.d == 0 && f.a == 0 && f.pred == 0 && !f.pneg,
                predOk := false, regs := [] }
  -- R81, R82
  | .mov f => unary f tyAny [0] true
  | .movi f => { typeOk := tyIn f.ty tyAny, predOk := true,
                 fieldsOk := f.lit.isSome && f.a == 0 && f.b == 0 && f.c == 0 && (f.asc == f.bsc)
                   && scalarGate f true && modIn f [0] [0],
                 regs := [opnd f.d f.ty (LForm.scalar f)] }
  | .sel f => { binary f tyAny [0] false true with
                fieldsOk := litB f true && scalarGate f false && modIn f [0] [0],
                regs := [opnd f.d f.ty false, opnd f.a f.ty f.asc] ++ useB f (opnd f.b f.ty f.bsc)
                  ++ [.pred f.c.toNat] }
  -- R83, R84
  | .add f => (binary f tyAdd [0, 1] true true).also (satOk f)
  | .sub f => (binary f tyAdd [0, 1] true true).also (satOk f)
  | .min f => binary f tyAdd [0] true true
  | .max f => binary f tyAdd [0] true true
  | .neg f => (unary f tySigned [0, 1] true).also (satOk f)
  | .abs f => (unary f tySigned [0, 1] true).also (satOk f)
  | .mul f => binary f tyAdd [0] true true
  | .mulh f => binary f tyInt [0] true true
  | .mad f => ternary f tyInt [0] true true
  | .addc f | .subb f => { binary f [2] [0] false true with
                           fieldsOk := litB f true && scalarGate f false && modIn f [0] [0],
                           regs := [opnd1 f.d false, opnd1 f.a f.asc] ++ useB f (opnd1 f.b f.bsc)
                             ++ [.pred f.c.toNat] }
  -- R85 to R88
  | .and f => binary f tyBits [0] true true
  | .or f => binary f tyBits [0] true true
  | .xor f => binary f tyBits [0] true true
  | .not f => unary f tyBits [0] true
  | .shl f => binary f tyBits [0] true true
  | .shr f => binary f tyBits [0] true true
  | .sar f => binary f tyBits [0] true true
  | .rot f => binary f tyBits [0, 1] true true
  | .popc f => unary f ty32 [0] true
  | .clz f => unary f ty32 [0] true
  | .brev f => unary f ty32 [0] true
  | .bfe f => binary f [1, 2] [0] true true
  | .bfi f => ternary f [0] [0] true true
  | .lea f => { typeOk := f.ty == 5, predOk := true,
                fieldsOk := litB f true && scalarGate f true && f.c == 0 && f.mod2.toNat < 2,
                regs := [opnd f.d f.ty (LForm.scalar f), opnd f.a f.ty f.asc]
                  ++ useB f (opnd1 f.b f.bsc) }
  -- R89, R90
  | .icmp f => compare f tyInt [0, 1, 2, 3, 4, 5] [0, 1, 2, 3] (opnd f.b f.ty f.bsc)
  -- R90; a reserved MOD with b32 or n64 is an illegal opcode (log 90, DESIGN CHOICE)
  | .pset f => { typeOk := (f.mod == 0 && f.ty == 0) || (f.mod == 1 && f.ty == 5)
                   || (f.mod.toNat > 1 && (f.ty == 0 || f.ty == 5)),
                 fieldsOk := f.mod.toNat < 2 && f.mod2 == 0 && f.b == 0 && !f.bsc && f.c == 0
                   && (f.lit.isNone || (f.mod == 0 && f.a == 0 && !f.asc)),
                 predOk := true,
                 regs := [.pred f.d.toNat] ++ useB f (opnd f.a f.ty f.asc) }
  | .pand f => predOp f true
  | .por f => predOp f true
  | .pxor f => predOp f true
  | .pnot f => predOp f false
  -- R91 to R94
  | .fadd f => binary f tyFloat [0, 1, 2, 3] (f.ty == 3) true
  | .fsub f => binary f tyFloat [0, 1, 2, 3] (f.ty == 3) true
  | .fmul f => binary f tyFloat [0, 1, 2, 3] (f.ty == 3) true
  | .ffma f => ternary f tyFloat [0, 1, 2, 3] (f.ty == 3) true
  | .fmin f => binary f tyFloat [0] (f.ty == 3) true
  | .fmax f => binary f tyFloat [0] (f.ty == 3) true
  | .fsat f => unary f tyFloat [0] (f.ty == 3)
  | .fcmp f => compare f tyFloat [0, 1, 2, 3, 4, 5, 6, 7]
                 (if f.ty == 3 then [0, 1, 2, 3] else [0, 1, 2, 3, 4, 5, 6, 7]) (opnd1 f.b f.bsc)
  | .fclass f => compare f tyFloat [0]
                 (if f.ty == 3 then [0, 1, 2, 3] else [0, 1, 2, 3, 4, 5, 6, 7]) (opnd1 f.b f.bsc)
  -- R95 to R97
  | .div f => (binary f [3, 1, 2] [0, 1, 2, 3] false true).also (f.ty == 3 || f.mod == 0)
  | .rem f => binary f [1, 2] [0] false true
  | .rcp f => sfu f [0, 1, 2, 3]
  | .sqrt f => sfu f [0, 1, 2, 3]
  | .rsq f => sfu f [0]
  | .exp2 f => sfu f [0]
  | .log2 f => sfu f [0]
  | .sin f => sfu f [0]
  | .cos f => sfu f [0]
  | .tanh f => sfu f [0]
  -- R98 to R103
  | .cvt f => { typeOk := tyIn f.ty [1, 2, 3, 4, 5] && tyIn f.mod2 [1, 2, 3, 4, 5] && f.ty != f.mod2,
                fieldsOk := f.lit.isNone && f.b == 0 && !f.bsc && f.c == 0 && f.mod.toNat < 8,
                predOk := true,
                regs := [opnd f.d f.ty false, opnd f.a f.mod2 f.asc] }
  | .pack f => { typeOk := tyIn f.ty tyNarrow, predOk := true,
                 fieldsOk := litB f true && scalarGate f false && f.c == 0 && f.mod.toNat < 8
                   && 2 * f.mod2.toNat < eltCount f.ty.toNat && (f.ty != 10 || f.mod.toNat < 4),
                 regs := [opnd1 f.d false, opnd1 f.a f.asc] ++ useB f (opnd1 f.b f.bsc) }
  | .unpack f => { typeOk := (f.ty == 3 && tyIn f.mod [6, 7, 8, 9, 10])
                     || (f.ty == 1 && tyIn f.mod [11, 12, 10]) || (f.ty == 2 && tyIn f.mod [13, 14]),
                   fieldsOk := f.lit.isNone && f.b == 0 && !f.bsc && f.c == 0
                     && f.mod2.toNat < eltCount f.mod.toNat,
                   predOk := true,
                   regs := [opnd1 f.d false, opnd1 f.a f.asc] }
  | .cvtsc f => { typeOk := tyIn f.ty tyNarrow, predOk := true,
                  fieldsOk := (match f.lit with
                      | some _ => f.b == 0 && !f.bsc
                      | none => f.bsc && !f.asc)
                    && f.mod2.toNat < eltCount f.ty.toNat
                    && !(f.ty == 10 && f.mod.toNat < 8 && f.mod.toNat ≥ 4),
                  regs := [opnd1 f.d false, opnd1 f.a f.asc] ++ useB f (.scal f.b.toNat false)
                    ++ [.vec f.c.toNat false] }
  -- R108
  | .bra f => { typeOk := f.ty == 0, fieldsOk := f.lit.isSome && zero f {} && modIn f [0] [0],
                predOk := true, regs := [] }
  | .call f => { typeOk := f.ty == 0, predOk := true, regs := [.vec f.d.toNat true],
                 fieldsOk := f.lit.isSome && zero f { d := false } && modIn f [0] [0] }
  | .brx f => plain f (zero f { a := false } && modIn f [0] [0]) true [opnd2 f.a f.asc]
  | .ret f => plain f (zero f { a := false } && modIn f [0] [0]) true [opnd2 f.a f.asc]
  | .callx f => plain f (zero f { a := false, d := false } && modIn f [0] [0]) true
                  [.vec f.d.toNat true, opnd2 f.a f.asc]
  -- R112 to R114
  | .exit f => plain f (zero f {} && modIn f [0] [0]) true []
  | .yield f => plain f (zero f {} && modIn f [0] [0]) false []
  | .nopLong f => plain f (zero f {} && modIn f [0] [0] && !f.setf) false []
  -- R115, R117
  | .join f => plain f (zero f { a := false } && !f.asc && modIn f [0] [0]) true [.mask f.a.toNat]
  | .leave f => plain f (zero f { a := false } && !f.asc && modIn f [0] [0]) true [.mask f.a.toNat]
  | .waitm f => plain f (zero f { a := false } && !f.asc && modIn f [0] [0]) true [.mask f.a.toNat]
  | .kset f => { typeOk := f.ty == 0, predOk := false,
                 fieldsOk := scalarOrLit f && f.b == 0 && !f.bsc && f.c == 0 && modIn f [0] [0],
                 regs := [.mask f.d.toNat] ++ useB f (.scal f.a.toNat true) }
  | .kmov f => plain f (!f.asc && f.b == 0 && !f.bsc && f.c == 0 && modIn f [0, 1] [0]) false
                 [if f.mod == 1 then .scal f.d.toNat true else .mask f.d.toNat, .mask f.a.toNat]
  | .kand f => plain f (!f.asc && !f.bsc && f.c == 0 && modIn f [0, 1] [0]) false
                 [.mask f.d.toNat, .mask f.a.toNat, .mask f.b.toNat]
  | .kor f => plain f (!f.asc && !f.bsc && f.c == 0 && modIn f [0] [0]) false
                 [.mask f.d.toNat, .mask f.a.toNat, .mask f.b.toNat]
  | .kpop f => plain f (!f.asc && f.b == 0 && !f.bsc && f.c == 0 && modIn f [0, 1] [0]) false
                 [.scal f.d.toNat false, .mask f.a.toNat]
  -- R118 to R123
  | .vote f => plain f (!f.asc && f.b == 0 && !f.bsc && f.c == 0 && modIn f [0, 1, 2] [0]) true
                 [if f.mod == 2 then .scal f.d.toNat true else .pred f.d.toNat, .pred f.a.toNat]
  | .shfl f => { typeOk := tyIn f.ty tyAny, predOk := true,
                 fieldsOk := !f.asc && litData f true && f.c == 0 && modIn f [0, 1, 2, 3] [0],
                 regs := [opnd f.d f.ty false, opnd f.a f.ty false] ++ useB f (opnd1 f.b f.bsc) }
  | .shflp f => { typeOk := tyIn f.ty tyAny, predOk := true,
                  fieldsOk := !f.asc && litData f true && (f.mod2 == 1 || f.c == 0)
                    && modIn f [0, 1, 2, 3] [0, 1],
                  regs := [opnd f.d f.ty false, opnd f.a f.ty false] ++ useB f (opnd1 f.b f.bsc)
                    ++ (if f.mod2 == 1 then [.pred f.c.toNat] else []) }
  | .reduce f => { typeOk := reduceTy f.mod.toNat f.ty.toNat, predOk := true,
                   fieldsOk := f.lit.isNone && !f.asc && f.b == 0 && !f.bsc
                     && modIn f [0, 1, 2, 3, 4, 5] [0, 1],
                   regs := [opnd f.d f.ty (f.mod2 == 1), opnd f.a f.ty false, .pred f.c.toNat] }
  | .scan f => { typeOk := reduceTy f.mod.toNat f.ty.toNat, predOk := true,
                 fieldsOk := f.lit.isNone && !f.asc && f.b == 0 && !f.bsc && f.c == 0
                   && modIn f [0, 1, 2, 3, 4, 5] [0, 1],
                 regs := [opnd f.d f.ty false, opnd f.a f.ty false] }
  | .matchLanes f => { typeOk := tyIn f.ty [0, 5], predOk := true,
                       fieldsOk := f.lit.isNone && !f.asc && f.b == 0 && !f.bsc && f.c == 0
                         && modIn f [0, 1, 2, 3] [0],
                       regs := [if f.mod == 3 then .pred f.d.toNat else .vec f.d.toNat (f.mod == 2),
                         opnd f.a f.ty false] }
  -- R124
  | .bar f => plain f (zero f {} && f.mod2 == 0) false []
  | .barb f => plain f (zero f {} && f.mod2 == 0) false []
  | .gbar f => plain f (zero f {} && modIn f [0] [0]) false []
  -- R127 to R130
  | .launch f => plain f (f.asc && zero f { d := false, a := false } && modIn f [0] [0]) true
                   [.scal f.d.toNat false, .scal f.a.toNat true]
  | .waitch f => { typeOk := f.ty == 0, predOk := true,
                   fieldsOk := scalarOrLit f && f.b == 0 && !f.bsc && f.c == 0 && modIn f [0] [0],
                   regs := [.scal f.d.toNat false] ++ useB f (.scal f.a.toNat false) }
  | .mfs f => { typeOk := tyIn f.ty [0, 1, 2, 5], predOk := true,
                fieldsOk := f.lit.isNone && f.b == 0 && f.c == 0 && (f.asc == f.bsc)
                  && modIn f [0] [0] && scalarGate f true && !(LForm.scalar f && f.a.toNat < 2),
                regs := [opnd f.d f.ty (LForm.scalar f), .special f.a.toNat false] }
  | .mts f => { typeOk := f.ty == 0, predOk := false,
                fieldsOk := scalarOrLit f && f.b == 0 && !f.bsc && f.c == 0 && modIn f [0] [0],
                regs := [.special f.d.toNat true] ++ useB f (.scal f.a.toNat false) }
  -- R331 to R335
  | .trap f => { typeOk := f.ty == 0, predOk := true,
                 fieldsOk := scalarOrLit f && f.d == 0 && f.b == 0 && !f.bsc && f.c == 0
                   && modIn f [0] [0],
                 regs := useB f (.scal f.a.toNat false) }
  | .bkpt f => plain f (zero f {} && modIn f [0] [0]) true []
  | .tret f => plain f (zero f {} && modIn f [0, 1] [0]) false []
  | .tqpeek f => plain f (zero f { d := false } && modIn f [0] [0]) false [.sspan f.d.toNat 12 4]
  | .tqdrop f => plain f (zero f { d := false } && modIn f [0, 1] [0]) false [.scal f.d.toNat false]
  | .rgnend f => plain f (zero f {} && modIn f [0] [0]) false []
  | .chkpt f => plain f (zero f { d := false } && modIn f [0] [0]) false [.scal f.d.toNat true]
  -- R353
  | .fwsave f => plain f (f.asc && zero f { a := false } && modIn f [0] [0]) false [.scal f.a.toNat true]
  | .fwrest f => plain f (f.asc && zero f { a := false } && modIn f [0] [0]) false [.scal f.a.toNat true]
  | .fwarr f => plain f (f.asc && zero f { a := false } && modIn f [0, 1] [0]) false [.scal f.a.toNat true]
  | .fwend f => plain f (zero f {} && modIn f [0] [0]) false []
  -- R265 to R273
  | .ld f => loadForm f false false
  | .st f => storeForm f false
  | .ldx f => loadForm f true false
  | .stx f => storeForm f false
  | .ldc f => loadForm f false true
  | .stc f => storeForm f true
  | .phase f => plain f (zero f {} && f.mod.toNat < 7 && f.mod2.toNat < 3) true []
  | .fenceX f => plain f (zero f {}) true []
  | .fenceP f => plain f (zero f {} && f.mod.toNat < 5 && f.mod2.toNat < 5) true []
  | .pref f => plain f (zero f { a := false, c := false } && f.mod2.toNat < 2) true
                 [base f, .vec f.c.toNat false]
  -- R274 to R280
  | .atom f => { typeOk := atomTyped f, predOk := true,
                 fieldsOk := litData f true && f.mod2.toNat % 8 != 7 && orderOk f,
                 regs := [opnd f.d f.ty false, base f] ++ dataB f false ++ [.vec f.c.toNat false] }
  | .red f => { typeOk := atomTyped f, predOk := true,
                fieldsOk := f.d == 0 && litData f true && f.mod2.toNat % 8 != 7 && orderOk f,
                regs := [base f] ++ dataB f false ++ [.vec f.c.toNat false] }
  | .cas f => { typeOk := tyIn f.ty [0, 1, 2, 4, 5], predOk := true,
                fieldsOk := (match f.lit with
                    | some w => w.toNat < 512
                    | none => false) && f.mod2.toNat % 8 == 0 && orderOk f,
                regs := [opnd f.d f.ty false, base f, opnd f.b f.ty f.bsc, .vec f.c.toNat false]
                  ++ (match f.lit with
                    | some w => [opnd (w.setWidth 8) f.ty (w.getLsbD 8)]
                    | none => []) }
  | .atomr f => { typeOk := atomTy (f.mod2.toNat % 8) f.ty.toNat, predOk := true,
                  fieldsOk := (match f.lit with
                      | some w => w.toNat < 65536
                      | none => false) && f.mod2.toNat < 8 && (f.mod2.toNat == 7 || f.d == 0),
                  regs := (if f.mod2.toNat == 7 then [opnd f.d f.ty false] else [])
                    ++ [base f, opnd f.b f.ty f.bsc, .vec f.c.toNat false] }
  | .cqpop f => plain f (zero f { d := false, c := false } && modIn f [0] [0]) true
                  [.vspan f.d.toNat 3 2, .pred f.c.toNat]
  -- R281 to R284
  | .tst f => { typeOk := tyIn f.ty [0, 1, 2, 3, 4, 5], predOk := true,
                fieldsOk := litData f true && f.mod2 == 0,
                regs := [.pred f.d.toNat, base f] ++ dataB f false ++ [.vec f.c.toNat false] }
  | .retract f => { typeOk := f.ty == 0, predOk := true,
                    fieldsOk := f.lit.isSome && zero f { a := false, c := false } && f.mod2 == 0,
                    regs := [base f, .vec f.c.toNat false] }
  | .tcommit f => plain f (zero f { a := false, c := false } && f.mod2 == 0) true
                    [base f, .vec f.c.toNat false]
  -- R173, Table 9-1
  | .tdset f | .tdget f => { typeOk := f.ty == 0, predOk := true,
                             fieldsOk := f.asc && f.d == 0 && f.c == 0 && modIn f [0] [0]
                               && (match f.lit with
                                 | some _ => f.b == 0 && !f.bsc
                                 | none => f.bsc),
                             regs := [.scal f.a.toNat false] ++ useB f (.scal f.b.toNat false) }
  | .tdinv f => { typeOk := f.ty == 0, predOk := true,
                  fieldsOk := zero f { b := false } && modIn f [0] [0]
                    && (match f.lit with
                      | some _ => f.b == 0 && !f.bsc
                      | none => f.bsc),
                  regs := useB f (.scal f.b.toNat false) }
  | .lookup f => plain f (f.b == 0 && !f.bsc && f.c == 0 && modIn f [0] [0]) true
                   [opnd1 f.d f.asc, opnd2 f.a f.asc]
  | .pres f => plain f (f.b == 0 && !f.bsc && f.c == 0 && modIn f [0] [0]) true
                   [opnd1 f.d f.asc, opnd1 f.a f.asc]
  | .tagset f => plain f (f.asc && f.bsc && f.d == 0 && f.c == 0 && modIn f [0] [0]) true
                   [.scal f.a.toNat false, .scal f.b.toNat true]
  | .tagclr f => plain f ((if f.mod == 1 then f.a == 0 && !f.asc else f.asc) && f.d == 0 && f.b == 0
                     && !f.bsc && f.c == 0 && modIn f [0, 1] [0]) true
                   (if f.mod == 1 then [] else [.scal f.a.toNat false])
  | .kick f => plain f (f.asc && zero f { a := false } && modIn f [0] [0]) true [.scal f.a.toNat false]
  | .boinit f => { typeOk := f.ty == 0, predOk := true,
                   fieldsOk := f.asc && f.d == 0 && (f.mod == 1 || f.c == 0) && modIn f [0, 1] [0]
                     && (match f.lit with
                       | some _ => f.b == 0 && !f.bsc
                       | none => f.bsc),
                   regs := [.scal f.a.toNat false] ++ useB f (.scal f.b.toNat false)
                     ++ (if f.mod == 1 then [.scal f.c.toNat false] else []) }
  | .boarrive f => plain f (f.asc && zero f { a := false } && modIn f [0] [0]) true
                     [.scal f.a.toNat false]
  | .bowait f => plain f (f.asc && zero f { a := false, d := false } && (f.mod == 1 || f.d == 0)
                       && modIn f [0, 1] [0]) true
                     ([.scal f.a.toNat false] ++ (if f.mod == 1 then [.scal f.d.toNat false] else []))
  | .mzero f => plain f (zero f {} && modIn f [0] [0, 8]) true []
  | .mma f => mmaForm f 64 W
  | .mmas f => mmaForm f 32 W
  | .mdrain f => { typeOk := tyIn f.ty [3, 7], predOk := true,
                   fieldsOk := f.lit.isNone && f.c == 0 && f.mod.toNat < 8 && f.mod.toNat % 4 != 3
                     && (if f.mod.toNat % 4 == 0 then f.a == 0 && !f.asc else f.asc)
                     && (if f.mod.toNat < 4 then f.b == 0 && !f.bsc else f.bsc)
                     && (f.mod2.toNat % 8 ≥ 4 || f.mod2.toNat % 4 == 0),
                   regs := [if f.mod2.toNat % 8 ≥ 4
                       then .vspan f.d.toNat (if f.ty == 3 then 64 else 32) 1
                       else .scal f.d.toNat true]
                     ++ (if f.mod.toNat % 4 == 0 then [] else [.scal f.a.toNat true])
                     ++ (if f.mod.toNat < 4 then [] else [.scal f.b.toNat false]) }
  | .maccld f => { typeOk := tyIn f.ty [3, 7], predOk := true,
                   fieldsOk := f.lit.isNone && f.asc && zero f { a := false } && modIn f [0] [0, 8],
                   regs := [.scal f.a.toNat true] }
  | .coll f => plain f (f.asc && zero f { a := false } && modIn f [0] [0]) true [.scal f.a.toNat false]
  | .gse f => plain f (f.asc && zero f { a := false } && modIn f [0] [0]) true [.scal f.a.toNat false]
  | _ => { typeOk := true, fieldsOk := true, predOk := true, regs := [] }

/-- Whether an instruction admits an encoding with these predicate bits (R49, R106): a predicate where
none is admitted is a reserved field, and PRED 0 with PNEG 1 is reserved everywhere. -/
def predBitsOk (pred : BitVec 3) (pneg predOk : Bool) : Bool :=
  if predOk then !(pred == 0 && pneg) else pred == 0 && !pneg

/-- A header that meets R53. -/
def Header.ok (h : Header) : Bool :=
  (h.aval || h.flagA == 0) && (h.bval || h.flagB == 0) && (!h.aval || h.flagA.toNat < 12)
    && (!h.bval || h.flagB.toNat < 12) && !(h.aval && h.bval && h.flagA == h.flagB)

/-- SETF marks a flag that the clause's header makes valid; FSEL is reserved without it (R47, R55). -/
def flagBitsOk (x : DecodeCtx) (f : LForm) : Bool :=
  if f.setf then (if f.fsel then x.bval else x.aval) else !f.fsel

/-- The opcodes of the firmware forms (Table 17-4): in a cord each of them is an illegal opcode (R353). -/
def firmwareOp (op : Nat) : Bool := 0x2F0 ≤ op && op ≤ 0x2F3

/-- The first trap of rows 2 to 5 of Table 3-6 that an instruction raises at decode, if any. A step of
the device has no word and raises none. -/
def decodeTrap (x : DecodeCtx) (i : Instr) : Option Cause :=
  let ad := admits x.W i
  match i.shape with
  | .header h => if Header.ok h then none else some .illegalOpcode
  | .unassigned _ => some .illegalOpcode
  | .event => none
  | .short _ f =>
    if !ad.typeOk then some .illegalType
    else if !(ad.fieldsOk && (predBitsOk f.pred f.pneg ad.predOk)) then some .illegalOpcode
    else if !ad.regs.all (RegUse.ok x.V) then some .illegalReg
    else none
  | .long op f =>
    if firmwareOp op && !x.injected then some .illegalOpcode
    else if !ad.typeOk then some .illegalType
    else if !(ad.fieldsOk && predBitsOk f.pred f.pneg ad.predOk && flagBitsOk x f) then
      some .illegalOpcode
    else if !ad.regs.all (RegUse.ok x.V) then some .illegalReg
    else none

/-- The instructions that end a region before they issue (Table 17-6, Table 9-2). -/
def endsRegion (i : Instr) : Bool :=
  match i with
  | .atom _ | .cas _ | .red _ | .atomr _ | .cqpop _ | .tst _ | .retract _ | .tcommit _ => true
  | .bar _ | .barb _ | .gbar _ | .launch _ | .waitch _ => true
  | .tdset _ | .tdget _ | .tdinv _ | .tagset _ | .tagclr _ | .boinit _ | .boarrive _ => true
  | .kick _ | .mzero _ | .maccld _ | .mma _ | .mmas _ | .mdrain _ | .gse _ | .coll _ => true
  | .stc _ | .stx _ | .exit _ | .trap _ | .bkpt _ | .rgnend _ => true
  | .mts f => f.d == 0x31
  | _ => false

/-- The cross-lane and cord-level instructions, WAITM, and the scalar forms (log 14), which wait for the
other strands of a slow-gear round (R342). -/
def waitsInSlowGear (i : Instr) : Bool :=
  match i with
  | .vote _ | .shfl _ | .shflp _ | .reduce _ | .scan _ | .matchLanes _ | .waitm _ => true
  | .kset _ | .kmov _ | .kand _ | .kor _ | .kpop _ | .mts _ => true
  | .tret _ | .tqpeek _ | .tqdrop _ | .chkpt _ | .bowait _ => true
  | .lookup f | .pres f => f.asc
  | _ =>
    match i.shape with
    | .long op f => (op < 0x2D0) && LForm.scalar f
    | _ => false

/-- The registers that a short form reads and writes (R45, R59): none for the NOP. -/
def shortUse (op : Nat) (f : SForm) : List Nat × List Nat :=
  let wide := wideTy f.ty
  let reg (r : BitVec 8) : List Nat := if wide then [r.toNat, r.toNat + 1] else [r.toNat]
  if op = 0x1B then ([], [])
  else if [0x01, 0x0B, 0x0C, 0x0D, 0x12, 0x13, 0x14, 0x1A].contains op then (reg f.a, reg f.d)
  else (reg f.a ++ reg f.d, reg f.d)

/-- Two short forms that may issue as a marked pair (R59). -/
def pairOk (op1 : Nat) (f1 : SForm) (op2 : Nat) (f2 : SForm) : Bool :=
  let u1 := shortUse op1 f1
  let u2 := shortUse op2 f2
  op1 = 0x1B || op2 = 0x1B
    || (f1.d.toNat % 4 != f2.d.toNat % 4 && f1.a.toNat % 4 != f2.a.toNat % 4
      && u1.2.all (fun r => !u2.1.contains r) && u2.2.all (fun r => !u1.1.contains r))

end Sys2Proof.Machine
end

