-- ==== Sys2Proof/Machine/State.lean ====
section
/-! DEFINITION. Everything the VX-640 holds, as plain data, and the state after reset. INVENTORY.md lists
each piece with its rule. Byte stores are lists of cells in rising order of address with no cell that
holds what an unlisted address reads as. -/

namespace Sys2Proof.Machine
open Sys2Proof

/-- Bytes by address, in rising order, without the byte that an unlisted address reads as. -/
abbrev Mem := List Host.Cell

/-- Values by number, in rising order. -/
abbrev Tab (α : Type) := List (Nat × α)

/-- The sticky float flags of %fpflags (R79, R143): invalid, divide-by-zero, overflow, underflow,
inexact, in the bit positions of the register. -/
abbrev FpFlags := BitVec 5

/-- Why a strand does not move on (R26, R30, R57). `hold cut sent`: at a PHASE or a fence,
until what the core issued before `cut` has been performed. `op id`: at an instruction whose operation
`id` completes before the strand passes it. The barriers, LAUNCH and WAITCH keep the cut of their arrival. `sent`: what
came before the strand's release or fence is performed, and what the core held unpublished by then, before `cut`, has been
sent to its homes (R230, R234). -/
inductive Park where
  | waitm (k : Nat)
  | hold (cut : Nat) (sent : Bool)
  | op (id : Nat)
  | bar (id : Nat)
  | barb (id cut : Nat) (sent : Bool)
  | gbar (cut : Nat) (sent : Bool)
  | waitch (h cut : Nat)
  | bowait (off : Nat)
  | launch (cut : Nat) (sent : Bool)
  | launchRoom
  deriving DecidableEq, Repr

/-- A reference to a code version held by a CALL (R110): the version and the return address. -/
structure CallRef where
  version : Nat
  ret     : Nat
  deriving DecidableEq, Repr

/-- A strand (R15, Table 2-1). `clause` is the header in force (R54), `tret` the trap-return register
with the clause that was in force (R329), `entered` marks a strand that entered the handler (R333).
`epoch` counts the boundaries the strand has taken, which order its accesses (R230, pb). -/
structure Strand where
  present : Bool := false
  pc      : DWord := 0
  v       : List Word := []
  p       : BitVec 8 := 1
  ended   : Bool := false
  park    : Option Park := none
  clause  : Option Header := none
  tret    : DWord := 0
  tclause : Option Header := none
  entered : Bool := false
  gbars   : Nat := 0
  epoch   : Nat := 0
  refs    : List CallRef := []
  deriving DecidableEq, Repr

/-- A trap record (Table 17-2). -/
structure TrapRec where
  kind   : BitVec 2
  reason : BitVec 2 := 0
  cause  : BitVec 8
  ret    : Word
  detail : Word := 0
  pc     : BitVec 57
  endPc  : BitVec 57 := 0
  smask  : Mask := 0
  addr   : DWord := 0
  deriving DecidableEq, Repr

/-- A write of one register of a cord: of a strand (v, p) or of the cord (s, k), or flags ORed into
%fpflags. -/
inductive RegW where
  | v (lane r : Nat) (x : Word)
  | p (lane n : Nat) (x : Bool)
  | s (r : Nat) (x : Word)
  | k (n : Nat) (x : Mask)
  | fp (x : FpFlags)
  deriving DecidableEq, Repr

/-- How far one access of one lane has come. `wait`: not translated. `buffered`: in entry `i` of the
die's fault buffer. `ready`: translated. `sent g`: forwarded by the routers as one of group g (R222). `rejected`: not to be performed, with the DETAIL of R262.
`done`: performed. -/
inductive AccState where
  | wait
  | buffered (i : Nat)
  | ready
  | sent (g : Nat)
  | rejected (detail : Nat)
  | done
  deriving DecidableEq, Repr

/-- One access of an operation: of lane `lane`, `size` bytes at virtual address `va`. `data` holds what
a store or a step brings, and `data2` the new value of a CAS. `epoch` and `bep` are the boundaries that
its strand and its block had taken before it (R230, R239), and `rel` the cut of its own release, once that has begun
(R275). A delegated command (R226) that has left is `sent`
until it is performed. `got` are the bytes of a load that have been read on their own, each with its offset and whether
it is poisoned, and the bytes of a store that have been written on their own (R229, R236). `early` are the other bytes of their doublewords
as they stood when a load's byte was read on its own: a cell that is taken afterwards is not observed for them (R244,
R254). -/
structure Acc where
  lane  : Nat
  va    : Nat
  pa    : Nat := 0
  size  : Nat
  data  : List Byte := []
  data2 : List Byte := []
  epoch : Nat := 0
  bep   : Nat := 0
  st    : AccState := .wait
  got   : List (Nat × Byte × Bool) := []
  rel   : Option Nat := none
  early : List (Nat × Byte × Bool) := []
  deriving DecidableEq, Repr

/-- What an outstanding operation is (Table 3-9). -/
inductive OpKind where
  /-- A queued special-function or conversion result (R78): its writes and an imprecise cause. -/
  | queued (ws : List RegW) (cause : Option (Cause × Mask))
  /-- LD (R266). -/
  | load (f : LForm)
  /-- LDC, on a scratchpad; accesses hold (position, offset) in `va` as R133 packs them. -/
  | loadC (f : LForm)
  /-- ST (R267); `tent`: tentative (R338, R350). -/
  | store (f : LForm) (tent : Bool)
  /-- STC and STX, on a scratchpad (R267, R269). -/
  | storeC (f : LForm)
  /-- The read of the 32 bytes of a request (R163, Table 12-4), until its engine accepts it. -/
  | request
  /-- MDRAIN to registers: `w` vector registers from `d` on, of the array operation `n` (R192). -/
  | drain (n d w : Nat)
  /-- The row-scale read of CVTSC (R104), with the scale exponent of the descriptor and the source. -/
  | cvtsc (f : LForm) (x : Int) (src : List (Nat × Word)) (old : List (Nat × Word))
  /-- ATOM, CAS and RED (R276, R277). -/
  | atom (f : LForm)
  | cas (f : LForm)
  | red (f : LForm)
  /-- ATOMR: its commands leave when they have translated (R279). -/
  | atomr (f : LForm)
  | tst (f : LForm)
  | retract (f : LForm)
  | tcommit (f : LForm)
  /-- PREF (R270). -/
  | pref (f : LForm)
  /-- CQPOP in deterministic mode, waiting for its replies (R306). -/
  | cqpop (f : LForm)
  /-- LAUNCH reading its record (R127). -/
  | launch (f : LForm)
  /-- A holding instruction whose flag falls when the last of its strands has passed it (R55). -/
  | held
  deriving DecidableEq, Repr

/-- An outstanding operation of a cord. `ret` is the retired count before its instruction; `seq` orders
it among what the core issued; `region` marks an operation of the open region; `rel` is what
its core had issued when an ordered atomic with a release issued (R275); `released` and `order`: the ticket unit has released its steps,
and when among those of its grid (R303). `late` are the destination registers that a later instruction has
written, as (lane, register), and `keep` those of them that keep the later value; with `piece` its results reach
the registers one by one, and wait in `ws` (R57). -/
structure Op where
  id       : Nat
  kind     : OpKind
  flag     : Option Nat
  pc       : DWord
  ret      : Nat
  seq      : Nat
  lanes    : List Nat
  stream   : Nat := 0
  accs     : List Acc := []
  region   : Bool := false
  handler  : Bool := false
  rel      : Option Nat := none
  released : Bool := true
  order    : Nat := 0
  ws       : List RegW := []
  late     : List (Nat × Nat) := []
  keep     : List (Nat × Nat) := []
  piece    : Bool := false
  deriving DecidableEq, Repr

/-- A cause found after its instruction issued (R339): an imprecise one on its way to the cord, or a late
one of an engine or array. `region`: its instruction issued in the open region; `handler`: in the
handler. -/
structure Report where
  pc      : DWord
  ret     : Nat
  cause   : Cause
  lanes   : List Nat
  detail  : Nat := 0
  addr    : Nat := 0
  region  : Bool := false
  handler : Bool := false
  deriving DecidableEq, Repr

/-- What ends a region before an instruction (Table 17-6). `instr`: the instruction at an address, or in the slow
gear that every strand has stopped. `limit`: the 256th instruction. `uncovered`:
a store of the region was performed without a cell (R338). `trap`: the record of a precise trap, queued
once the region has drained (R337). -/
inductive Ending where
  | instr (pc : DWord)
  | limit
  | uncovered
  | trap (r : TrapRec)
  deriving DecidableEq, Repr

/-- The shadow of one strand at region entry (R336), with its trap-return register and its references (log 45,
R110). -/
structure Shadow where
  pc      : DWord
  clause  : Option Header
  park    : Option Park
  p       : BitVec 8
  tret    : DWord
  tclause : Option Header
  entered : Bool
  refs    : List CallRef
  deriving DecidableEq, Repr

/-- The open region of a cord (R336 to R340). `cells` are the doublewords its stores addressed; `vs` the
vector registers copied on first write, in every lane; `uncov`: a home performed one of its stores
without a cell; `cause` is the first imprecise cause, with its strands, and `hcause` whether its instruction is one of
the handler; `popped` are the records that its instructions removed from the queue, in order, each with whether it was
under delivery at entry; `lastPc` is the instruction that
retired last, `handler` whether the region was entered in the handler. -/
structure Region where
  entry   : DWord
  ret     : Nat
  count   : Nat
  lastPc  : DWord
  handler : Bool
  cells   : List Nat := []
  lanes   : List Shadow
  s       : List Word
  k       : List Mask
  fp      : FpFlags
  vs      : List (Nat × List Word) := []
  ending  : Option Ending := none
  uncov   : Bool := false
  told    : Bool := false
  cause   : Option TrapRec := none
  hcause  : Bool := false
  popped  : List (TrapRec × Bool) := []
  deriving DecidableEq, Repr

/-- The slow-gear re-run of a withdrawn region (R340 to R344): the held record, the strands that have
stopped, those served in this round, those waiting at a cord-level or cross-lane instruction, the
addresses counted in this round, and the set that now steps. -/
structure SlowGear where
  held    : TrapRec
  stopped : List Nat := []
  served  : List Nat := []
  waiting : List Nat := []
  counted : List DWord := []
  step    : List Nat := []
  closing : Bool := false
  deriving DecidableEq, Repr

/-- A cord (R16, Table 2-1). `slot` and `passes` are fixed at placement (R35, R298). `active`: its active slot,
0 to 7, or none in the pending set, which it entered as the `since`-th of its core (R298, R300). `round` is S with
the served marks (R27). `lastEnd` and `lastRet` name the instruction that ended the last region (R325). `idle`
counts the 10 µs samples for which its hang clock has run (R318). `stall` are the scratchpad lines, each with its
block, that it waits for (R158). `full` are the strands whose store or step has found the staging full, each with the address of its
instruction and whether it is one of the handler: it waits for its braid's ticket (R307). `ext`: the samples by which announced
recoveries have extended the deadline of the present wait (R319). `given`: the debugger has the head record (R330). -/
structure Cord where
  strands : List Strand := []
  s       : List Word := []
  k       : List Mask := []
  f       : List Nat := []
  queue   : List TrapRec := []
  fpflags : FpFlags := 0
  trapctl : Word := 0
  ncorr   : BitVec 8 := 0
  drop    : Bool := false
  lcause  : BitVec 8 := 0
  lout    : BitVec 2 := 0
  handler : Bool := false
  retired : DWord := 0
  cycle   : DWord := 0
  slot    : Nat := 0
  passes  : Nat := 1
  active  : Option Nat := some 0
  since   : Nat := 0
  idle    : Nat := 0
  stall   : List (Nat × Nat) := []
  full    : List (Nat × DWord × Bool) := []
  ext     : Nat := 0
  round   : List (Nat × Bool) := []
  ops     : List Op := []
  nextOp  : Nat := 0
  reports : List Report := []
  lates   : List Report := []
  region  : Option Region := none
  slow    : Option SlowGear := none
  suspend : List SuspendWhy := []
  debugger : Bool := false
  given   : Bool := false
  lastEnd : DWord := 0
  lastRet : Nat := 0
  killed  : Bool := false
  ended   : Bool := false
  deriving DecidableEq, Repr

/-- A handle of a child grid (R127): the grid, or the status of a record that was never queued. -/
structure Handle where
  h      : Nat
  grid   : Option Nat
  status : Nat
  deriving DecidableEq, Repr

/-- A tag slot (Table 8-2, R155): bits 56..8 of a line address. -/
structure TagSlot where
  valid : Bool := false
  tag   : BitVec 49 := 0
  deriving DecidableEq, Repr

/-- A block (R17, Table 2-1). `epoch` counts its BAR releases, `colls` its collectives on each communicator. -/
structure Block where
  epoch    : Nat := 0
  grid     : Nat
  index    : Nat
  braid    : Nat
  pos      : Nat
  core     : Nat
  side     : Nat
  lines    : Nat
  width    : Nat
  vregs    : Nat
  cords    : List Cord
  window   : Mem := []
  wpoison  : List Nat := []
  presence : List Nat
  tags     : List TagSlot
  handles  : List Handle := []
  colls    : Tab Nat := []
  retired  : Bool := false
  deriving DecidableEq, Repr

/-- A byte of the snapshot that its home has not seen (R207): the number of the earliest store in it that is
unpublished, and the block of the latest. -/
structure Dirty where
  byte  : Byte
  seq   : Nat
  block : Nat
  poison : Bool := false
  deriving DecidableEq, Repr

/-- Bytes of one line on their way to its home: each with its physical address (R207). `n` orders it among
what the core has sent; `seq` is the number of the earliest store in it. -/
structure Outbound where
  n     : Nat
  seq   : Nat
  block : Nat
  bytes : List (Nat × Byte)
  poison : List Nat := []
  deriving DecidableEq, Repr

/-- A delegated command on its way or its reply (R226 to R228). `perf`: performed at the owner; `order`: its place
among the released steps of its grid (R303), 0 outside deterministic mode; `poison`: the value it read is poisoned
(R348). -/
structure Delegated where
  n     : Nat
  block : Nat
  cord  : Nat
  slot  : Nat
  lane  : Nat
  pa    : Nat
  op    : Nat
  ty    : Nat
  val   : DWord
  cmp   : DWord
  tag   : BitVec 16
  ret   : Nat
  seq   : Nat
  stream : Nat := 0
  order : Nat := 0
  perf  : Bool := false
  value : DWord := 0
  status : BitVec 8 := 0
  poison : Bool := false
  deriving DecidableEq, Repr

/-- A reply in the completion queue (Table 11-11), with the cord it is for; `poison`: its value is poisoned (R348). -/
structure Reply where
  block  : Nat
  cord   : Nat
  n      : Nat
  value  : DWord
  tag    : BitVec 16
  status : BitVec 8
  slot   : Nat
  poison : Bool := false
  deriving DecidableEq, Repr

/-- Which engine a request is for (Tables 8-3, 9-7, 9-8). -/
inductive Engine where
  | copy
  | gse
  | coll
  deriving DecidableEq, Repr

/-- A request handed to an engine: its instruction, its image once read, and how far it has come. `lines`
are the destination lines whose presence count it has raised (R157), each with its block, its number and
the bytes still to come; `moved` counts, for each of its units, the
destination bytes delivered, and `counted` those counted down; `err` is the code of Table 8-4 or 9-9, `ill` that
an ill-formed byte was met; `ordinal` counts the collectives of its rank (R194). `da` and `db` are the descriptor
entries that it names (R147). Of a collective, `source` are the values that its rank has read, with
whether a byte was ill-formed and which values are poisoned, and `result` the values that its rank is to write, with their
poison (R194, R195, R348). `op` is
its read among the operations of its cord, and `table` the descriptor table as it stood at its issue (R147). `emulated`:
firmware carries it out, and its cord is suspended (R152). -/
structure Request where
  n       : Nat
  engine  : Engine
  block   : Nat
  cord    : Nat
  lane    : Nat
  pc      : DWord
  ret     : Nat
  seq     : Nat
  off     : Nat
  flag    : Option Nat
  handler : Bool
  image   : Nat := 0
  accepted : Bool := false
  lines   : List (Nat × Nat × Nat) := []
  moved   : Tab Nat := []
  counted : Nat := 0
  err     : Nat := 0
  ill     : Bool := false
  finished : Bool := false
  emulated : Bool := false
  ordinal : Nat := 0
  da      : BitVec 512 := 0
  db      : BitVec 512 := 0
  source  : Option (List Nat × Bool × List Bool) := none
  result  : Option (List Nat × List Bool) := none
  op      : Nat := 0
  table   : Tab (BitVec 512) := []
  deriving DecidableEq, Repr

/-- What an array operation is (R188 to R191). -/
inductive ArrKind where
  | mma
  | mmas
  | mzero
  | maccld
  | mdrain
  deriving DecidableEq, Repr

/-- An operation in the queue of a matrix array, with the operands that were read at issue (R170, R187): a
scratchpad operand as base + 2^32 pitch word, a register operand as its words. `fol`: the follower's core of a
paired operation. `lines`: the lines whose presence count a drain has raised (R192), and `due` those that it is still to raise (R157). `bad`: the address and
DETAIL of a row-scale read that was rejected (R190). -/
structure ArrOp where
  n      : Nat
  kind   : ArrKind
  block  : Nat
  cord   : Nat
  lane   : Nat
  pc     : DWord
  ret    : Nat
  seq    : Nat
  flag   : Option Nat
  handler : Bool
  fol    : Option Nat
  ty     : Nat
  mod    : Nat := 0
  mod2   : Nat := 0
  dst    : Nat := 0
  lanes  : List Nat := []
  a      : Nat := 0
  b      : Nat := 0
  drop   : Nat := 0
  aRegs  : Option (List Word) := none
  bRegs  : Option (List Word) := none
  aDesc  : BitVec 512 := 0
  bDesc  : BitVec 512 := 0
  lines  : List (Nat × Nat) := []
  due    : List (Nat × Nat) := []
  bad    : Option (Nat × Nat) := none
  emulated : Bool := false
  deriving DecidableEq, Repr

/-- A logical core. `relCut`: every store that it issued before goes home as soon as it is merged, since a release
wider than the core has begun (R234). `bcut`: the number that the core gave next when a strand of it last took a phase
boundary, and `fenced`: a FENCE.P has passed since the last such boundary (R230, pf and pb). `lastA` and `lastB` are the active slots that issued last on its sides, and
`swaps` counts the cords that entered a pending set (R298 to R300). `phys` is the physical core that carries it (R1); `dtimes` are the ages of its latest droop
events in samples of 10 µs (R295), `fuses` the field fuses that wait until the core is drained (R33). -/
structure CoreSt where
  phys     : Nat
  mapA     : BitVec 36
  mapB     : BitVec 36
  inService : Bool := true
  phase    : Word := 0
  seq      : Nat := 1
  relCut   : Nat := 0
  bcut     : Nat := 0
  fenced   : Bool := false
  lastA    : Nat := 7
  lastB    : Nat := 7
  swaps    : Nat := 0
  clean    : Tab Byte := []
  cpoison  : List Nat := []
  dirty    : Tab Dirty := []
  outbound : List Outbound := []
  cq       : List Reply := []
  credits  : Nat := 256
  commands : List Delegated := []
  kick     : BitVec 20 := 0
  requests : List Request := []
  acc      : List Word := []
  apoison  : List Nat := []
  asticky  : BitVec 4 := 0
  array    : List ArrOp := []
  temp     : Int := 0
  droops   : Nat := 0
  dtimes   : List Nat := []
  avoided  : Bool := false
  fuses    : List (Nat × Nat) := []
  awl      : Bool := false
  awlFails : Nat := 0
  deriving DecidableEq, Repr

/-- How a grid stands (R291 to R294). -/
inductive Stage where
  | queued
  | accepted
  | ready
  | placing
  | running
  | completed
  | failed (code : Nat)
  deriving DecidableEq, Repr

/-- One braid that was placed: `staged` are its stores that it has released at braid scope without holding
the ticket, each with its core (R302); its relaunches, whether it is still relaunchable (R350), whether it has
retired, and whether it waits for a relaunch (R349). `steps` are its steps, as (core, slot, lane, count, address),
while it is relaunchable. `kept`: it still staged operations when its context was saved (R315). -/
structure Braid where
  relaunchable : Bool
  kills        : Nat := 0
  retired      : Bool := false
  pending      : Bool := false
  toKill       : Bool := false
  staged       : Tab (Nat × Byte) := []
  steps        : List (Nat × Nat × Nat × Nat × Nat) := []
  kept         : Bool := false
  deriving DecidableEq, Repr

/-- A grid. `record` is the launch record (Table 15-2); `next` the linear index of the next block to be
placed; `barrier` the GBAR releases (R126); `orphan` a copied fault entry (R218); `fail` the first failed
request of an ended cord (R164), `first` the status code of the first of these causes (R294); `owed` what is still
to be written to the completion word; `order` the place in the order of acceptance (R308). -/
structure Grid where
  part    : Nat
  ctx     : Nat
  record  : Nat
  depth   : Nat
  parent  : Option (Nat × Nat)
  stage   : Stage
  waits   : List Bool := []
  next    : Nat := 0
  braids  : Tab Braid := []
  ticket  : Nat := 0
  barrier : Nat := 0
  orphan  : Option Nat := none
  fail    : Option (Nat × Nat × Nat × Nat) := none
  first   : Nat := 0
  owed    : Option Nat := none
  order   : Nat := 0
  cores   : List Nat := []
  deriving DecidableEq, Repr

/-- The life of a context (R313, R314). -/
inductive CtxLife where
  | absent
  | running
  | draining
  | saved
  | reset
  deriving DecidableEq, Repr

/-- The directives of translated code (R290, R396): the width, the strands of a block, V / 8, the lines of scratchpad. -/
structure Shape where
  width   : Nat
  strands : Nat
  vregs   : Nat
  lines   : Nat
  deriving DecidableEq, Repr

/-- A code version (R62, R352, R395): its range, stepping, mode, the registers of its entries' parameter words
(R9), the directives of translated code, whether it is superseded, and the entry of the version that took its place. -/
structure Version where
  base  : Nat
  len   : Nat
  step  : Nat
  intlk : Bool
  consts : List (Nat × List Nat) := []
  shape : Option Shape := none
  superseded : Bool := false
  next  : Option Nat := none
  deriving DecidableEq, Repr

/-- A context. `desc` holds the descriptor entries as 512-bit numbers (R145); `logUsed` are the entries of
the order log that a replay has met (R311), and `early` counts the steps from outside at the words where the context has
not stepped yet, while it records (R310). `removed` are the code versions that are gone, each with its range and the entry of the
version that took its place (R352). `born`: the grids from this number on are those of the context as it was
created last. -/
structure Ctx where
  life     : CtxLife := .absent
  control  : BitVec 128 := 0
  intlk    : Bool := false
  desc     : Tab (BitVec 512) := []
  versions : Tab Version := []
  logPos   : Nat := 0
  logUsed  : List Nat := []
  logFull  : Bool := false
  fatal    : Option (Nat × Nat × Nat) := none
  accepted : Nat := 0
  born     : Nat := 0
  early    : Tab Nat := []
  removed  : List (Nat × Nat × Nat) := []
  deriving DecidableEq, Repr

/-- A ring of the port engines (R369, R384): the context and address of its header. `prod` is the PROD that the
engine read last, and `seen` whether it has read any; `rung`: its doorbell was written, or its poll is due, and PROD is
still to be read; `bad`: the hypervisor has rejected a translation of the engine. -/
structure Ring where
  ctx  : Nat
  addr : Nat
  prod : Nat := 0
  seen : Bool := false
  rung : Bool := false
  bad  : Bool := false
  deriving DecidableEq, Repr

/-- A communicator as COMM_SET brought it (R368, R381). `failed` are its collectives that have failed at a rank of this
device, each with its error: a rank that comes to one later fails as well (R195, R196). -/
structure Comm where
  image  : List DWord
  failed : List (Nat × Nat) := []
  deriving DecidableEq, Repr

/-- A partition (Table 18-11). `sub` are the SUBSTAT words of its doorbell pages (Table 18-1); `queues`
the grids in its launch queues; `submits` the submissions whose record is still to be read, as (context, address)
(R358). -/
structure Part where
  record  : List DWord := []
  enabled : Bool := false
  running : Bool := false
  queues  : List (List Nat) := []
  last    : List Nat := []
  comms   : Tab Comm := []
  rings   : Tab Ring := []
  sub     : Tab DWord := []
  cores   : List Nat := []
  reserved : List Byte := []
  submits : List (Nat × Nat) := []
  deriving DecidableEq, Repr

/-- An entry of a fault buffer (Table 11-5): the record, what waits in it, and the page of `size` bytes from `base` on
that it stands for (R213). -/
structure FaultEntry where
  ctx    : Nat
  va     : Nat
  smask  : Mask
  pc     : Nat
  block  : Nat
  core   : Nat
  cord   : Nat
  stream : Nat
  flag   : Nat
  kind   : Nat
  cause  : Nat
  state  : Nat
  exited : Bool
  src    : WalkSrc
  base   : Nat := 0
  size   : Nat := 0
  deriving DecidableEq, Repr

/-- A translation that is asked for (R211): what for, the PC and the strands that a fault entry names. -/
structure WalkReq where
  src   : WalkSrc
  pc    : Nat
  smask : Mask
  deriving DecidableEq, Repr

/-- A cached translation of a page (R212). `hidden`: the caches that the next accesses meet do not hold it. -/
structure TlbEntry where
  slot  : Nat
  base  : Nat
  size  : Nat
  pa    : Nat
  wr    : Bool
  ex    : Bool
  dirty : Bool
  hidden : Bool := false
  deriving DecidableEq, Repr

/-- A context slot of a die (R377). -/
structure CtxSlot where
  valid : Bool := false
  root  : Nat := 0
  part  : Nat := 0
  ctx   : Nat := 0
  deriving DecidableEq, Repr

/-- A compute die. `bad` are the physical clusters that spares have replaced (R389); `walks` are the translations asked for, `waiting` those that found the fault buffer
full (R215), `reports` the reports not yet in the fault queue, each with its entry, slot and page (R375). -/
structure Die where
  bad     : List Nat := []
  faults  : Tab FaultEntry := []
  reports : List (Nat × Nat × Nat) := []
  walks   : List WalkReq := []
  waiting : List WalkReq := []
  fqBase  : Nat := 0
  fqSize  : Nat := 0
  fqProd  : Nat := 0
  fqCons  : Nat := 0
  invCtx  : Nat := 0
  invVa   : Nat := 0
  invLen  : Nat := 0
  invCmd  : Nat := 0
  slots   : Tab CtxSlot := []
  tlb     : List TlbEntry := []
  pmeas   : Nat := 0
  capeff  : Nat := 5200
  qpeak   : Nat := 0
  fclk    : Nat := 24
  vcore   : Nat := 0
  hostcap : Nat := 5200
  underMs : Nat := 0
  atMin   : Nat := 0
  deriving DecidableEq, Repr

/-- A live paired cell (R244, R281): the doubleword, the owning braid as (grid, braid index), the 8 former
bytes, which of them are poisoned, the bytes written under it, whether observed and by which braids, and the region of a cord that holds it, if one does. -/
structure Cell where
  dw       : Nat
  owner    : Nat × Nat
  former   : List Byte
  fpoison  : List Nat := []
  written  : List Nat := []
  observed : Bool := false
  seen     : List (Nat × Nat) := []
  foreign  : Bool := false
  region   : Option (Nat × Nat) := none
  deriving DecidableEq, Repr

/-- A Frekolink port (Table 18-2). `recent` are the flits and the corrected errors of its latest seconds, the latest first,
from which GRADE is computed (R380). -/
structure Port where
  flits  : DWord := 0
  crccor : DWord := 0
  feccor : DWord := 0
  recov  : DWord := 0
  lost   : DWord := 0
  ctemp  : Nat := 0
  grade  : Nat := 0
  margin : Nat := 0
  up     : Bool := true
  window : Option Nat := none
  recent : List (Nat × Nat) := []
  deriving DecidableEq, Repr

/-- A management event (R371). -/
structure Event where
  kind    : Nat
  subject : Nat
  detail  : Nat := 0
  time    : Nat := 0
  deriving DecidableEq, Repr

/-- What leaves the module: a write to unhomed memory, a delegated command to its owner (R226), a completion or dump sent to the host, an answer
to a read from outside; the announcement of a recovery window to the peer of a port, and of its end (R379); and the signal to the
control cores of a die (R375). -/
inductive Msg where
  | write (pa : Nat) (bytes : List Byte)
  | command (pa op ty : Nat) (val cmp : DWord) (tag : BitVec 16)
  | answer (pa : Nat) (bytes : List Byte)
  | refused (pa : Nat)
  | dump (part ctx : Nat) (bytes : List Byte)
  | signal (die : Nat)
  | recovery (port window : Nat)
  | recovered (port : Nat)
  | i3c (v : DWord)
  | fwRefused
  deriving DecidableEq, Repr

/-- The management block and its processor (Tables 18-8 to 18-10, R361 to R373). `images` are the firmware images
in non-volatile storage and `loaded` those in use (R365); `stored` the stored partition records and `configured` those set since power-on (R366);
`eccLog` are the corrected errors and discarded code lines (R172, R351; log 89);
`maps` are the fuse maps of physical cores with field fuses that carry no logical core (R370);
`fluid`: the table in `inTsat` and `inPoints` is in effect (R372). -/
structure Mgmt where
  bootstat : DWord := 0
  triprec  : DWord := 0
  mbcmd    : DWord := 0
  mbstat   : DWord := 0
  mbbuf    : Mem := []
  tsat     : DWord := 0
  qchf     : List DWord := []
  fluidctl : DWord := 0
  fluid    : Bool := false
  devid    : DWord := 0
  masks    : List DWord := []
  staging  : Mem := []
  images   : Tab (List Byte) := []
  loaded   : Tab (List Byte) := []
  inTsat   : Int := 0
  inPoints : List (Int × Nat) := []
  stored   : Tab (List DWord) := []
  configured : Tab (List DWord) := []
  maps     : Tab (BitVec 36 × BitVec 36) := []
  events   : List Event := []
  dropped  : Nat := 0
  eccLog   : List EccWhere := []
  i3cOff   : Nat := 0
  time     : Nat := 0
  deriving DecidableEq, Repr

/-- Which cord issues, for which strands, at which address, and whether a control core injects the
instruction (R353). -/
structure Sel where
  b        : Nat
  c        : Nat
  lanes    : List Nat
  pc       : DWord
  injected : Bool := false
  deriving DecidableEq, Repr

/-- What the outside world does next: a step of the device, or a firmware form for a suspended cord. -/
structure Input where
  i    : Instr
  cord : Option (Nat × Nat) := none
  deriving DecidableEq, Repr

/-- Who made a step at a word (R310): a context and its cord, given by its block and its number there, or the outside
world. -/
structure Stepper where
  part  : Nat
  ctx   : Nat
  block : Nat
  cord  : Nat
  foreign : Bool := false
  deriving DecidableEq, Repr

/-- The whole device. `last` gives for each word of four bytes the latest step of each context there and of the
outside world, the latest first (R310). `inputs`, `sel`, `free` are the model's own (log 3): what the outside world does
next, which cord the step has chosen, and the counter that free values are applied to. -/
structure State where
  power   : Bool
  mem     : Mem
  poison  : List Nat
  cells   : List Cell
  last    : Tab (List Stepper)
  cores   : Tab CoreSt
  dies    : Tab Die
  blocks  : List Block
  grids   : List Grid
  ctxs    : Tab Ctx
  parts   : Tab Part
  ports   : Tab Port
  mgmt    : Mgmt
  out     : List Msg
  inputs  : List Input
  sel     : Option Sel
  free    : Nat
  deriving DecidableEq, Repr

/-- Why the machine stops. Each is raised by one meaning and is safe: the spec gives no such step. -/
inductive Fault where
  /-- An instruction is asked for while no cord issues it: raised by every encoded instruction run with
  no cord selected, or with one that is not there. Safe: step always selects one. -/
  | noCord
  deriving DecidableEq, Repr

/-- Why a meaning is refused. -/
inductive Refusal where
  /-- The instruction has no meaning yet: raised by its arm of exec. Safe. -/
  | notModelled (mnemonic : String)
  deriving DecidableEq, Repr

/-- The machine right after reset: powered, at stage 0 of start-up, with nothing placed (R385); memory
lists nothing (log 2); every register the spec gives no value for is 0 (log 1). -/
def State.reset : State :=
  { power := true, mem := [], poison := [], cells := [], last := [], cores := [], dies := [], blocks := [],
    grids := [], ctxs := [], parts := [], ports := [], mgmt := {}, out := [], inputs := [],
    sel := none, free := 0 }

end Sys2Proof.Machine
end

