-- ==== Sys2Proof/Machine/Ops.lean ====
section
/-! DEFINITION. The named operations over memory, registers and the parts of the device; taking a trap
and returning from one; and the one way in which an instruction issues. -/

namespace Sys2Proof.Machine
open Sys2Proof

/-! ### Bytes -/

/-- What an unlisted address reads as: 0 (log 2; R153 for a window). -/
def unlisted : Byte := 0

/-- The byte at an address. -/
def memGet : Mem → Nat → Byte
  | [], _ => unlisted
  | (k, b) :: t, a => if k = a then b else memGet t a

/-- Memory with one byte written, in canonical form. -/
def memPut : Mem → Nat → Byte → Mem
  | [], a, x => if x = unlisted then [] else [(a, x)]
  | (k, b) :: t, a, x =>
    if a < k then (if x = unlisted then (k, b) :: t else (a, x) :: (k, b) :: t)
    else if a = k then (if x = unlisted then t else (a, x) :: t)
    else (k, b) :: memPut t a x

/-- The canonical form: addresses strictly rising and above `lo`, no cell as an unlisted address reads. -/
def memWfFrom : Nat → Mem → Bool
  | _, [] => true
  | lo, (k, b) :: t => lo ≤ k && b != unlisted && memWfFrom (k + 1) t

/-- The canonical form of a byte store. -/
def Memory.wf (m : Mem) : Bool := memWfFrom 0 m

/-- n bytes from an address, lowest first. -/
def memRead (m : Mem) (a n : Nat) : List Byte := (List.range n).map (fun i => memGet m (a + i))

/-- Bytes written from an address on, in order. -/
def memWrite : Mem → Nat → List Byte → Mem
  | m, _, [] => m
  | m, a, x :: xs => memWrite (memPut m a x) (a + 1) xs

/-- The little-endian number of some bytes (R4). -/
def leNat : List Byte → Nat
  | [] => 0
  | b :: t => b.toNat + 256 * leNat t

/-- The low n bytes of a number, little-endian (R4). -/
def leBytes : Nat → Nat → List Byte
  | 0, _ => []
  | n + 1, x => BitVec.ofNat 8 x :: leBytes n (x / 256)

/-! ### Tables by number -/

/-- The value at a number. -/
def tabGet {α : Type} : Tab α → Nat → Option α
  | [], _ => none
  | (k, v) :: t, a => if k = a then some v else tabGet t a

/-- A table with one value set, in rising order. -/
def tabPut {α : Type} : Tab α → Nat → α → Tab α
  | [], a, x => [(a, x)]
  | (k, v) :: t, a, x =>
    if a < k then (a, x) :: (k, v) :: t
    else if a = k then (a, x) :: t
    else (k, v) :: tabPut t a x

/-- A table without a number. -/
def tabDel {α : Type} (t : Tab α) (a : Nat) : Tab α := t.filter (fun e => e.1 != a)

/-! ### Parts of the device -/

/-- Die d holds logical cores 160 d to 160 d + 159 (R1). -/
def dieOfCore (core : Nat) : Nat := core / 160

/-- Cluster n holds logical cores 4 n to 4 n + 3 (R1). -/
def clusterOf (core : Nat) : Nat := core / 4

/-- The physical core that carries a logical core while no spare is in use (R1, R370; log 4): 168 physical cores
to a die. -/
def physCore (core : Nat) : Nat := 168 * (core / 160) + core % 160

/-- A core that nothing has touched: its fuses, everything else empty. -/
def freshCore (core : Nat) : CoreSt :=
  { phys := physCore core, mapA := Config.fuseMap (physCore core) 0, mapB := Config.fuseMap (physCore core) 1 }

/-- A logical core. -/
def coreOf (s : State) (core : Nat) : CoreSt := (tabGet s.cores core).getD (freshCore core)

/-- The state with one core replaced. -/
def setCore (s : State) (core : Nat) (c : CoreSt) : State := { s with cores := tabPut s.cores core c }

/-- The state with one core changed. -/
def modCore (s : State) (core : Nat) (f : CoreSt → CoreSt) : State := setCore s core (f (coreOf s core))

/-- A die. -/
def dieOf (s : State) (d : Nat) : Die := (tabGet s.dies d).getD {}

/-- The state with one die changed. -/
def modDie (s : State) (d : Nat) (f : Die → Die) : State :=
  { s with dies := tabPut s.dies d (f (dieOf s d)) }

/-- Where a context of a partition stands in the table of contexts. -/
def ctxKey (part ctx : Nat) : Nat := part * 65536 + ctx

/-- A context. -/
def ctxOf (s : State) (part ctx : Nat) : Ctx := (tabGet s.ctxs (ctxKey part ctx)).getD {}

/-- The state with one context changed. -/
def modCtx (s : State) (part ctx : Nat) (f : Ctx → Ctx) : State :=
  { s with ctxs := tabPut s.ctxs (ctxKey part ctx) (f (ctxOf s part ctx)) }

/-- A partition. -/
def partOf (s : State) (p : Nat) : Part := (tabGet s.parts p).getD {}

/-- The state with one partition changed. -/
def modPart (s : State) (p : Nat) (f : Part → Part) : State :=
  { s with parts := tabPut s.parts p (f (partOf s p)) }

/-- A grid, none past the last. -/
def gridOf (s : State) (g : Nat) : Option Grid := s.grids[g]?

/-- The state with one grid changed. -/
def modGrid (s : State) (g : Nat) (f : Grid → Grid) : State := { s with grids := s.grids.modify g f }

/-- The state with one block changed. -/
def modBlock (s : State) (b : Nat) (f : Block → Block) : State := { s with blocks := s.blocks.modify b f }

/-- A block with one cord changed. -/
def Block.modCord (x : Block) (c : Nat) (f : Cord → Cord) : Block :=
  { x with cords := x.cords.modify c f }

/-- The state with one cord changed. -/
def modCord (s : State) (b c : Nat) (f : Cord → Cord) : State := modBlock s b (fun x => x.modCord c f)

/-- A cord. -/
def cordOf (s : State) (b c : Nat) : Option Cord := (s.blocks[b]?).bind (fun x => x.cords[c]?)

/-- Bits hi..lo of a grid's launch record (Table 15-2). -/
def Grid.field (g : Grid) (hi lo : Nat) : Nat := bits g.record hi lo

/-- The kernel's entry point (Table 15-2). -/
def Grid.entry (g : Grid) : Nat := g.field 56 0

/-- The dimensions of a grid (Table 15-2). -/
def Grid.nbx (g : Grid) : Nat := g.field 479 448
/-- The y dimension. -/
def Grid.nby (g : Grid) : Nat := g.field 495 480
/-- The z dimension. -/
def Grid.nbz (g : Grid) : Nat := g.field 511 496
/-- The block count of a grid (R19). -/
def Grid.blockCount (g : Grid) : Nat := g.nbx * g.nby * g.nbz
/-- The braid size (R18). -/
def Grid.braidSize (g : Grid) : Nat := g.field 563 560
/-- The grid was declared with `.gbar` (R126). -/
def Grid.isGbar (g : Grid) : Bool := bit g.record 566

/-- The grid of a block. -/
def gridOfBlock (s : State) (b : Nat) : Option Grid := (s.blocks[b]?).bind (fun x => gridOf s x.grid)

/-- The control bit n of the context that a grid runs in (Table 15-1). -/
def ctxBit (s : State) (g : Grid) (n : Nat) : Bool := (ctxOf s g.part g.ctx).control.getLsbD n

/-- The block's context is in deterministic mode (R288). -/
def detMode (s : State) (b : Nat) : Bool :=
  match gridOfBlock s b with
  | some g => ctxBit s g 3
  | none => false

/-- The LOG field of a block's context (Table 15-1): 0 neither, 1 record, 2 replay. -/
def logMode (s : State) (b : Nat) : Nat :=
  match gridOfBlock s b with
  | some g => bits (ctxOf s g.part g.ctx).control.toNat 5 4
  | none => 0

/-- A free value, and the counter advanced (log 3). -/
def takeFree (s : State) : DWord × State := (Config.freeWord s.free, { s with free := s.free + 1 })

/-! ### Lanes and registers -/

/-- A set of lanes as a mask (R16). -/
def maskOf (lanes : List Nat) : Mask := lanes.foldl (fun m l => m ||| BitVec.twoPow 64 l) 0

/-- The lanes of a mask, ascending. -/
def lanesOf (m : Mask) : List Nat := (List.range 64).filter (fun l => m.getLsbD l)

/-- A vector register of a strand. -/
def Strand.reg (t : Strand) (r : Nat) : Word := t.v.getD r 0

/-- A predicate of a strand; p0 reads true (R15). -/
def Strand.pred (t : Strand) (n : Nat) : Bool := n == 0 || t.p.getLsbD n

/-- A strand that holds a lane and has not ended. -/
def Strand.live (t : Strand) : Bool := t.present && !t.ended

/-- The strand of a lane. -/
def Cord.lane (c : Cord) (l : Nat) : Strand := c.strands.getD l {}

/-- A scalar register. -/
def Cord.scal (c : Cord) (r : Nat) : Word := c.s.getD r 0

/-- A mask register. -/
def Cord.mask (c : Cord) (n : Nat) : Mask := c.k.getD n 0

/-- The lanes whose strands have not ended, ascending. -/
def Cord.liveLanes (c : Cord) : List Nat :=
  (List.range c.strands.length).filter (fun l => (c.lane l).live)

/-- The cord with one strand changed. -/
def Cord.modLane (c : Cord) (l : Nat) (f : Strand → Strand) : Cord :=
  { c with strands := c.strands.modify l f }

/-- The cord with several strands changed. -/
def Cord.modLanes (c : Cord) (ls : List Nat) (f : Strand → Strand) : Cord :=
  { c with strands := c.strands.mapIdx (fun i t => if ls.contains i then f t else t) }

/-- A predicate written; a write to p0 is discarded (R15). -/
def setPred (p : BitVec 8) (n : Nat) (x : Bool) : BitVec 8 :=
  if n = 0 then p
  else if x then p ||| BitVec.twoPow 8 n else p &&& ~~~(BitVec.twoPow 8 n)

/-- One register written. A mask is first ANDed with the strands that have not ended (R29), which clears
bits W to 63 as well (R16); a strand that has ended discards its results (R112). -/
def applyW (c : Cord) (w : RegW) : Cord :=
  match w with
  | .v l r x => c.modLane l (fun t => if t.ended then t else { t with v := t.v.set r x })
  | .p l n x => c.modLane l (fun t => if t.ended then t else { t with p := setPred t.p n x })
  | .s r x => { c with s := c.s.set r x }
  | .k n x => { c with k := c.k.set n (x &&& maskOf c.liveLanes) }
  | .fp x => { c with fpflags := c.fpflags ||| x }

/-- Registers written, in order. -/
def commit (c : Cord) (ws : List RegW) : Cord := ws.foldl applyW c

/-- The vector registers that some writes name, each once. -/
def vregsOf (ws : List RegW) : List Nat :=
  (ws.filterMap (fun w => match w with
    | .v _ r _ => some r
    | _ => none)).eraseDups

/-- A cord leaves its active slot for the pending set, if it has one (R298, R300). -/
def swapOut (s : State) (b c : Nat) : State :=
  match s.blocks[b]?, cordOf s b c with
  | some x, some y =>
    if y.active.isNone then s
    else modCore (modCord s b c (fun z => { z with active := none, since := (coreOf s x.core).swaps })) x.core
      (fun k => { k with swaps := k.swaps + 1 })
  | _, _ => s

/-! ### Trap records (R325, R326) -/

/-- The 384 bits of a record (Table 17-2). -/
def TrapRec.bits (r : TrapRec) : Nat :=
  r.kind.toNat + r.reason.toNat <<< 2 + r.cause.toNat <<< 16 + r.ret.toNat <<< 64
    + r.detail.toNat <<< 96 + r.pc.toNat <<< 128 + r.endPc.toNat <<< 192 + r.smask.toNat <<< 256
    + r.addr.toNat <<< 320

/-- The record of 384 bits (Table 17-2). -/
def TrapRec.ofBits (x : Nat) : TrapRec :=
  { kind := BitVec.ofNat 2 x, reason := BitVec.ofNat 2 (x >>> 2), cause := BitVec.ofNat 8 (x >>> 16),
    ret := BitVec.ofNat 32 (x >>> 64), detail := BitVec.ofNat 32 (x >>> 96),
    pc := BitVec.ofNat 57 (x >>> 128), endPc := BitVec.ofNat 57 (x >>> 192),
    smask := BitVec.ofNat 64 (x >>> 256), addr := BitVec.ofNat 64 (x >>> 320) }

/-- A record put in its place: after every record whose RET is not larger (R326). -/
def insertRec : List TrapRec → TrapRec → List TrapRec
  | [], r => [r]
  | h :: t, r => if r.ret.toNat < h.ret.toNat then r :: h :: t else h :: insertRec t r

/-- The head record of a cord is under delivery: to its handler, or to its debugger (R329, R330). -/
def Cord.delivering (c : Cord) : Bool := c.handler || c.given

/-- A record put into the queue of a cord; the record under delivery stays at the head (R329, R330). -/
def queueInsert (c : Cord) (r : TrapRec) : List TrapRec :=
  if c.delivering then
    match c.queue with
    | [] => [r]
    | h :: t => h :: insertRec t r
  else insertRec c.queue r

/-- A cause code that reports no fault (R324). -/
def informationalCode (x : BitVec 8) : Bool := x == 0x38 || x == 0x39

/-- The context of a grid takes a fatal error: the first one is kept (R354). -/
def fatalOf (s : State) (g : Grid) (status cause pc : Nat) : State :=
  modCtx s g.part g.ctx (fun x => match x.fatal with
    | some _ => x
    | none => { x with fatal := some (status, cause, pc) })

/-- The context of a block takes a fatal error (R330, R349). -/
def fatal (s : State) (b status cause pc : Nat) : State :=
  match gridOfBlock s b with
  | some g => fatalOf s g status cause pc
  | none => s

/-- The braid of a block is to be killed (R348, R326). -/
def killBraid (s : State) (b : Nat) : State :=
  match s.blocks[b]? with
  | some x => modGrid s x.grid (fun g =>
      match tabGet g.braids x.braid with
      | some r => { g with braids := tabPut g.braids x.braid { r with toKill := true } }
      | none => g)
  | none => s

/-- A record made for a cord (R326): a fault record that finds the queue full kills the braid; an
informational one is dropped and DROP set; a cord that has ended discards it. -/
def queueRec (s : State) (b c : Nat) (r : TrapRec) : State :=
  match cordOf s b c with
  | none => s
  | some x =>
    if x.ended then s
    else if x.queue.length < 8 then modCord s b c (fun y => { y with queue := queueInsert y r })
    else if informationalCode r.cause then modCord s b c (fun y => { y with drop := true })
    else killBraid s b

/-! ### Taking a trap (R324, R329, R330, R337, R344) -/

/-- The KIND 0 record of a precise cause (R325). -/
def preciseRec (cause : Cause) (pc : DWord) (ret : Nat) (lanes : List Nat) (detail addr : Nat) :
    TrapRec :=
  { kind := 0, cause := BitVec.ofNat 8 cause.code, ret := BitVec.ofNat 32 ret,
    detail := BitVec.ofNat 32 detail, pc := pc.setWidth 57, smask := maskOf lanes,
    addr := BitVec.ofNat 64 addr }

/-- A precise trap is taken: TAKING AN EXCEPTION. In the slow gear the re-run has recurred: the region closes with this
record (R344). In a region the trap ends the region, and its record is queued once the region has drained
(R337). Otherwise the record is queued, but in the handler any cause but TRAP and BKPT is a double
fault, fatal to the context (R330), where a region is open once it has drained (log 59). No strand moves until the record is delivered (R329). -/
def takeTrap (s : State) (b c : Nat) (cause : Cause) (pc : DWord) (ret : Nat) (lanes : List Nat)
    (detail addr : Nat) : State :=
  match cordOf s b c with
  | none => s
  | some x =>
    let r := preciseRec cause pc ret lanes detail addr
    match x.region with
    | some g =>
      modCord s b c (fun y => { y with
        region := some { g with ending := some (.trap r) },
        slow := y.slow.map (fun z => { z with closing := true }) })
    | none =>
      if x.handler && cause != .trap && cause != .bkpt then fatal s b 0x0201 cause.code pc.toNat
      else queueRec s b c r

/-- A strand enters the handler (R329): its PC is saved and it moves to the entry of the handler. No clause is in
force there until a header is issued (log 7, DESIGN CHOICE: the spec does not say which header governs a handler
whose entry word is none). -/
def enterHandler (entry : DWord) (t : Strand) : Strand :=
  if t.live && t.park.isNone then
    { t with tret := t.pc, tclause := t.clause, pc := entry, clause := none, entered := true }
  else t

/-- The handler's address: the kernel entry plus 4 HOFF (R327). -/
def handlerEntry (entry : Nat) (trapctl : Word) : DWord :=
  BitVec.ofNat 64 (entry + 4 * bits trapctl.toNat 31 12)

/-- Delivery to the handler (R329). The suspension it asks for is over once the strands have moved. -/
def deliver (entry : Nat) (c : Cord) : Cord :=
  { c with
    handler := true,
    strands := c.strands.map (enterHandler (handlerEntry entry c.trapctl)) }

/-- A strand returns from the handler to its saved PC, or where `skip` gives an address, there (R333): wherever in
the handler it is parked. -/
def leaveHandler (skip : DWord → Option DWord) (t : Strand) : Strand :=
  if t.entered then
    { t with pc := (skip t.tret).getD t.tret, clause := t.tclause, entered := false, park := none }
  else t

/-! ### Regions: what an instruction must find room for (R336) -/

/-- The vector registers of a region's shadow after more registers are to be written, each copied in
every lane before its first write. -/
def shadowRegs (c : Cord) (g : Region) (regs : List Nat) : Region :=
  regs.foldl (fun g r =>
    if (g.vs.map Prod.fst).contains r then g
    else { g with vs := g.vs ++ [(r, c.strands.map (fun t => t.reg r))] }) g

/-- The cells of a region after more doublewords are addressed. -/
def addCells (g : Region) (dws : List Nat) : Region :=
  { g with cells := (g.cells ++ dws).eraseDups }

/-- Whether the region has room for these registers and doublewords (R336, R338). -/
def Region.fits (c : Cord) (g : Region) (regs dws : List Nat) : Bool :=
  (shadowRegs c g regs).vs.length ≤ 32 && (addCells g dws).cells.length ≤ 64

/-! ### Issue -/

/-- An instruction that issues: where, for which strands (active(c)), and its length in bytes. `resume`:
its strands are parked at it and it has issued before; they now pass it. -/
structure Issue where
  b     : Nat
  c     : Nat
  lanes : List Nat
  pc    : DWord
  len   : Nat
  blk   : Block
  cord  : Cord
  injected : Bool
  resume : Option Park
  deriving DecidableEq, Repr

/-- How an instruction of a suspended cord or of parked strands is told from one that issues anew. -/
def resumeOf (c : Cord) (lanes : List Nat) : Option Park :=
  match lanes with
  | [] => none
  | l :: _ => (c.lane l).park

/-- What an instruction does once it has passed decode. `trap`: a precise trap, with its strands, DETAIL
and ADDR; nothing else happens. `wait`: it waits at issue. `ask`: it waits at issue, and asks the device
for something first. `go`: it issues; `regs` are the vector
registers it or its operation writes, `dws` the doublewords its tentative stores address, and `k` its
effect on the state in which its strands already stand at the next instruction. -/
inductive Act where
  | trap (cause : Cause) (lanes : List Nat) (detail addr : Nat)
  | wait
  | ask (k : State → State)
  | go (regs dws : List Nat) (k : State → State)

/-- What decode depends on, for the cord and clause that issue. -/
def decodeCtx (u : Issue) : DecodeCtx :=
  let h := match u.lanes with
    | [] => none
    | l :: _ => (u.cord.lane l).clause
  { V := u.blk.vregs, W := u.blk.width, aval := (h.map Header.aval).getD false,
    bval := (h.map Header.bval).getD false, injected := u.injected }

/-- The flag that a tagged instruction adds to (R55): A or B of its clause. -/
def flagOf (u : Issue) (setf fsel : Bool) : Option Nat :=
  match u.lanes with
  | [] => none
  | l :: _ =>
    match (u.cord.lane l).clause with
    | some h => if setf then some (if fsel then h.flagB.toNat else h.flagA.toNat) else none
    | none => none

/-- One more or one fewer operation outstanding under a flag (R55). -/
def flagUp (c : Cord) (f : Option Nat) : Cord :=
  match f with
  | some n => { c with f := c.f.modify n (· + 1) }
  | none => c

/-- One operation fewer outstanding under a flag (R55). -/
def flagDown (c : Cord) (f : Option Nat) : Cord :=
  match f with
  | some n => { c with f := c.f.modify n (· - 1) }
  | none => c

/-- The issuing strands are marked as served in the round (R27). An injected form does not issue for the round (R353). -/
def markServed (u : Issue) (c : Cord) : Cord :=
  if u.injected then c
  else { c with round := c.round.map (fun e => if u.lanes.contains e.1 then (e.1, true) else e) }

/-- The cord's retired count before the instruction at an address retired (R325): in the slow gear the address may have
been counted in this round, by the step of an earlier strand (R343). -/
def Cord.retBefore (c : Cord) (pc : DWord) : Nat :=
  match c.slow with
  | none => c.retired.toNat
  | some z => c.retired.toNat - (z.counted.length - z.counted.idxOf pc)

/-- Retiring an instruction at issue: its strands stand at the next instruction, %retired and the
region's count advance (R343: in the slow gear once for each address stepped in a round), the strands are
marked as served in the round (R27), what they waited for at issue is over (R307), and the region copies the registers it is about to write (R336). An injected form does none of this (R353). -/
def retire (u : Issue) (regs dws : List Nat) (c : Cord) : Cord :=
  if u.injected then c
  else
    let again := match c.slow with
      | some z => z.counted.contains u.pc
      | none => false
    let n : Nat := if again then 0 else 1
    let c : Cord := { c with
      retired := c.retired + BitVec.ofNat 64 n,
      round := (markServed u c).round,
      full := c.full.filter (fun e => !u.lanes.contains e.1),
      region := c.region.map (fun g =>
        let g : Region := addCells (shadowRegs c g regs) dws
        { g with count := g.count + n, lastPc := u.pc }),
      slow := c.slow.map (fun z => { z with
        counted := (z.counted ++ [u.pc]).eraseDups, served := (z.served ++ u.lanes).eraseDups, step := [] }) }
    c.modLanes u.lanes (fun t => { t with pc := t.pc + BitVec.ofNat 64 u.len })

/-- The region that is open and not already ending is to end before this instruction (Table 17-6); in the slow
gear the strands stop at it (R341). -/
def markEnding (s : State) (u : Issue) : State :=
  modCord s u.b u.c (fun y =>
    match y.slow with
    | some z => { y with slow := some { z with stopped := (z.stopped ++ u.lanes).eraseDups, step := [] } }
    | none => { y with region := y.region.map (fun g => { g with ending := some (g.ending.getD (.instr u.pc)) }) })

/-- What the selection of a step names, if it is there. -/
def issueOf (s : State) (len : Nat) : Option Issue :=
  match s.sel with
  | none => none
  | some x =>
    match s.blocks[x.b]? with
    | none => none
    | some blk =>
      match blk.cords[x.c]? with
      | none => none
      | some cord =>
        some { b := x.b, c := x.c, lanes := x.lanes, pc := x.pc, len := len, blk := blk, cord := cord,
               injected := x.injected, resume := resumeOf cord x.lanes }

/-- The trap of an issuing instruction (R52, R261). The issue serves its group in the round, as one that retires does
(R27, log 108). -/
def trapAt (s : State) (u : Issue) (cause : Cause) (lanes : List Nat) (detail addr : Nat) : State :=
  takeTrap (modCord s u.b u.c (markServed u)) u.b u.c cause u.pc (u.cord.retBefore u.pc) lanes detail addr

/-- How every instruction issues. It passes the decode checks or traps (R52); an instruction that ends
regions first ends the open one (R336); then it traps, waits or goes. An instruction for which the open
region has no room ends the region first. An instruction at which its strands are parked does not issue
again: its body says how they pass it. -/
def issue (i : Instr) (body : Issue → State → Act) (s : State) :
    Host.Outcome State Fault Refusal :=
  match issueOf s i.length with
  | none => .fault .noCord
  | some u =>
    match decodeTrap (decodeCtx u) i with
    | some cause => .next (trapAt s u cause u.lanes 0 0)
    | none =>
      if u.resume.isSome then
        match body u s with
        | .go _ _ k => .next (k s)
        | _ => .next s
      else if endsRegion i && u.cord.region.isSome then .next (markEnding s u)
      else
        match body u s with
        | .trap cause lanes detail addr => .next (trapAt s u cause lanes detail addr)
        | .wait => .next s
        | .ask k => .next (k s)
        | .go regs dws k =>
          if (u.cord.region.map (fun g => g.fits u.cord regs dws)).getD true then
            .next (k (modCord s u.b u.c (retire u regs dws)))
          else .next (markEnding s u)

/-- A cord waits at issue for absent scratchpad lines, each given with its block: it goes to the pending set until
they are present (R158, R300). -/
def awaitLines (u : Issue) (lines : List (Nat × Nat)) : Act :=
  .ask (fun t => swapOut (modCord t u.b u.c (fun c => { c with stall := lines })) u.b u.c)

/-- Strands of an issue have found the staging full before, at this instruction (R307). -/
def foundFull (u : Issue) : Bool :=
  u.lanes.any (fun l => u.cord.full.contains (l, u.pc, u.cord.handler))

/-- A cord waits at issue until its braid holds the ticket (R307). -/
def awaitTicket (u : Issue) : Act :=
  .ask (fun t => modCord t u.b u.c (fun c =>
    { c with full := (c.full ++ u.lanes.map (fun l => (l, u.pc, u.cord.handler))).eraseDups }))

/-- The participants part(c): the issuing strands in which the predicate holds (R49). -/
def partOfPred (u : Issue) (pred : BitVec 3) (pneg : Bool) : List Nat :=
  u.lanes.filter (fun l => (u.cord.lane l).pred pred.toNat != pneg)

/-- The participants of a long form. -/
def participants (u : Issue) (f : LForm) : List Nat := partOfPred u f.pred f.pneg

/-! ### Outstanding register destinations (R57, R61) -/

/-- The registers of one load result (Table 13-4). -/
def destSpan (f : LForm) : List Nat :=
  if f.mod2.toNat % 4 == 3 then [f.d.toNat, f.d.toNat + 1, f.d.toNat + 2, f.d.toNat + 3]
  else if wideTy f.ty then [f.d.toNat, f.d.toNat + 1] else [f.d.toNat]

/-- The registers of a step result. -/
def stepSpan (f : LForm) : List Nat :=
  if wideTy f.ty then [f.d.toNat, f.d.toNat + 1] else [f.d.toNat]

/-- The vector registers that an outstanding operation writes (Table 3-9). -/
def opVecs (o : Op) : List Nat :=
  match o.kind with
  | .queued ws _ => vregsOf (ws ++ o.ws)
  | .load f | .loadC f => destSpan f
  | .cvtsc f _ _ _ => [f.d.toNat]
  | .atom f | .cas f => stepSpan f
  | .cqpop f => [f.d.toNat, f.d.toNat + 1, f.d.toNat + 2]
  | .drain _ d w => (List.range w).map (fun i => d + i)
  | _ => []

/-- The predicates that an outstanding operation writes: pT of CQPOP, pF of TST (R281). -/
def opPreds (o : Op) : List Nat :=
  match o.kind with
  | .cqpop f => [f.c.toNat]
  | .tst f => [f.d.toNat]
  | .queued ws _ => (ws ++ o.ws).filterMap (fun w => match w with
    | .p _ n _ => some n
    | _ => none)
  | _ => []

/-- An operation with a register destination (Table 3-9), which counts TST among those that have none. -/
def opWrites (o : Op) : Bool :=
  match o.kind with
  | .tst _ => false
  | _ => !(opVecs o).isEmpty || !(opPreds o).isEmpty

/-- The register that a write names, as (lane, number), predicates from 256 on. -/
def RegW.key : RegW → Option (Nat × Nat)
  | .v l r _ => some (l, r)
  | .p l n _ => some (l, 256 + n)
  | _ => none

/-- The destination registers of an operation among some that are written. -/
def lateOf (o : Op) (ws : List RegW) : List (Nat × Nat) :=
  (ws.filterMap RegW.key).filter (fun k =>
    o.lanes.contains k.1 && ((opVecs o).contains k.2 || (opPreds o).any (fun n => 256 + n == k.2)))

/-- Registers are written while operations that write them too are outstanding (R57): each but operation `own`
notes them. -/
def noteLate (own : Option Nat) (ws : List RegW) (c : Cord) : Cord :=
  { c with ops := c.ops.map (fun o =>
      if own = some o.id then o else { o with late := (o.late ++ lateOf o ws).eraseDups }) }

/-- Registers written by an instruction at its issue (fixed-latency), while operations may be outstanding (R57). -/
def writeRegs (ws : List RegW) (c : Cord) : Cord := commit (noteLate none ws c) ws

/-- An instruction whose whole effect is to write registers at issue. -/
def goRegs (u : Issue) (ws : List RegW) : Act := .go (vregsOf ws) [] (fun t => modCord t u.b u.c (writeRegs ws))

/-- An operation taken into the cord's outstanding operations, under its flag. -/
def pushOp (c : Cord) (o : Op) : Cord :=
  flagUp { c with ops := c.ops ++ [{ o with id := c.nextOp }], nextOp := c.nextOp + 1 } o.flag

/-- The operation of an instruction that issues, before anything is known of its accesses. -/
def newOp (s : State) (u : Issue) (f : LForm) (lanes : List Nat) (kind : OpKind) (accs : List Acc) :
    Op :=
  { id := 0, kind := kind, flag := flagOf u f.setf f.fsel, pc := u.pc, ret := u.cord.retBefore u.pc,
    seq := (coreOf s u.blk.core).seq, lanes := lanes, accs := accs, region := u.cord.region.isSome,
    handler := u.cord.handler }

/-- An operation is taken by the cord, and the core counts it among what it has issued. -/
def addOp (s : State) (u : Issue) (o : Op) : State :=
  modCore (modCord s u.b u.c (fun c => pushOp c o)) u.blk.core (fun x => { x with seq := x.seq + 1 })

/-- An instruction whose effect is an operation that completes later; with no participant it has no
effect and its flag is set and cleared (R55, R261). -/
def goOp (u : Issue) (regs dws : List Nat) (o : Op) : Act :=
  if o.lanes.isEmpty then .go [] [] id else .go regs dws (fun t => addOp t u o)

/-- An outstanding operation. -/
def opOf (c : Cord) (id : Nat) : Option Op := c.ops.find? (fun o => o.id == id)

/-- A cord with one operation changed. -/
def modOp (c : Cord) (id : Nat) (f : Op → Op) : Cord :=
  { c with ops := c.ops.map (fun o => if o.id == id then f o else o) }

/-- The writes of an operation that still count (R57): a register that keeps a later instruction's value is left
out. -/
def Op.kept (o : Op) (ws : List RegW) : List RegW :=
  ws.filter (fun w => !((w.key.map o.keep.contains).getD false))

/-- Results of an operation reach its registers, or where they arrive one by one wait for that (R57). -/
def writeOp (c : Cord) (o : Op) (ws : List RegW) : Cord :=
  if o.piece then modOp c o.id (fun p => { p with ws := p.ws ++ ws })
  else commit (noteLate (some o.id) (o.kept ws) c) (o.kept ws)

/-- An operation is complete: its registers are written, its flag falls, and it is no longer outstanding
(R55). -/
def completeOp (c : Cord) (o : Op) (ws : List RegW) : Cord :=
  let c := commit (noteLate (some o.id) (o.kept ws) c) (o.kept ws)
  flagDown { c with ops := c.ops.filter (fun x => x.id != o.id) } o.flag

/-! ### Parking, release and end -/

/-- Strands park at the instruction that issues (R26); its flag, if it has one, falls when the last of
them passes it (R55, R177). -/
def parkLanes (u : Issue) (flag : Option Nat) (ret : Nat) (lanes : List Nat) (p : Park) (c : Cord) :
    Cord :=
  let c := c.modLanes lanes (fun t => { t with park := some p, pc := u.pc })
  match flag with
  | none => c
  | some _ => if lanes.isEmpty then c else
      pushOp c { id := 0, kind := .held, flag := flag, pc := u.pc, ret := ret, seq := 0, lanes := lanes }

/-- The tags of held instructions after some strands have passed: a tag whose last strand has passed
lowers its flag (R55). -/
def passTags (c : Cord) (lanes : List Nat) : Cord :=
  let ops := c.ops.map (fun o => if o.kind == .held then
    { o with lanes := o.lanes.filter (fun l => !lanes.contains l) } else o)
  let done := ops.filter (fun o => o.kind == .held && o.lanes.isEmpty)
  done.foldl (fun c o => flagDown c o.flag)
    { c with ops := ops.filter (fun o => !(o.kind == .held && o.lanes.isEmpty)) }

/-- The open region keeps the records that an instruction of it removes from the queue, for a withdrawal (R345). -/
def keepPopped (c : Cord) (rs : List TrapRec) (delivered : Bool) (g : Region) : Region :=
  { g with popped := g.popped ++ rs.map (fun r => (r, delivered && g.handler && c.handler && !g.popped.any Prod.snd)) }

/-- Return from the handler: the record under delivery is removed and every strand that entered returns
(R333); what was parked in the handler passes its tag. `skip l pc` is where lane l returns to instead of pc. -/
def returnFromTrap (skip : Nat → DWord → Option DWord) (c : Cord) : Cord :=
  let parked := c.liveLanes.filter (fun l => (c.lane l).entered && (c.lane l).park.isSome)
  passTags { c with
    handler := false, queue := c.queue.tail, region := c.region.map (keepPopped c (c.queue.take 1) true),
    strands := c.strands.mapIdx (fun l t => leaveHandler (skip l) t) } parked

/-- Parked strands pass their instruction, `len` bytes long. -/
def passLanes (len : Nat) (lanes : List Nat) (c : Cord) : Cord :=
  passTags (c.modLanes lanes (fun t => { t with park := none, pc := t.pc + BitVec.ofNat 64 len })) lanes

/-- The strands parked in one way. -/
def Cord.parkedAt (c : Cord) (p : Park) : List Nat :=
  c.liveLanes.filter (fun l => (c.lane l).park == some p)

/-- The release check of R30 for one mask: when every strand whose bit is set is parked at a WAITM on it,
every strand parked there is released (R116). A WAITM has 8 bytes. -/
def checkWaitm (c : Cord) (k : Nat) : Cord :=
  if c.liveLanes.all (fun l => !(c.mask k).getLsbD l || (c.lane l).park == some (.waitm k)) then
    passLanes 8 (c.parkedAt (.waitm k)) c
  else c

/-- The release checks of all twelve masks. -/
def checkMasks (c : Cord) : Cord := (List.range 12).foldl checkWaitm c

/-- A mask register written, with the release check (R29, R30). -/
def writeMask (c : Cord) (k : Nat) (x : Mask) : Cord := checkWaitm (applyW c (.k k x)) k

/-- Strands take a phase boundary: their later accesses follow their earlier ones (R230, pb). -/
def boundary (lanes : List Nat) (c : Cord) : Cord :=
  c.modLanes lanes (fun t => { t with epoch := t.epoch + 1 })

/-- A strand of a core takes a phase boundary: what its strands issued before lies below `bcut`, and where a FENCE.P
has passed the snapshot is dropped, since what the boundary orders after itself follows what the fence waited for
(R230, pf and pb). -/
def coreBoundary (s : State) (core : Nat) : State :=
  modCore s core (fun k =>
    if k.fenced then { k with bcut := k.seq, fenced := false, clean := [], cpoison := [] } else { k with bcut := k.seq })

/-- The release of a block barrier (R124): when every strand of the block that has not ended is parked at
BAR of one id, all are released with a block-scope boundary, which %phase counts (R232). -/
def checkBar (s : State) (b : Nat) : State :=
  match s.blocks[b]? with
  | none => s
  | some x =>
    let ids : List (Option Park) := (x.cords.flatMap (fun c => c.liveLanes.map (fun l => (c.lane l).park))).eraseDups
    match ids with
    | [some (.bar n)] =>
      coreBoundary (modCore
        (modBlock s b (fun y => { y with
          epoch := y.epoch + 1,
          cords := y.cords.map (fun c =>
            let ls := c.parkedAt (.bar n)
            passLanes 8 ls (boundary ls c)) }))
        x.core (fun k => { k with phase := k.phase + 1 })) x.core
    | _ => s

/-- The entries of a die's fault buffer that belong to a cord are marked as those of an ended one (R218). -/
def markExited (d : Die) (s : State) (b c : Nat) : Die :=
  let mine (w : WalkSrc) : Bool := match w with
    | .op b' c' _ _ => b' == b && c' == c
    | .eng core r _ => (coreOf s core).requests.any (fun q => q.n == r && q.block == b && q.cord == c)
    | .array core _ => ((coreOf s core).array.head?.map (fun o => o.block == b && o.cord == c)).getD false
    | _ => false
  { d with faults := d.faults.map (fun e => if mine e.2.src then (e.1, { e.2 with exited := true }) else e) }

/-- A late cause of an ended cord goes into the status of its grid, which keeps the first (R164, R294). -/
def failOfEnded (s : State) (x : Block) (pc code detail : Nat) : State :=
  modGrid s x.grid (fun g => { g with
    fail := some (g.fail.getD (pc, x.index, code, detail)), first := if g.first = 0 then 0x0206 else g.first })

/-- A late cause that its cord has not recorded before its end goes into the status of its grid (R164). -/
def lateOfEnded (s : State) (b : Nat) (r : Report) : State :=
  match s.blocks[b]? with
  | some x => failOfEnded s x r.pc.toNat r.cause.code r.detail
  | none => s

/-- The late causes that a cord has not recorded when it ends go into the status of its grid (R164). -/
def endLates (s : State) (b c : Nat) : State :=
  match cordOf s b c with
  | some x => modCord (x.lates.foldl (fun s r => lateOfEnded s b r) s) b c (fun y => { y with lates := [] })
  | none => s

/-- Strands end (R23, R112): they leave every mask, count as arrived at every barrier and drop their
references; a cord whose last strand ends discards its trap queue and its replies (R228, R326), and its late causes go to
its grid (R164). -/
def endStrands (s : State) (b c : Nat) (lanes : List Nat) : State :=
  let s := modCord s b c (fun x =>
    let x := passTags (x.modLanes lanes (fun t => { t with ended := true, park := none, refs := [] }))
      lanes
    let x : Cord := { x with k := x.k.map (fun m => m &&& maskOf x.liveLanes) }
    let x := checkMasks x
    if x.liveLanes.isEmpty then { x with ended := true, queue := [] } else x)
  let s := match s.blocks[b]?, cordOf s b c with
    | some blk, some x =>
      if x.ended then
        modDie
          (modCore (endLates s b c) blk.core (fun k =>
            let mine (r : Reply) : Bool := r.block == b && r.cord == c
            { k with
              cq := k.cq.filter (fun r => !mine r),
              credits := k.credits + (k.cq.filter mine).length }))
          (dieOfCore blk.core) (fun d => markExited d s b c)
      else s
    | _, _ => s
  checkBar s b

/-- Two reports name one cause of one instruction (Table 17-2: SMASK holds the strands concerned). -/
def sameReport (q r : Report) : Bool :=
  q.pc == r.pc && q.ret == r.ret && q.cause == r.cause && q.detail == r.detail && q.region == r.region
    && q.handler == r.handler

/-- Two such reports as one, with the address of the lowest strand (log entry 51). -/
def joinReports (q r : Report) : Report :=
  { q with lanes := q.lanes ++ r.lanes, addr := if r.lanes.headD 0 < q.lanes.foldl min 64 then r.addr else q.addr }

/-- The instruction of a report has completed in every strand, so that the report names them all. -/
def reportDue (c : Cord) (r : Report) : Bool := c.ops.all (fun o => o.pc != r.pc || o.ret != r.ret)

/-- A report on its way to a cord (R339). -/
def addReport (c : Cord) (r : Report) : Cord :=
  if c.reports.any (fun q => sameReport q r) then
    { c with reports := c.reports.map (fun q => if sameReport q r then joinReports q r else q) }
  else { c with reports := c.reports ++ [r] }

end Sys2Proof.Machine
end

