-- ==== Sys2Proof/Machine/Flags.lean ====
section
/-! DEFINITION. The flags an instruction can raise or count: the sticky float flags of %fpflags (Table 7-5),
and the completion flags of a cord (R55) as WAIT reads them. -/

namespace Sys2Proof.Machine
open Sys2Proof

/-- Invalid (Table 7-5). -/
def fNV : FpFlags := 1
/-- Divide by zero. -/
def fDZ : FpFlags := 2
/-- Overflow. -/
def fOF : FpFlags := 4
/-- Underflow. -/
def fUF : FpFlags := 8
/-- Inexact. -/
def fNX : FpFlags := 16

/-- A flag where a condition holds. -/
def flagIf (b : Bool) (f : FpFlags) : FpFlags := if b then f else 0

/-- A completion flag is busy while an operation under it is outstanding (R55). -/
def flagBusy (c : Cord) (n : Nat) : Bool := c.f.getD n 0 != 0

/-- Whether every flag that a WAIT field names is clear (R56). In interlocked mode a flag waits only for
operations without a register destination (R61): `counts n` is how many of the operations under fn count. -/
def waitClear (counts : Nat → Nat) (wait : BitVec 12) : Bool :=
  (List.range 12).all (fun n => !wait.getLsbD n || counts n == 0)

/-- The carry out of x + y + ci in 32 bits (R84). -/
def carryOut (x y : Word) (ci : Bool) : Bool := 2 ^ 32 ≤ x.toNat + y.toNat + ci.toNat

/-- The borrow out of x - y - bi in 32 bits (R84). -/
def borrowOut (x y : Word) (bi : Bool) : Bool := x.toNat < y.toNat + bi.toNat

end Sys2Proof.Machine
end

