-- ==== Sys2Proof/Machine/Float.lean ====
section
/-! DEFINITION. The float formats (R135, R136), exact rounding (R142) and the float arithmetic of R91 to R94.
A real is held exactly, as a sign and a fraction of two naturals, and rounded once. -/

namespace Sys2Proof.Machine
open Sys2Proof

/-- A float format (Table 7-1): fraction bits, exponent bits and bias. `inf`: the all-ones exponent holds
infinity and NaN. `nan`: a NaN exists at all; in E4M3 only the all-ones encoding is one (R136). -/
structure Fmt where
  m    : Nat
  e    : Nat
  bias : Nat
  inf  : Bool
  nan  : Bool
  deriving DecidableEq, Repr

def fp32 : Fmt := { m := 23, e := 8, bias := 127, inf := true, nan := true }
def fp16 : Fmt := { m := 10, e := 5, bias := 15, inf := true, nan := true }
def bf16 : Fmt := { m := 7, e := 8, bias := 127, inf := true, nan := true }
def e5m2 : Fmt := { m := 2, e := 5, bias := 15, inf := true, nan := true }
def e4m3 : Fmt := { m := 3, e := 4, bias := 7, inf := false, nan := true }

/-- Width in bits. -/
def Fmt.width (F : Fmt) : Nat := 1 + F.e + F.m

/-- The exponent field of all ones. -/
def Fmt.ones (F : Fmt) : Nat := 2 ^ F.e - 1

/-- The encoding with these fields. -/
def Fmt.mk' (F : Fmt) (neg : Bool) (ex fr : Nat) : Nat := neg.toNat * 2 ^ (F.e + F.m) + ex * 2 ^ F.m + fr

/-- The default NaN (Table 7-1); a format without NaN has none and never needs one. -/
def Fmt.defaultNaN (F : Fmt) : Nat :=
  if F.inf then F.mk' false F.ones (2 ^ (F.m - 1)) else F.mk' false F.ones (2 ^ F.m - 1)

/-- Infinity of a sign; in E4M3, which has none, the NaN of that sign (Table 4-8). -/
def Fmt.infinity (F : Fmt) (neg : Bool) : Nat :=
  if F.inf then F.mk' neg F.ones 0 else F.mk' neg F.ones (2 ^ F.m - 1)

/-- The largest finite value of a sign (Table 7-1). -/
def Fmt.largest (F : Fmt) (neg : Bool) : Nat :=
  if F.inf then F.mk' neg (F.ones - 1) (2 ^ F.m - 1)
  else if F.nan then F.mk' neg F.ones (2 ^ F.m - 2)
  else F.mk' neg F.ones (2 ^ F.m - 1)

/-- The exponent of the smallest normal. -/
def Fmt.emin (F : Fmt) : Int := 1 - (F.bias : Int)

/-- A decoded value: NaN, an infinity, or (-1)^neg × n / d. -/
inductive FVal where
  | nan
  | inf (neg : Bool)
  | fin (neg : Bool) (n d : Nat)
  deriving DecidableEq, Repr

/-- m × 2^x as a fraction. -/
def scale2 (m : Nat) (x : Int) : Nat × Nat :=
  if 0 ≤ x then (m * 2 ^ x.toNat, 1) else (m, 2 ^ (-x).toNat)

/-- The value of an encoding (R136). -/
def Fmt.decode (F : Fmt) (x : Nat) : FVal :=
  let fr := x % 2 ^ F.m
  let ex := x / 2 ^ F.m % 2 ^ F.e
  let neg := x.testBit (F.e + F.m)
  if ex = 0 then
    let v := scale2 fr (F.emin - F.m)
    .fin neg v.1 v.2
  else if F.inf && ex = F.ones then (if fr = 0 then .inf neg else .nan)
  else if F.nan && !F.inf && ex = F.ones && fr = 2 ^ F.m - 1 then .nan
  else
    let v := scale2 (2 ^ F.m + fr) ((ex : Int) - F.bias - F.m)
    .fin neg v.1 v.2

/-- The floor of log2 (n / d), for n and d above 0. -/
def floorLog2 (n d : Nat) : Int :=
  let k : Int := (Nat.log2 n : Int) - Nat.log2 d
  let v := scale2 d k
  if v.1 ≤ n * v.2 then k else k - 1

/-- n / d rounded to an integer in a mode: 0 nearest even, 1 toward zero, 2 up, 3 down (R91). `more`: the
true magnitude lies above n / d by less than any neighbour matters. Also whether that is inexact. -/
def roundInt (n d : Nat) (more : Bool) (mode : Nat) (neg : Bool) : Nat × Bool :=
  let q := n / d
  let r := n % d
  let inexact := r != 0 || more
  let up := match mode with
    | 0 => d < 2 * r || (2 * r == d && (more || q % 2 == 1))
    | 1 => false
    | 2 => !neg && inexact
    | _ => neg && inexact
  (if up then q + 1 else q, inexact)

/-- n / d divided by 2^x, as a fraction. -/
def downscale (n d : Nat) (x : Int) : Nat × Nat :=
  if 0 ≤ x then (n, d * 2 ^ x.toNat) else (n * 2 ^ (-x).toNat, d)

/-- What becomes of a value beyond the largest finite one (R142): arithmetic (R91), or a conversion that
saturates or wraps (Table 4-8). -/
inductive Beyond where
  | arith
  | saturate
  | wrap
  deriving DecidableEq, Repr

/-- The result beyond the largest finite value. -/
def Fmt.beyond (F : Fmt) (mode : Nat) (p : Beyond) (neg : Bool) : Nat :=
  match p with
  | .saturate => F.largest neg
  | .wrap => F.infinity neg
  | .arith =>
    let toInf := match mode with
      | 0 => true
      | 1 => false
      | 2 => !neg
      | _ => neg
    if toInf then F.infinity neg else F.largest neg

/-- rnd (R142): (-1)^neg × n / d, or slightly more where `more`, rounded to F, and the flags it raises. -/
def Fmt.round (F : Fmt) (mode : Nat) (p : Beyond) (neg : Bool) (n d : Nat) (more : Bool) :
    Nat × FpFlags :=
  if n = 0 then (F.mk' neg 0 0, 0)
  else
    let e := floorLog2 n d
    let lo : Int := if e < F.emin then F.emin else e
    let v := downscale n d (lo - F.m)
    let r := roundInt v.1 v.2 more mode neg
    let u := downscale n d (e - F.m)
    let w := roundInt u.1 u.2 more mode neg
    let tiny : Bool := e < F.emin && (e + 1 < F.emin || w.1 < 2 ^ (F.m + 1))
    let carry : Bool := r.1 == 2 ^ (F.m + 1)
    let mant := if carry then 2 ^ F.m else r.1
    let ex : Int := if carry then lo + 1 else lo
    let field : Nat := if mant < 2 ^ F.m then 0 else (ex + F.bias).toNat
    let code := F.mk' false field (mant % 2 ^ F.m)
    if F.largest false < code then (F.beyond mode p neg, fOF ||| fNX)
    else (F.mk' neg field (mant % 2 ^ F.m), flagIf r.2 fNX ||| flagIf (tiny && r.2) fUF)

/-- A NaN result (R91). -/
def Fmt.nanResult (F : Fmt) (fl : FpFlags) : Nat × FpFlags := (F.defaultNaN, fl)

/-- The sum of two values, exact: NaN where a NaN or ∞ − ∞ enters, with invalid for the latter. A zero sum
is −0 only when both are −0, or under .rd (R91). -/
def addVal (mode : Nat) (x y : FVal) : FVal × FpFlags :=
  match x, y with
  | .nan, _ => (.nan, 0)
  | _, .nan => (.nan, 0)
  | .inf a, .inf b => if a = b then (.inf a, 0) else (.nan, fNV)
  | .inf a, .fin _ _ _ => (.inf a, 0)
  | .fin _ _ _, .inf b => (.inf b, 0)
  | .fin sx nx dx, .fin sy ny dy =>
    let a := nx * dy
    let b := ny * dx
    let d := dx * dy
    if sx = sy then (.fin sx (a + b) d, 0)
    else if a = b then (.fin (mode == 3) 0 1, 0)
    else if b < a then (.fin sx (a - b) d, 0)
    else (.fin sy (b - a) d, 0)

/-- The product of two values, exact. -/
def mulVal (x y : FVal) : FVal × FpFlags :=
  match x, y with
  | .nan, _ => (.nan, 0)
  | _, .nan => (.nan, 0)
  | .inf a, .inf b => (.inf (a != b), 0)
  | .inf a, .fin b n _ => if n = 0 then (.nan, fNV) else (.inf (a != b), 0)
  | .fin a n _, .inf b => if n = 0 then (.nan, fNV) else (.inf (a != b), 0)
  | .fin a nx dx, .fin b ny dy => (.fin (a != b) (nx * ny) (dx * dy), 0)

/-- The quotient of two values, exact, with the flags of IEEE for its special inputs (R96). -/
def divVal (x y : FVal) : FVal × FpFlags :=
  match x, y with
  | .nan, _ => (.nan, 0)
  | _, .nan => (.nan, 0)
  | .inf _, .inf _ => (.nan, fNV)
  | .inf a, .fin b _ _ => (.inf (a != b), 0)
  | .fin a _ _, .inf b => (.fin (a != b) 0 1, 0)
  | .fin a nx dx, .fin b ny dy =>
    if ny = 0 then (if nx = 0 then (.nan, fNV) else (.inf (a != b), fDZ))
    else (.fin (a != b) (nx * dy) (dx * ny), 0)

/-- A value with its sign turned. -/
def negVal : FVal → FVal
  | .nan => .nan
  | .inf s => .inf (!s)
  | .fin s n d => .fin (!s) n d

/-- A value rounded to F under the rules of arithmetic (R91), with the flags it adds. -/
def Fmt.arith (F : Fmt) (mode : Nat) (v : FVal × FpFlags) : Nat × FpFlags :=
  match v.1 with
  | .nan => F.nanResult v.2
  | .inf s => (F.infinity s, v.2)
  | .fin s n d =>
    let r := F.round mode .arith s n d false
    (r.1, r.2 ||| v.2)

/-- FADD on one element. -/
def Fmt.add (F : Fmt) (mode x y : Nat) : Nat × FpFlags :=
  F.arith mode (addVal mode (F.decode x) (F.decode y))

/-- FSUB on one element: x + (−y). -/
def Fmt.sub (F : Fmt) (mode x y : Nat) : Nat × FpFlags :=
  F.arith mode (addVal mode (F.decode x) (negVal (F.decode y)))

/-- FMUL on one element. -/
def Fmt.mul (F : Fmt) (mode x y : Nat) : Nat × FpFlags := F.arith mode (mulVal (F.decode x) (F.decode y))

/-- FFMA on one element: the product 0 · ∞ raises invalid whatever the addend (R91). -/
def Fmt.fma (F : Fmt) (mode x y z : Nat) : Nat × FpFlags :=
  let p := mulVal (F.decode x) (F.decode y)
  let r := addVal mode p.1 (F.decode z)
  F.arith mode (r.1, p.2 ||| r.2)

/-- x ≤ y among values that are not NaN, −0 and +0 equal. -/
def leVal : FVal → FVal → Bool
  | .nan, _ => false
  | _, .nan => false
  | .inf a, .inf b => a || !b
  | .inf a, .fin _ _ _ => a
  | .fin _ _ _, .inf b => !b
  | .fin sx nx dx, .fin sy ny dy =>
    let x := nx * dy
    let y := ny * dx
    match sx, sy with
    | false, false => x ≤ y
    | false, true => x == 0 && y == 0
    | true, false => true
    | true, true => y ≤ x

/-- The sign of a value. -/
def FVal.neg : FVal → Bool
  | .nan => false
  | .inf s => s
  | .fin s _ _ => s

/-- x below y where −0 lies below +0 (R92). -/
def belowVal (x y : FVal) : Bool := leVal x y && !(leVal y x && (!x.neg || y.neg))

/-- FMIN on one element (R92). -/
def Fmt.min (F : Fmt) (x y : Nat) : Nat :=
  match F.decode x, F.decode y with
  | .nan, .nan => F.defaultNaN
  | .nan, _ => y
  | _, .nan => x
  | a, b => if belowVal b a then y else x

/-- FMAX on one element (R92). -/
def Fmt.max (F : Fmt) (x y : Nat) : Nat :=
  match F.decode x, F.decode y with
  | .nan, .nan => F.defaultNaN
  | .nan, _ => y
  | _, .nan => x
  | a, b => if belowVal a b then y else x

/-- FSAT on one element (R92). -/
def Fmt.sat (F : Fmt) (x : Nat) : Nat :=
  match F.decode x with
  | .nan => 0
  | .inf s => if s then 0 else F.mk' false F.bias 0
  | .fin s n d => if s || n == 0 then 0 else if d ≤ n then F.mk' false F.bias 0 else x

/-- The condition of FCMP and its flags (R93). -/
def fcmp (cond : Nat) (x y : FVal) : Bool × FpFlags :=
  let un := x == .nan || y == .nan
  let le := leVal x y
  let ge := leVal y x
  let r := match cond with
    | 0 => !un && le && ge
    | 1 => un || !(le && ge)
    | 2 => !un && le && !ge
    | 3 => !un && le
    | 4 => !un && ge && !le
    | 5 => !un && ge
    | 6 => un
    | _ => !un
  (r, flagIf (un && 2 ≤ cond && cond ≤ 5) fNV)

/-- The class bit of an encoding (R94). -/
def Fmt.classBit (F : Fmt) (x : Nat) : Nat :=
  match F.decode x with
  | .nan => 8
  | .inf s => if s then 0 else 7
  | .fin s n _ =>
    if n = 0 then (if s then 3 else 4)
    else if x / 2 ^ F.m % 2 ^ F.e = 0 then (if s then 2 else 5)
    else (if s then 1 else 6)

/-- The float format of type codes 3, 6, 7, 8, 9 (Table 3-5). -/
def fmtOf (ty : Nat) : Fmt :=
  match ty with
  | 6 => fp16
  | 7 => bf16
  | 8 => e4m3
  | 9 => e5m2
  | _ => fp32

end Sys2Proof.Machine
end

