-- ==== Sys2Proof/Machine/Special.lean ====
section
/-! DEFINITION. The functions of the special-function queue (R96, Table 4-7). An irrational value is formed in
fixed point far beyond the point where rounding is decided (log 11) and then rounded once, marked as lying
strictly between two representable values. -/

namespace Sys2Proof.Machine
open Sys2Proof

/-- Fraction bits of the fixed-point work. -/
def fxBits : Nat := 640

/-- 1.0 in fixed point. -/
def fxOne : Nat := 2 ^ fxBits

/-- The integer square root, by Newton steps from above. -/
def isqrtFrom : Nat → Nat → Nat → Nat
  | 0, _, g => g
  | k + 1, n, g =>
    let h := (g + n / g) / 2
    if h < g then isqrtFrom k n h else g

/-- The floor of the square root. -/
def isqrt (n : Nat) : Nat :=
  if n = 0 then 0 else isqrtFrom (Nat.log2 n + 8) n (2 ^ (Nat.log2 n / 2 + 1))

/-- z + z^3/3 + z^5/5 + … (or with alternating signs) of a small z: `t` is the current odd power. -/
def oddSeries (alt : Bool) (z2 : Nat) : Nat → Nat → Nat → Int → Bool → Int
  | 0, _, _, acc, _ => acc
  | k + 1, t, j, acc, plus =>
    let term : Int := (t / j : Nat)
    let acc := if plus then acc + term else acc - term
    oddSeries alt z2 k (t * z2 / fxOne) (j + 2) acc (if alt then !plus else plus)

/-- atan (1 / q) in fixed point. -/
def atanInv (q : Nat) : Nat :=
  (oddSeries true (fxOne / (q * q)) 320 (fxOne / q) 1 0 true).toNat

/-- π in fixed point, by Machin's sum. -/
def fxPi : Nat := 16 * atanInv 5 - 4 * atanInv 239

/-- atanh z in fixed point, for z up to 1/3. -/
def fxAtanh (z : Nat) : Nat := (oddSeries false (z * z / fxOne) 420 z 1 0 true).toNat

/-- ln 2 in fixed point. -/
def fxLn2 : Nat := 2 * fxAtanh (fxOne / 3)

/-- 1 + r + r^2/2! + … in fixed point. -/
def expSeries (r : Nat) : Nat → Nat → Nat → Nat → Nat
  | 0, _, _, acc => acc
  | k + 1, t, j, acc =>
    let t := t * r / fxOne / j
    expSeries r k t (j + 1) (acc + t)

/-- e^r in fixed point, for r below 1. -/
def fxExp (r : Nat) : Nat := expSeries r 160 fxOne 1 fxOne

/-- The alternating series of sine (`j` = 2, t = r) or cosine (`j` = 1, t = 1) in fixed point. -/
def sinSeries (r2 : Nat) : Nat → Nat → Nat → Int → Bool → Int
  | 0, _, _, acc, _ => acc
  | k + 1, t, j, acc, plus =>
    let acc := if plus then acc + (t : Int) else acc - (t : Int)
    sinSeries r2 k (t * r2 / fxOne / (j * (j + 1))) (j + 2) acc (!plus)

/-- sin r in fixed point, for r up to π/2. -/
def fxSin (r : Nat) : Nat := (sinSeries (r * r / fxOne) 110 r 2 0 true).toNat

/-- cos r in fixed point, for r up to π/2. -/
def fxCos (r : Nat) : Nat := (sinSeries (r * r / fxOne) 110 fxOne 1 0 true).toNat

/-- An irrational value in fixed point, rounded to nearest even (R96). -/
def Fmt.roundFx (F : Fmt) (neg : Bool) (x : Nat) : Nat × FpFlags := F.round 0 .arith neg x fxOne true

/-- sin (`cosine` false) or cos of a finite nonzero value: the argument is reduced by multiples of π/2. -/
def Fmt.sinCos (F : Fmt) (cosine : Bool) (neg : Bool) (n d : Nat) : Nat × FpFlags :=
  let x := n * fxOne / d
  let half := fxPi / 2
  let k := x / half
  let r := x % half
  let q := (if cosine then k + 1 else k) % 4
  let odd := q % 2 == 1
  -- sin (x + q π/2) with the sign of x for sine; cosine is even
  let v := if odd then fxCos r else fxSin r
  let s := q / 2 == 1
  F.roundFx (if cosine then s else (s != neg)) v

/-- sin x (Table 4-7). -/
def Fmt.sin (F : Fmt) (x : Nat) : Nat × FpFlags :=
  match F.decode x with
  | .nan => F.nanResult 0
  | .inf _ => F.nanResult fNV
  | .fin s n d => if n = 0 then (F.mk' s 0 0, 0) else F.sinCos false s n d

/-- cos x (Table 4-7). -/
def Fmt.cos (F : Fmt) (x : Nat) : Nat × FpFlags :=
  match F.decode x with
  | .nan => F.nanResult 0
  | .inf _ => F.nanResult fNV
  | .fin s n d => if n = 0 then (F.mk' false F.bias 0, 0) else F.sinCos true s n d

/-- 1 / x (Table 4-7). -/
def Fmt.rcp (F : Fmt) (mode x : Nat) : Nat × FpFlags :=
  F.arith mode (divVal (.fin false 1 1) (F.decode x))

/-- √x (Table 4-7), in a rounding mode. -/
def Fmt.sqrt (F : Fmt) (mode x : Nat) : Nat × FpFlags :=
  match F.decode x with
  | .nan => F.nanResult 0
  | .inf s => if s then F.nanResult fNV else (F.infinity false, 0)
  | .fin s n d =>
    if n = 0 then (F.mk' s 0 0, 0)
    else if s then F.nanResult fNV
    else
      let v := n * 4 ^ 320 / d
      let q := isqrt v
      F.round mode .arith false q (2 ^ 320) (q * q * d != n * 4 ^ 320)

/-- 1 / √x (Table 4-7). -/
def Fmt.rsq (F : Fmt) (x : Nat) : Nat × FpFlags :=
  match F.decode x with
  | .nan => F.nanResult 0
  | .inf s => if s then F.nanResult fNV else (F.mk' false 0 0, 0)
  | .fin s n d =>
    if n = 0 then (F.infinity s, fDZ)
    else if s then F.nanResult fNV
    else
      let q := isqrt (d * 4 ^ 320 / n)
      F.round 0 .arith false q (2 ^ 320) (q * q * n != d * 4 ^ 320)

/-- 2^x (Table 4-7). A magnitude of 1,024 or more is far outside every format's range. -/
def Fmt.exp2 (F : Fmt) (x : Nat) : Nat × FpFlags :=
  match F.decode x with
  | .nan => F.nanResult 0
  | .inf s => if s then (F.mk' false 0 0, 0) else (F.infinity false, 0)
  | .fin s n d =>
    if n = 0 then (F.mk' false F.bias 0, 0)
    else if 1024 * d ≤ n then
      if s then F.round 0 .arith false 1 (2 ^ 1024) true else F.round 0 .arith false (2 ^ 1024) 1 true
    else
      let whole := n / d
      let i : Int := if s then -(whole : Int) - (if n % d = 0 then 0 else 1) else whole
      let fr := if n % d = 0 then 0 else if s then d - n % d else n % d
      if fr = 0 then
        let v := scale2 1 i
        F.round 0 .arith false v.1 v.2 false
      else
        let v := scale2 (fxExp (fr * fxLn2 / d)) i
        F.round 0 .arith false v.1 (v.2 * fxOne) true

/-- log2 x (Table 4-7). -/
def Fmt.log2 (F : Fmt) (x : Nat) : Nat × FpFlags :=
  match F.decode x with
  | .nan => F.nanResult 0
  | .inf s => if s then F.nanResult fNV else (F.infinity false, 0)
  | .fin s n d =>
    if n = 0 then (F.infinity true, fDZ)
    else if s then F.nanResult fNV
    else
      let e := floorLog2 n d
      let v := downscale n d e
      if v.1 = v.2 then F.round 0 .arith (e < 0) e.natAbs 1 false
      else
        let l := 2 * fxAtanh ((v.1 - v.2) * fxOne / (v.1 + v.2)) * fxOne / fxLn2
        let y : Int := e * fxOne + l
        F.roundFx (y < 0) y.natAbs

/-- e^y in fixed point for a nonnegative y in fixed point below 2^9: reduced by ln 2. -/
def fxExpWide (y : Nat) : Nat := fxExp (y % fxLn2) * 2 ^ (y / fxLn2)

/-- tanh x (Table 4-7). Beyond 128 the value differs from ±1 by less than 2^-300. -/
def Fmt.tanh (F : Fmt) (x : Nat) : Nat × FpFlags :=
  match F.decode x with
  | .nan => F.nanResult 0
  | .inf s => (F.mk' s F.bias 0, 0)
  | .fin s n d =>
    if n = 0 then (F.mk' s 0 0, 0)
    else if 128 * d ≤ n then F.roundFx s (fxOne - 2 ^ 340)
    else
      let y := fxExpWide (2 * n * fxOne / d)
      F.roundFx s ((y - fxOne) * fxOne / (y + fxOne))

/-- DIV on FP32 (R96). -/
def fdiv32 (mode x y : Nat) : Nat × FpFlags := fp32.arith mode (divVal (fp32.decode x) (fp32.decode y))

end Sys2Proof.Machine
end

