-- ==== Sys2Proof/Machine/Convert.lean ====
section
/-! DEFINITION. Integer types (R137), conversions (R98, Table 4-8), the Q4O format (R99, R138 to R141) and
elements of packed values (R51). -/

namespace Sys2Proof.Machine
open Sys2Proof

/-- Width of one element of a type (Table 3-5). -/
def eltBits (ty : Nat) : Nat :=
  match ty with
  | 4 | 5 => 64
  | 6 | 7 | 12 | 14 => 16
  | 8 | 9 | 11 | 13 => 8
  | 10 => 4
  | _ => 32

/-- The signed integer types. -/
def signedTy (ty : Nat) : Bool := ty == 1 || ty == 4 || ty == 11 || ty == 12

/-- Element i of a packed value (R51). -/
def elt (x w i : Nat) : Nat := x / 2 ^ (w * i) % 2 ^ w

/-- A value with element i replaced. -/
def setElt (x w i e : Nat) : Nat := x - elt x w i * 2 ^ (w * i) + e % 2 ^ w * 2 ^ (w * i)

/-- Some elements put together, element 0 lowest. -/
def packElts (w : Nat) : List Nat → Nat
  | [] => 0
  | e :: t => e % 2 ^ w + 2 ^ w * packElts w t

/-- The integer that w bits stand for. -/
def toInt (signed : Bool) (w x : Nat) : Int :=
  if signed && x.testBit (w - 1) then (x : Int) - 2 ^ w else x

/-- The low w bits of an integer. -/
def wrapInt (w : Nat) (r : Int) : Nat := (r % (2 ^ w : Int)).toNat

/-- The least value of an integer type. -/
def minInt (signed : Bool) (w : Nat) : Int := if signed then -(2 ^ (w - 1) : Int) else 0

/-- The greatest value of an integer type. -/
def maxInt (signed : Bool) (w : Nat) : Int := if signed then 2 ^ (w - 1) - 1 else 2 ^ w - 1

/-- An integer limited to the range of a type. -/
def clampInt (signed : Bool) (w : Nat) (r : Int) : Int :=
  if r < minInt signed w then minInt signed w
  else if maxInt signed w < r then maxInt signed w else r

/-- An integer written into an integer type from an integer: saturated or wrapped, with no flag
(Table 4-8). -/
def intFromInt (signed : Bool) (w : Nat) (wrap : Bool) (r : Int) : Nat :=
  wrapInt w (if wrap then r else clampInt signed w r)

/-- A value converted to an integer type (Table 4-8). -/
def intFromVal (signed : Bool) (w mode : Nat) (wrap : Bool) (v : FVal) : Nat × FpFlags :=
  match v with
  | .nan => (0, fNV)
  | .inf s =>
    (if wrap then 0 else wrapInt w (if s then minInt signed w else maxInt signed w), fNV)
  | .fin s n d =>
    let r := roundInt n d false mode s
    let i : Int := if s then -(r.1 : Int) else r.1
    let out := clampInt signed w i != i
    (intFromInt signed w wrap i, flagIf r.2 fNX ||| flagIf out fNV)

/-- A value converted to a float format (Table 4-8). -/
def fmtFromVal (F : Fmt) (mode : Nat) (wrap : Bool) (v : FVal) : Nat × FpFlags :=
  match v with
  | .nan => (F.defaultNaN, 0)
  | .inf s => (if wrap then F.infinity s else F.largest s, 0)
  | .fin s n d => F.round mode (if wrap then .wrap else .saturate) s n d false

/-- An integer as a value. -/
def valOfInt (i : Int) : FVal := .fin (i < 0) i.natAbs 1

/-! ### Q4O -/

/-- The plain code of a nibble (Table 7-2). -/
def q4Code (c : Nat) : Int := if c < 8 then c else (c : Int) - 16

/-- The outlier of a magnitude field (R139). -/
def q4Outlier (f : Nat) : Int := if f.testBit 3 then -(2 ^ (f % 8 + 3) : Int) else 2 ^ (f % 8 + 3)

/-- The two elements of a byte, and whether it is ill-formed (Table 7-3, R140). -/
def q4Decode (b : Nat) : Int × Int × Bool :=
  let l := b % 16
  let h := b / 16 % 16
  if l = 8 && h = 8 then (0, 0, true)
  else if l = 8 then (q4Outlier h, 0, false)
  else if h = 8 then (0, q4Outlier l, false)
  else (q4Code l, q4Code h, false)

/-- A magnitude n / d of 8 or more between the outliers of the grid continued (R99): the grid value at or
below it, from `lo` upward. -/
def q4Below : Nat → Nat → Nat → Nat → Nat
  | 0, _, _, lo => lo
  | k + 1, n, d, lo => if 2 * lo * d ≤ n then q4Below k n d (2 * lo) else lo

/-- A magnitude's code is even: an even integer up to 7, an even e for an outlier (R99). -/
def q4Even (x : Nat) : Bool := if x ≤ 7 then x % 2 == 0 else (Nat.log2 x - 3) % 2 == 0

/-- A finite value rounded to the Q4O grid (R99, R141). -/
def q4Round (mode : Nat) (s : Bool) (n d : Nat) : Int × FpFlags :=
  let first := if s then 16 else 8
  let p : Nat × Nat :=
    if n ≤ 7 * d then (n / d, if n % d = 0 then n / d else n / d + 1)
    else if n < first * d then (7, first)
    else
      let lo := q4Below 160 n d first
      (lo, if lo * d = n then lo else 2 * lo)
  let zeroward := mode == 1 || (mode == 2 && s) || (mode == 3 && !s)
  let mag : Nat :=
    if p.1 = p.2 then p.1
    else if zeroward then p.1
    else if mode != 0 then p.2
    else if 2 * n < (p.1 + p.2) * d then p.1
    else if (p.1 + p.2) * d < 2 * n then p.2
    else if s && p.1 == 7 then 7
    else if q4Even p.1 then p.1 else p.2
  let sign (m : Nat) : Int := if s then -(m : Int) else m
  if 1024 < mag then (sign 1024, if zeroward then fNX else fOF ||| fNX)
  else (sign mag, flagIf (mag * d != n) fNX)

/-- A value converted to the Q4O grid (Table 4-8). -/
def q4FromVal (mode : Nat) (v : FVal) : Int × FpFlags :=
  match v with
  | .nan => (0, fNV)
  | .inf s => (if s then -1024 else 1024, fNV)
  | .fin s n d => q4Round mode s n d

/-- The magnitude field of an outlier (R99). -/
def q4Mag (q : Int) : Nat := (if q < 0 then 8 else 0) + (Nat.log2 q.natAbs - 3)

/-- The byte of two grid values, one outlier at most, and inexact where a nonzero element is lost
(R99, R101). -/
def q4Byte (qa qb : Int) : Nat × FpFlags :=
  let both := 7 < qa.natAbs && 7 < qb.natAbs
  let a : Int := if both && qa.natAbs < qb.natAbs then 0 else qa
  let b : Int := if both && !(qa.natAbs < qb.natAbs) then 0 else qb
  if 7 < a.natAbs then (8 + 16 * q4Mag a, flagIf (both || b != 0) fNX)
  else if 7 < b.natAbs then (q4Mag b + 16 * 8, flagIf (both || a != 0) fNX)
  else (wrapInt 4 a + 16 * wrapInt 4 b, 0)

/-- Element n of a word of Q4O bytes replaced by a grid value (R103): an outlier takes its neighbour's
nibble; a plain element takes away the mark of a neighbouring outlier, and written over its own mark the magnitude field in its
neighbour's nibble, whose element stays lost and reads as 0 (R99; log 91, DEDUCED), so that the byte never holds a
magnitude field without its outlier. -/
def q4Put (x n : Nat) (q : Int) : Nat × FpFlags :=
  let b := elt x 8 (n / 2)
  let dec := q4Decode b
  let was := if n % 2 = 0 then dec.2.1 else dec.1
  let other := elt b 4 (1 - n % 2)
  if 7 < q.natAbs then
    (setElt (setElt x 4 n 8) 4 (n / 2 * 2 + (1 - n % 2)) (q4Mag q), flagIf (was != 0) fNX)
  else
    let y := setElt x 4 n (wrapInt 4 q)
    if other = 8 then (setElt y 4 (n / 2 * 2 + (1 - n % 2)) 0, flagIf (was != 0) fNX)
    else if elt b 4 (n % 2) = 8 then (setElt y 4 (n / 2 * 2 + (1 - n % 2)) 0, 0)
    else (y, 0)

/-- The grid value of element n of a word of Q4O bytes, and whether its byte is ill-formed (R102). -/
def q4Elt (x n : Nat) : Int × Bool :=
  let dec := q4Decode (elt x 8 (n / 2))
  (if n % 2 = 0 then dec.1 else dec.2.1, dec.2.2)

/-! ### Elements as values -/

/-- The float types (Table 3-5). -/
def floatTy (ty : Nat) : Bool := ty == 3 || ty == 6 || ty == 7 || ty == 8 || ty == 9

/-- Element n of a value of type `ty` as a real, and whether a Q4O byte was ill-formed. -/
def eltVal (x ty n : Nat) : FVal × Bool :=
  if ty = 10 then
    let q := q4Elt x n
    (valOfInt q.1, q.2)
  else if floatTy ty then ((fmtOf ty).decode (elt x (eltBits ty) n), false)
  else (valOfInt (toInt (signedTy ty) (eltBits ty) (elt x (eltBits ty) n)), false)

/-- Element n of a word of type `ty` replaced by a value converted to that type (R98, R103). -/
def putVal (old ty n mode : Nat) (wrap : Bool) (v : FVal) : Nat × FpFlags :=
  if ty = 10 then
    let q := q4FromVal mode v
    let r := q4Put old n q.1
    (r.1, r.2 ||| q.2)
  else
    let r := if floatTy ty then fmtFromVal (fmtOf ty) mode wrap v
      else intFromVal (signedTy ty) (eltBits ty) mode wrap v
    (setElt old (eltBits ty) n r.1, r.2)

/-- CVT (R100): the value of type `st` in a register or pair, as type `dt`. -/
def cvtVal (dt st mode : Nat) (wrap : Bool) (x : Nat) : Nat × FpFlags :=
  if st = 3 then intFromVal (signedTy dt) (eltBits dt) mode wrap (fp32.decode x)
  else
    let i := toInt (signedTy st) (eltBits st) x
    if dt = 3 then fmtFromVal fp32 mode wrap (valOfInt i)
    else (intFromInt (signedTy dt) (eltBits dt) wrap i, 0)

/-- One element of PACK for a type other than Q4O (R101): from FP32, or from a 32-bit integer of the
type's sign. -/
def packElt (ty mode : Nat) (wrap : Bool) (x : Nat) : Nat × FpFlags :=
  if floatTy ty then fmtFromVal (fmtOf ty) mode wrap (fp32.decode x)
  else (intFromInt (signedTy ty) (eltBits ty) wrap (toInt (signedTy ty) 32 x), 0)

/-- PACK (R101): elements 2h and 2h + 1 of the old value replaced. -/
def packVal (ty h mode : Nat) (wrap : Bool) (old a b : Nat) : Nat × FpFlags :=
  if ty = 10 then
    let qa := q4FromVal mode (fp32.decode a)
    let qb := q4FromVal mode (fp32.decode b)
    let r := q4Byte qa.1 qb.1
    (setElt old 8 h r.1, r.2 ||| qa.2 ||| qb.2)
  else
    let w := eltBits ty
    let ra := packElt ty mode wrap a
    let rb := packElt ty mode wrap b
    (setElt (setElt old w (2 * h) ra.1) w (2 * h + 1) rb.1, ra.2 ||| rb.2)

/-- UNPACK (R102): element n of type `st` as `dt`, and whether its Q4O byte was ill-formed. -/
def unpackVal (dt st n x : Nat) : Nat × Bool :=
  let v := eltVal x st n
  let r := if dt = 3 then
      match v.1 with
      | .nan => fp32.defaultNaN
      | .inf s => fp32.infinity s
      | .fin s a b => (fp32.round 0 .arith s a b false).1
    else (intFromVal (signedTy dt) 32 1 false v.1).1
  (r, v.2)

end Sys2Proof.Machine
end

