-- ==== Sys2Proof/Machine/Operands.lean ====
section
/-! DEFINITION. The operand forms (R48, R50, R77): what an operand is worth in a strand, and where a result
goes. -/

namespace Sys2Proof.Machine
open Sys2Proof

/-- A register operand: scalar or vector, single or the pair that starts at r (R48). -/
def regVal (c : Cord) (l : Nat) (scalar wide : Bool) (r : Nat) : Nat :=
  let get (n : Nat) : Word := if scalar then c.scal n else (c.lane l).reg n
  if wide then (pair64 (get r) (get (r + 1))).toNat else (get r).toNat

/-- A literal as an operand of a type (R50). -/
def litVal (ty : Nat) (w : Word) : Nat :=
  if ty = 4 then (w.signExtend 64).toNat else w.toNat

/-- A pair is named by types 4 and 5 (R48). -/
def wideNat (ty : Nat) : Bool := ty == 4 || ty == 5

/-- Operand A in lane l, of a type. -/
def valA (c : Cord) (f : LForm) (ty l : Nat) : Nat := regVal c l f.asc (wideNat ty) f.a.toNat

/-- Operand B in lane l, of a type: the literal where there is one. -/
def valB (c : Cord) (f : LForm) (ty l : Nat) : Nat :=
  match f.lit with
  | some w => litVal ty w
  | none => regVal c l f.bsc (wideNat ty) f.b.toNat

/-- Operand C in lane l, of a type: a scalar register in scalar form. -/
def valC (c : Cord) (f : LForm) (ty l : Nat) : Nat :=
  regVal c l (LForm.scalar f) (wideNat ty) f.c.toNat

/-- The writes of a value to a register or pair. -/
def putReg (scalar wide : Bool) (r l x : Nat) : List RegW :=
  let w (n y : Nat) : RegW := if scalar then .s n (BitVec.ofNat 32 y) else .v l n (BitVec.ofNat 32 y)
  if wide then [w r x, w (r + 1) (x / 2 ^ 32)] else [w r x]

/-- The writes of a result of a type to D: scalar in scalar form. -/
def putD (f : LForm) (ty l x : Nat) : List RegW :=
  putReg (LForm.scalar f) (wideNat ty) f.d.toNat l x

/-- Where an instruction acts: once for the cord in scalar form, else in its participants (R48, R49). -/
def targets (u : Issue) (f : LForm) : List Nat :=
  if LForm.scalar f then [u.lanes.headD 0] else participants u f

/-- An instruction that writes D in each target, with the flags it raises (R77, R79). -/
def aluBody (f : LForm) (ty : Nat) (g : Cord → Nat → Nat × FpFlags) (u : Issue) (_ : State) : Act :=
  goRegs u ((targets u f).flatMap (fun l =>
    let r := g u.cord l
    putD f ty l r.1 ++ (if r.2 = 0 then [] else [.fp r.2])))

/-- An operation on each element of a type, on values of that type (R83). -/
def eachElt (ty : Nat) (g : Nat → Nat → Nat → Nat × FpFlags) (x y z : Nat) : Nat × FpFlags :=
  let w := eltBits ty
  let rs := (List.range (eltCount ty)).map (fun i => g (elt x w i) (elt y w i) (elt z w i))
  (packElts w (rs.map Prod.fst), rs.foldl (fun a r => a ||| r.2) 0)

/-- An elementwise operation on A, B and C. -/
def eltBody (f : LForm) (g : Nat → Nat → Nat → Nat × FpFlags) (u : Issue) (s : State) : Act :=
  aluBody f f.ty.toNat (fun c l =>
    eachElt f.ty.toNat g (valA c f f.ty.toNat l) (valB c f f.ty.toNat l) (valC c f f.ty.toNat l)) u s

/-- An operation on the whole value of A, B and C, of the instruction's type. -/
def wholeBody (f : LForm) (g : Nat → Nat → Nat → Nat) (u : Issue) (s : State) : Act :=
  aluBody f f.ty.toNat (fun c l =>
    (g (valA c f f.ty.toNat l) (valB c f f.ty.toNat l) (valC c f f.ty.toNat l), 0)) u s

/-- The exact result of Table 4-2 on one element, wrapped or saturated (R83). -/
def intElt (ty : Nat) (sat : Bool) (r : Int → Int → Int → Int) (x y z : Nat) : Nat × FpFlags :=
  let sg := signedTy ty
  let w := eltBits ty
  let v := r (toInt sg w x) (toInt sg w y) (toInt sg w z)
  (wrapInt w (if sat then clampInt sg w v else v), 0)

/-- An integer instruction of Table 4-2. -/
def intBody (f : LForm) (r : Int → Int → Int → Int) (u : Issue) (s : State) : Act :=
  eltBody f (intElt f.ty.toNat (f.mod == 1) r) u s

/-- An instruction that writes predicate pD in each participant (R89, R90, R93), with flags. -/
def predBody (f : LForm) (g : Cord → Nat → Bool × FpFlags) (u : Issue) (_ : State) : Act :=
  goRegs u ((participants u f).flatMap (fun l =>
    let r := g u.cord l
    .p l f.d.toNat r.1 :: (if r.2 = 0 then [] else [.fp r.2])))

/-- A test combined with pC as MOD2 bits 1..0 say (R89). -/
def combine (f : LForm) (c : Cord) (l : Nat) (t : Bool) : Bool :=
  let p := (c.lane l).pred f.c.toNat
  match f.mod2.toNat % 4 with
  | 0 => t
  | 1 => t && p
  | 2 => t || p
  | _ => t != p

end Sys2Proof.Machine
end

