-- ==== Sys2Proof/Machine/Translate.lean ====
section
/-! DEFINITION. Translation (R209 to R212): the walk of a context's tree, the cached translations, and what
a fetch depends on. The scoreboard of interlocked mode (R61). -/

namespace Sys2Proof.Machine
open Sys2Proof

/-- What an access needs of a leaf (R211). -/
inductive Need where
  | read
  | write
  | fetch
  deriving DecidableEq, Repr

/-- What a walk finds: a fault with its cause (Table 11-6), or a leaf: the address of its entry, the
virtual base and size of its page, the page's physical address and the entry. -/
inductive Walk where
  | fault (cause : Nat)
  | page (ea base size pa entry : Nat)
  deriving DecidableEq, Repr

/-- The levels below the root (Table 11-3): shift and width of the index, and whether a leaf may stand
there. -/
def walkLevels : List (Nat × Nat × Bool) :=
  [(48, 9, false), (39, 9, false), (30, 9, true), (21, 9, true), (16, 5, true)]

/-- The reserved bits of an entry (Table 11-4). -/
def entryReserved (e : Nat) : Bool := bits e 63 52 != 0 || bit e 7 || bit e 2

/-- The right that a leaf must give (R211): none, or the cause of the fault. -/
def leafFault (e : Nat) (n : Need) : Option Nat :=
  match n with
  | .read => none
  | .write => if bit e 3 then none else some 1
  | .fetch => if bit e 4 then none else some 2

/-- The walk of the tree from a table on (R209, R211). -/
def walkFrom (m : Mem) (va : Nat) (n : Need) : List (Nat × Nat × Bool) → Nat → Walk
  | [], _ => .fault 3
  | (sh, w, leafOk) :: below, table =>
    let ea := table + 8 * (va / 2 ^ sh % 2 ^ w)
    let e := leNat (memRead m ea 8)
    let pa := bits e 51 8 * 256
    if !bit e 0 then .fault 0
    else if entryReserved e then .fault 3
    else if bit e 1 then
      if !leafOk || pa % 2 ^ sh != 0 then .fault 3
      else match leafFault e n with
        | some c => .fault c
        | none => .page ea (va / 2 ^ sh * 2 ^ sh) (2 ^ sh) pa e
    else
      match below with
      | [] => .fault 3
      | [_] => walkFrom m va n below pa
      | _ :: _ => if pa % 4096 != 0 then .fault 3 else walkFrom m va n below pa

/-- The walk for an address from a root. An address that is not canonical is mapped by no entry. -/
def walk (m : Mem) (root va : Nat) (n : Need) : Walk :=
  if 2 ^ 57 ≤ va then .fault 0 else walkFrom m va n walkLevels root

/-- The entry with ACC set, and DIRTY for a write (R211): both lie in its first byte. -/
def markLeaf (m : Mem) (ea entry : Nat) (n : Need) : Mem :=
  memPut m ea (BitVec.ofNat 8 (entry % 256 ||| 0x20 ||| (if n == .write then 0x40 else 0)))

/-- The cached translation of a page (R212). A write needs one made by a write, which set DIRTY. -/
def TlbEntry.serves (e : TlbEntry) (slot va : Nat) (n : Need) : Bool :=
  !e.hidden && e.slot == slot && e.base ≤ va && va < e.base + e.size
    && (match n with
      | .read => true
      | .write => e.wr && e.dirty
      | .fetch => e.ex)

/-- The physical address that a die's cached translations give. -/
def tlbFind (d : Die) (slot va : Nat) (n : Need) : Option Nat :=
  (d.tlb.find? (fun e => e.serves slot va n)).map (fun e => e.pa + (va - e.base))

/-- The slot that a context has on a die (R356, R377); 128, which is none, where it has no slot. -/
def slotOn (d : Die) (part ctx : Nat) : Nat :=
  ((d.slots.find? (fun e => e.2.part == part && e.2.ctx == ctx)).map Prod.fst).getD 128

/-- The slot of a block's context on the block's die. -/
def slotOfBlock (s : State) (b : Nat) : Nat :=
  match s.blocks[b]?, gridOfBlock s b with
  | some x, some g => slotOn (dieOf s (dieOfCore x.core)) g.part g.ctx
  | _, _ => 128

/-- The translation of an address for a block, if its die holds it. -/
def translate (s : State) (b core va : Nat) (n : Need) : Option Nat :=
  tlbFind (dieOf s (dieOfCore core)) (slotOfBlock s b) va n

/-- An address lies on the page of an entry of the fault buffer (R213). -/
def FaultEntry.covers (e : FaultEntry) (va : Nat) : Bool := e.base ≤ va && va < e.base + e.size

/-- The granule by which an access names its page while no entry maps it (log 15). -/
def granule (va : Nat) : Nat := va / 65536

/-- A translation asked for of a die, once. -/
def askWalk (s : State) (core : Nat) (w : WalkReq) : State :=
  modDie s (dieOfCore core) (fun d =>
    if d.walks.contains w then d else { d with walks := d.walks ++ [w] })

/-- A walk that fetches for a cord. -/
def WalkReq.fetchOf (w : WalkReq) (b c : Nat) : Bool :=
  match w.src with
  | .fetch b' c' _ => b' == b && c' == c
  | _ => false

/-- Whether a fetch of the cord is being translated or waits in the fault buffer (R220): the cord issues
nothing. -/
def fetchHeld (s : State) (b c core : Nat) : Bool :=
  let d := dieOf s (dieOfCore core)
  d.walks.any (fun w => w.fetchOf b c) || d.waiting.any (fun w => w.fetchOf b c)
    || d.faults.any (fun e => match e.2.src with
      | .fetch b' c' _ => b' == b && c' == c
      | _ => false)

/-! ### Code -/

/-- The code version of a context that holds an address (R352), with its number. -/
def versionAt (x : Ctx) (va : Nat) : Option (Nat × Version) :=
  x.versions.find? (fun e => e.2.base ≤ va && va < e.2.base + e.2.len)

/-- Interlocked mode at an address (R62): of the code version, or of the context for all its code. -/
def interlocked (s : State) (b va : Nat) : Bool :=
  match gridOfBlock s b with
  | some g =>
    let x := ctxOf s g.part g.ctx
    x.intlk || x.control.getLsbD 2 || ((versionAt x va).map (fun e => e.2.intlk)).getD false
  | none => false

/-- The word at a physical address of code. Of a page that maps to host or peer memory or to a hole it is what State.mem
holds there, 0, which counts as a clause header (log 120, DESIGN CHOICE: the spec does not say what a fetch finds there). -/
def codeWord (s : State) (pa : Nat) : Word := BitVec.ofNat 32 (leNat (memRead s.mem pa 4))

/-- A word that is a clause header (R53). -/
def isHeader (w : Word) : Bool := shortOp w == 0 && lengthWords w == 1 && !w.getLsbD 0

/-! ### The scoreboard of interlocked mode (R61) -/

/-- Whether one register operand of an instruction is the destination of an operation. -/
def useTouches (o : Op) : RegUse → Bool
  | .vec n w => (opVecs o).contains n || (w && (opVecs o).contains (n + 1))
  | .vspan n k _ => (opVecs o).any (fun r => n ≤ r && r < n + k)
  | .pred n => (opPreds o).contains n
  | _ => false

/-- The scoreboard holds an instruction (R61): an operation of one of its strands that is still
outstanding writes a register that it names. -/
def scoreboardHolds (c : Cord) (lanes : List Nat) (uses : List RegUse) (pred : Nat) : Bool :=
  c.ops.any (fun o => o.lanes.any (fun l => lanes.contains l)
    && ((RegUse.pred pred :: uses).any (useTouches o)))

/-- How many operations under a flag a WAIT field waits for: all of them, or in interlocked mode those
without a register destination (R56, R61). -/
def waitCount (s : State) (u : Issue) (n : Nat) : Nat :=
  let all := u.cord.f.getD n 0
  if interlocked s u.b u.pc.toNat then
    all - (u.cord.ops.filter (fun o => o.flag == some n && opWrites o)).length
  else all

end Sys2Proof.Machine
end

