-- ==== Sys2Proof/Machine/Snapshot.lean ====
section
/-! DEFINITION. Homed memory and its paired cells (R205, R206, R244 to R246, R281, R282), and the L1
snapshot of a core in front of it (R207, R208, R234). -/

namespace Sys2Proof.Machine
open Sys2Proof

/-- Where a physical address lies (Table 11-2): populated homed memory, a hole of a homed window, the
management window, host memory, a peer. -/
inductive Place where
  | homed
  | hole
  | mgmt
  | host
  | peer (i : Nat)
  deriving DecidableEq, Repr

/-- HBM4E is populated for 1,024 GB and the second tier for 4,096 GB (Table 11-2), where a GB is 1,000,000,000
bytes (R4). -/
def populated (pa : Nat) : Bool :=
  pa < 1024 * 10 ^ 9 || (0x010000000000 ≤ pa && pa < 0x010000000000 + 4096 * 10 ^ 9)

/-- Where some expansion devices lie from an address on: each is aligned to 1 GiB, 2^30 bytes (R4, R360). -/
def cxlRanges : Nat → List Nat → List (Nat × Nat)
  | _, [] => []
  | a, n :: rest =>
    let base := (a + 2 ^ 30 - 1) / 2 ^ 30 * 2 ^ 30
    (base, n) :: cxlRanges (base + n) rest

/-- An address of the expansion window that a device holds (R360): at most four devices, in order from its start. -/
def expansion (pa : Nat) : Bool :=
  (cxlRanges 0x050000000000 (Config.cxlDevices.take 4)).any (fun r => r.1 ≤ pa && pa < r.1 + r.2)

/-- The place of a physical address (Table 11-2). -/
def placeOf (pa : Nat) : Place :=
  if pa < 0x050000000000 then (if populated pa then .homed else .hole)
  else if pa < 0xFFFFFF000000 then (if expansion pa then .homed else .hole)
  else if pa < 0x1000000000000 then .mgmt
  else if pa < 0x8000000000000 then .host
  else .peer (bits pa 50 44)

/-- The stack of a homed address (R206). -/
def stackOf (pa : Nat) : Nat := pa / 256 % 16

/-- The doubleword of an address. -/
def dwOf (a : Nat) : Nat := a / 8 * 8

/-- A braid: its grid and its index. -/
abbrev BraidId := Nat × Nat

/-- The braid of a block. -/
def braidOf (s : State) (b : Nat) : BraidId :=
  match s.blocks[b]? with
  | some x => (x.grid, x.braid)
  | none => (0, 0)

/-! ### Kinds of operations -/

/-- An access that is not yet performed or rejected. -/
def Acc.open_ (a : Acc) : Bool :=
  match a.st with
  | .done | .rejected _ => false
  | _ => true

/-- An operation on a scratchpad window. -/
def onWindow : OpKind → Bool
  | .loadC _ | .storeC _ | .request => true
  | _ => false

/-- An operation on the paired cell of a doubleword. -/
def onCell : OpKind → Bool
  | .tst _ | .retract _ | .tcommit _ => true
  | _ => false

/-- An operation that makes no event of the ordering model (R270). -/
def eventless : OpKind → Bool
  | .pref _ | .held | .queued _ _ | .cqpop _ | .drain _ _ _ => true
  | _ => false

/-- A plain store, into the snapshot or a scratchpad (R267). -/
def plainStore : OpKind → Bool
  | .store _ _ | .storeC _ => true
  | _ => false

/-- An operation that writes global memory or steps at a home (R217, R302). -/
def writesMemory : OpKind → Bool
  | .store _ _ | .atom _ | .cas _ | .red _ | .atomr _ | .tst _ | .retract _ | .tcommit _ => true
  | _ => false

/-- An operation that steps at a home (R229). -/
def stepKind : OpKind → Bool
  | .atom _ | .cas _ | .red _ | .tst _ | .retract _ | .tcommit _ => true
  | _ => false

/-! ### Homes and cells -/

/-- The live cells of a doubleword, the latest first: a region's cell stands on the braid's. -/
def cellsAt (s : State) (dw : Nat) : List Cell := s.cells.filter (fun c => c.dw == dw)

/-- A cell seen by a braid, or by the outside world (R244, R282). -/
def Cell.saw (c : Cell) (by_ : Option BraidId) : Cell :=
  match by_ with
  | some x => { c with observed := true, seen := if c.seen.contains x then c.seen else c.seen ++ [x] }
  | none => { c with observed := true, foreign := true }

/-- Every live cell of a doubleword that another braid owns is observed (R244). -/
def observe (s : State) (dw : Nat) (by_ : Option BraidId) : State :=
  { s with cells := s.cells.map (fun c =>
      if c.dw == dw && some c.owner != by_ then c.saw by_ else c) }

/-- A read of a byte at its home: it observes a cell when it returns a byte written under it (R244). -/
def homeRead (s : State) (by_ : Option BraidId) (pa : Nat) : Byte × State :=
  let seen := (cellsAt s (dwOf pa)).any (fun c => some c.owner != by_ && c.written.contains (pa % 8))
  (memGet s.mem pa, if seen then observe s (dwOf pa) by_ else s)

/-- Bytes written at their home, with their poison (R348). -/
def putBytes (s : State) (pa : Nat) (bs : List Byte) (poison : Bool) : State :=
  let clear := s.poison.filter (fun p => !(pa ≤ p && p < pa + bs.length))
  { s with
    mem := memWrite s.mem pa bs,
    poison := if poison then clear ++ (List.range bs.length).map (fun i => pa + i) else clear }

/-- A write at a home: it observes another braid's cell of the doubleword (R282). -/
def homeWrite (s : State) (by_ : Option BraidId) (pa : Nat) (b : Byte) (poison : Bool) : State :=
  putBytes (observe s (dwOf pa) by_) pa [b] poison

/-- Writes of several bytes at their homes. -/
def homeWrites (s : State) (by_ : Option BraidId) : Nat → List Byte → State
  | _, [] => s
  | pa, b :: bs => homeWrites (homeWrite s by_ pa b false) by_ (pa + 1) bs

/-- Whether the welt table of a home has a free cell (R281): 16,384 a stack. -/
def weltRoom (s : State) (dw : Nat) : Bool :=
  (s.cells.filter (fun c => stackOf c.dw == stackOf dw)).length < 16384

/-- The offsets of the poisoned bytes of a doubleword. -/
def poisonOf (s : State) (dw : Nat) : List Nat := (List.range 8).filter (fun i => s.poison.contains (dw + i))

/-- A cell taken: the doubleword's bytes are kept beside the new value (R281), with their poison (R348). -/
def takeCell (s : State) (dw : Nat) (owner : BraidId) (region : Option (Nat × Nat)) : State :=
  { s with cells := { dw := dw, owner := owner, former := memRead s.mem dw 8, fpoison := poisonOf s dw,
                      region := region } :: s.cells }

/-- The top cell of a doubleword with more bytes written under it. -/
def markTop (dw : Nat) (offs : List Nat) : List Cell → List Cell
  | [] => []
  | c :: t =>
    if c.dw == dw then { c with written := (c.written ++ offs).eraseDups } :: t else c :: markTop dw offs t

/-- Bytes marked as written under the cell on top of a doubleword (R244). -/
def markWritten (s : State) (dw : Nat) (offs : List Nat) : State := { s with cells := markTop dw offs s.cells }

/-- The first cell that a condition holds of, removed. -/
def dropCell (p : Cell → Bool) : List Cell → List Cell
  | [] => []
  | c :: t => if p c then t else c :: dropCell p t

/-- The cell of a region freed into the one below it (R338): the lower becomes observed if it was, and
holds what was written under it. -/
def freeInto (c : Cell) (below : Cell) : Cell :=
  { below with
    observed := below.observed || c.observed, seen := (below.seen ++ c.seen).eraseDups,
    foreign := below.foreign || c.foreign, written := (below.written ++ c.written).eraseDups }

/-- The cells after the first of a doubleword that a condition holds of is freed, its value kept, as TCOMMIT
frees it (R245, R284); a region's cell is freed into the one below it (R338). -/
def freeFirst (dw : Nat) (p : Cell → Bool) : List Cell → List Cell
  | [] => []
  | c :: t =>
    if c.dw == dw && p c then
      (if c.region.isSome then
        t.map (fun x => if x.dw == dw && x.owner == c.owner then freeInto c x else x)
      else t)
    else c :: freeFirst dw p t

/-- A cell of a doubleword freed with its value kept. -/
def freeCell (s : State) (dw : Nat) (p : Cell → Bool) : State := { s with cells := freeFirst dw p s.cells }

/-- A cell of a doubleword retracted: the former bytes come back, with their poison (R348), and
the cell is freed (R245). -/
def retractCell (s : State) (dw : Nat) (p : Cell → Bool) : State :=
  match (cellsAt s dw).find? p with
  | none => s
  | some c =>
    let t := putBytes { s with cells := dropCell (fun x => x.dw == dw && p x) s.cells } dw c.former false
    { t with poison := t.poison ++ c.fpoison.map (fun i => dw + i) }

/-! ### The snapshot -/

/-- A byte that the core stored and its home may not have seen: unpublished or on its way. -/
def ownByte (c : CoreSt) (pa : Nat) : Option (Byte × Bool) :=
  match tabGet c.dirty pa with
  | some d => some (d.byte, d.poison)
  | none =>
    ((c.outbound.filter (fun o => o.bytes.any (fun e => e.1 == pa))).getLast?).map (fun o =>
      (((o.bytes.find? (fun e => e.1 == pa)).map Prod.snd).getD 0, o.poison.contains pa))

/-- A byte as the core's strands see it without its home: its own, or held clean. -/
def heldByte (c : CoreSt) (pa : Nat) : Option (Byte × Bool) :=
  match ownByte c pa with
  | some x => some x
  | none => (tabGet c.clean pa).map (fun x => (x, c.cpoison.contains pa))

/-- The record of a braid of a grid. -/
def braidRec (s : State) (x : BraidId) : Option Braid := (gridOf s x.1).bind (fun g => tabGet g.braids x.2)

/-- The state with the record of a braid changed. -/
def modBraid (s : State) (x : BraidId) (f : Braid → Braid) : State :=
  modGrid s x.1 (fun g => match tabGet g.braids x.2 with
    | some r => { g with braids := tabPut g.braids x.2 (f r) }
    | none => g)

/-- A braid is still relaunchable (R350). -/
def relaunchable (s : State) (x : BraidId) : Bool := ((braidRec s x).map Braid.relaunchable).getD false

/-- The cells of a braid outside regions. -/
def braidCells (s : State) (x : BraidId) : List Cell :=
  s.cells.filter (fun c => c.owner == x && c.region.isNone)

/-- A braid stops being relaunchable: its cells are freed with their values kept (R350). -/
def unrelaunch (s : State) (x : BraidId) : State :=
  if relaunchable s x then
    (braidCells s x).foldl (fun s c => freeCell s c.dw (fun y => y.owner == x && y.region.isNone))
      (modBraid s x (fun r => { r with relaunchable := false }))
  else s

/-- A braid that is to take one more cell stops being relaunchable when it holds 4,096 (R350). -/
def limitCells (s : State) (x : BraidId) : State :=
  if 4096 ≤ (s.cells.filter (fun c => c.owner == x)).length then unrelaunch s x else s

/-- A braid's cell for a store or step of a relaunchable braid (R350): it joins its own live cell or takes
one; without a cell, or at the 4,097th, the braid stops being relaunchable. -/
def braidCell (s : State) (x : BraidId) (dw : Nat) : State :=
  if !relaunchable s x || (cellsAt s dw).any (fun c => c.owner == x) then s
  else if !(cellsAt s dw).isEmpty || !weltRoom s dw then unrelaunch s x
  else
    let s := limitCells s x
    if relaunchable s x then takeCell s dw x none else s

/-- Bytes written by a braid at their home: the cells of others see them, its own cell covers them. -/
def ownWrite (s : State) (x : BraidId) (pa : Nat) (bs : List Byte) (poison : Bool) : State :=
  let s := putBytes (observe s (dwOf pa) (some x)) pa bs poison
  if (cellsAt s (dwOf pa)).any (fun c => c.owner == x) then
    markWritten s (dwOf pa) ((List.range bs.length).map (fun i => pa % 8 + i))
  else s

/-- A byte that a braid has stored reaches its home: in a relaunchable braid, whose stores the ticket unit had staged,
under a braid cell (R302, R350). -/
def braidWrite (s : State) (x : BraidId) (pa : Nat) (b : Byte) (poison : Bool) : State :=
  if relaunchable s x then ownWrite (braidCell s x (dwOf pa)) x pa [b] poison else homeWrite s (some x) pa b poison

/-- A byte that a block's braid has released at braid scope and not yet written to its home (R302). -/
def stagedByte (s : State) (b pa : Nat) : Option Byte :=
  ((braidRec s (braidOf s b)).bind (fun r => tabGet r.staged pa)).map Prod.snd

/-- The ticket of a grid's braid is held (R302, R308): its braid index is the grid's ticket, and the
grid's turn has come: the parent's braid holds the parent's ticket, or for a grid of the host no
host-launched grid of the context that was accepted before is still running. `fuel` bounds the nesting. -/
def gridTurn : Nat → State → Nat → Bool
  | 0, _, _ => true
  | fuel + 1, s, g =>
    match gridOf s g with
    | none => false
    | some x =>
      match x.parent with
      | some (b, _) =>
        (match s.blocks[b]? with
          | some blk => ((gridOf s blk.grid).map Grid.ticket) == some blk.braid
              && gridTurn fuel s blk.grid
          | none => false)
      | none => s.grids.all (fun y =>
          y.parent.isSome || y.part != x.part || y.ctx != x.ctx || x.order ≤ y.order
            || (match y.stage with
              | .queued | .completed | .failed _ => true
              | _ => false))

/-- A block still holds an operation that the ticket unit has staged or that is on its way (R302). -/
def blockStages (s : State) (b : Nat) (x : Block) : Bool :=
  let k := coreOf s x.core
  x.cords.any (fun c => c.ops.any (fun o => writesMemory o.kind && o.accs.any Acc.open_))
    || k.dirty.any (fun e => e.2.block == b) || k.outbound.any (fun o => o.block == b)
    || k.commands.any (fun d => d.block == b && !d.perf)
    || k.requests.any (fun r => r.block == b && !r.finished)
    || k.array.any (fun o => o.block == b && o.kind == .mdrain)

/-- A braid still holds such an operation, or bytes it has released at braid scope. -/
def braidStages (s : State) (x : BraidId) : Bool :=
  ((braidRec s x).map (fun r => !r.staged.isEmpty)).getD false
    || s.blocks.zipIdx.any (fun e => (e.1.grid, e.1.braid) == x && blockStages s e.2 e.1)

/-- The live strands of a grid. -/
def gridStrands (s : State) (g : Nat) : List Strand :=
  (s.blocks.filter (fun x => x.grid == g)).flatMap (fun x => x.cords.flatMap (fun c => c.strands.filter Strand.live))

/-- Every strand of a grid that has not ended has arrived at the GBAR that releases next (R126). -/
def gbarArrived (s : State) (g : Nat) (x : Grid) : Bool :=
  let ts := gridStrands s g
  x.isGbar && x.next == x.blockCount && x.braids.all (fun r => !r.2.pending && !r.2.toKill) && !ts.isEmpty
    && ts.all (fun t => t.gbars == x.barrier + 1 && (match t.park with
      | some (.gbar _ _) => true
      | _ => false))

/-- The braid of a grid whose staged operations may be performed: the one at the ticket, or while a GBAR
releases the lowest that still has any (R302, R305). -/
def holder (s : State) (g : Nat) (x : Grid) : Option Nat :=
  if gbarArrived s g x then (x.braids.find? (fun r => braidStages s (g, r.1))).map Prod.fst else some x.ticket

/-- The ticket unit stands while a context is saved (R315). -/
def ticketStands (s : State) (g : Grid) : Bool := (ctxOf s g.part g.ctx).life == .saved

/-- The ticket unit stages what a block's braid does: in deterministic mode, and what it had staged when its context was
saved (R302, R315). -/
def inTicketUnit (s : State) (b : Nat) : Bool :=
  detMode s b || ((braidRec s (braidOf s b)).map Braid.kept).getD false

/-- Whether a block's staged operations may be performed: the ticket unit stages none of them, or it
is its braid's turn (R302, R305, R315). -/
def hasTicket (s : State) (b : Nat) : Bool :=
  !inTicketUnit s b
    || (match s.blocks[b]? with
      | some x => (match gridOf s x.grid with
        | some g => holder s x.grid g == some x.braid && gridTurn 11 s x.grid && !ticketStands s g
        | none => false)
      | none => false)

/-- A store to memory of the ticket unit that its braid's strands see while the braid does not hold the ticket, though it
is not merged: one of an open region, and what comes after it at its bytes (R302, R345). -/
def stagedStore (o : Op) (a : Acc) : Bool :=
  a.st == .ready && placeOf a.pa == .homed && (match o.kind with
    | .store _ _ => true
    | _ => false)

/-- An operation as its braid sees it: what the ticket unit has staged of it counts as performed. -/
def viewOp (s : State) (b : Nat) (o : Op) : Op :=
  if hasTicket s b then o
  else { o with accs := o.accs.map (fun a => if stagedStore o a then { a with st := .done } else a) }

/-- A cord as its braid sees it. -/
def viewCord (s : State) (b : Nat) (c : Cord) : Cord := { c with ops := c.ops.map (viewOp s b) }

/-- The latest byte of a staged store of a block's braid on a core (R207, R302, R345). -/
def stagedOpByte (s : State) (core b pa : Nat) : Option Byte :=
  if hasTicket s b then none
  else
    let me := braidOf s b
    let hits := (s.blocks.zipIdx.filter (fun x => x.1.core == core && braidOf s x.2 == me)).flatMap (fun x =>
      x.1.cords.flatMap (fun c => c.ops.flatMap (fun o =>
        (o.accs.filter (fun a => stagedStore o a && a.pa ≤ pa && pa < a.pa + a.size)).map (fun a =>
          (o.seq * 64 + a.lane, a.data.getD (pa - a.pa) 0)))))
    hits.foldl (fun r e => match r with
      | some y => some y
      | none => if hits.all (fun h => h.1 ≤ e.1) then some e.2 else none) none

/-- A store of a block's braid that its core has issued and not merged covers a byte: while the ticket unit staged it, a
fence of the braid may have passed it (R302). -/
def unmerged (s : State) (core b pa : Nat) : Bool :=
  s.blocks.zipIdx.any (fun x => x.1.core == core && braidOf s x.2 == braidOf s b && x.1.cords.any (fun c => c.ops.any (fun o =>
    o.accs.any (fun a => stagedStore o a && a.pa ≤ pa && pa < a.pa + a.size))))

/-- The bytes of a line that a read brings into the snapshot (R207): those not held and not of a
doubleword with a live cell. -/
def fillBytes (s : State) (c : CoreSt) (line : Nat) : List Nat :=
  ((List.range 256).map (fun i => line * 256 + i)).filter (fun a =>
    (heldByte c a).isNone && (cellsAt s (dwOf a)).isEmpty)

/-- A core's line filled from its home (R207). -/
def fillLine (s : State) (core line : Nat) : State :=
  let c := coreOf s core
  let as := fillBytes s c line
  setCore s core { c with
    clean := as.foldl (fun t a => tabPut t a (memGet s.mem a)) c.clean,
    cpoison := c.cpoison ++ as.filter (fun a => s.poison.contains a) }

/-- A read of a homed byte by a block's core (R207, R241): the byte, whether it is poisoned, and the state
after it. -/
def coreRead (s : State) (core b : Nat) (pa : Nat) : Byte × Bool × State :=
  match stagedOpByte s core b pa, ownByte (coreOf s core) pa, stagedByte s b pa, heldByte (coreOf s core) pa with
  | some x, _, _, _ => (x, false, s)
  | none, some x, _, _ => (x.1, x.2, s)
  | none, none, some x, _ => (x, false, s)
  | none, none, none, some x => (x.1, x.2, s)
  | none, none, none, none =>
    let r := homeRead s (some (braidOf s b)) pa
    (r.1, s.poison.contains pa, fillLine r.2 core (pa / 256))

/-- A read of several homed bytes. -/
def coreReads (core b : Nat) : Nat → Nat → State → List Byte × Bool × State
  | _, 0, s => ([], false, s)
  | pa, n + 1, s =>
    let r := coreRead s core b pa
    let rest := coreReads core b (pa + 1) n r.2.2
    (r.1 :: rest.1, r.2.1 || rest.2.1, rest.2.2)

/-- The unpublished bytes of a core that may be written to their homes (R207, R302): of one line and
block. -/
def publishable (s : State) (c : CoreSt) (line block : Nat) : Tab Dirty :=
  if hasTicket s block then
    c.dirty.filter (fun e => e.1 / 256 == line && e.2.block == block)
  else []

/-- The unpublished bytes of one line and block sent to their home; the core keeps them as clean bytes, but those that
will lie under a braid cell there. -/
def publishLine (s : State) (core line block : Nat) : State :=
  let c := coreOf s core
  let es := publishable s c line block
  let kept := if relaunchable s (braidOf s block) then [] else es
  if es.isEmpty then s
  else setCore s core { c with
    seq := c.seq + 1,
    dirty := c.dirty.filter (fun e => !(es.map Prod.fst).contains e.1),
    clean := kept.foldl (fun t e => tabPut t e.1 e.2.byte) c.clean,
    cpoison := c.cpoison ++ (kept.filter (fun e => e.2.poison)).map Prod.fst,
    outbound := c.outbound ++ [{
      n := c.seq, seq := (es.map (fun e => e.2.seq)).foldl Nat.min c.seq, block := block, bytes := es.map (fun e => (e.1, e.2.byte)),
      poison := (es.filter (fun e => e.2.poison)).map Prod.fst }] }

/-- The lines that a core's L1 holds (R207): what the ticket unit stages for other braids stands beside it (R302). -/
def l1Lines (s : State) (core : Nat) : List Nat :=
  let k := coreOf s core
  ((k.clean.map Prod.fst ++ (k.dirty.filter (fun e => hasTicket s e.2.block)).map Prod.fst).map (fun a => a / 256)).eraseDups

/-- L1 has room for the lines of some bytes (R207): it holds 256 KiB, 1,024 lines, and a line that is not held
waits until another is evicted. -/
def l1Room (s : State) (core pa n : Nat) : Bool :=
  let ls := l1Lines s core
  let new := (((List.range n).map (fun i => (pa + i) / 256)).eraseDups).filter (fun l => !ls.contains l)
  ls.length + new.length ≤ 1024

/-- Bytes that another braid of the core has staged make place for a later store (R302): they go home where that
braid may write, and else wait beside the core. -/
def displace (s : State) (core block pa : Nat) : State :=
  match tabGet (coreOf s core).dirty pa with
  | none => s
  | some d =>
    if !detMode s block || braidOf s d.block == braidOf s block then s
    else if hasTicket s d.block then publishLine s core (pa / 256) d.block
    else modBraid (modCore s core (fun k => { k with dirty := tabDel k.dirty pa })) (braidOf s d.block) (fun r =>
      { r with staged := tabPut r.staged pa (core, d.byte) })

/-- One byte of a store of the core, the `seq`-th thing that it issued, merged into its line (R207, R267). -/
def mergeByte (core block seq : Nat) (poison : Bool) (s : State) (e : Nat × Byte) : State :=
  modCore (displace s core block e.1) core (fun k =>
    let old := ((tabGet k.dirty e.1).map Dirty.seq).getD seq
    { k with
      dirty := tabPut k.dirty e.1 { byte := e.2, seq := Nat.min old seq, block := block, poison := poison },
      clean := tabDel k.clean e.1,
      cpoison := k.cpoison.filter (fun a => a != e.1) })

/-- Bytes of a store of the core merged into its lines (R207, R267). -/
def mergeBytes (s : State) (core block seq : Nat) (es : List (Nat × Byte)) (poison : Bool) : State :=
  es.foldl (mergeByte core block seq poison) s

/-- Some bytes with their addresses. -/
def bytesAt (pa : Nat) (bs : List Byte) : List (Nat × Byte) := ((List.range bs.length).map (fun i => pa + i)).zip bs

/-- A store of the core merged into its lines (R207, R267). -/
def mergeStore (s : State) (core block seq pa : Nat) (bs : List Byte) (poison : Bool) : State :=
  mergeBytes s core block seq (bytesAt pa bs) poison

/-- Every unpublished byte of a core sent to its home (R234), and with it every store that the core has issued and
not yet merged, as soon as it is merged (R217). -/
def publishAll (s : State) (core : Nat) : State :=
  let s := ((coreOf s core).dirty.map (fun e => (e.1 / 256, e.2.block))).eraseDups.foldl
    (fun s x => publishLine s core x.1 x.2) s
  modCore s core (fun k => { k with relCut := k.seq })

/-- The bytes of a core that its strands stored before the last phase boundary of one of them, sent to their homes with
their lines, and with them what is merged later of such stores: a FENCE.P that follows orders them (R230, pb and pf). -/
def publishBefore (s : State) (core : Nat) : State :=
  let cut := (coreOf s core).bcut
  let s := (((coreOf s core).dirty.filter (fun e => e.2.seq < cut)).map (fun e => (e.1 / 256, e.2.block))).eraseDups.foldl
    (fun s x => publishLine s core x.1 x.2) s
  modCore s core (fun k => { k with relCut := Nat.max k.relCut cut })

/-- The unpublished bytes that a block without the ticket releases at braid scope (R302): its braid's blocks
see them, their homes do not. -/
def shareStaged (s : State) (core : Nat) : State :=
  let c := coreOf s core
  let es := c.dirty.filter (fun e => !hasTicket s e.2.block)
  let s := setCore s core { c with dirty := c.dirty.filter (fun e => hasTicket s e.2.block) }
  es.foldl (fun s e => modBraid s (braidOf s e.2.block) (fun r =>
    { r with staged := tabPut r.staged e.1 (core, e.2.byte) })) s

/-- The bytes that a store issued before a release has merged after it began follow those of the release (R217,
R234): to their homes, or within the braid where it does not hold the ticket (R302). -/
def followRelease (s : State) (core block seq : Nat) (pas : List Nat) : State :=
  if seq < (coreOf s core).relCut then
    (if hasTicket s block then ((pas.map (fun a => a / 256)).eraseDups).foldl (fun s l => publishLine s core l block) s
    else shareStaged s core)
  else s

/-- A byte that a block's braid has staged and that an engine of the braid sees (R248): in a store that is not merged
yet, on the core, or released at braid scope. -/
def braidView (s : State) (core b pa : Nat) : Option (Byte × Bool) :=
  if let some x := stagedOpByte s core b pa then some (x, false)
  else match tabGet (coreOf s core).dirty pa with
  | some d =>
    if !hasTicket s d.block && braidOf s d.block == braidOf s b then some (d.byte, d.poison)
    else (stagedByte s b pa).map (fun x => (x, false))
  | none => (stagedByte s b pa).map (fun x => (x, false))

/-- An acquire wider than the core: the snapshot keeps only unpublished bytes (R207). -/
def dropClean (s : State) (core : Nat) : State :=
  modCore s core (fun c => { c with clean := [], cpoison := [] })

/-- One line's clean bytes dropped (R207). -/
def dropLine (s : State) (core line : Nat) : State :=
  modCore s core (fun c => { c with
    clean := c.clean.filter (fun e => e.1 / 256 != line),
    cpoison := c.cpoison.filter (fun a => a / 256 != line) })

/-- An operation that bypasses L1 (R208): the core's unpublished bytes of the word reach the home first and
the word leaves the snapshot. -/
def bypassL1 (s : State) (core pa n : Nat) : State :=
  let c := coreOf s core
  let inWord (a : Nat) : Bool := pa ≤ a && a < pa + n
  let goes (e : Nat × Dirty) : Bool := inWord e.1 && hasTicket s e.2.block
  let out := c.outbound.flatMap (fun o => (o.bytes.filter (fun e => inWord e.1)).map (fun e =>
    (o.block, e.1, e.2, o.poison.contains e.1)))
  let own := (c.dirty.filter goes).map (fun e =>
    (e.2.block, e.1, e.2.byte, e.2.poison))
  let s := setCore s core { c with
    dirty := c.dirty.filter (fun e => !goes e),
    clean := c.clean.filter (fun e => !inWord e.1),
    cpoison := c.cpoison.filter (fun a => !inWord a),
    outbound := (c.outbound.map (fun o => { o with bytes := o.bytes.filter (fun e => !inWord e.1) })).filter
      (fun o => !o.bytes.isEmpty) }
  (out ++ own).foldl (fun s e => braidWrite s (braidOf s e.1) e.2.1 e.2.2.1 e.2.2.2) s

/-- %phase counts one occasion (R232). -/
def countPhase (s : State) (core : Nat) : State := modCore s core (fun c => { c with phase := c.phase + 1 })

end Sys2Proof.Machine
end

