-- ==== Sys2Proof/Machine/Control.lean ====
section
/-! DEFINITION. Clause headers (R53 to R56), control transfers (R108 to R111), ends and yields (R112, R113),
reconvergence (R115, R116) and the mask instructions (R117). -/

namespace Sys2Proof.Machine
open Sys2Proof

/-- The shadow of a region that starts (R336), in the cord as it stands after its group has entered the
clause. -/
def shadowOf (c : Cord) (entry : DWord) : Region :=
  { entry := entry, ret := c.retired.toNat, count := 0, lastPc := entry, handler := c.handler,
    lanes := c.strands.map (fun t => {
      pc := t.pc, clause := t.clause, park := t.park, p := t.p, tret := t.tret, tclause := t.tclause,
      entered := t.entered, refs := t.refs }),
    s := c.s, k := c.k, fp := c.fpflags }

/-- A PC group enters a clause (R54, R336): it stands at the clause's first instruction with the header in
force, and with RGN a region starts. The slow gear looks at that instruction anew. A header is no issue of a fair
round and marks no strand, an empty clause neither (log 84, DESIGN CHOICE: R27 does not say whether the issue slot
that R56 gives an empty clause is one). -/
def enterClause (h : Header) (lanes : List Nat) (pc : DWord) (c : Cord) : Cord :=
  let c : Cord := { c with slow := c.slow.map (fun z => { z with step := [] }) }
  let c := c.modLanes lanes (fun t => { t with pc := pc + 4, clause := some h })
  if h.rgn then { c with region := some (shadowOf c pc) } else c

/-- An operation of a long-latency class (R300): memory beyond L1, or an access in the fault buffer. -/
def longOp (s : State) (core : Nat) (o : Op) : Bool :=
  !onWindow o.kind && o.accs.any (fun a => a.open_
    && (a.st != .ready || writesMemory o.kind || (heldByte (coreOf s core) a.pa).isNone))

/-- A flag that a WAIT field names is held by such an operation, or by an engine's request. -/
def longWait (s : State) (u : Issue) (wait : BitVec 12) : Bool :=
  let named (f : Option Nat) : Bool := (f.map (fun n => wait.getLsbD n)).getD false
  u.cord.ops.any (fun o => named o.flag && longOp s u.blk.core o)
    || (coreOf s u.blk.core).requests.any (fun r => r.block == u.b && r.cord == u.c && named r.flag)

/-- A flag that a WAIT field names is held by a special-function or conversion operation. -/
def queuedWait (u : Issue) (wait : BitVec 12) : Bool :=
  u.cord.ops.any (fun o => (o.flag.map (fun n => wait.getLsbD n)).getD false && (match o.kind with
    | .queued _ _ | .cvtsc _ _ _ _ => true
    | _ => false))

/-- A cord whose next clause waits on a busy flag leaves its active slot where the header carries YIELD (R58) or the
flag is held by an operation of a long-latency class (R300); whether a queued one has more than 16 cycles left is
free (log 3). -/
def stallAtHeader (s : State) (u : Issue) (h : Header) : State :=
  if h.yield || longWait s u h.wait then swapOut s u.b u.c
  else if queuedWait u h.wait then
    let x := takeFree s
    if x.1.getLsbD 0 then swapOut x.2 u.b u.c else x.2
  else s

/-- CLAUSE_HEADER (R53 to R56, R336). It waits for the flags it names; it takes no issue and does not count
in %retired. With RGN, an open region ends first. -/
def execClauseHeader (h : Header) (s : State) : Host.Outcome State Fault Refusal :=
  match issueOf s 4 with
  | none => .fault .noCord
  | some u =>
    if !Header.ok h then .next (trapAt s u .illegalOpcode u.lanes 0 0)
    else if !waitClear (waitCount s u) h.wait then .next (stallAtHeader s u h)
    else if h.rgn && u.cord.region.isSome then .next (markEnding s u)
    else .next (modCord s u.b u.c (enterClause h u.lanes u.pc))

/-! ### Transfers -/

/-- The targets that R109 fetches, by lane: those not yet translated for fetch. -/
def untranslated (s : State) (u : Issue) (ts : List (Nat × DWord)) : List (Nat × DWord) :=
  ts.filter (fun t => (translate s u.b u.blk.core t.2.toNat .fetch).isNone)

/-- The fetches of targets asked for, one for each page (R109 step 2, R213). -/
def askFetches (u : Issue) (ts : List (Nat × DWord)) (s : State) : State :=
  let pages := (ts.map (fun t => granule t.2.toNat)).eraseDups
  pages.foldl (fun s p =>
    let mine := ts.filter (fun t => granule t.2.toNat == p)
    askWalk s u.blk.core
      { src := .fetch u.b u.c ((mine.map (fun t => t.2.toNat)).headD 0), pc := u.pc.toNat,
        smask := maskOf (mine.map Prod.fst) }) s

/-- The targets that are not clause headers (R109 step 3); a target outside device memory counts as one (log 120). -/
def notHeaders (s : State) (u : Issue) (ts : List (Nat × DWord)) : List (Nat × DWord) :=
  ts.filter (fun t => match translate s u.b u.blk.core t.2.toNat .fetch with
    | some pa => !isHeader (codeWord s pa)
    | none => false)

/-- A transfer from interlocked into native code waits for the cord's operations with register
destinations (R62). -/
def nativeWait (s : State) (u : Issue) (ts : List (Nat × DWord)) : Bool :=
  interlocked s u.b u.pc.toNat && ts.any (fun t => !interlocked s u.b t.2.toNat)
    && u.cord.ops.any opWrites

/-- The checks of R109 on the targets of the participants; then `k`. The record of a bad target names the strands whose
own target is bad (log 85, DESIGN CHOICE: the spec says only "strands concerned"). -/
def checkTargets (u : Issue) (s : State) (ts : List (Nat × DWord)) (k : Act) : Act :=
  let odd := ts.filter (fun t => t.2.toNat % 4 != 0)
  let far := untranslated s u ts
  let bad := notHeaders s u ts
  if !odd.isEmpty then .trap .illegalTarget (odd.map Prod.fst) 0 0
  else if !far.isEmpty then .ask (askFetches u far)
  else if !bad.isEmpty then .trap .illegalTarget (bad.map Prod.fst) 0 0
  else if nativeWait s u ts then .wait
  else k

/-- Strands move to their targets. -/
def goTo (ts : List (Nat × DWord)) (c : Cord) : Cord :=
  ts.foldl (fun c t => c.modLane t.1 (fun x => { x with pc := t.2 })) c

/-- The link that a call leaves (R108, R110): the return address in the pair D, and a reference to the code
version that contains it. -/
def linkLane (s : State) (u : Issue) (t : Strand) : Strand :=
  let back := u.pc + BitVec.ofNat 64 u.len
  match gridOfBlock s u.b with
  | some g =>
    match versionAt (ctxOf s g.part g.ctx) back.toNat with
    | some v => { t with refs := t.refs ++ [{ version := v.1, ret := back.toNat }] }
    | none => t
  | none => t

/-- A strand that executes RET releases its latest reference (R110). -/
def dropRef (t : Strand) : Strand := { t with refs := t.refs.dropLast }

/-- A transfer: `target` of each participant, `link` for a call, `ret` for a return. -/
def transfer (f : LForm) (target : Issue → Nat → DWord) (link ret : Bool) (u : Issue) (s : State) : Act :=
  let lanes := participants u f
  let ts := lanes.map (fun l => (l, target u l))
  if lanes.isEmpty then .go [] [] (fun t => t)
  else checkTargets u s ts (.go (if link then [f.d.toNat, f.d.toNat + 1] else []) [] (fun t =>
    modCord t u.b u.c (fun c =>
      let back := (u.pc + BitVec.ofNat 64 u.len).toNat
      let c := if link then
          (writeRegs (lanes.flatMap (fun l => putReg false true f.d.toNat l back)) c).modLanes lanes
            (linkLane t u)
        else c
      let c := if ret then c.modLanes lanes dropRef else c
      goTo ts c)))

/-- The PC-relative target of BRA and CALL (R108). -/
def relTarget (f : LForm) (u : Issue) (_ : Nat) : DWord := u.pc + (f.lit.getD 0).signExtend 64
/-- The target in a register pair (R108). -/
def regTarget (f : LForm) (u : Issue) (l : Nat) : DWord :=
  BitVec.ofNat 64 (regVal u.cord l f.asc true f.a.toNat)

/-- BRA (R108, R109). -/
def execBra (f : LForm) (s : State) := issue (.bra f) (transfer f (relTarget f) false false) s
/-- BRX (R108, R109). -/
def execBrx (f : LForm) (s : State) := issue (.brx f) (transfer f (regTarget f) false false) s
/-- CALL (R108 to R110). -/
def execCall (f : LForm) (s : State) := issue (.call f) (transfer f (relTarget f) true false) s
/-- CALLX (R108 to R110). -/
def execCallx (f : LForm) (s : State) := issue (.callx f) (transfer f (regTarget f) true false) s
/-- RET (R108 to R111). -/
def execRet (f : LForm) (s : State) := issue (.ret f) (transfer f (regTarget f) false true) s

/-- EXIT (R112). -/
def execExit (f : LForm) (s : State) :=
  issue (.exit f) (fun u _ => .go [] [] (fun t => endStrands t u.b u.c (participants u f))) s

/-- YIELD (R113): the cord leaves its active slot and is ready again at once. -/
def execYield (f : LForm) (s : State) :=
  issue (.yield f) (fun u _ => .go [] [] (fun t => swapOut t u.b u.c)) s

/-! ### Reconvergence and masks -/

/-- The mask number of JOIN, LEAVE and WAITM. -/
def maskNum (f : LForm) : Nat := f.a.toNat

/-- JOIN (R29, R115). -/
def execJoin (f : LForm) (s : State) :=
  issue (.join f) (fun u _ => .go [] [] (fun t => modCord t u.b u.c (fun c =>
    writeMask c (maskNum f) (c.mask (maskNum f) ||| maskOf (participants u f))))) s
/-- LEAVE (R29, R115). -/
def execLeave (f : LForm) (s : State) :=
  issue (.leave f) (fun u _ => .go [] [] (fun t => modCord t u.b u.c (fun c =>
    writeMask c (maskNum f) (c.mask (maskNum f) &&& ~~~(maskOf (participants u f)))))) s
/-- WAITM (R30, R115, R116): the participants in the mask park, and the check is made. -/
def execWaitm (f : LForm) (s : State) :=
  issue (.waitm f) (fun u _ => .go [] [] (fun t => modCord t u.b u.c (fun c =>
    let lanes := (participants u f).filter (fun l => (c.mask (maskNum f)).getLsbD l)
    checkWaitm (parkLanes u (flagOf u f.setf f.fsel) u.cord.retired.toNat lanes (.waitm (maskNum f)) c)
      (maskNum f)))) s

/-- The writes of a 64-bit value to a scalar pair. -/
def scalPair (r : Nat) (x : DWord) : List RegW := [.s r (lo32 x), .s (r + 1) (hi32 x)]

/-- A cord-level instruction that writes mask D. -/
def maskBody (f : LForm) (g : Cord → DWord) (u : Issue) (_ : State) : Act :=
  .go [] [] (fun t => modCord t u.b u.c (fun c => writeMask c f.d.toNat (g u.cord)))

/-- KSET (R117). -/
def execKset (f : LForm) (s : State) :=
  issue (.kset f) (maskBody f (fun c => match f.lit with
    | some w => w.setWidth 64
    | none => pair64 (c.scal f.a.toNat) (c.scal (f.a.toNat + 1)))) s
/-- KMOV and KMOV.tos (R117). -/
def execKmov (f : LForm) (s : State) :=
  issue (.kmov f) (fun u s =>
    if f.mod == 1 then goRegs u (scalPair f.d.toNat (u.cord.mask f.a.toNat))
    else maskBody f (fun c => c.mask f.a.toNat) u s) s
/-- KAND and KAND.n (R117). -/
def execKand (f : LForm) (s : State) :=
  issue (.kand f) (maskBody f (fun c =>
    let b := c.mask f.b.toNat
    c.mask f.a.toNat &&& (if f.mod == 1 then ~~~b else b))) s
/-- KOR (R117). -/
def execKor (f : LForm) (s : State) :=
  issue (.kor f) (maskBody f (fun c => c.mask f.a.toNat ||| c.mask f.b.toNat)) s
/-- KPOP and KPOP.low (R117). -/
def execKpop (f : LForm) (s : State) :=
  issue (.kpop f) (fun u _ =>
    let ls := lanesOf (u.cord.mask f.a.toNat)
    goRegs u [.s f.d.toNat (BitVec.ofNat 32
      (if f.mod == 1 then ls.headD 0xFFFFFFFF else ls.length))]) s

end Sys2Proof.Machine
end

