-- ==== Sys2Proof/Machine/CrossLane.lean ====
section
/-! DEFINITION. Cross-lane work (R105, R118 to R123). Every source is read in all lanes before any
destination is written: the results are formed from the cord at issue. -/

namespace Sys2Proof.Machine
open Sys2Proof

/-- The writes of a predicate in some lanes. -/
def putPred (n : Nat) (lanes : List Nat) (x : Bool) : List RegW := lanes.map (fun l => .p l n x)

/-- The writes of one value to a register or pair of each lane. -/
def putAll (f : LForm) (wide : Bool) (rs : List (Nat × Nat)) : List RegW :=
  rs.flatMap (fun r => putReg false wide f.d.toNat r.1 r.2)

/-- The participants whose predicate A holds, as a mask (R118). -/
def ballot (u : Issue) (f : LForm) : Mask :=
  maskOf ((participants u f).filter (fun l => (u.cord.lane l).pred f.a.toNat))

/-- VOTE (R118). -/
def execVote (f : LForm) (s : State) :=
  issue (.vote f) (fun u _ =>
    let m := ballot u f
    if f.mod == 2 then goRegs u (putReg true true f.d.toNat 0 m.toNat)
    else goRegs u (putPred f.d.toNat u.lanes
      (if f.mod == 0 then m != 0 else m == maskOf (participants u f)))) s

/-- The lane that lane l names with n in SHFL (R119); none below lane 0. -/
def shflLane (mode l n : Nat) : Option Nat :=
  match mode with
  | 0 => some n
  | 1 => if l < n then none else some (l - n)
  | 2 => some (l + n)
  | _ => some (l ^^^ n)

/-- The lane that lane l pushes to with n in SHFLP (R120): up adds and down subtracts. -/
def shflpLane (mode l n : Nat) : Option Nat :=
  match mode with
  | 1 => some (l + n)
  | 2 => if l < n then none else some (l - n)
  | m => shflLane m l n

/-- SHFL (R119). -/
def execShfl (f : LForm) (s : State) :=
  issue (.shfl f) (fun u _ =>
    let part := participants u f
    goRegs u (putAll f (wideTy f.ty) (part.map (fun l =>
      let src := match shflLane f.mod.toNat l (valB u.cord f 0 l) with
        | some q => if part.contains q then q else l
        | none => l
      (l, valA u.cord f f.ty.toNat src))))) s

/-- The highest lane among the participants that pushes to lane t (R120). -/
def pusher (u : Issue) (f : LForm) (t : Nat) : Option Nat :=
  ((participants u f).filter (fun l =>
    shflpLane f.mod.toNat l (valB u.cord f 0 l) == some t)).getLast?

/-- SHFLP (R120). -/
def execShflp (f : LForm) (s : State) :=
  issue (.shflp f) (fun u _ =>
    let part := participants u f
    let got := part.filterMap (fun t => (pusher u f t).map (fun l => (t, valA u.cord f f.ty.toNat l)))
    goRegs u (putAll f (wideTy f.ty) got
      ++ (if f.mod2 == 1 then part.map (fun t => .p t f.c.toNat (pusher u f t).isSome) else []))) s

/-- A node of Table 5-6. -/
def nodeOp (mod ty : Nat) (x y : Nat) : Nat × FpFlags :=
  let sg := signedTy ty
  let w := eltBits ty
  match mod with
  | 0 => if ty == 3 then fp32.add 0 x y else (wrapInt w (toInt sg w x + toInt sg w y), 0)
  | 1 => if ty == 3 then (fp32.min x y, 0) else (if toInt sg w x ≤ toInt sg w y then x else y, 0)
  | 2 => if ty == 3 then (fp32.max x y, 0) else (if toInt sg w y ≤ toInt sg w x then x else y, 0)
  | 3 => (x &&& y, 0)
  | 4 => (x ||| y, 0)
  | _ => (x ^^^ y, 0)

/-- The identity of Table 5-6. -/
def nodeId (mod ty : Nat) : Nat :=
  let sg := signedTy ty
  let w := eltBits ty
  match mod with
  | 0 => if ty == 3 then 0x80000000 else 0
  | 1 => if ty == 3 then 0x7F800000 else wrapInt w (maxInt sg w)
  | 2 => if ty == 3 then 0xFF800000 else wrapInt w (minInt sg w)
  | 3 => 0xFFFFFFFF
  | _ => 0

/-- The leaves of the tree (R121): a participant's A, else the identity. -/
def treeLeaves (u : Issue) (f : LForm) : List Nat :=
  let part := participants u f
  (List.range u.blk.width).map (fun l =>
    if part.contains l then valA u.cord f f.ty.toNat l else nodeId f.mod.toNat f.ty.toNat)

/-- One level of the tree: neighbours combined, the lower on the left, with the flags they raise. -/
def pairUp (g : Nat → Nat → Nat × FpFlags) : List Nat → List Nat × FpFlags
  | x :: y :: t =>
    let r := g x y
    let rest := pairUp g t
    (r.1 :: rest.1, r.2 ||| rest.2)
  | t => (t, 0)

/-- The levels of the tree from the leaves up, each a list of nodes, with all the flags. -/
def treeLevels (g : Nat → Nat → Nat × FpFlags) : Nat → List Nat → List (List Nat) × FpFlags
  | 0, xs => ([xs], 0)
  | n + 1, xs =>
    let up := pairUp g xs
    let rest := treeLevels g n up.1
    (xs :: rest.1, up.2 ||| rest.2)

/-- The value at the root of the tree and the flags of all its nodes (R121). W is a power of 2. -/
def treeRoot (g : Nat → Nat → Nat × FpFlags) (leaves : List Nat) : Nat × FpFlags :=
  let t := treeLevels g (Nat.log2 leaves.length) leaves
  ((t.1.getLast?.bind (fun x => x.head?)).getD 0, t.2)

/-- REDUCE (R121). -/
def execReduce (f : LForm) (s : State) :=
  issue (.reduce f) (fun u _ =>
    let r := treeRoot (nodeOp f.mod.toNat f.ty.toNat) (treeLeaves u f)
    let wide := wideTy f.ty
    goRegs u ((if f.mod2 == 1 then putReg true wide f.d.toNat 0 r.1
        else putAll f wide (u.lanes.map (fun l => (l, r.1))))
      ++ putPred f.c.toNat u.lanes (participants u f).isEmpty
      ++ (if r.2 = 0 then [] else [.fp r.2]))) s

/-- The nodes of leaves pos to stop - 1 from the left, each the largest that starts where it stands and
does not pass the end (R122), as (level, index). -/
def scanNodes : Nat → Nat → Nat → List (Nat × Nat)
  | 0, _, _ => []
  | fuel + 1, pos, stop =>
    if stop ≤ pos then []
    else
      let fits := (List.range 7).filter (fun k => pos % 2 ^ k == 0 && pos + 2 ^ k ≤ stop)
      let k := fits.getLast?.getD 0
      (k, pos / 2 ^ k) :: scanNodes fuel (pos + 2 ^ k) stop

/-- The prefix over leaves 0 to n - 1 (R122): its nodes combined from left to right, with the flags of
those combinations. -/
def scanPrefix (g : Nat → Nat → Nat × FpFlags) (levels : List (List Nat)) (ident n : Nat) :
    Nat × FpFlags :=
  match (scanNodes 64 0 n).map (fun x => (levels.getD x.1 []).getD x.2 ident) with
  | [] => (ident, 0)
  | v :: vs => vs.foldl (fun a v =>
      let r := g a.1 v
      (r.1, a.2 ||| r.2)) (v, 0)

/-- SCAN (R122). -/
def execScan (f : LForm) (s : State) :=
  issue (.scan f) (fun u _ =>
    let g := nodeOp f.mod.toNat f.ty.toNat
    let leaves := treeLeaves u f
    let t := treeLevels g (Nat.log2 leaves.length) leaves
    let rs := (participants u f).map (fun l =>
      (l, scanPrefix g t.1 (nodeId f.mod.toNat f.ty.toNat) (if f.mod2 == 1 then l else l + 1)))
    let fl := rs.foldl (fun a r => a ||| r.2.2) t.2
    goRegs u (putAll f (wideTy f.ty) (rs.map (fun r => (r.1, r.2.1)))
      ++ (if fl = 0 then [] else [.fp fl]))) s

/-- The class of lane l: the participants with its value of A (R123). -/
def classOf (u : Issue) (f : LForm) (l : Nat) : List Nat :=
  (participants u f).filter (fun t => valA u.cord f f.ty.toNat t == valA u.cord f f.ty.toNat l)

/-- MATCH (R123). -/
def execMatchLanes (f : LForm) (s : State) :=
  issue (.matchLanes f) (fun u _ =>
    let part := participants u f
    match f.mod.toNat with
    | 0 => goRegs u (putAll f false (part.map (fun l => (l, (classOf u f l).headD 0))))
    | 1 => goRegs u (putAll f false (part.map (fun l =>
        (l, ((classOf u f l).filter (fun t => t < l)).length
          + (classOf u f l).length * 65536))))
    | 2 => goRegs u (putAll f true (part.map (fun l => (l, (maskOf (classOf u f l)).toNat))))
    | _ => goRegs u (putPred f.d.toNat u.lanes
        (part.all (fun l => (classOf u f l).length == part.length)))) s

end Sys2Proof.Machine
end

