-- ==== Sys2Proof/Machine/Access.lean ====
section
/-! DEFINITION. Accesses: addresses and data of the memory instructions (R259, R260, R265), the issue checks of
Table 13-2, the order of one strand's accesses (R235, R230), where an access goes (Table 11-2), and the
scratchpad windows (R133, R153, R157). -/

namespace Sys2Proof.Machine
open Sys2Proof

/-! ### Addresses and data -/

/-- The size of a load or store (Table 13-4). -/
def accSize (f : LForm) : Nat :=
  match f.mod2.toNat % 4 with
  | 1 => 1
  | 2 => 2
  | 3 => 16
  | _ => if wideTy f.ty then 8 else 4

/-- The size of a step (R274). -/
def stepSize (f : LForm) : Nat := if wideTy f.ty then 8 else 4

/-- The global address of a strand (R260). -/
def eaGlobal (u : Issue) (f : LForm) (l : Nat) : Nat :=
  (regVal u.cord l f.asc true f.a.toNat + ((u.cord.lane l).reg f.c.toNat).toNat) % 2 ^ 64

/-- The 32-bit base of a scratchpad operand. -/
def baseLocal (u : Issue) (f : LForm) (l : Nat) : Nat := regVal u.cord l f.asc false f.a.toNat

/-- The offset of a scratchpad access, without wrap (R260). -/
def offLocal (u : Issue) (f : LForm) (l : Nat) : Nat :=
  bits (baseLocal u f l) 23 0 + ((u.cord.lane l).reg f.c.toNat).toNat

/-- A position and an offset as one number (R133). -/
def packPos (pos off : Nat) : Nat := pos * 2 ^ 24 + off

/-- The registers of a 128-bit operand from r up. -/
def quadVal (c : Cord) (l : Nat) (scalar : Bool) (r : Nat) : Nat :=
  regVal c l scalar true r + 2 ^ 64 * regVal c l scalar true (r + 2)

/-- The bytes that a store or step brings in lane l (R267). -/
def dataBytes (u : Issue) (f : LForm) (size l : Nat) : List Byte :=
  if size = 16 then leBytes 16 (quadVal u.cord l f.bsc f.b.toNat)
  else leBytes size (valB u.cord f f.ty.toNat l)

/-- What a load writes to its registers (Table 13-4), one value after another. -/
def loadWords (f : LForm) (bs : List Byte) : List Nat :=
  let x := leNat bs
  match f.mod2.toNat % 4 with
  | 1 => [if f.ty == 1 then wrapInt 32 (toInt true 8 x) else x]
  | 2 => [if f.ty == 1 then wrapInt 32 (toInt true 16 x) else x]
  | 3 => [x % 2 ^ 32, x / 2 ^ 32 % 2 ^ 32, x / 2 ^ 64 % 2 ^ 32, x / 2 ^ 96 % 2 ^ 32]
  | _ => if wideTy f.ty then [x % 2 ^ 32, x / 2 ^ 32] else [x]

/-- The writes of a load's registers in lane l. -/
def loadWs (f : LForm) (l : Nat) (bs : List Byte) : List RegW :=
  ((loadWords f bs).zipIdx).map (fun e => .v l (f.d.toNat + e.2) (BitVec.ofNat 32 e.1))

/-- A trap of Table 13-2 in the lanes that fail, with the address of the lowest. -/
def trapFor (cause : Cause) (bad : List (Nat × Nat)) : Act :=
  .trap cause (bad.map Prod.fst) 0 ((bad.map Prod.snd).headD 0)

/-- Rows 2 and 3 of Table 13-2 over the participants' addresses; then `k`. -/
def checkGlobal (eas : List (Nat × Nat)) (canon : Bool) (align : Nat) (k : Act) : Act :=
  let far := eas.filter (fun e => 2 ^ 57 ≤ e.2)
  let odd := eas.filter (fun e => e.2 % align != 0)
  if canon && !far.isEmpty then trapFor .addrCanon far
  else if !odd.isEmpty then trapFor .alignFault odd
  else k

/-! ### Windows -/

/-- The block of a braid at a cluster position (R133): the latest placed there. -/
def mateAt (s : State) (b pos : Nat) : Option Nat :=
  (List.range s.blocks.length).reverse.find? (fun i =>
    match s.blocks[i]? with
    | some x => (x.grid, x.braid) == braidOf s b && x.pos == pos
    | none => false)

/-- A range of bytes lies within a block's window (R153). -/
def inWindow (x : Block) (off size : Nat) : Bool := off + size ≤ 256 * x.lines

/-- The block and offset of a scratchpad range, if it lies in a window of the braid. -/
def placeLocal (s : State) (b pos off size : Nat) : Option (Nat × Nat) :=
  (mateAt s b pos).bind (fun i => (s.blocks[i]?).bind (fun x =>
    if inWindow x off size then some (i, off) else none))

/-- The window lines of a range of bytes. -/
def linesOf (off size : Nat) : List Nat :=
  if size = 0 then [] else (List.range ((off + size - 1) / 256 + 1 - off / 256)).map (fun k => off / 256 + k)

/-- The presence bits of a range are set (R157). -/
def present (s : State) (b off size : Nat) : Bool :=
  match s.blocks[b]? with
  | some x => (linesOf off size).all (fun n => x.presence.getD n 0 == 0)
  | none => false

/-- Bytes of a block's window. -/
def winRead (s : State) (b off n : Nat) : List Byte :=
  match s.blocks[b]? with
  | some x => memRead x.window off n
  | none => List.replicate n 0

/-- Whether a byte of a range of a window is poisoned (R348). -/
def winPoison (s : State) (b off n : Nat) : Bool :=
  match s.blocks[b]? with
  | some x => x.wpoison.any (fun a => off ≤ a && a < off + n)
  | none => false

/-- Which bytes of a range of a window are poisoned (R348). -/
def winPoisons (s : State) (b off n : Nat) : List Bool :=
  match s.blocks[b]? with
  | some x => (List.range n).map (fun i => x.wpoison.contains (off + i))
  | none => List.replicate n false

/-- Of the addresses from one on, those that a list marks; those beyond it are not marked. -/
def markedFrom (a : Nat) (marks : List Bool) : List Nat := (marks.zipIdx.filter Prod.fst).map (fun e => a + e.2)

/-- Bytes written into a block's window; `poison` marks the poisoned ones (R348). -/
def winWrite (s : State) (b off : Nat) (bs : List Byte) (poison : List Bool) : State :=
  modBlock s b (fun x =>
    let clear := x.wpoison.filter (fun a => !(off ≤ a && a < off + bs.length))
    { x with
      window := memWrite x.window off bs,
      wpoison := clear ++ markedFrom off (poison.take bs.length) })

/-! ### The order of accesses -/

/-- An access parked in the fault buffer or waiting for it. -/
def Acc.parked (a : Acc) : Bool :=
  match a.st with
  | .buffered _ => true
  | _ => false

/-- The bytes that an access touches: its own, or its doubleword where a cell is concerned. -/
def span (cell : Bool) (a : Acc) : Nat × Nat := if cell then (dwOf a.va, 8) else (a.va, a.size)

/-- Two accesses touch a common byte (R230, so). -/
def overlaps (k1 k2 : OpKind) (a1 a2 : Acc) : Bool :=
  let cell := onCell k1 || onCell k2
  let x := span cell a1
  let y := span cell a2
  onWindow k1 == onWindow k2 && x.1 < y.1 + y.2 && y.1 < x.1 + x.2

/-- An earlier access of the same strand holds a later one back (R214, R230, R235): it stands before a
boundary, or it shares the stream and touches a common byte on the same path or is parked in the fault buffer; `det`: in
deterministic mode the accesses of a strand to a common byte keep their order in every stream (R309). -/
def holdsBack (det : Bool) (p o : Op) (e a : Acc) : Bool :=
  e.open_ && e.lane == a.lane
    && (e.epoch < a.epoch || ((det || p.stream == o.stream) && overlaps p.kind o.kind e a)
      || (p.stream == o.stream && e.parked))

/-- An access of the block from before a block barrier holds a later one back: what a strand did before its arrival
happens before what another does after its departure (R239, R243). -/
def holdsBlock (e a : Acc) : Bool := e.open_ && e.bep < a.bep

/-- An earlier access of an operation holds a later one back; `same`: they belong to one cord. -/
def opHolds (det same : Bool) (p o : Op) (a : Acc) : Bool :=
  !eventless p.kind && p.accs.any (fun e => (same && holdsBack det p o e a) || holdsBlock e a)

/-- Operations of a cord that come before an operation, given by its id. -/
def opsBefore (c : Cord) (id : Nat) : List Op := c.ops.filter (fun p => p.id < id)

/-- An operation as it stands before an access of another: what its braid has staged counts as performed, but for a store
to a byte of it. -/
def viewFor (s : State) (b : Nat) (p o : Op) (a : Acc) : Op :=
  if plainStore o.kind && p.accs.any (fun e => e.open_ && overlaps p.kind o.kind e a) then p else viewOp s b p

/-- Whether something earlier holds an access back. -/
def blocked (s : State) (b c : Nat) (o : Op) (a : Acc) : Bool :=
  match s.blocks[b]? with
  | none => true
  | some x =>
    let det := detMode s b
    (List.range x.cords.length).any (fun i =>
      match x.cords[i]? with
      | none => false
      | some y =>
        if i = c then (opsBefore y o.id).any (fun p => opHolds det true (viewFor s b p o a) o a)
        else y.ops.any (fun p => opHolds det false (viewFor s b p o a) o a))

/-- Every access that a block made before its last barrier is performed, so that what its strands do now may be seen
to follow it (R239). -/
def blockQuiet (s : State) (b : Nat) : Bool :=
  match s.blocks[b]? with
  | none => true
  | some x => x.cords.all (fun y => (viewCord s b y).ops.all (fun o =>
      eventless o.kind || o.accs.all (fun a => !a.open_ || a.bep == x.epoch)))

/-- An access of a lane of an issuing instruction, with the boundaries its strand and block have taken. -/
def newAcc (u : Issue) (l va size : Nat) (data data2 : List Byte) : Acc :=
  { lane := l, va := va, size := size, data := data, data2 := data2,
    epoch := (u.cord.lane l).epoch, bep := u.blk.epoch }

/-! ### Translation of an operation's accesses -/

/-- What an operation needs of its pages (R211). -/
def opNeed (k : OpKind) : Need := if writesMemory k then .write else .read

/-- The accesses of an operation on pages that the die has translated become ready. -/
def startAcc (s : State) (b core : Nat) (k : OpKind) (a : Acc) : Acc :=
  if onWindow k then { a with st := .ready }
  else match translate s b core a.va (opNeed k) with
    | some pa => { a with st := .ready, pa := pa }
    | none => a

/-- The walks that an operation's waiting accesses ask for, one for each page (R213). -/
def opWalks (b c : Nat) (o : Op) : List WalkReq :=
  let ws := o.accs.filter (fun a => a.st == .wait)
  ((ws.map (fun a => granule a.va)).eraseDups).map (fun p =>
    let mine := ws.filter (fun a => granule a.va == p)
    { src := .op b c o.id ((mine.map (fun a => a.va)).headD 0), pc := o.pc.toNat,
      smask := maskOf (mine.map Acc.lane) })

/-- An operation with accesses is taken: those whose pages are translated are ready, and walks are asked for
the others. The lanes of one issue on one page are translated together and meet the same entry, where R212 lets each access
meet the former or the new one (log 123, DESIGN CHOICE). -/
def addAccOp (s : State) (u : Issue) (o : Op) : State :=
  let id := (cordOf s u.b u.c).map Cord.nextOp
  let o : Op := { o with accs := o.accs.map (startAcc s u.b u.blk.core o.kind) }
  let s := addOp s u o
  match id with
  | none => s
  | some id => (opWalks u.b u.c { o with id := id }).foldl (fun s w => askWalk s u.blk.core w) s

/-! ### Where an access goes -/

/-- Where a translated access is served: its home, the management window at an offset, the outside world,
not yet (a port in recovery), or nowhere (with the DETAIL of R262). -/
inductive Reach where
  | home
  | mgmt (off : Nat)
  | far
  | waits
  | reject (detail : Nat)
  deriving DecidableEq, Repr

/-- The ports toward a peer (R367). -/
def portsTo (s : State) (peer : Nat) : List Port :=
  let mask := (s.mgmt.masks.getD peer 0).toNat
  ((List.range 16).filter (fun n => mask.testBit n)).map (fun n => (tabGet s.ports n).getD {})

/-- How traffic to a peer stands (R379): carried, waiting for a recovery, or lost or unreachable. -/
def reachPeer (s : State) (peer off : Nat) : Reach :=
  let ps := portsTo s peer
  if ps.any (fun p => p.up && p.window.isNone) then
    (if populated off then .far else .reject 7)
  else if ps.any (fun p => p.up) then .waits
  else .reject 8

/-- The doorbell page of a partition's rings in the management block (R361, R362). -/
def doorbellPage (part : Nat) : Nat := 0x20000 + 0x1000 * part

/-- The partition of a block. -/
def partOfBlock (s : State) (b : Nat) : Nat := ((gridOfBlock s b).map Grid.part).getD 0

/-- Where an access of a block is served; `plain`: a load or store (R362). -/
def reachOf (s : State) (b pa size : Nat) (plain : Bool) : Reach :=
  match placeOf pa with
  | .homed => .home
  | .hole => .reject 7
  | .mgmt =>
    let off := pa - 0xFFFFFF000000
    let page := doorbellPage (partOfBlock s b)
    if plain && size == 8 && page ≤ off && off < page + 0x1000 then .mgmt off else .reject 7
  | .host => .far
  | .peer i => reachPeer s i (pa % 2 ^ 44)

/-- A message sent out of the module. -/
def send (s : State) (m : Msg) : State := { s with out := s.out ++ [m] }

/-- What a write to the doorbell page of a partition does: a ring's doorbell rings (R369, R384). -/
def ringWrite (s : State) (part off : Nat) : State :=
  modPart s part (fun p =>
    let r := (off - doorbellPage part) / 8
    match tabGet p.rings r with
    | some x => { p with rings := tabPut p.rings r { x with rung := true } }
    | none => p)

/-- n free bytes: what a read of memory that the module does not home returns (log 3). -/
def freeBytes : Nat → State → List Byte × State
  | 0, s => ([], s)
  | n + 1, s =>
    let x := takeFree s
    let rest := freeBytes n x.2
    (x.1.setWidth 8 :: rest.1, rest.2)

end Sys2Proof.Machine
end

