-- ==== Sys2Proof/Machine/Tensor.lean ====
section
/-! DEFINITION. Tensor descriptor entries (Table 7-6), the formats they name (Table 7-7, R151), and scaled
elements (R144). -/

namespace Sys2Proof.Machine
open Sys2Proof

/-- Bits hi..lo of an entry. -/
def dField (e : BitVec 512) (hi lo : Nat) : Nat := bits e.toNat hi lo
/-- FMT. -/
def dFmt (e : BitVec 512) : Nat := dField e 3 0
/-- RANK. -/
def dRank (e : BitVec 512) : Nat := dField e 6 4
/-- VALID. -/
def dValid (e : BitVec 512) : Bool := e.getLsbD 7
/-- SCALE, signed. -/
def dScale (e : BitVec 512) : Int := toInt true 8 (dField e 15 8)
/-- RS. -/
def dRs (e : BitVec 512) : Bool := e.getLsbD 16
/-- RSADDR. -/
def dRsAddr (e : BitVec 512) : Nat := dField e 120 64
/-- DIMk. -/
def dDim (e : BitVec 512) (k : Nat) : Nat := dField e (159 + 32 * k) (128 + 32 * k)
/-- STRk, for k from 1 to 3. -/
def dStr (e : BitVec 512) (k : Nat) : Nat := dField e (303 + 64 * (k - 1)) (256 + 64 * (k - 1))

/-- Bits of one element of a descriptor format (Table 7-7). -/
def fmtBits (x : Nat) : Nat :=
  match x with
  | 0x0 => 32
  | 0x1 | 0x2 | 0x8 | 0x9 => 16
  | 0x7 => 4
  | 0xB => 2
  | _ => 8

/-- The bytes of one element as strides count them: 1 for Q4O and I2 (R146). -/
def fmtBytes (x : Nat) : Nat := Nat.max 1 (fmtBits x / 8)

/-- The type code of a descriptor format that is also a register type (Tables 3-5, 7-7). -/
def fmtTy (x : Nat) : Nat :=
  match x with
  | 0x0 => 3
  | 0x1 => 6
  | 0x2 => 7
  | 0x3 => 8
  | 0x4 => 9
  | 0x5 => 11
  | 0x6 => 13
  | 0x7 => 10
  | 0x8 => 12
  | _ => 14

/-- Whether firmware emulates a format (R152). -/
def fmtEmulated (x : Nat) : Bool := x == 0xA || x == 0xB

/-- E3M2 (R151): no infinity and no NaN. -/
def e3m2 : Fmt := { m := 2, e := 3, bias := 3, inf := false, nan := false }

/-- The reserved fields of an entry are 0 (Table 7-6). -/
def dReservedOk (e : BitVec 512) : Bool :=
  dField e 511 432 == 0 && dField e 383 368 == 0 && dField e 319 304 == 0
    && dField e 127 121 == 0 && dField e 63 17 == 0

/-- Whether TDSET accepts an entry (R146). -/
def dAccepted (e : BitVec 512) : Bool :=
  let f := dFmt e
  let r := dRank e
  f ≤ 0xB && 1 ≤ r && r ≤ 4
    && (List.range 4).all (fun k =>
      if k < r then 1 ≤ dDim e k && dDim e k ≤ 2 ^ 31 - 1 else dDim e k == 1)
    && (f != 0x7 || dDim e 0 % 2 == 0) && (f != 0xB || dDim e 0 % 4 == 0)
    && [1, 2, 3].all (fun k => r ≤ k || dStr e k % fmtBytes f == 0)
    && (!dRs e || dRsAddr e % 4 == 0)
    && dReservedOk e

/-- Byte offset of the element at some indices (R146). -/
def dOffset (e : BitVec 512) (i0 i1 i2 i3 : Nat) : Nat :=
  i0 * fmtBits (dFmt e) / 8 + i1 * dStr e 1 + i2 * dStr e 2 + i3 * dStr e 3

/-- Element i of a run of bytes, given as a number, in a descriptor format, and whether it was
ill-formed (R140, R151). -/
def fmtElt (f x i : Nat) : FVal × Bool :=
  if f = 0xA then
    let b := elt x 8 i
    if 64 ≤ b then (.fin false 0 1, true) else (e3m2.decode b, false)
  else if f = 0xB then (valOfInt (toInt true 2 (elt x 2 i)), false)
  else eltVal x (fmtTy f) i

/-- Element i of a run of bytes replaced by a value converted to a descriptor format (R98, R151). -/
def fmtPut (f old i mode : Nat) (wrap : Bool) (v : FVal) : Nat × FpFlags :=
  if f = 0xA then
    let r : Nat × FpFlags := match v with
      | .nan => (0, fNV)
      | .inf s => (e3m2.largest s, fNV)
      | .fin s n d => e3m2.round mode .saturate s n d false
    (setElt old 8 i r.1, r.2)
  else if f = 0xB then
    let r := intFromVal true 2 mode wrap v
    (setElt old 2 i r.1, r.2)
  else putVal old (fmtTy f) i mode wrap v

/-- 2^x as a value. -/
def pow2Val (x : Int) : FVal :=
  let v := scale2 1 x
  .fin false v.1 v.2

/-- q × 2^x × r (R144), exact, with the flags of the product's invalid cases. -/
def scaled (q : FVal) (x : Int) (r : FVal) : FVal × FpFlags :=
  let a := mulVal q (pow2Val x)
  let b := mulVal a.1 r
  (b.1, a.2 ||| b.2)

/-- v / (2^x × r) (R103, R144), exact, with the flags of IEEE. -/
def unscaled (v : FVal) (x : Int) (r : FVal) : FVal × FpFlags := divVal v (mulVal (pow2Val x) r).1

/-- The descriptor entry of a context (R145). -/
def descOf (s : State) (part ctx id : Nat) : BitVec 512 := (tabGet (ctxOf s part ctx).desc id).getD 0

/-- The entry that a block's context holds under an id. -/
def blockDesc (s : State) (b id : Nat) : BitVec 512 :=
  match gridOfBlock s b with
  | some g => descOf s g.part g.ctx id
  | none => 0

end Sys2Proof.Machine
end

