-- ==== Sys2Proof/Machine/Queue.lean ====
section
/-! DEFINITION. The special-function and conversion queues (R78, R95 to R104): the operation is formed at issue
and its results are written when it completes. -/

namespace Sys2Proof.Machine
open Sys2Proof

/-- Which queue of a side an operation stands in: 0 special functions, 1 conversions. -/
def opQueue (o : Op) : Option Nat :=
  match o.kind with
  | .queued _ _ => some o.stream
  | .cvtsc _ _ _ _ => some 1
  | _ => none

/-- How many instructions a queue of a side of a core holds (R78). -/
def queueLoad (s : State) (core side q : Nat) : Nat :=
  (s.blocks.map (fun b =>
    if b.core = core ∧ b.side = side then
      (b.cords.map (fun c => (c.ops.filter (fun o => opQueue o == some q)).length)).sum
    else 0)).sum

/-- The queue is full (R78): 8 instructions. -/
def queueFull (s : State) (u : Issue) (q : Nat) : Bool := 8 ≤ queueLoad s u.blk.core u.blk.side q

/-- What a queued instruction gives in one lane: the result, its flags, and whether it faults. -/
structure Queued where
  x   : Nat
  fl  : FpFlags := 0
  bad : Bool := false
  deriving DecidableEq, Repr

/-- The registers of a destination. -/
def destRegs (d ty : Nat) : List Nat := if wideNat ty then [d, d + 1] else [d]

/-- The writes of a queued result. -/
def queuedWs (d ty : Nat) (rs : List (Nat × Queued)) : List RegW :=
  rs.flatMap (fun r => putReg false (wideNat ty) d r.1 r.2.x
    ++ (if r.2.fl = 0 then [] else [.fp r.2.fl]))

/-- The imprecise cause of some queued results, with its strands. -/
def queuedCause (cause : Cause) (rs : List (Nat × Queued)) : Option (Cause × Mask) :=
  let bad := (rs.filter (fun r => r.2.bad)).map Prod.fst
  if bad.isEmpty then none else some (cause, maskOf bad)

/-- A queued instruction: it waits at issue while its queue is full (R78). -/
def queuedBody (q : Nat) (f : LForm) (cause : Cause) (g : Cord → Nat → Queued) (u : Issue) (s : State) :
    Act :=
  if queueFull s u q then .wait
  else
    let lanes := participants u f
    let rs := lanes.map (fun l => (l, g u.cord l))
    goOp u (destRegs f.d.toNat f.ty.toNat) []
      { newOp s u f lanes (.queued (queuedWs f.d.toNat f.ty.toNat rs) (queuedCause cause rs)) [] with
        stream := q }

/-- A function of the special-function queue on each element of A (R95). -/
def sfuBody (f : LForm) (g : Fmt → Nat → Nat × FpFlags) : Issue → State → Act :=
  queuedBody 0 f .intDivz (fun c l =>
    let r := eachElt f.ty.toNat (fun x _ _ => g (fmtOf f.ty.toNat) x) (valA c f f.ty.toNat l) 0 0
    { x := r.1, fl := r.2 })

/-- Integer division truncated toward zero; by 0 it gives all ones (R97). -/
def divInt (sg : Bool) (x y : Nat) : Nat :=
  if y = 0 then 2 ^ 32 - 1 else wrapInt 32 (Int.tdiv (toInt sg 32 x) (toInt sg 32 y))

/-- The remainder, with the sign of x; by 0 it gives x (R97). -/
def remInt (sg : Bool) (x y : Nat) : Nat :=
  if y = 0 then x else wrapInt 32 (Int.tmod (toInt sg 32 x) (toInt sg 32 y))

/-- DIV (R96, R97). -/
def execDiv (f : LForm) (s : State) :=
  issue (.div f) (queuedBody 0 f .intDivz (fun c l =>
    let x := valA c f f.ty.toNat l
    let y := valB c f f.ty.toNat l
    if f.ty == 3 then
      let r := fdiv32 f.mod.toNat x y
      { x := r.1, fl := r.2 }
    else { x := divInt (f.ty == 1) x y, bad := y == 0 })) s
/-- REM (R97). -/
def execRem (f : LForm) (s : State) :=
  issue (.rem f) (queuedBody 0 f .intDivz (fun c l =>
    let x := valA c f f.ty.toNat l
    let y := valB c f f.ty.toNat l
    { x := remInt (f.ty == 1) x y, bad := y == 0 })) s
/-- RCP (R96). -/
def execRcp (f : LForm) (s : State) := issue (.rcp f) (sfuBody f (fun F x => F.rcp f.mod.toNat x)) s
/-- RSQ (R96). -/
def execRsq (f : LForm) (s : State) := issue (.rsq f) (sfuBody f Fmt.rsq) s
/-- SQRT (R96). -/
def execSqrt (f : LForm) (s : State) := issue (.sqrt f) (sfuBody f (fun F x => F.sqrt f.mod.toNat x)) s
/-- EXP2 (R96). -/
def execExp2 (f : LForm) (s : State) := issue (.exp2 f) (sfuBody f Fmt.exp2) s
/-- LOG2 (R96). -/
def execLog2 (f : LForm) (s : State) := issue (.log2 f) (sfuBody f Fmt.log2) s
/-- SIN (R96). -/
def execSin (f : LForm) (s : State) := issue (.sin f) (sfuBody f Fmt.sin) s
/-- COS (R96). -/
def execCos (f : LForm) (s : State) := issue (.cos f) (sfuBody f Fmt.cos) s
/-- TANH (R96). -/
def execTanh (f : LForm) (s : State) := issue (.tanh f) (sfuBody f Fmt.tanh) s

/-- The rounding mode of a conversion (R98). -/
def cvtMode (f : LForm) : Nat := f.mod.toNat % 4
/-- .wrap of a conversion (R98). -/
def cvtWrap (f : LForm) : Bool := f.mod.getLsbD 2

/-- CVT (R100). -/
def execCvt (f : LForm) (s : State) :=
  issue (.cvt f) (queuedBody 1 f .fmtIll (fun c l =>
    let r := cvtVal f.ty.toNat f.mod2.toNat (cvtMode f) (cvtWrap f)
      (regVal c l f.asc (wideNat f.mod2.toNat) f.a.toNat)
    { x := r.1, fl := r.2 })) s
/-- PACK (R101). -/
def execPack (f : LForm) (s : State) :=
  issue (.pack f) (queuedBody 1 f .fmtIll (fun c l =>
    let r := packVal f.ty.toNat f.mod2.toNat (cvtMode f) (cvtWrap f)
      (regVal c l false false f.d.toNat) (valA c f 0 l) (valB c f 0 l)
    { x := r.1, fl := r.2 })) s
/-- UNPACK (R102). -/
def execUnpack (f : LForm) (s : State) :=
  issue (.unpack f) (queuedBody 1 f .fmtIll (fun c l =>
    let r := unpackVal f.ty.toNat f.mod.toNat f.mod2.toNat (valA c f 0 l)
    { x := r.1, bad := r.2 })) s

/-- One lane of CVTSC (R103): quantise or dequantise with the scale exponent x and the row scale r; an ill-formed
byte gives 0 (R104, R140). -/
def cvtscLane (f : LForm) (x : Int) (r : FVal) (src old : Nat) : Queued :=
  if f.mod.getLsbD 3 then
    let e := eltVal src f.ty.toNat f.mod2.toNat
    let v := scaled e.1 x r
    let y := fmtFromVal fp32 (cvtMode f) (cvtWrap f) v.1
    if e.2 then { x := 0, bad := true } else { x := y.1, fl := v.2 ||| y.2 }
  else
    let v := unscaled (fp32.decode src) x r
    let y := putVal old f.ty.toNat f.mod2.toNat (cvtMode f) (cvtWrap f) v.1
    { x := y.1, fl := v.2 ||| y.2 }

/-- The descriptor id of CVTSC (R103). -/
def cvtscId (c : Cord) (f : LForm) : Nat :=
  (match f.lit with
    | some w => w.toNat
    | none => (c.scal f.b.toNat).toNat) % 1024

/-- The report of an operation's cause (R339). -/
def reportOf (o : Op) (cause : Cause) (lanes : List Nat) (detail addr : Nat) : Report :=
  { pc := o.pc, ret := o.ret, cause := cause, lanes := lanes, detail := detail, addr := addr,
    region := o.region, handler := o.handler }

/-- A write that is no register's: flags, which are ORed when the operation completes (R79). -/
def RegW.isFp : RegW → Bool
  | .fp _ => true
  | _ => false

/-- QUEUED_RESULT_WRITE (R78, R79): the operation writes its destinations, ORs its flags, reports a cause
and clears its flag. Results that arrive one by one are over with the last, and the flags are ORed then (R57, R79). With
no such operation nothing happens. -/
def execQueuedResultWrite (b c o : Nat) (s : State) : Host.Outcome State Fault Refusal :=
  .next (modCord s b c (fun x =>
    match opOf x o with
    | some op =>
      match op.kind with
      | .queued ws cause =>
        if op.piece && !ws.isEmpty then modOp x o (fun p => { p with kind := .queued [] cause, ws := p.ws ++ op.kept ws })
        else if !op.ws.all RegW.isFp then x
        else
          let y := completeOp x op (ws ++ op.ws)
          match cause with
          | some (k, m) => addReport y (reportOf op k (lanesOf m) 0 0)
          | none => y
      | _ => x
    | none => x))

end Sys2Proof.Machine
end

