-- ==== Sys2Proof/Machine/Memory.lean ====
section
/-! DEFINITION. Loads, stores, prefetch, phases and fences (R265 to R273), and how their accesses are
performed (R207, R262, R266, R267). -/

namespace Sys2Proof.Machine
open Sys2Proof

/-! ### Rejected accesses and braids -/

/-- A late protection error of an operation in some lanes (R262): an imprecise report. -/
def reportProt (s : State) (b c : Nat) (o : Op) (lanes : List Nat) (detail va : Nat) : State :=
  if lanes.isEmpty then s
  else modCord s b c (fun x => addReport x (reportOf o .protLate lanes detail va))

/-- The bits of an entry of a fault buffer (Table 11-5). -/
def FaultEntry.bits (e : FaultEntry) : Nat :=
  e.exited.toNat + e.state <<< 1 + e.cause <<< 3 + e.kind <<< 6 + e.flag <<< 10 + e.stream <<< 14 + e.cord <<< 18
    + e.core <<< 22 + e.block <<< 32 + (e.pc % 2 ^ 57) <<< 64 + e.smask.toNat <<< 128 + (e.va % 2 ^ 57) <<< 192
    + (e.ctx % 128) <<< 249

/-- A rejected store of an ended cord: the entry is kept in the grid's status (R218). -/
def orphanStore (s : State) (b : Nat) (e : FaultEntry) : State :=
  match s.blocks[b]? with
  | some x => modGrid s x.grid (fun g => { g with
      orphan := some (g.orphan.getD ({ e with state := 2, exited := true } : FaultEntry).bits),
      first := if g.first = 0 then 0x0203 else g.first })
  | none => s

/-- The KIND of a store (Table 11-5). -/
def storeKind (tent : Bool) : Nat := if tent then 3 else 1

/-- The entry that stands for a store outside the populated part of memory (R205), which never had one: its CAUSE is
free (log 81). -/
def strayEntry (s : State) (b c core : Nat) (o : Op) (a : Acc) (tent : Bool) : FaultEntry × State :=
  let x := takeFree s
  ({ ctx := slotOfBlock s b, va := a.va, smask := maskOf [a.lane], pc := o.pc.toNat,
     block := ((s.blocks[b]?).map Block.index).getD 0, core := core, cord := c, stream := o.stream,
     flag := o.flag.getD 15, kind := storeKind tent, cause := x.1.toNat % 8, state := 2, exited := true,
     src := .op b c o.id a.va }, x.2)

/-- A store that is rejected (Table 11-7): reported against its cord, or an orphan once that has ended. -/
def rejectStore (s : State) (b c core : Nat) (o : Op) (a : Acc) (tent : Bool) (detail : Nat) : State :=
  if ((cordOf s b c).map Cord.ended).getD false then
    let e := strayEntry s b c core o a tent
    orphanStore e.2 b e.1
  else reportProt s b c o [a.lane] detail a.va

/-- A store of an open region was performed without a cell (R338): the region cannot be withdrawn. -/
def markUncovered (s : State) (b c : Nat) (o : Op) : State :=
  if o.region then
    modCord s b c (fun x => { x with region := x.region.map (fun g => { g with uncov := true }) })
  else s

/-! ### Performing accesses -/

/-- What a read gives: it waits, it is rejected, or it gives bytes, which may be poisoned. -/
inductive Got where
  | wait
  | bad (detail : Nat)
  | bytes (bs : List Byte) (poison : Bool)
  deriving DecidableEq, Repr

/-- A byte that a block's core reads at its home while another braid's cell of its doubleword is live: it may observe the
cell (R244). -/
def underCell (s : State) (core b pa : Nat) : Bool :=
  (cellsAt s (dwOf pa)).any (fun c => c.owner != braidOf s b) && (stagedOpByte s core b pa).isNone
    && (stagedByte s b pa).isNone && (heldByte (coreOf s core) pa).isNone

/-- Byte k of a read: one that has been read on its own stands (R236); a read that began before another braid's cell was taken
returns the former value, as far as the core has to go to the home for it, and observes nothing (R244, R254; log 111). -/
def accByte (core b : Nat) (a : Acc) (k : Nat) (s : State) : Byte × Bool × State :=
  match tabGet a.got k, tabGet a.early k with
  | some x, _ => (x.1, x.2, s)
  | none, some x => if underCell s core b (a.pa + k) then (x.1, x.2, s) else coreRead s core b (a.pa + k)
  | none, none => coreRead s core b (a.pa + k)

/-- Some bytes of an access at its home, from its k-th on. -/
def readRest (core b : Nat) (a : Acc) : Nat → Nat → State → List Byte × Bool × State
  | _, 0, s => ([], false, s)
  | k, n + 1, s =>
    let r := accByte core b a k s
    let rest := readRest core b a (k + 1) n r.2.2
    (r.1 :: rest.1, r.2.1 || rest.2.1, rest.2.2)

/-- A read of a translated access (R205, R241, R266). Unhomed memory gives what its owner holds: free
bytes. A doorbell reads as 0 (R369). A read that L1 has no room for waits (R207). -/
def readAcc (s : State) (b core : Nat) (a : Acc) : Got × State :=
  match reachOf s b a.pa a.size true with
  | .home =>
    if l1Room s core a.pa a.size then
      let r := readRest core b a 0 a.size s
      (.bytes r.1 r.2.1, r.2.2)
    else (.wait, s)
  | .mgmt _ => (.bytes (List.replicate a.size 0) false, s)
  | .far =>
    let r := freeBytes a.size s
    (.bytes r.1 false, r.2)
  | .waits => (.wait, s)
  | .reject d => (.bad d, s)

/-- A read of a scratchpad access, whose position and offset `va` packs (R133, R158). -/
def readWin (s : State) (b : Nat) (a : Acc) : Got :=
  let off := a.va % 2 ^ 24
  match mateAt s b (a.va / 2 ^ 24) with
  | some i =>
    if present s i off a.size then
      .bytes (a.got.foldl (fun bs e => bs.set e.1 e.2.1) (winRead s i off a.size))
        (winPoison s i off a.size || a.got.any (fun e => e.2.2))
    else .wait
  | none => .wait

/-- One access of an operation marked. -/
def setAcc (o : Op) (i : Nat) (st : AccState) : Op :=
  { o with accs := o.accs.modify i (fun a => { a with st := st }) }

/-- The operation as it stands in its cord. -/
def opIn (s : State) (b c o : Nat) : Option Op := (cordOf s b c).bind (fun x => opOf x o)

/-- A load's access i performed if it can be (R266): its registers are written, poison kills the braid
(R348), a rejection writes 0 and is reported (R262). -/
def loadOne (s : State) (b c core : Nat) (o : Op) (i : Nat) (ws : Nat → List Byte → List RegW) : State :=
  match o.accs[i]? with
  | none => s
  | some a =>
    if a.st != .ready || blocked s b c o a then s
    else
      let r := if onWindow o.kind then (readWin s b a, s) else readAcc s b core a
      let done (s : State) (st : AccState) (w : List RegW) : State :=
        modCord s b c (fun x => modOp (writeOp x o w) o.id (fun p => setAcc p i st))
      match r.1 with
      | .wait => s
      | .bad d => reportProt (done r.2 (.rejected d) (ws a.lane (List.replicate a.size 0))) b c o [a.lane] d a.va
      | .bytes bs p =>
        let s := done r.2 .done (ws a.lane bs)
        if p then killBraid s b else s

/-- Some accesses of an operation performed in order. -/
def eachAcc (s : State) (b c o : Nat) (f : State → Op → Nat → State) : State :=
  match opIn s b c o with
  | none => s
  | some op => (List.range op.accs.length).foldl (fun s i =>
      match opIn s b c o with
      | some op => f s op i
      | none => s) s

/-- An operation whose every access is performed or rejected, and whose results have reached their registers, is
complete and its flag falls (R55, R57, R177). -/
def finishOp (s : State) (b c o : Nat) : State :=
  match opIn s b c o with
  | none => s
  | some op =>
    if op.accs.any Acc.open_ || (op.piece && !op.ws.isEmpty) then s else modCord s b c (fun x => completeOp x op [])

/-- Where an access lies: in memory, or in a window as R133 packs it. -/
def Acc.place (o : Op) (a : Acc) : Nat := if onWindow o.kind then a.va else a.pa

/-- A store's access has written the byte at a place: with the others or on its own (R236). -/
def Acc.wrote (o : Op) (a : Acc) (x : Nat) : Bool :=
  let p := a.place o
  p ≤ x && x < p + a.size && (a.st == .done || (tabGet a.got (x - p)).isSome)

/-- The bytes of a store's access that neither it nor a higher lane of its issue has already written (R237), with their
places. -/
def laneBytes (o : Op) (a : Acc) : List (Nat × Byte) :=
  (bytesAt (a.place o) a.data).filter (fun e =>
    (tabGet a.got (e.1 - a.place o)).isNone && !o.accs.any (fun h => a.lane < h.lane && h.wrote o e.1))

/-- Bytes of a store to unhomed memory sent to their owner: all together, or those that a higher lane left. -/
def sendBytes (s : State) (a : Acc) (es : List (Nat × Byte)) : State :=
  if es.length = a.data.length then send s (.write a.pa a.data)
  else es.foldl (fun s e => send s (.write e.1 [e.2])) s

/-- Bytes written into the window that they name (R133). -/
def windowBytes (s : State) (b : Nat) (es : List (Nat × Byte)) : State :=
  es.foldl (fun s e => match mateAt s b (e.1 / 2 ^ 24) with
    | some i => winWrite s i (e.1 % 2 ^ 24) [e.2] []
    | none => s) s

/-- The lines of a scratchpad access are present: a store that has been issued waits for them (R158). -/
def winReady (s : State) (b : Nat) (a : Acc) : Bool :=
  ((mateAt s b (a.va / 2 ^ 24)).map (fun i => present s i (a.va % 2 ^ 24) a.size)).getD true

/-- Where an access of a plain store is served. A tentative 16-byte ST goes to its home in two halves, but is one access:
no half of it is an 8-byte ST, which alone reaches a doorbell (R362). -/
def storeReach (s : State) (b : Nat) (o : Op) (a : Acc) : Reach :=
  let r := reachOf s b a.pa a.size true
  match r, o.kind with
  | .mgmt _, .store f _ => if accSize f == a.size then r else .reject 7
  | _, _ => r

/-- The access whose second half an access is has been rejected, and so reported, by its first half. -/
def halfRejected (o : Op) (a : Acc) : Bool :=
  o.accs.any (fun x => x.lane == a.lane && x.va + x.size == a.va
    && (match x.st with
      | .rejected _ => true
      | _ => false))

/-- A plain store's access i performed if it can be (R267). A tentative store to homed memory waits for its
home (R338), but one that the ticket unit stages outside regions is merged, and takes its cell when it goes home (R302);
one to unhomed memory has no cell. What leaves the core waits for the ticket. -/
def storeOne (tent : Bool) (s : State) (b c core : Nat) (o : Op) (i : Nat) : State :=
  match o.accs[i]? with
  | none => s
  | some a =>
    if a.st != .ready || blocked s b c o a then s
    else
      let done (s : State) (st : AccState) : State := modCord s b c (fun x => modOp x o.id (fun p => setAcc p i st))
      let es := laneBytes o a
      if onWindow o.kind then (if winReady s b a then done (windowBytes s b es) .done else s)
      else
        match storeReach s b o a with
        | .home =>
          if (tent && (o.region || hasTicket s b)) || !l1Room s core a.pa a.size then s
          else done (followRelease (mergeBytes s core b o.seq es false) core b o.seq (es.map Prod.fst)) .done
        | .mgmt off =>
          if hasTicket s b then unrelaunch (markUncovered (done (ringWrite s (partOfBlock s b) off) .done) b c o) (braidOf s b)
          else s
        | .far =>
          if hasTicket s b then unrelaunch (markUncovered (done (sendBytes s a es) .done) b c o) (braidOf s b)
          else s
        | .waits => s
        | .reject d =>
          if halfRejected o a then done s (.rejected d) else rejectStore (done s (.rejected d)) b c core o a tent d

/-- The form in which a plain store is performed, with whether it is tentative. -/
def storeTent : OpKind → Option Bool
  | .store _ tent => some tent
  | .storeC _ => some false
  | _ => none

/-- What can be performed of a plain store is performed (R267). -/
def performStore (s : State) (b c core o : Nat) : State :=
  match (opIn s b c o).bind (fun p => storeTent p.kind) with
  | some tent => finishOp (eachAcc s b c o (fun s op i => storeOne tent s b c core op i)) b c o
  | none => s

/-- The stores of a cord that can be performed at once are performed, in the order of issue. -/
def settleCord (s : State) (b c core : Nat) : State :=
  match cordOf s b c with
  | none => s
  | some x => x.ops.foldl (fun s o => performStore s b c core o.id) s

/-- The k-th byte of an access marked as read or written on its own. -/
def gotByte (s : State) (b c o i k : Nat) (x : Byte × Bool) : State :=
  modCord s b c (fun y => modOp y o (fun p =>
    { p with accs := p.accs.modify i (fun a => { a with got := tabPut a.got k x }) }))

/-- The other bytes of a read in the doubleword of its k-th that have not been read. -/
def restOfDw (a : Acc) (k : Nat) : List Nat :=
  (List.range a.size).filter (fun j => j != k && dwOf (a.pa + j) == dwOf (a.pa + k) && (tabGet a.got j).isNone)

/-- The k-th byte of a load read on its own. Where it observes another braid's cell the rest of the doubleword is read with
it; where there is none, the rest may be read now as well (R244, R254; log 111). -/
def loadAlone (s : State) (b c core o i k : Nat) (a : Acc) : State :=
  let keep (s : State) (j : Nat) (x : Byte × Bool) : State :=
    modCord s b c (fun y => modOp y o (fun p => { p with accs := p.accs.modify i (fun a => { a with early := tabPut a.early j x }) }))
  let each (s : State) (f : State → Nat → Byte × Bool → State) : State :=
    (restOfDw a k).foldl (fun s j => let r := coreRead s core b (a.pa + j); f r.2.2 j (r.1, r.2.1)) s
  let r := accByte core b a k s
  let t := gotByte r.2.2 b c o i k (r.1, r.2.1)
  if !(cellsAt s (dwOf (a.pa + k))).any (fun x => x.owner != braidOf s b) then each t keep
  else if underCell s core b (a.pa + k) && (tabGet a.early k).isNone then each t (fun s j x => gotByte s b c o i j x)
  else t

/-- The k-th byte of a load or of a plain store on its own (R229, R236): a byte of its access i is read or written
before the others, which see what is performed in between. -/
def byteAlone (s : State) (b c core o i k : Nat) : State :=
  match opIn s b c o with
  | none => s
  | some op =>
    match op.accs[i]? with
    | none => s
    | some a =>
      let free := a.st == .ready && k < a.size && (tabGet a.got k).isNone && !blocked s b c op a
      let homed := !onWindow op.kind && placeOf a.pa == .homed && l1Room s core a.pa a.size
      let store (s : State) : State := gotByte s b c o i k (a.data.getD k 0, false)
      let e := (laneBytes op a).filter (fun e => e.1 == a.place op + k)
      match op.kind with
      | .load _ =>
        if free && homed then loadAlone s b c core o i k a else s
      | .loadC _ =>
        match mateAt s b (a.va / 2 ^ 24) with
        | some w =>
          let off := a.va % 2 ^ 24
          if free && present s w off a.size then
            gotByte s b c o i k ((winRead s w (off + k) 1).headD 0, winPoison s w (off + k) 1)
          else s
        | none => s
      | .store _ false =>
        if free && homed then store (followRelease (mergeBytes s core b op.seq e false) core b op.seq (e.map Prod.fst)) else s
      | .storeC _ => if free && winReady s b a then store (windowBytes s b e) else s
      | _ => s

/-- In deterministic mode the stores of a block are performed as soon as they can be, in the order of issue, so that
unordered writes of a strand have one outcome (R309); else when the device comes to it (R236). -/
def settle (s : State) (b : Nat) : State :=
  match s.blocks[b]? with
  | none => s
  | some x => if detMode s b then (List.range x.cords.length).foldl (fun s c => settleCord s b c x.core) s else s

/-! ### Loads and stores -/

/-- LD (R265, R266). -/
def execLd (f : LForm) (s : State) :=
  issue (.ld f) (fun u s =>
    let eas := (participants u f).map (fun l => (l, eaGlobal u f l))
    checkGlobal eas true (accSize f)
      (if eas.isEmpty then .go [] [] (fun t => t)
      else .go (destSpan f) [] (fun t => addAccOp t u
        { newOp s u f (eas.map Prod.fst) (.load f) (eas.map (fun e => newAcc u e.1 e.2 (accSize f) [] []))
          with stream := f.mod.toNat }))) s

/-- How many doublewords an access touches. -/
def accDws (a : Acc) : Nat := (a.va + Nat.max a.size 1 - 1) / 8 - a.va / 8 + 1

/-- The entries that an operation of a block without the ticket takes: its steps until they are released, and its
stores until they are merged or performed. -/
def opEntries (o : Op) : Nat :=
  if !o.released || plainStore o.kind && !onWindow o.kind then ((o.accs.filter Acc.open_).map accDws).sum else 0

/-- How many entries a core stages (R307): the steps and stores of blocks without the ticket that are under way, their
unpublished doublewords, and those that they released at braid scope. -/
def stagedLoad (s : State) (core : Nat) : Nat :=
  (((coreOf s core).dirty.filter (fun e => !hasTicket s e.2.block)).map (fun e => e.1 / 8)).eraseDups.length
    + (s.grids.map (fun g => (g.braids.map (fun r =>
        ((r.2.staged.filter (fun e => e.2.1 == core)).map (fun e => e.1 / 8)).eraseDups.length)).sum)).sum
    + (s.blocks.zipIdx.map (fun x => if x.1.core = core ∧ !hasTicket s x.2 then
        (x.1.cords.map (fun c => (c.ops.map opEntries).sum)).sum
      else 0)).sum

/-- A store or step of a block without the ticket finds the staging full, or has found it full before (R307). -/
def stagingFull (s : State) (u : Issue) (n : Nat) : Bool :=
  !hasTicket s u.b && (foundFull u || 4096 < stagedLoad s u.blk.core + n)

/-- The accesses of a store in a lane: one, or one for each doubleword where they are tentative. -/
def storeAccs (u : Issue) (f : LForm) (tent : Bool) (e : Nat × Nat) : List Acc :=
  let bs := dataBytes u f (accSize f) e.1
  if tent && accSize f == 16 then
    [newAcc u e.1 e.2 8 (bs.take 8) [], newAcc u e.1 (e.2 + 8) 8 (bs.drop 8) []]
  else [newAcc u e.1 e.2 (accSize f) bs []]

/-- ST (R265, R267): tentative in a region and in a relaunchable braid (R338, R350). -/
def execSt (f : LForm) (s : State) :=
  issue (.st f) (fun u s =>
    let eas := (participants u f).map (fun l => (l, eaGlobal u f l))
    let rgn := u.cord.region.isSome
    let tent := rgn || relaunchable s (braidOf s u.b)
    let accs := eas.flatMap (storeAccs u f tent)
    checkGlobal eas true (accSize f)
      (if eas.isEmpty then .go [] [] (fun t => t)
      else if stagingFull s u (accs.map accDws).sum then awaitTicket u
      else .go [] (if rgn then (accs.map (fun a => dwOf a.va)).eraseDups else []) (fun t =>
        settle (addAccOp t u
          { newOp s u f (eas.map Prod.fst) (.store f tent) accs with
            stream := f.mod.toNat }) u.b))) s

/-- The scratchpad addresses of LDC and STC, checked (Table 13-2): (lane, block, offset); then `k`. -/
def checkLocal (s : State) (u : Issue) (f : LForm) (k : List (Nat × Nat × Nat) → Act) : Act :=
  let part := participants u f
  let odd := part.filter (fun l => bits (baseLocal u f l) 31 26 != 0)
  let mis := part.filter (fun l => offLocal u f l % accSize f != 0)
  let place (l : Nat) := placeLocal s u.b (bits (baseLocal u f l) 25 24) (offLocal u f l) (accSize f)
  let out := part.filter (fun l => (place l).isNone)
  if !odd.isEmpty then .trap .opndField odd 0 0
  else if !mis.isEmpty then .trap .alignFault mis 0 0
  else if !out.isEmpty then .trap .scratchRange out 0 0
  else k (part.filterMap (fun l => (place l).map (fun p => (l, p.1, p.2))))

/-- Every line of some scratchpad accesses is present (R158). -/
def allPresent (s : State) (ps : List (Nat × Nat × Nat)) (size : Nat) : Bool :=
  ps.all (fun p => present s p.2.1 p.2.2 size)

/-- The lines of some scratchpad accesses, each with its block. -/
def accLines (ps : List (Nat × Nat × Nat)) (size : Nat) : List (Nat × Nat) :=
  ps.flatMap (fun p => (linesOf p.2.2 size).map (fun k => (p.2.1, k)))

/-- A scratchpad access as it would stand among the cord's operations. -/
def winAcc (u : Issue) (f : LForm) (l pos off : Nat) : Acc := newAcc u l (packPos pos off) (accSize f) [] []

/-- Whether an earlier access holds a scratchpad access of an issuing instruction back, in a stream. -/
def winBlocked (s : State) (u : Issue) (f : LForm) (stream : Nat) (accs : List Acc) : Bool :=
  let o := { newOp s u f [] (.loadC f) [] with id := u.cord.nextOp, stream := stream }
  accs.any (fun a => blocked s u.b u.c o a)

/-- LDC (R266, R268): its cord waits while a line is absent; the read follows. -/
def execLdc (f : LForm) (s : State) :=
  issue (.ldc f) (fun u s => checkLocal s u f (fun ps =>
    if ps.isEmpty then .go [] [] (fun t => t)
    else if !allPresent s ps (accSize f) then awaitLines u (accLines ps (accSize f))
    else .go (destSpan f) [] (fun t => addAccOp t u
      { newOp s u f (ps.map Prod.fst) (.loadC f)
          (ps.map (fun p => winAcc u f p.1 (bits (baseLocal u f p.1) 25 24) p.2.2)) with
        stream := f.mod.toNat }))) s

/-- The operation of STC and STX, performed when the device comes to it (R267): its accesses with their data. -/
def goWindowStore (u : Issue) (s : State) (f : LForm) (ps : List (Nat × Nat × Nat)) : Act :=
  .go [] [] (fun t => settle (addAccOp t u { newOp s u f (ps.map Prod.fst) (.storeC f)
      (ps.map (fun p => { winAcc u f p.1 p.2.1 p.2.2 with data := dataBytes u f (accSize f) p.1 })) with
    stream := f.mod.toNat }) u.b)

/-- STC (R267, R268): its cord waits while a line is absent; a higher lane overwrites a lower (R237). -/
def execStc (f : LForm) (s : State) :=
  issue (.stc f) (fun u s => checkLocal s u f (fun ps =>
    if ps.isEmpty then .go [] [] (fun t => t)
    else if !allPresent s ps (accSize f) then awaitLines u (accLines ps (accSize f))
    else goWindowStore u s f (ps.map (fun p => (p.1, bits (baseLocal u f p.1) 25 24, p.2.2))))) s

/-- The tag slot that a global address matches (R156). -/
def slotMatch (x : Block) (va : Nat) : Option Nat :=
  (List.range x.lines).find? (fun n =>
    let t := x.tags.getD n {}
    t.valid && va < 2 ^ 57 && t.tag.toNat == bits va 56 8)

/-- The hits of LDX and STX (R269): (lane, own block, offset). -/
def tagHits (u : Issue) (eas : List (Nat × Nat)) : List (Nat × Nat × Nat) :=
  eas.filterMap (fun e => (slotMatch u.blk e.2).map (fun n => (e.1, u.b, 256 * n + e.2 % 256)))

/-- LDX (R269): holding; its strands pass it with D and pH written. -/
def execLdx (f : LForm) (s : State) :=
  issue (.ldx f) (fun u s =>
    let eas := (participants u f).map (fun l => (l, eaGlobal u f l))
    let hits := tagHits u eas
    checkGlobal eas false (accSize f)
      (if !allPresent s hits (accSize f) then awaitLines u (accLines hits (accSize f))
      else if winBlocked s u f f.mod.toNat (hits.map (fun p => winAcc u f p.1 u.blk.pos p.2.2)) then .wait
      else
        let ws := eas.flatMap (fun e =>
          match hits.find? (fun h => h.1 == e.1) with
          | some h => .p e.1 f.b.toNat true :: loadWs f e.1 (winRead s h.2.1 h.2.2 (accSize f))
          | none => .p e.1 f.b.toNat false :: loadWs f e.1 (List.replicate (accSize f) 0))
        .go (vregsOf ws) [] (fun t =>
          let t := modCord t u.b u.c (writeRegs ws)
          if hits.any (fun h => winPoison s h.2.1 h.2.2 (accSize f)) then killBraid t u.b else t))) s

/-- STX (R269). -/
def execStx (f : LForm) (s : State) :=
  issue (.stx f) (fun u s =>
    let eas := (participants u f).map (fun l => (l, eaGlobal u f l))
    let hits := tagHits u eas
    checkGlobal eas false (accSize f)
      (if hits.isEmpty then .go [] [] (fun t => t)
      else if !allPresent s hits (accSize f) then awaitLines u (accLines hits (accSize f))
      else goWindowStore u s f (hits.map (fun p => (p.1, u.blk.pos, p.2.2))))) s

/-- PREF (R270): not checked for alignment. -/
def execPref (f : LForm) (s : State) :=
  issue (.pref f) (fun u s =>
    let eas := (participants u f).map (fun l => (l, eaGlobal u f l))
    checkGlobal eas true 1
      (if eas.isEmpty then .go [] [] (fun t => t)
      else .go [] [] (fun t => addAccOp t u
        { newOp s u f (eas.map Prod.fst) (.pref f) (eas.map (fun e => newAcc u e.1 e.2 1 [] []))
          with stream := f.mod.toNat }))) s

/-- A prefetch's access i: the line is brought into L1, or into the home's cache, which holds no state of
its own; outside homed memory it is dropped. -/
def prefOne (f : LForm) (s : State) (b c core : Nat) (o : Op) (i : Nat) : State :=
  match o.accs[i]? with
  | none => s
  | some a =>
    let l1 := f.mod2 == 0 && placeOf a.pa == .homed
    if a.st != .ready || (l1 && !l1Room s core a.pa 1) then s
    else
      let s := if l1 then fillLine s core (a.pa / 256) else s
      modCord s b c (fun x => modOp x o.id (fun p => setAcc p i .done))

/-- The row-scale reads of CVTSC that have come back give its results (R104): a rejected read writes 0 in
the whole of D. Whether such a strand's ill-formed byte is a FMT_ILL as well is left open: it raises PROT_LATE only (log 99,
DESIGN CHOICE). -/
def cvtscResults (f : LForm) (x : Int) (src old : List (Nat × Word)) (o : Op) : List (Nat × Queued) :=
  o.accs.map (fun a =>
    let at_ (t : List (Nat × Word)) : Nat := (((t.find? (fun e => e.1 == a.lane)).map Prod.snd).getD 0).toNat
    match a.st with
    | .rejected _ => (a.lane, { x := 0 })
    | _ => (a.lane, cvtscLane f x (fp32.decode (leNat a.data)) (at_ src) (at_ old)))

/-- A row-scale read i performed if it can be: the scale is kept with the access. -/
def scaleOne (s : State) (b c core : Nat) (o : Op) (i : Nat) : State :=
  match o.accs[i]? with
  | none => s
  | some a =>
    if a.st != .ready || blocked s b c o a then s
    else
      let r := readAcc s b core a
      let done (s : State) (st : AccState) (bs : List Byte) : State :=
        modCord s b c (fun x => modOp x o.id (fun p =>
          { p with accs := p.accs.modify i (fun a => { a with st := st, data := bs }) }))
      match r.1 with
      | .wait => s
      | .bad d => reportProt (done r.2 (.rejected d) []) b c o [a.lane] d a.va
      | .bytes bs p => if p then killBraid (done r.2 .done bs) b else done r.2 .done bs

/-- CVTSC whose row scales are all known becomes a queued result (R103, R104). -/
def cvtscReady (s : State) (b c o : Nat) : State :=
  match opIn s b c o with
  | some op =>
    match op.kind with
    | .cvtsc f x src old =>
      if op.accs.any Acc.open_ then s
      else
        let rs := cvtscResults f x src old op
        modCord s b c (fun y => modOp y o (fun p =>
          { p with kind := .queued (queuedWs f.d.toNat 0 rs) (queuedCause .fmtIll rs), stream := 1 }))
    | _ => s
  | none => s

/-- CVTSC (R103): while the conversion queue is full it waits at issue, whoever takes part (R78); the entry is read at issue; with a row scale the operation first reads it (R104). -/
def execCvtsc (f : LForm) (s : State) :=
  issue (.cvtsc f) (fun u s =>
    let lanes := participants u f
    let id := cvtscId u.cord f
    let e := blockDesc s u.b id
    if queueFull s u 1 then .wait
    else if lanes.isEmpty then .go [] [] (fun t => t)
    else if !dValid e then .trap .descInvalid lanes id 0
    else
      let src := lanes.map (fun l => (l, BitVec.ofNat 32 (valA u.cord f 0 l)))
      let old := lanes.map (fun l => (l, (u.cord.lane l).reg f.d.toNat))
      if dRs e then
        let eas := lanes.map (fun l => (l, dRsAddr e + 4 * ((u.cord.lane l).reg f.c.toNat).toNat))
        checkGlobal eas true 1 (.go [f.d.toNat] [] (fun t => addAccOp t u
          (newOp s u f lanes (.cvtsc f (dScale e) src old) (eas.map (fun x => newAcc u x.1 x.2 4 [] [])))))
      else
        let rs := lanes.map (fun l => (l, cvtscLane f (dScale e) (.fin false 1 1)
          (valA u.cord f 0 l) ((u.cord.lane l).reg f.d.toNat).toNat))
        goOp u [f.d.toNat] []
          { newOp s u f lanes (.queued (queuedWs f.d.toNat 0 rs) (queuedCause .fmtIll rs)) [] with
            stream := 1 }) s

/-- LOAD_DATA_RETURN (R266): what can be read of a load, a row-scale read or a prefetch is read; the load
is complete when every participant's registers are written. -/
def execLoadDataReturn (b c o : Nat) (s : State) : Host.Outcome State Fault Refusal :=
  .next (match s.blocks[b]?, opIn s b c o with
    | some x, some op =>
      settle (match op.kind with
        | .load f | .loadC f =>
          finishOp (eachAcc s b c o (fun s op i => loadOne s b c x.core op i (loadWs f))) b c o
        | .cvtsc _ _ _ _ => cvtscReady (eachAcc s b c o (fun s op i => scaleOne s b c x.core op i)) b c o
        | .pref f => finishOp (eachAcc s b c o (fun s op i => prefOne f s b c x.core op i)) b c o
        | _ => s) b
    | _, _ => s)

/-! ### Results that arrive in pieces, and registers that a later instruction has written (R57) -/

/-- The results of an operation are to reach its registers one by one (R57): what a strand reads meanwhile is, for
each register, the value before it or after it. -/
def setPiece (s : State) (b c o : Nat) : State := modCord s b c (fun x => modOp x o (fun p => { p with piece := true }))

/-- The i-th result that has arrived reaches its register (R57); flags wait for the completion (R79). -/
def writePiece (s : State) (b c o i : Nat) : State :=
  match opIn s b c o with
  | none => s
  | some op =>
    match op.ws[i]? with
    | none | some (.fp _) => s
    | some w =>
      let ws := op.kept [w]
      let s := modCord s b c (fun x => modOp (commit (noteLate (some o) ws x) ws) o (fun p => { p with ws := p.ws.eraseIdx i }))
      match op.kind with
      | .queued _ _ => s
      | _ => finishOp s b c o

/-- A register that a later instruction has written keeps its value (R57). -/
def keepLater (s : State) (b c o : Nat) (k : Nat × Nat) : State :=
  modCord s b c (fun x => modOp x o (fun p => { p with late := p.late.erase k, keep := p.keep ++ [k] }))

/-! ### Phases and fences -/

/-- What the ticket unit has staged for another braid does not count in a release of this one (R302). -/
def stagedElse (s : State) (me : BraidId) (b : Nat) : Bool := !hasTicket s b && braidOf s b != me

/-- Nothing that the core issued before `cut` is still to be performed, as far as the core goes, of the stores, steps,
commands and engine writes that R217 names; what the ticket unit has staged of other braids than `me` does not count
(R302). -/
def corePerformed (s : State) (core : Nat) (me : BraidId) (cut : Nat) : Bool :=
  let k := coreOf s core
  s.blocks.zipIdx.all (fun x => x.1.core != core || stagedElse s me x.2 || x.1.cords.all (fun c => c.ops.all (fun o =>
      cut ≤ o.seq || !(writesMemory o.kind || plainStore o.kind) || !o.accs.any Acc.open_)))
    && k.commands.all (fun d => cut ≤ d.seq || d.perf)
    && k.requests.all (fun r => cut ≤ r.seq || r.finished || stagedElse s me r.block)
    && k.array.all (fun o => cut ≤ o.seq || o.kind != .mdrain || stagedElse s me o.block)

/-- What the core's strands have stored before `cut` is at its homes (R234), but for what is staged of other braids than
`me` (R302). -/
def coreHome (s : State) (core : Nat) (me : BraidId) (cut : Nat) : Bool :=
  let k := coreOf s core
  k.outbound.all (fun o => cut ≤ o.seq) && k.dirty.all (fun e => cut ≤ e.2.seq || stagedElse s me e.2.block)

/-- Nothing that the core issued before `cut` is still to be performed (R217, R234). -/
def coreQuiet (s : State) (core : Nat) (me : BraidId) (cut : Nat) : Bool :=
  corePerformed s core me cut && coreHome s core me cut

/-- Every earlier access of some strands is performed. -/
def strandsQuiet (c : Cord) (lanes : List Nat) (ok : Op → Bool) : Bool :=
  c.ops.all (fun o => eventless o.kind || !ok o
    || o.accs.all (fun a => !a.open_ || !lanes.contains a.lane))

/-- Every access that some strands issued before `cut` is performed (R230, pb). -/
def ownQuiet (c : Cord) (cut : Nat) (lanes : List Nat) : Bool := strandsQuiet c lanes (fun o => o.seq < cut)

/-- The number a core gives its next issue: what was issued before lies below it. -/
def cutOf (s : State) (core : Nat) : Nat := (coreOf s core).seq

/-- A scope wider than the core (Table 13-5). -/
def wide (scope : Nat) : Bool := 3 ≤ scope

/-- PHASE takes a release (R271). -/
def phaseRel (f : LForm) : Bool := f.mod2 != 2
/-- PHASE takes an acquire (R271). -/
def phaseAcq (f : LForm) : Bool := f.mod2 != 1

/-- What a release at a scope sends off the core (R234, R302): wider than the core, its unpublished bytes;
those of a block without the ticket stay within its braid. -/
def sendRelease (s : State) (core scope : Nat) : State :=
  if wide scope then
    let s := publishAll s core
    if scope = 3 then shareStaged s core else s
  else s

/-- Every access that some strands of a block issued before `cut`, and that their block made before its last barrier, is
performed (R230, pb; R239). -/
def strandsBefore (s : State) (b c cut : Nat) (lanes : List Nat) : Bool :=
  blockQuiet s b && ((cordOf s b c).map (fun x => ownQuiet (viewCord s b x) cut lanes)).getD true

/-- What comes before a release that some strands reached at `cut` is performed, as far as their core goes (R217): their own
accesses, which may be what they learn of others by (R239), and what the core had issued. Then the core sends what it holds
unpublished (R234, log 109). -/
def releaseReady (s : State) (b c core cut : Nat) (lanes : List Nat) : Bool :=
  corePerformed s core (braidOf s b) cut && strandsBefore s b c cut lanes

/-- A release at a scope, which sent what its core held unpublished before `cut`, is complete (R217, R234): wider than braid
scope it waits for the ticket (R302). -/
def releaseDone (s : State) (b core scope cut : Nat) : Bool :=
  coreHome s core (braidOf s b) cut && (scope = 3 || hasTicket s b)

/-- A release of some strands begins, while they are parked: the core sends what it holds, and they wait for that. -/
def beginRelease (s : State) (u : Issue) (scope : Nat) (park : Nat → Park) : State :=
  let s := sendRelease s u.blk.core scope
  modCord s u.b u.c (fun c => c.modLanes u.lanes (fun t => { t with park := some (park (cutOf s u.blk.core)) }))

/-- Strands pass a phase boundary: their later accesses follow (pb), and an acquire drops the snapshot. -/
def passBoundary (s : State) (b c core scope : Nat) (acq : Bool) (lanes : List Nat) : State :=
  let s := coreBoundary (modCord s b c (fun x => boundary lanes x)) core
  if acq && wide scope then dropClean s core else s

/-- Strands pass a PHASE at which they were parked. -/
def passPhase (s : State) (u : Issue) (f : LForm) : State :=
  passBoundary (modCord s u.b u.c (passLanes u.len u.lanes)) u.b u.c u.blk.core f.mod.toNat (phaseAcq f) u.lanes

/-- PHASE (R271, R232 to R234). At a scope no wider than the core it passes at once. A wider release begins once what comes
before it is performed (log 109), and is passed once it is complete; an acquire is passed once what its strands issued before
it is performed, which it follows (R230, pb). -/
def execPhase (f : LForm) (s : State) :=
  issue (.phase f) (fun u s =>
    let sc := f.mod.toNat
    let core := u.blk.core
    match u.resume with
    | some (.hold cut false) =>
      if phaseRel f then
        (if releaseReady s u.b u.c core cut u.lanes then .go [] [] (fun t => beginRelease t u sc (fun n => .hold n true))
        else .wait)
      else if strandsBefore s u.b u.c cut u.lanes then .go [] [] (fun t => passPhase t u f)
      else .wait
    | some (.hold cut true) => if releaseDone s u.b core sc cut then .go [] [] (fun t => passPhase t u f) else .wait
    | some _ => .wait
    | none =>
      let lanes := participants u f
      if lanes.isEmpty then .go [] [] (fun t => t)
      else .go [] [] (fun t =>
        let t := if 2 ≤ sc then countPhase t core else t
        if wide sc then
          modCord t u.b u.c (parkLanes u (flagOf u f.setf f.fsel) u.cord.retired.toNat lanes (.hold (cutOf t core) false))
        else passBoundary t u.b u.c core sc (phaseAcq f) lanes)) s

/-- FENCE.X (R272): holding until no earlier access of the strands in either stream is open. -/
def execFenceX (f : LForm) (s : State) :=
  issue (.fenceX f) (fun u s =>
    let named (cut : Nat) (o : Op) : Bool :=
      o.seq < cut && (o.stream == f.mod.toNat || o.stream == f.mod2.toNat)
    match u.resume with
    | some (.hold cut _) =>
      if strandsQuiet (viewCord s u.b u.cord) u.lanes (named cut) then
        .go [] [] (fun t => modCord t u.b u.c (passLanes u.len u.lanes))
      else .wait
    | some _ => .wait
    | none =>
      let lanes := participants u f
      let cut := cutOf s u.blk.core
      if lanes.isEmpty || strandsQuiet (viewCord s u.b u.cord) lanes (named cut) then .go [] [] (fun t => t)
      else .go [] [] (fun t => modCord t u.b u.c
        (parkLanes u (flagOf u f.setf f.fsel) u.cord.retired.toNat lanes (.hold cut false)))) s

/-- The classes of FENCE.P (R273): 0 vec, 1 copy, 2 mat, 3 gse, 4 coll. -/
def engineClass : Engine → Nat
  | .copy => 1
  | .gse => 3
  | .coll => 4

/-- Every earlier event of a path class that the fence orders is performed, as far as the core goes (R238, R273). What is
staged of a braid without the ticket stands within the braid (R302). -/
def classQuiet (s : State) (u : Issue) (lanes : List Nat) (cut cls : Nat) : Bool :=
  let k := coreOf s u.blk.core
  if cls = 0 then strandsQuiet (viewCord s u.b u.cord) lanes (fun o => o.seq < cut)
  else if cls = 2 then
    k.array.all (fun o => cut ≤ o.seq || o.block != u.b || o.cord != u.c)
  else
    k.requests.all (fun r => cut ≤ r.seq || r.block != u.b || r.cord != u.c || engineClass r.engine != cls
      || r.finished)

/-- What stands before the last phase boundary of a strand stands before its fence (R230, pb): its own accesses, and those
of its block before the last barrier. -/
def beforeQuiet (s : State) (u : Issue) (lanes : List Nat) : Bool :=
  lanes.all (fun l => (viewCord s u.b u.cord).ops.all (fun o => eventless o.kind
      || o.accs.all (fun a => !a.open_ || a.lane != l || (u.cord.lane l).epoch ≤ a.epoch)))
    && blockQuiet s u.b

/-- What comes before a fence that some strands reached at `cut` is performed, as far as their core goes (R230, R273). Then
the core sends what the fence is to bring to its homes (log 109). -/
def fenceReady (s : State) (u : Issue) (f : LForm) (cut : Nat) : Bool :=
  classQuiet s u u.lanes cut f.mod.toNat && classQuiet s u u.lanes cut f.mod2.toNat && beforeQuiet s u u.lanes

/-- What a fence has sent, all that the core's strands had stored before `cut`, is at its homes; what is staged of a braid
without the ticket stands within it (R302). -/
def fenceDone (s : State) (core cut : Nat) : Bool :=
  let k := coreOf s core
  k.outbound.all (fun o => cut ≤ o.seq) && k.dirty.all (fun e => cut ≤ e.2.seq || !hasTicket s e.2.block)

/-- What a fence sends off its core: where it names vec, every unpublished byte; else what the core's strands had stored
before a phase boundary. What may not go home goes to the braid (R302). -/
def sendFence (s : State) (b core : Nat) (vec : Bool) : State :=
  let s := if vec then publishAll s core else publishBefore s core
  if hasTicket s b then s else shareStaged s core

/-- How far what a fence sends reaches back: all that the core has issued, or what it had before a phase boundary. -/
def fenceCut (s : State) (core : Nat) (vec : Bool) : Nat := if vec then cutOf s core else (coreOf s core).bcut

/-- The fence of some parked strands sends what it is to send, and they wait for that. -/
def beginFence (s : State) (u : Issue) (vec : Bool) : State :=
  let s := sendFence s u.b u.blk.core vec
  modCord s u.b u.c (fun c => c.modLanes u.lanes (fun t =>
    { t with park := some (.hold (fenceCut s u.blk.core vec) true) }))

/-- A fence is over: where it names vec the core's strands see the homes at once, else after their next boundary. -/
def passFence (s : State) (core : Nat) (vec : Bool) : State :=
  if vec then dropClean s core else modCore s core (fun k => { k with fenced := true })

/-- FENCE.P (R238, R273): holding until the earlier events of the named classes are performed, and what stood before
them under pb. Where it names vec, the core's bytes go to their homes and the snapshot is dropped, so that both paths
see one memory. -/
def execFenceP (f : LForm) (s : State) :=
  issue (.fenceP f) (fun u s =>
    let vec := f.mod == 0 || f.mod2 == 0
    match u.resume with
    | some (.hold cut false) => if fenceReady s u f cut then .go [] [] (fun t => beginFence t u vec) else .wait
    | some (.hold cut true) =>
      if fenceDone s u.blk.core cut then
        .go [] [] (fun t => passFence (modCord t u.b u.c (passLanes u.len u.lanes)) u.blk.core vec)
      else .wait
    | some _ => .wait
    | none =>
      let lanes := participants u f
      if lanes.isEmpty then .go [] [] (fun t => t)
      else .go [] [] (fun t => modCord t u.b u.c
        (parkLanes u (flagOf u f.setf f.fsel) u.cord.retired.toNat lanes (.hold (cutOf t u.blk.core) false)))) s

end Sys2Proof.Machine
end

