-- ==== Sys2Proof/Machine/OrderLog.lean ====
section
/-! DEFINITION. The order log (R310) and its replay (R311, R312). -/

namespace Sys2Proof.Machine
open Sys2Proof

/-- The source of a logged event: the cord's core and slot, a lane, and its retired count. -/
structure Source where
  core  : Nat
  slot  : Nat
  lane  : Nat
  count : Nat
  deriving DecidableEq, Repr

/-- An order-log entry (Table 15-7). -/
structure LogEntry where
  kind : Nat
  src  : Source
  data : Nat
  deriving DecidableEq, Repr

/-- The 128 bits of an entry (Table 15-7). -/
def LogEntry.bits (e : LogEntry) : Nat :=
  e.kind + e.src.lane <<< 10 + e.src.slot <<< 16 + e.src.core <<< 22 + (e.src.count % 2 ^ 32) <<< 32
    + e.data <<< 64

/-- The entry of 128 bits. -/
def LogEntry.ofBits (x : Nat) : LogEntry :=
  { kind := Sys2Proof.bits x 3 0,
    src := { core := Sys2Proof.bits x 31 22, slot := Sys2Proof.bits x 21 16, lane := Sys2Proof.bits x 15 10,
             count := Sys2Proof.bits x 63 32 },
    data := Sys2Proof.bits x 127 64 }

/-- LOG of a context (Table 15-1). -/
def ctxLog (x : Ctx) : Nat := Sys2Proof.bits x.control.toNat 5 4
/-- DET of a context. -/
def ctxDet (x : Ctx) : Bool := x.control.getLsbD 3
/-- LOGBASE of a context. -/
def logBase (x : Ctx) : Nat := Sys2Proof.bits x.control.toNat 115 64
/-- How many entries the log buffer holds. -/
def logSize (x : Ctx) : Nat := Sys2Proof.bits x.control.toNat 127 116 * 2 ^ 20 / 16

/-- An entry recorded: LOGFULL is set when recording has filled the buffer (R310, R312). -/
def record (s : State) (part ctx : Nat) (e : LogEntry) : State :=
  let x := ctxOf s part ctx
  if ctxLog x != 1 || x.logFull then s
  else if logSize x ≤ x.logPos then modCtx s part ctx (fun y => { y with logFull := true })
  else modCtx (putBytes s (logBase x + 16 * x.logPos) (leBytes 16 e.bits) false) part ctx (fun y =>
    { y with logPos := y.logPos + 1, logFull := logSize y ≤ y.logPos + 1 })

/-- The recorded entries: those before the first that is all zero, or the whole buffer (log 16). -/
def logEntries : Nat → Mem → Nat → List LogEntry
  | 0, _, _ => []
  | n + 1, m, a =>
    let x := leNat (memRead m a 16)
    if x = 0 then [] else LogEntry.ofBits x :: logEntries n m (a + 16)

/-- An entry is a step that a later marker withdraws (R310, R311): the same source, count and word. A relaunched
attempt's entries stand after the marker. -/
def withdrawnBy (e w : LogEntry × Nat) : Bool :=
  w.1.kind == 7 && e.2 < w.2 && w.1.src == e.1.src && w.1.data == e.1.data

/-- The entries that a replay has not met, with their places; a step marked withdrawn is skipped (R311). -/
def logLeft (s : State) (x : Ctx) : List (LogEntry × Nat) :=
  let es := (logEntries (logSize x) s.mem (logBase x)).zipIdx
  es.filter (fun e => !x.logUsed.contains e.2 && e.1.kind != 7 && !es.any (withdrawnBy e))

/-- Recording had filled the buffer (R312). -/
def logWasFull (s : State) (x : Ctx) : Bool := (logEntries (logSize x) s.mem (logBase x)).length == logSize x

/-- The same cord at the same count and lane. -/
def Source.same (x y : Source) : Bool :=
  x.core == y.core && x.slot == y.slot && x.lane == y.lane && x.count == y.count % 2 ^ 32

/-- A step or a foreign step. -/
def logStep (k : Nat) : Bool := k == 0 || k == 1

/-- What a replay says of a step at a word by a source (R311, R312): it waits, it is performed and its entry
is met, or the run has diverged. -/
inductive Replay where
  | go (used : Option Nat)
  | wait
  | diverge
  deriving DecidableEq, Repr

/-- An entry that a cord's operations under way are still to meet: a step or a reply of the same count and lane. -/
def entryUnderWay (c : Cord) (e : LogEntry) : Bool :=
  c.ops.any (fun o => o.ret % 2 ^ 32 == e.src.count && o.lanes.contains e.src.lane)

/-- An entry is one of the cord in a slot of a core. -/
def LogEntry.ofCord (e : LogEntry) (core slot : Nat) : Bool :=
  e.src.core == core && e.src.slot == slot && e.kind != 1

/-- The next entry of the cord in a slot belongs to a later cord of the slot (log 82): the log goes back to a lower
count there. -/
def laterCord (all : List (LogEntry × Nat)) (used : List Nat) (core slot : Nat) (e : LogEntry × Nat) : Bool :=
  all.any (fun w => w.2 < e.2 && used.contains w.2 && w.1.ofCord core slot && e.1.src.count < w.1.src.count)

/-- The retired count of a cord has passed the next entry recorded for it, which nothing of the cord is to meet
(R312). -/
def passedEntry (s : State) (x : Ctx) (core : Nat) (c : Cord) : Bool :=
  match (logLeft s x).find? (fun e => e.1.ofCord core c.slot) with
  | none => false
  | some e =>
    e.1.src.count < c.retired.toNat % 2 ^ 32 && !entryUnderWay c e.1
      && !laterCord ((logEntries (logSize x) s.mem (logBase x)).zipIdx) x.logUsed core c.slot e

/-- Another event is recorded for a source than the step that it reaches (R312); a TST may meet its fallback as
well. -/
def otherEvent (es : List (LogEntry × Nat)) (src : Source) (tst : Bool) : Bool :=
  es.any (fun e => e.1.src.same src && e.1.kind != 0 && e.1.kind != 1 && !(tst && e.1.kind == 6))

/-- An unmet step of the doubleword of a word stands before a place of the log (log 83). -/
def unmetBefore (es : List (LogEntry × Nat)) (pa i : Nat) : Bool :=
  es.any (fun y => y.2 < i && logStep y.1.kind && dwOf y.1.data == dwOf pa)

/-- The recorded step that an unrecorded one of its cord follows at a word (R310, R311): the latest of the cord there whose
count it has reached, else the first (log 83). -/
def followedStep (es : List (LogEntry × Nat)) (src : Source) (pa : Nat) : Option (LogEntry × Nat) :=
  let own := es.filter (fun e => e.1.kind == 0 && e.1.ofCord src.core src.slot && dwOf e.1.data == dwOf pa)
  match (own.filter (fun e => e.1.src.count ≤ src.count % 2 ^ 32)).getLast? with
  | some e => some e
  | none => own.head?

/-- A step that has no entry waits until the step that it follows has been performed, and what was recorded before that
one (R311). -/
def followerWaits (s : State) (x : Ctx) (src : Source) (pa : Nat) : Bool :=
  let all := (logEntries (logSize x) s.mem (logBase x)).zipIdx
  match followedStep (all.filter (fun e => !all.any (withdrawnBy e))) src pa with
  | some e => unmetBefore (logLeft s x) pa (e.2 + 1)
  | none => false

/-- The replay of a step of the context (R311). -/
def replayStep (s : State) (x : Ctx) (src : Source) (pa : Nat) (tst : Bool) : Replay :=
  if ctxLog x != 2 then .go none
  else
    let es := logLeft s x
    match es.find? (fun e => e.1.src.same src && e.1.kind == 0) with
    | none =>
      if otherEvent es src tst then .diverge
      else if !ctxDet x && followerWaits s x src pa then .wait
      else .go none
    | some e =>
      if e.1.data != pa then .diverge
      else if unmetBefore es pa e.2 then .wait
      else .go (some e.2)

/-- A context whose cords follow a recorded order: it replays, and not in deterministic mode (R310, R311). -/
def followsLog (x : Ctx) : Bool := ctxLog x == 2 && !ctxDet x

/-- The log has no entry left for the cord in a slot, and recording had filled it: the cord runs on
unconstrained (R312). -/
def cordUnbound (s : State) (x : Ctx) (core slot : Nat) : Bool :=
  logWasFull s x && !(logLeft s x).any (fun e => e.1.ofCord core slot)

/-- A foreign step at a word is held: a context that replays has recorded one there, and steps before it are still to
come (R311). -/
def foreignHeld (s : State) (except_ : Nat) (pa : Nat) : Bool :=
  s.ctxs.any (fun c => c.1 != except_ && ctxLog c.2 == 2
    && (match (logLeft s c.2).find? (fun e => e.1.kind == 1 && e.1.data == pa) with
      | some e => unmetBefore (logLeft s c.2) pa e.2
      | none => false))

/-- The recorded value of a %cycle read, a PRES or a reply of a source (R311): the entry's data and place. -/
def replayValue (s : State) (x : Ctx) (kind : Nat) (src : Source) : Option (Nat × Nat) :=
  if ctxLog x != 2 then none
  else ((logLeft s x).find? (fun e => e.1.src.same src && e.1.kind == kind)).map (fun e => (e.1.data, e.2))

/-- What a replay says of a timed read (R311, R312): the value and place of its entry; that the next entry of
its cord is another one; or nothing, where there is no replay or the cord has no entry left. -/
inductive TimedRead where
  | free
  | value (v i : Nat)
  | diverge
  deriving DecidableEq, Repr

/-- The replay of a timed read of a kind by a source: a cord whose recorded timed reads from here on begin with
another one has diverged. -/
def timedRead (s : State) (part ctx kind : Nat) (src : Source) : TimedRead :=
  let x := ctxOf s part ctx
  if ctxLog x != 2 || ctxDet x then .free
  else
    match replayValue s x kind src with
    | some v => .value v.1 v.2
    | none =>
      if (logLeft s x).any (fun e => e.1.src.core == src.core && e.1.src.slot == src.slot && 2 ≤ e.1.kind
          && e.1.kind ≤ 5 && src.count % 2 ^ 32 ≤ e.1.src.count) then .diverge
      else .free

/-- An entry that a replay has met. -/
def useEntry (s : State) (part ctx i : Nat) : State :=
  modCtx s part ctx (fun x => { x with logUsed := x.logUsed ++ [i] })

/-- The source that a lane of a block's cord is. -/
def sourceOf (s : State) (b c lane count : Nat) : Source :=
  match s.blocks[b]?, cordOf s b c with
  | some x, some y => { core := x.core, slot := y.slot, lane := lane, count := count }
  | _, _ => { core := 0, slot := 0, lane := lane, count := count }

/-- A TST fallback, recorded in every mode (R310). -/
def recordFor (s : State) (b : Nat) (e : LogEntry) : State :=
  match gridOfBlock s b with
  | some g => record s g.part g.ctx e
  | none => s

/-- A result that depends on timing recorded (R310): %cycle reads, PRES results and replies; in deterministic
mode they are not (log 19). -/
def recordTimed (s : State) (b : Nat) (e : LogEntry) : State :=
  if detMode s b then s else recordFor s b e

/-- The words of four bytes that a step touches. -/
def stepWords (pa size : Nat) : List Nat := if 4 < size then [pa, pa + 4] else [pa]

/-- The latest steps at the words of a step. -/
def lastAt (s : State) (pa size : Nat) : List Stepper := (stepWords pa size).flatMap (fun w => (tabGet s.last w).getD [])

/-- The latest step at each word of a step is this one. -/
def setLast (s : State) (pa size : Nat) (me : Stepper) : State :=
  (stepWords pa size).foldl (fun s w =>
    let old := ((tabGet s.last w).getD []).filter (fun p =>
      !p.foreign && (me.foreign || p.part != me.part || p.ctx != me.ctx))
    { s with last := tabPut s.last w (me :: old) }) s

/-- The source of a foreign step's entry (Table 15-7). -/
def noSource : Source := { core := 0, slot := 0, lane := 0, count := 0 }

/-- A foreign step recorded for a context, or in a replay its entry met (R310, R311). -/
def foreignFor (s : State) (part ctx pa : Nat) : State :=
  let s := record s part ctx { kind := 1, src := noSource, data := pa }
  let x := ctxOf s part ctx
  if ctxLog x == 2 then
    match (logLeft s x).find? (fun e => e.1.kind == 1 && e.1.data == pa) with
    | some e => useEntry s part ctx e.2
    | none => s
  else s

/-- A context has stepped at one of the words of a step. -/
def hasStepped (s : State) (pa size key : Nat) : Bool :=
  (lastAt s pa size).any (fun p => !p.foreign && ctxKey p.part p.ctx == key)

/-- A step from outside noted for a context (R310): recorded where the context has stepped; where it has not yet, counted
until it does, so that the entry stands before its first step. -/
def noteOther (s : State) (pa size key : Nat) : State :=
  let part := key / 65536
  let ctx := key % 65536
  let x := ctxOf s part ctx
  if ctxLog x == 1 && !hasStepped s pa size key then
    modCtx s part ctx (fun y => { y with early := tabPut y.early pa ((tabGet y.early pa).getD 0 + 1) })
  else foreignFor s part ctx pa

/-- A step noted for the contexts, but one, that record or replay (R310). -/
def noteOthers (s : State) (pa size key : Nat) : State :=
  ((s.ctxs.filter (fun e => e.1 != key && ctxLog e.2 != 0)).map Prod.fst).foldl (fun s k => noteOther s pa size k) s

/-- What came from outside at the doubleword of a word before the first step of a context there is recorded (R310, R321;
log 83). -/
def recordEarly (s : State) (part ctx pa : Nat) : State :=
  let es := (ctxOf s part ctx).early.filter (fun e => dwOf e.1 == dwOf pa)
  let s := es.foldl (fun s e => (List.range e.2).foldl (fun s _ => record s part ctx { kind := 1, src := noSource, data := e.1 }) s) s
  modCtx s part ctx (fun y => { y with early := y.early.filter (fun e => dwOf e.1 != dwOf pa) })

/-- The step that came last at one of the words of a step came from another cord or from outside its context. A step at a
word at which none has been made before counts as such (log 96, DESIGN CHOICE: R310 speaks only of a previous step). -/
def steppedElse (s : State) (pa size : Nat) (me : Stepper) : Bool :=
  (stepWords pa size).any (fun w => ((tabGet s.last w).getD []).head? != some me)

/-- A step performed at a word is noted (R310): recorded in free mode when the previous step there came from another
cord or from outside the context, and always where it is a member of a merged group (`merged`); in deterministic mode
only foreign steps are. -/
def noteStep (s : State) (b c lane count pa size : Nat) (merged : Bool) : State :=
  match gridOfBlock s b with
  | none => s
  | some g =>
    let src := sourceOf s b c lane count
    let me : Stepper := { part := g.part, ctx := g.ctx, block := b, cord := c }
    let s := recordEarly s g.part g.ctx pa
    let else_ := steppedElse s pa size me
    let s := modBraid (noteOthers s pa size (ctxKey g.part g.ctx)) (braidOf s b) (fun r =>
      if r.relaunchable then { r with steps := r.steps ++ [(src.core, src.slot, lane, count, pa)] } else r)
    let s := setLast s pa size me
    if ctxDet (ctxOf s g.part g.ctx) || !(else_ || merged) then s
    else record s g.part g.ctx { kind := 0, src := src, data := pa }

/-- A step from outside at a word (R310): recorded for the contexts that record, and in a replay its entry is met. -/
def noteForeign (s : State) (pa size : Nat) : State :=
  setLast (noteOthers s pa size (2 ^ 64)) pa size { part := 0, ctx := 0, block := 0, cord := 0, foreign := true }

/-- Bytes written to homed memory from outside its cores: cells are observed. -/
def foreignWrite (s : State) (pa : Nat) (bs : List Byte) : State := homeWrites s none pa bs

/-- A step from outside at a word of homed memory that writes some bytes there, or none (R310). -/
def foreignStep (s : State) (pa size : Nat) (bs : List Byte) : State := noteForeign (foreignWrite s pa bs) pa size

/-- Bytes read from homed memory from outside its cores: a byte written under a cell is an observation. -/
def foreignRead : Nat → Nat → State → List Byte × State
  | _, 0, s => ([], s)
  | pa, n + 1, s =>
    let r := homeRead s none pa
    let rest := foreignRead (pa + 1) n r.2
    (r.1 :: rest.1, rest.2)

/-- A replay that has diverged is a fatal error of the context (R312). -/
def diverged (s : State) (b pc : Nat) : State := fatal s b 0x0205 0 pc

end Sys2Proof.Machine
end

