-- ==== Sys2Proof/Machine/Atomics.lean ====
section
/-! DEFINITION. Atomics at the home (R221 to R225, R274 to R278), delegated atomics and the completion queue
(R226 to R228, R279, R280), tentative stores (R281 to R284) and the braid cells of R350. -/

namespace Sys2Proof.Machine
open Sys2Proof

/-! ### Orders -/

/-- The order code of an ordered atomic (Table 13-7); 0 for an atomic in a stream. -/
def orderCode (f : LForm) : Nat := if f.mod2.toNat < 8 then 0 else f.mod.toNat

/-- The scope of an order code (Table 13-7), as Table 13-5 numbers scopes. -/
def orderScope (n : Nat) : Nat := (n - 1) % 5 + 2
/-- The release meaning of an order code. -/
def orderRel (n : Nat) : Bool := n != 0 && (n ≤ 5 || 11 ≤ n)
/-- The acquire meaning of an order code. -/
def orderAcq (n : Nat) : Bool := 6 ≤ n

/-- The stream of an atomic (R275): 0 where it is ordered. -/
def stepStream (f : LForm) : Nat := if f.mod2.toNat < 8 then f.mod.toNat else 0

/-- The form of a step operation. -/
def stepForm : OpKind → Option LForm
  | .atom f | .cas f | .red f | .atomr f | .tst f | .retract f | .tcommit f => some f
  | _ => none

/-- The order code of an operation. -/
def opOrder (o : Op) : Nat :=
  match o.kind with
  | .atom f | .cas f | .red f => orderCode f
  | _ => 0

/-! ### Steps -/

/-- The new word of an atomic (Table 13-6). -/
def newWord (op ty old y : Nat) : Nat :=
  match op with
  | 0 => if ty = 7 then (eachElt 7 (fun a b _ => bf16.add 0 a b) old y 0).1 else (nodeOp 0 ty old y).1
  | 1 => (nodeOp 1 ty old y).1
  | 2 => (nodeOp 2 ty old y).1
  | 3 => old &&& y
  | 4 => old ||| y
  | 5 => old ^^^ y
  | _ => y

/-- What a step writes at a word that holds `old` (R276, R277), if it writes. -/
def stepNew (k : OpKind) (a : Acc) (old : Nat) : Option Nat :=
  match k with
  | .atom f | .red f => some (newWord (f.mod2.toNat % 8) f.ty.toNat old (leNat a.data))
  | .cas _ => if old = leNat a.data then some (leNat a.data2) else none
  | _ => none

/-- The registers that a step's old value goes to: ATOM and CAS write D (R276, R277). -/
def stepWs (k : OpKind) (l old : Nat) : List RegW :=
  match k with
  | .atom f | .cas f => putReg false (wideTy f.ty) f.d.toNat l old
  | _ => []

/-- What an operation that bypasses L1 sends home before it leaves (R208): its word, and where it may take a cell
the whole doubleword, so that the former value is complete (R281). -/
def bypassFor (s : State) (b core : Nat) (a : Acc) : State :=
  if relaunchable s (braidOf s b) then bypassL1 s core (dwOf a.pa) 8 else bypassL1 s core a.pa a.size

/-- Poisoned bytes among a range of homed memory. -/
def memPoison (s : State) (pa n : Nat) : Bool := s.poison.any (fun a => pa ≤ a && a < pa + n)

/-- The step of access i of an atomic at its home (R221, R276, R277): the core's bytes of the word go first
(R208), the step sees the cells of other braids (R244), an acquire drops the snapshot. A poisoned word that
reaches a register kills the braid (R348). `merged`: it is a member of a merged group (R310). -/
def performStep (merged : Bool) (s : State) (b c core : Nat) (o : Op) (i : Nat) : State :=
  match o.accs[i]? with
  | none => s
  | some a =>
    let me := braidOf s b
    let s := braidCell (bypassFor s b core a) me (dwOf a.pa)
    let bs := memRead s.mem a.pa a.size
    let poison := memPoison s a.pa a.size
    let s := observe s (dwOf a.pa) (some me)
    let s := match stepNew o.kind a (leNat bs) with
      | some y => ownWrite s me a.pa (leBytes a.size y) poison
      | none => s
    let ws := stepWs o.kind a.lane (leNat bs)
    let s := noteStep s b c a.lane o.ret a.pa a.size merged
    let s := modCord s b c (fun x => modOp (writeOp x o ws) o.id (fun p => setAcc p i .done))
    let s := if orderAcq (opOrder o) && wide (orderScope (opOrder o)) then dropClean s core else s
    if poison && !ws.isEmpty then killBraid s b else s

/-- An atomic that is not performed (R225, R262): its destination receives 0 and a report is made. -/
def rejectStep (s : State) (b c : Nat) (o : Op) (i detail : Nat) : State :=
  match o.accs[i]? with
  | none => s
  | some a =>
    reportProt (modCord s b c (fun x => modOp (writeOp x o (stepWs o.kind a.lane 0)) o.id
      (fun p => setAcc p i (.rejected detail)))) b c o [a.lane] detail a.va

/-- The release of an ordered atomic at one access is to begin, and may (R230, R275): what its strand and its block did
before it is performed, as far as the core goes, and so is what the core had issued (R217). -/
def releaseBegins (s : State) (b c core : Nat) (o : Op) (a : Acc) : Bool :=
  match o.rel with
  | some cut => a.open_ && a.rel.isNone && wide (orderScope (opOrder o)) && corePerformed s core (braidOf s b) cut
      && !blocked s b c o a
  | none => false

/-- The release of access i of an ordered atomic begins: the core sends what it holds unpublished (R234, log 109). -/
def beginStep (s : State) (b c core o i : Nat) : State :=
  match opIn s b c o with
  | none => s
  | some op =>
    if (op.accs[i]?).any (releaseBegins s b c core op) then
      let s := sendRelease s core (orderScope (opOrder op))
      modCord s b c (fun x => modOp x o (fun p => { p with
        accs := p.accs.modify i (fun a => { a with rel := some (cutOf s core) }) }))
    else s

/-- Whether a step's release, if it has one, is complete (R275, R234). -/
def stepReleased (s : State) (b core : Nat) (o : Op) (a : Acc) : Bool :=
  match o.rel with
  | some _ => !wide (orderScope (opOrder o)) || a.rel.any (releaseDone s b core (orderScope (opOrder o)))
  | none => true

/-- The operations of a context that the ticket units released earlier and that still have a step at this word
(R303, R309): they go first. -/
def earlierReleased (s : State) (b order pa : Nat) : Bool :=
  let ctx (g : Nat) : Nat × Nat := ((gridOf s g).map (fun x => (x.part, x.ctx))).getD (0, 0)
  order != 0
    && s.blocks.any (fun x => ctx x.grid == ctx (braidOf s b).1 && x.cords.any (fun y => y.ops.any (fun p =>
        p.order != 0 && p.order < order && p.accs.any (fun e => e.open_ && dwOf e.pa == dwOf pa))))

/-- Whether access a of a step may leave its core (R235, R275, R302). -/
def stepReady (s : State) (b c core : Nat) (o : Op) (a : Acc) : Bool :=
  (match a.st with
    | .ready | .sent _ => true
    | _ => false)
    && o.released && !blocked s b c o a && stepReleased s b core o a && !earlierReleased s b o.order a.pa

/-- The word at which a step is recorded (Table 15-7): a cell step's is its doubleword. -/
def stepWord (o : Op) (a : Acc) : Nat := if onCell o.kind then dwOf a.pa else a.pa

/-- The replay of a step by a source of a context (R311): it waits as well where it is a foreign step for another
context that replays. -/
def replayAt (s : State) (b : Nat) (src : Source) (pa : Nat) (tst : Bool) : Replay :=
  match gridOfBlock s b with
  | some g =>
    if foreignHeld s (ctxKey g.part g.ctx) pa then .wait else replayStep s (ctxOf s g.part g.ctx) src pa tst
  | none => .go none

/-- The replay of an operation's step (R311). -/
def stepReplay (s : State) (b c : Nat) (o : Op) (a : Acc) : Replay :=
  replayAt s b (sourceOf s b c a.lane o.ret) (stepWord o a) (match o.kind with
    | .tst _ => true
    | _ => false)

/-- The entry that a replayed step meets (R311). -/
def meetEntry (s : State) (b : Nat) (used : Option Nat) : State :=
  match used, gridOfBlock s b with
  | some n, some g => useEntry s g.part g.ctx n
  | _, _ => s

/-- A step performed as the replay has it (R311, R312): `k` once its entry is met. -/
def replayed (s : State) (b c : Nat) (o : Op) (a : Acc) (k : State → State) : State :=
  match stepReplay s b c o a with
  | .diverge => diverged s b o.pc.toNat
  | .wait => s
  | .go used => k (meetEntry s b used)

/-- A step to a peer whose port is in recovery waits (R379). -/
def peerWaits (s : State) (a : Acc) : Bool :=
  match placeOf a.pa with
  | .peer i => reachPeer s i (a.pa % 2 ^ 44) == .waits
  | _ => false

/-- Why a peer rejects a step (R367, R378, R379): it is unreachable or lost with its ports, or the address lies outside
its populated windows. -/
def peerRejects (s : State) (a : Acc) : Option Nat :=
  match placeOf a.pa with
  | .peer i => (match reachPeer s i (a.pa % 2 ^ 44) with
    | .reject d => some d
    | _ => none)
  | _ => none

/-- The DETAIL with which ATOM, CAS, RED and TST end outside the module's memory (R225, R262): 9, but 7 or 8 where what
they addressed is no memory of a peer that can be reached (R378, R379; log 27). -/
def unhomedDetail (s : State) (a : Acc) : Nat := (peerRejects s a).getD 9

/-- A step may be performed now (R235, R275, R302, R311). -/
def stepGoes (s : State) (b c core : Nat) (o : Op) (a : Acc) : Bool :=
  stepReady s b c core o a && !peerWaits s a && stepReplay s b c o a != .wait

/-- The block's context follows a recorded order (R311). -/
def inReplay (s : State) (b : Nat) : Bool :=
  match gridOfBlock s b with
  | some g => followsLog (ctxOf s g.part g.ctx)
  | none => false

/-- The places of an operation's open accesses at a word. -/
def accsAt (o : Op) (pa : Nat) : List Nat :=
  (List.range o.accs.length).filter (fun i => match o.accs[i]? with
    | some a => a.open_ && a.pa == pa
    | none => false)

/-! ### Merging (R222, R223) -/

/-- The mergeable operations and types (Table 11-8). -/
def mergeOk (op ty : Nat) : Bool :=
  match op with
  | 0 => [1, 2, 3, 7].contains ty
  | 1 | 2 => [1, 2, 3].contains ty
  | 3 | 4 | 5 => ty == 0
  | _ => false

/-- What must agree in two requests that merge: operation and type; none for a request that never merges. -/
def mergeKey (k : OpKind) : Option (Nat × Nat) :=
  match k with
  | .atom f | .red f =>
    if f.mod2.toNat < 8 && mergeOk (f.mod2.toNat % 8) f.ty.toNat then some (f.mod2.toNat % 8, f.ty.toNat)
    else none
  | _ => none

/-- A run of accesses of one operation may go: each may leave its core, and in a replay the first meets its entry; those
after it, which no other cord's step separates from it, have theirs met by then or have none (R224, R310, R311). -/
def runGoes (s : State) (b c core : Nat) (o : Op) (is : List Nat) : Bool :=
  is.all (fun i => (o.accs[i]?).any (fun a => stepReady s b c core o a && !peerWaits s a))
    && is.head?.all (fun i => (o.accs[i]?).any (stepGoes s b c core o))

/-- Every access of an operation at a word may step: the lanes of one issue form one run (R224). A run of a
mergeable operation that follows a log goes lane by lane, since each of its steps is recorded (R310, R311). -/
def groupReady (s : State) (b c core : Nat) (o : Op) (pa : Nat) : Bool :=
  let goes (i : Nat) : Bool := (o.accs[i]?.map (fun a => stepGoes s b c core o a)).getD false
  let is := accsAt o pa
  if inReplay s b && (mergeKey o.kind).isSome then is.any goes else !is.isEmpty && runGoes s b c core o is

/-- One access of a run: performed, rejected, or the replay has diverged. -/
def runOne (merged : Bool) (s : State) (b c core : Nat) (o : Op) (i : Nat) : State :=
  match o.accs[i]? with
  | none => s
  | some a =>
    replayed s b c o a (fun s =>
      match placeOf a.pa with
      | .homed => performStep merged s b c core o i
      | .hole | .mgmt => rejectStep s b c o i 7
      | _ => unrelaunch (rejectStep s b c o i (unhomedDetail s a)) (braidOf s b))

/-- A member of a run: its block, its cord, its operation and the place of its access. -/
structure Member where
  b : Nat
  c : Nat
  o : Nat
  i : Nat
  deriving DecidableEq, Repr

/-- The step of one member of a run. -/
def runMember (merged : Bool) (s : State) (m : Member) : State :=
  match s.blocks[m.b]?, opIn s m.b m.c m.o with
  | some x, some p => runOne merged s m.b m.c x.core p m.i
  | _, _ => s

/-- The steps of some members, one after another, as one run of the arbiter's order (R221, R224); operations that
are then over complete. -/
def runMembers (s : State) (ms : List Member) : State :=
  (ms.map (fun m => (m.b, m.c, m.o))).eraseDups.foldl (fun s e => finishOp s e.1 e.2.1 e.2.2)
    (ms.foldl (runMember (1 < ms.length)) s)

/-- The members of an operation's run at a word, in ascending lane order (R224). -/
def opMembers (s : State) (b c o pa : Nat) : List Member :=
  match opIn s b c o with
  | some op => (accsAt op pa).map (fun i => { b := b, c := c, o := o, i := i })
  | none => []

/-- The run of an operation at a word (R224). Only the lanes of a mergeable operation are a merged group (R310). -/
def runGroup (s : State) (b c o pa : Nat) : State :=
  match opIn s b c o with
  | some op =>
    if (mergeKey op.kind).isSome then runMembers s (opMembers s b c o pa)
    else finishOp ((opMembers s b c o pa).foldl (runMember false) s) b c o
  | none => s

/-- The operations of the device, with their block and cord. -/
def allOps (s : State) : List (Nat × Nat × Op) :=
  s.blocks.zipIdx.flatMap (fun x => x.1.cords.zipIdx.flatMap (fun c => c.1.ops.map (fun o => (x.2, c.2, o))))

/-- The source key of a lane of a cord (R222): die and core, then slot, then lane. -/
def sourceKey (s : State) (b c lane : Nat) : Nat :=
  let x := sourceOf s b c 0 0
  (x.core * 64 + x.slot) * 64 + lane

/-- A list put in ascending order of a key; equal keys keep their order. -/
def sortByKey {α : Type} (key : α → Nat) (l : List α) : List α :=
  let rec insert (x : α) : List α → List α
    | [] => [x]
    | y :: t => if key y < key x then y :: insert x t else x :: y :: t
  l.foldr insert []

/-- The context of a block. -/
def ctxOfBlock (s : State) (b : Nat) : Nat × Nat := ((gridOfBlock s b).map (fun g => (g.part, g.ctx))).getD (0, 0)

/-- A request that waits in the network and could merge with another at a word (R222). -/
def mergeable (s : State) (b pa : Nat) (o : Op) (e : Nat × Nat × Op) : Bool :=
  mergeKey e.2.2.kind == mergeKey o.kind && ctxOfBlock s e.1 == ctxOfBlock s b
    && (match s.blocks[e.1]? with
      | some x => groupReady s e.1 e.2.1 x.core e.2.2 pa
      | none => false)
    && (accsAt e.2.2 pa).all (fun i => (e.2.2.accs[i]?.map Acc.st) == some .ready)

/-- The accesses of an operation at a word forwarded as one of group g. -/
def sendGroup (s : State) (b c o pa g : Nat) : State :=
  modCord s b c (fun x => modOp x o (fun p => { p with accs := p.accs.map (fun a =>
    if a.open_ && a.pa == pa then { a with st := .sent g } else a) }))

/-- The requests that a group of n members takes up, one after another: none that would bring it past 64 (R222). -/
def joinGroup (pa : Nat) : Nat → List (Nat × Nat × Op) → List (Nat × Nat × Op)
  | _, [] => []
  | n, e :: t =>
    let k := (accsAt e.2.2 pa).length
    if n + k ≤ 64 then e :: joinGroup pa (n + k) t else joinGroup pa n t

/-- ROUTER_MERGE_WINDOW (R222): the hold of a request ends and its group is forwarded. Which of the
matching requests in the network met it is free (log 3). A context that follows a log keeps the recorded
order without groups. -/
def execRouterMergeWindow (b c o pa : Nat) (s : State) : Host.Outcome State Fault Refusal :=
  .next (match opIn s b c o with
    | some op =>
      if (mergeKey op.kind).isSome && placeOf pa == .homed && !detMode s b
          && !inReplay s b && mergeable s b pa op (b, c, op) then
        let x := takeFree s
        let others := (allOps s).filter (fun e =>
          !(e.1 == b && e.2.1 == c && e.2.2.id == o) && mergeable s b pa op e)
        let met := (others.zipIdx.filter (fun e => x.1.getLsbD (e.2 % 64))).map Prod.fst
        (joinGroup pa (accsAt op pa).length met).foldl (fun t e => sendGroup t e.1 e.2.1 e.2.2.id pa (s.free + 1)) (sendGroup x.2 b c o pa (s.free + 1))
      else s
    | none => s)

/-- The accesses of an operation that were forwarded as members of group g, each with its source key. -/
def opGroup (s : State) (b c : Nat) (o : Op) (pa g : Nat) : List (Nat × Member) :=
  o.accs.zipIdx.filterMap (fun e =>
    if e.1.pa == pa && e.1.st == .sent g then
      some (sourceKey s b c e.1.lane, { b := b, c := c, o := o.id, i := e.2 })
    else none)

/-- The members of a forwarded group, in source-key order over all its issues (R223). Members of one key, which two issues of
one cord bring, go in the order of their issue (log 102, DESIGN CHOICE). -/
def groupMembers (s : State) (pa g : Nat) : List Member :=
  (sortByKey Prod.fst ((allOps s).flatMap (fun e => opGroup s e.1 e.2.1 e.2.2 pa g))).map Prod.snd

/-! ### RETRACT and TCOMMIT (R245, R283, R284) -/

/-- The cell that RETRACT and TCOMMIT act on: the braid's own, outside regions. -/
def ownCell (me : BraidId) (c : Cell) : Bool := c.owner == me && c.region.isNone

/-- The step of a lane of RETRACT or TCOMMIT at its home is noted (R310); outside the populated windows there is
none, and the access is rejected as an entry of its KIND is (R205, R262, Table 11-7), and so it is where a peer cannot be
reached or has no memory (R367, R378, R379). Host and peer memory hold no cell, so that nothing else happens there. -/
def cellNote (s : State) (b c core : Nat) (o : Op) (a : Acc) : State :=
  match placeOf a.pa with
  | .homed => noteStep s b c a.lane o.ret (dwOf a.pa) 8 false
  | .hole | .mgmt => rejectStore s b c core o a true 7
  | _ => match peerRejects s a with
    | some d => rejectStore s b c core o a true d
    | none => s

/-- A lane passes the RETRACT of an operation (R283), if it is still parked there: to the next instruction, or to the
retract-failed target. -/
def passRetract (o : Op) (lit : Word) (l : Nat) (ok : Bool) (x : Cord) : Cord :=
  if (x.lane l).park != some (.op o.id) then x
  else if ok then passLanes 12 [l] x
  else (passLanes 12 [l] x).modLane l (fun t => { t with pc := o.pc + lit.signExtend 64 })

/-- The step of access i of a RETRACT (R283): whether it succeeded, and the state after it. -/
def retractStep (s : State) (b c core : Nat) (o : Op) (i : Nat) : State :=
  match o.accs[i]?, stepForm o.kind with
  | some a, some f => replayed s b c o a (fun s =>
    let me := braidOf s b
    let dw := dwOf a.pa
    let s := bypassL1 s core dw 8
    let mine := (cellsAt s dw).find? (ownCell me)
    let ok := placeOf a.pa == .homed && (mine.map (fun x => !x.observed)).getD false
    let s := observe s dw (some me)
    let s := if ok then retractCell s dw (ownCell me) else freeCell s dw (ownCell me)
    let s := cellNote s b c core o a
    modCord s b c (fun x =>
      passRetract o (f.lit.getD 0) a.lane ok (modOp x o.id (fun p => setAcc p i .done))))
  | _, _ => s

/-- The step of access i of a TCOMMIT (R284). -/
def tcommitStep (s : State) (b c core : Nat) (o : Op) (i : Nat) : State :=
  match o.accs[i]? with
  | some a => replayed s b c o a (fun s =>
    let me := braidOf s b
    let dw := dwOf a.pa
    let s := observe (bypassL1 s core dw 8) dw (some me)
    let s := freeCell s dw (ownCell me)
    let s := cellNote s b c core o a
    modCord s b c (fun x => modOp x o.id (fun p => setAcc p i .done)))
  | none => s

/-- The places of an operation's open accesses at a doubleword. -/
def accsAtDw (o : Op) (dw : Nat) : List Nat :=
  (List.range o.accs.length).filter (fun i => match o.accs[i]? with
    | some a => a.open_ && dwOf a.pa == dw
    | none => false)

/-- A run of cell steps at a doubleword, in ascending lane order, once all may go. -/
def eachCell (s : State) (b c o dw : Nat) (f : State → Nat → Nat → Nat → Op → Nat → State) : State :=
  match s.blocks[b]?, opIn s b c o with
  | some x, some op =>
    if runGoes s b c x.core op (accsAtDw op dw) then
      (accsAtDw op dw).foldl (fun s i => match opIn s b c o with
        | some p => f s b c x.core p i
        | none => s) s
    else s
  | _, _ => s

/-- A run of cell steps after which the operation may be complete. -/
def runCells (s : State) (b c o dw : Nat) (f : State → Nat → Nat → Nat → Op → Nat → State) : State :=
  finishOp (eachCell s b c o dw f) b c o

/-! ### Issue -/

/-- An atomic issues (R275, R276): an ordered one is a boundary of its strands before and after its step,
counted once by %phase; a release keeps what its core had issued. -/
def atomicBody (f : LForm) (kind : OpKind) (regs : List Nat) (accs : Issue → List (Nat × Nat) → List Acc)
    (u : Issue) (s : State) : Act :=
  let eas := (participants u f).map (fun l => (l, eaGlobal u f l))
  let n := orderCode f
  let lanes := eas.map Prod.fst
  checkGlobal eas true (stepSize f)
    (if eas.isEmpty then .go [] [] (fun t => t)
    else if stagingFull s u eas.length then awaitTicket u
    else .go regs [] (fun t =>
      let core := u.blk.core
      let t := if n != 0 then countPhase t core else t
      let as := accs u eas
      let as := if n != 0 then as.map (fun a => { a with epoch := a.epoch + 1 }) else as
      let t := addAccOp t u { newOp t u f lanes kind as with
        stream := stepStream f, released := !detMode t u.b,
        rel := if orderRel n then some (cutOf t core) else none }
      if n != 0 then coreBoundary (modCord t u.b u.c (fun c => boundary lanes (boundary lanes c))) core else t))

/-- One access with its operand in each lane. -/
def stepAccs (f : LForm) (u : Issue) (eas : List (Nat × Nat)) : List Acc :=
  eas.map (fun e => newAcc u e.1 e.2 (stepSize f) (dataBytes u f (stepSize f) e.1) [])

/-- The new value of a CAS in lane l: its third word names a register (R277). -/
def casNew (u : Issue) (f : LForm) (l : Nat) : Nat :=
  let w := f.lit.getD 0
  regVal u.cord l (w.getLsbD 8) (wideTy f.ty) (w.setWidth 8).toNat

/-- The accesses of a CAS: expected and new value in each lane. -/
def casAccs (f : LForm) (u : Issue) (eas : List (Nat × Nat)) : List Acc :=
  eas.map (fun e => newAcc u e.1 e.2 (stepSize f)
    (leBytes (stepSize f) (regVal u.cord e.1 f.bsc (wideTy f.ty) f.b.toNat))
    (leBytes (stepSize f) (casNew u f e.1)))

/-- ATOM (R274 to R276). -/
def execAtom (f : LForm) (s : State) := issue (.atom f) (atomicBody f (.atom f) (stepSpan f) (stepAccs f)) s
/-- RED (R274 to R276). -/
def execRed (f : LForm) (s : State) := issue (.red f) (atomicBody f (.red f) [] (stepAccs f)) s
/-- CAS (R274, R275, R277). -/
def execCas (f : LForm) (s : State) := issue (.cas f) (atomicBody f (.cas f) (stepSpan f) (casAccs f)) s

/-- The accesses of ATOMR: the operand and, for .cas, the expected value in D (R279). -/
def atomrAccs (f : LForm) (u : Issue) (eas : List (Nat × Nat)) : List Acc :=
  eas.map (fun e => newAcc u e.1 e.2 (stepSize f)
    (leBytes (stepSize f) (regVal u.cord e.1 f.bsc (wideTy f.ty) f.b.toNat))
    (leBytes (stepSize f) (regVal u.cord e.1 false (wideTy f.ty) f.d.toNat)))

/-- One command leaves for its owner once it has translated (R226, R279); its access stays open until the owner has
performed it (R243). -/
def commandOne (f : LForm) (s : State) (b c core : Nat) (o : Op) (i : Nat) : State :=
  match o.accs[i]?, cordOf s b c with
  | some a, some x =>
    if a.st != .ready || !stepReady s b c core o a then s
    else
      let mark (s : State) (st : AccState) : State := modCord s b c (fun x => modOp x o.id (fun p => setAcc p i st))
      match placeOf a.pa with
      | .hole | .mgmt =>
        let s := modCore (mark s (.rejected 7)) core (fun k => { k with credits := k.credits + 1 })
        reportProt s b c o [a.lane] 7 a.va
      | _ =>
        modCore (mark s (.sent 0)) core (fun k => { k with
          seq := k.seq + 1,
          commands := k.commands ++ [{
            n := k.seq, block := b, cord := c, slot := x.slot, lane := a.lane, pa := a.pa,
            op := f.mod2.toNat % 8, ty := f.ty.toNat, val := BitVec.ofNat 64 (leNat a.data),
            cmp := BitVec.ofNat 64 (leNat a.data2),
            tag := BitVec.ofNat 16 ((f.lit.getD 0).toNat + a.lane), ret := o.ret, seq := o.seq,
            stream := o.stream, order := o.order }] })
  | _, _ => s

/-- An access that has not left its core. -/
def Acc.kept (a : Acc) : Bool :=
  match a.st with
  | .wait | .buffered _ | .ready => true
  | _ => false

/-- ATOMR is complete when the path has accepted its last command: its flag falls (R279). -/
def commandsLeft (s : State) (b c o : Nat) : State :=
  match opIn s b c o with
  | none => s
  | some op =>
    if op.accs.any Acc.kept then s
    else modCord s b c (fun x => flagDown (modOp x o (fun p => { p with flag := none })) op.flag)

/-- The commands of a cord that can leave do so, in the order of issue. -/
def sendCommands (s : State) (b c : Nat) : State :=
  match s.blocks[b]?, cordOf s b c with
  | some blk, some x => x.ops.foldl (fun s o =>
      match o.kind with
      | .atomr f =>
        finishOp (commandsLeft (eachAcc s b c o.id (fun s op i => commandOne f s b c blk.core op i)) b c o.id) b c o.id
      | _ => s) s
  | _, _ => s

/-- The access of a command is performed at its owner (R226). -/
def commandDone (s : State) (d : Delegated) : State :=
  match (cordOf s d.block d.cord).bind (fun x => x.ops.find? (fun o => o.seq == d.seq && (match o.kind with
      | .atomr _ => true
      | _ => false))) with
  | none => s
  | some o =>
    finishOp (modCord s d.block d.cord (fun x => modOp x o.id (fun p => { p with accs := p.accs.map (fun a =>
      if a.lane == d.lane && a.st == .sent 0 then { a with st := .done } else a) }))) d.block d.cord o.id

/-- The replies that a cord can take now, in the order it takes them: as they arrived, or in deterministic
mode in the order in which the commands issued (R306). -/
def takeable (s : State) (b c core : Nat) : List Reply :=
  let mine := (coreOf s core).cq.filter (fun r => r.block == b && r.cord == c)
  if detMode s b then sortByKey (fun r => r.n) mine else mine

/-- The commands of a cord with no reply in the queue yet, as (issue order) numbers. -/
def outstandingCommands (s : State) (b c core : Nat) : List Nat :=
  (((coreOf s core).commands.filter (fun d => d.block == b && d.cord == c)).map (fun d => d.seq * 64 + d.lane))
    ++ (match cordOf s b c with
      | some x => x.ops.flatMap (fun o => match o.kind with
        | .atomr _ => (o.accs.filter Acc.kept).map (fun a => o.seq * 64 + a.lane)
        | _ => [])
      | none => [])

/-- In deterministic mode CQPOP takes n replies only when none of the first n in order is missing (R306). -/
def repliesIn (s : State) (b c core n : Nat) : Bool :=
  let have_ := (takeable s b c core).map (fun r => r.n)
  let out := outstandingCommands s b c core
  ((sortByKey (fun x => x) (have_ ++ out)).take n).all (fun x => have_.contains x)

/-- The writes of CQPOP in a lane (R280). -/
def cqWs (f : LForm) (l : Nat) (r : Option Reply) : List RegW :=
  match r with
  | some r =>
    putReg false true f.d.toNat l r.value.toNat
      ++ [.v l (f.d.toNat + 2) (BitVec.ofNat 32 (r.tag.toNat + r.status.toNat * 65536)), .p l f.c.toNat true]
  | none => putReg false true f.d.toNat l 0 ++ [.v l (f.d.toNat + 2) 0, .p l f.c.toNat false]

/-- Replies leave the completion queue: their credits return (R227). A poisoned value that reaches a register kills
the braid (R348). -/
def popReplies (s : State) (b core : Nat) (taken : List Reply) : State :=
  let s := modCore s core (fun k => { k with
    cq := k.cq.filter (fun r => !taken.contains r), credits := k.credits + taken.length })
  if taken.any Reply.poison then killBraid s b else s

/-- The replies taken for some lanes: one each while they last (R280), and they
are recorded (R310). -/
def takeReplies (s : State) (b c core : Nat) (f : LForm) (ret : Nat) (lanes : List Nat) :
    List RegW × State :=
  let rs := takeable s b c core
  let got := lanes.zipIdx.map (fun e => (e.1, rs[e.2]?))
  let s := popReplies s b core (rs.take lanes.length)
  let s := got.foldl (fun s e => match e.2 with
    | some r =>
      let src := sourceOf s b c e.1 ret
      recordTimed (recordTimed s b { kind := 4, src := src, data := r.value.toNat }) b
        { kind := 5, src := src, data := r.tag.toNat + r.status.toNat * 65536 }
    | none => s) s
  (got.flatMap (fun e => cqWs f e.1 e.2), s)

/-- What a replay has for a lane of a CQPOP (R311, R312): no reply, a reply by value and tag word with the places of
its two entries, or another event. -/
inductive ReplyEntry where
  | none
  | reply (value tag : Nat) (i j : Nat)
  | diverge
  deriving DecidableEq, Repr

/-- The recorded reply of a lane (Table 15-7: KIND 4 and the KIND 5 that follows it). -/
def replyEntry (s : State) (x : Ctx) (src : Source) : ReplyEntry :=
  match replayValue s x 4 src, replayValue s x 5 src with
  | some v, some t => .reply v.1 t.1 v.2 t.2
  | _, _ => if (logLeft s x).any (fun e => e.1.src.same src && e.1.kind != 1) then .diverge else .none

/-- The replies that have arrived for some recorded ones, each taken once; none while one of them is missing
(R311). -/
def matchReplies : List (Nat × ReplyEntry) → List Reply → Option (List (Nat × Option Reply))
  | [], _ => some []
  | (l, .reply v t _ _) :: rest, rs =>
    (rs.find? (fun r => r.value.toNat == v && r.tag.toNat + r.status.toNat * 65536 == t)).bind (fun r =>
      (matchReplies rest (rs.erase r)).map (fun m => (l, some r) :: m))
  | (l, _) :: rest, rs => (matchReplies rest rs).map (fun m => (l, none) :: m)

/-- The entries of some recorded replies are met. -/
def meetReplies (s : State) (b : Nat) (es : List (Nat × ReplyEntry)) : State :=
  es.foldl (fun s e => match e.2 with
    | .reply _ _ i j => meetEntry (meetEntry s b (some i)) b (some j)
    | _ => s) s

/-- A CQPOP has its replies: they reach its registers when the operation completes (R280). -/
def giveReplies (s : State) (b c : Nat) (o : Op) (ws : List RegW) : State :=
  modCord s b c (fun x => modOp x o.id (fun p => { p with kind := .queued ws none, stream := 2 }))

/-- A CQPOP takes the replies that the queue has for it (R280), in deterministic mode once they are in order
(R306). -/
def popNow (s : State) (b c core : Nat) (f : LForm) (o : Op) : State :=
  if detMode s b && !repliesIn s b c core o.lanes.length then s
  else
    let r := takeReplies s b c core f o.ret o.lanes
    giveReplies r.2 b c o r.1

/-- A CQPOP of a context that follows a log takes its recorded replies once they have arrived (R311). -/
def popReplayed (s : State) (b c core : Nat) (f : LForm) (o : Op) (x : Ctx) : State :=
  let es := o.lanes.map (fun l => (l, replyEntry s x (sourceOf s b c l o.ret)))
  if es.any (fun e => e.2 == .diverge) then diverged s b o.pc.toNat
  else
    match matchReplies es ((coreOf s core).cq.filter (fun r => r.block == b && r.cord == c)) with
    | none => s
    | some got =>
      giveReplies (meetReplies (popReplies s b core (got.filterMap Prod.snd)) b es) b c o
        (got.flatMap (fun e => cqWs f e.1 e.2))

/-- The cord's context replays a log that still has entries for it, or that recording had not filled (R311, R312). -/
def logBound (s : State) (b c core : Nat) : Bool :=
  match gridOfBlock s b with
  | none => false
  | some g =>
    let x := ctxOf s g.part g.ctx
    ctxLog x == 2 && !cordUnbound s x core (sourceOf s b c 0 0).slot

/-- A waiting CQPOP takes its replies if it can (R306, R311, R312). -/
def serveCqpop (s : State) (b c core : Nat) (f : LForm) (o : Op) : State :=
  match gridOfBlock s b with
  | none => popNow s b c core f o
  | some g =>
    if !detMode s b && logBound s b c core then popReplayed s b c core f o (ctxOf s g.part g.ctx)
    else popNow s b c core f o

/-- A CQPOP of a cord that has not taken its replies. -/
def waitsReplies (o : Op) : Bool :=
  match o.kind with
  | .cqpop _ => true
  | _ => false

/-- The waiting CQPOPs of a cord that can take their replies do so, in the order of issue (R306, R311). -/
def serveCqpops (s : State) (b c core : Nat) : State :=
  match cordOf s b c with
  | none => s
  | some x => x.ops.foldl (fun s o => match o.kind with
      | .cqpop f =>
        if ((cordOf s b c).map (fun y => (opsBefore y o.id).any waitsReplies)).getD false then s
        else serveCqpop s b c core f o
      | _ => s) s

/-- What can go on of a block's stores, commands and waiting CQPOPs, after one of its operations has. -/
def settleAll (s : State) (b : Nat) : State :=
  let s := settle s b
  match s.blocks[b]? with
  | none => s
  | some x => (List.range x.cords.length).foldl (fun s c => serveCqpops (sendCommands s b c) b c x.core) s

/-- ATOMIC_STEP (R221): the arbiter performs the steps of an operation at a word, or of the merged group it
was forwarded in; for RETRACT and TCOMMIT, their steps at the doubleword. Then what they
held back goes on. -/
def execAtomicStep (b c o pa : Nat) (s : State) : Host.Outcome State Fault Refusal :=
  .next (match s.blocks[b]?, opIn s b c o with
    | some x, some op =>
      settleAll (match op.kind with
        | .retract _ => runCells s b c o (dwOf pa) retractStep
        | .tcommit _ => runCells s b c o (dwOf pa) tcommitStep
        | .atom _ | .cas _ | .red _ =>
          if !groupReady s b c x.core op pa then s
          else
            match (accsAt op pa).head?.bind (fun i => (op.accs[i]?).map Acc.st) with
            | some (.sent g) => runMembers s (groupMembers s pa g)
            | _ => runGroup s b c o pa
        | _ => s) b
    | _, _ => s)

/-- ATOMR (R226, R227, R279): it takes a credit for each participant; a relaunchable braid stops being so
(R350). -/
def execAtomr (f : LForm) (s : State) :=
  issue (.atomr f) (fun u s =>
    let eas := (participants u f).map (fun l => (l, eaGlobal u f l))
    let core := u.blk.core
    checkGlobal eas true (stepSize f)
      (if eas.isEmpty then .go [] [] (fun t => t)
      else if 256 < eas.length then .trap .cqCredit (eas.map Prod.fst) 0 0
      else if stagingFull s u eas.length then awaitTicket u
      else if (coreOf s core).credits < eas.length then .wait
      else .go [] [] (fun t =>
        let t := modCore (unrelaunch t (braidOf t u.b)) core (fun k => { k with credits := k.credits - eas.length })
        settleAll (addAccOp t u { newOp t u f (eas.map Prod.fst) (.atomr f) (atomrAccs f u eas) with
          stream := f.mod.toNat, released := !detMode t u.b }) u.b))) s

/-! ### Delegated commands and replies -/

/-- Whether a host's AtomicOps serve an operation and type (R359). -/
def hostServes (op ty : Nat) : Bool := (op == 0 && [1, 2, 4, 5].contains ty) || op == 6 || op == 7

/-- The step of a delegated command at homed memory (R226): the value it read, and whether that is poisoned. -/
def delegatedStep (s : State) (core : Nat) (d : Delegated) : (Nat × Bool) × State :=
  let size := if d.ty = 4 ∨ d.ty = 5 then 8 else 4
  let me := braidOf s d.block
  let s := bypassL1 s core d.pa size
  let old := leNat (memRead s.mem d.pa size)
  let poison := memPoison s d.pa size
  let s := observe s (dwOf d.pa) (some me)
  let y : Option Nat := if d.op = 7 then (if old = d.cmp.toNat % 2 ^ (8 * size) then some d.val.toNat else none)
    else some (newWord d.op d.ty old d.val.toNat)
  let s := match y with
    | some y => ownWrite s me d.pa (leBytes size y) poison
    | none => s
  ((old, poison), noteStep s d.block d.cord d.lane d.ret d.pa size false)

/-- The source of a command (Table 15-7). -/
def Delegated.source (d : Delegated) (core : Nat) : Source :=
  { core := core, slot := d.slot, lane := d.lane, count := d.ret }

/-- The replay of a command's step at homed memory (R226, R311). -/
def commandReplay (s : State) (core : Nat) (d : Delegated) : Replay :=
  if placeOf d.pa == .homed then replayAt s d.block (d.source core) d.pa false else .go none

/-- A command written into the queue of its owner outside the module (R226). -/
def sendCommand (s : State) (d : Delegated) : State := send s (.command d.pa d.op d.ty d.val d.cmp d.tag)

/-- The answer of an owner outside the module: its value is free (log 3), and a 32-bit one is zero-extended. -/
def ownerValue (s : State) (d : Delegated) : DWord × State :=
  let x := takeFree s
  (if d.ty = 4 ∨ d.ty = 5 then x.1 else x.1 &&& 0xFFFFFFFF, x.2)

/-- What came of a command: the value and status of its reply, whether the value is poisoned, and the state after. -/
structure Served where
  value  : DWord := 0
  status : BitVec 8
  poison : Bool := false
  after  : State

/-- What a command answers and does (R225, R226, R359, R367, R378). -/
def serveCommand (s : State) (core : Nat) (d : Delegated) : Served :=
  match placeOf d.pa with
  | .homed =>
    let r := delegatedStep s core d
    { value := BitVec.ofNat 64 r.1.1, status := 0, poison := r.1.2, after := r.2 }
  | .host =>
    let s := sendCommand s d
    if hostServes d.op d.ty then
      let r := ownerValue s d
      { value := r.1, status := 0, after := r.2 }
    else { status := 3, after := s }
  | .peer i =>
    match reachPeer s i (d.pa % 2 ^ 44) with
    | .reject 7 => { status := 1, after := sendCommand s d }
    | .reject _ => { status := 2, after := s }
    | _ =>
      let r := ownerValue (sendCommand s d) d
      { value := r.1, status := 0, after := r.2 }
  | _ => { status := 1, after := s }

/-- A lower lane of a released command's own issue has still to leave for the same word (R303). -/
def lowerLaneOpen (s : State) (d : Delegated) : Bool :=
  d.order != 0 && ((cordOf s d.block d.cord).any (fun y => y.ops.any (fun p =>
    p.order == d.order && p.accs.any (fun e => e.open_ && e.lane < d.lane && dwOf e.pa == dwOf d.pa))))

/-- A command or reply whose way leads over a port in recovery is delayed (R226, R379). -/
def overRecovery (s : State) (d : Delegated) : Bool :=
  match placeOf d.pa with
  | .peer i => reachPeer s i (d.pa % 2 ^ 44) == .waits
  | _ => false

/-- A command whose traffic waits for a port in recovery (R379), for what was released before it (R303), or for the
steps that a replay has before it (R311). -/
def commandWaits (s : State) (core : Nat) (d : Delegated) : Bool :=
  earlierReleased s d.block d.order d.pa || lowerLaneOpen s d || commandReplay s core d == .wait
    || overRecovery s d

/-- A command is performed at its owner, and its reply is on its way. -/
def performCommand (s : State) (core : Nat) (d : Delegated) : State :=
  let r := serveCommand s core d
  commandDone (modCore r.after core (fun k => { k with commands := k.commands.map (fun e =>
    if e.n == d.n then { e with perf := true, value := r.value, status := r.status, poison := r.poison } else e) })) d

/-- DELEGATED_ATOMIC_PERFORM (R226). -/
def execDelegatedAtomicPerform (core n : Nat) (s : State) : Host.Outcome State Fault Refusal :=
  .next (match (coreOf s core).commands.find? (fun d => d.n == n && !d.perf) with
    | none => s
    | some d =>
      if commandWaits s core d then s
      else
        settleAll (match commandReplay s core d with
          | .go used => performCommand (meetEntry s d.block used) core d
          | _ => diverged s d.block 0) d.block)

/-- Whether the cord that a command came from has ended or was killed: its reply is discarded (R228). -/
def replyDropped (s : State) (d : Delegated) : Bool :=
  ((cordOf s d.block d.cord).map (fun x => x.ended || x.killed)).getD true

/-- The reply as it arrives: one that was to come over a port that is lost gives STATUS 2 (R379). -/
def arrived (s : State) (d : Delegated) : Delegated :=
  match placeOf d.pa with
  | .peer i => if reachPeer s i (d.pa % 2 ^ 44) = .reject 8 then { d with status := 2, value := 0, poison := false } else d
  | _ => d

/-- A reply put into the completion queue, or its credit returned (R227, R228). -/
def takeReply (s : State) (core : Nat) (d : Delegated) : State :=
  modCore s core (fun k =>
    let k := { k with commands := k.commands.filter (fun e => e.n != d.n) }
    if replyDropped s d then { k with credits := k.credits + 1 }
    else { k with cq := k.cq ++ [{
      block := d.block, cord := d.cord, n := d.seq * 64 + d.lane, value := d.value, tag := d.tag,
      status := d.status, slot := d.slot, poison := d.poison }] })

/-- CQ_REPLY_ARRIVAL (R227, R228): a reply that the link delays has not arrived (R226). -/
def execCqReplyArrival (core n : Nat) (s : State) : Host.Outcome State Fault Refusal :=
  .next (match (coreOf s core).commands.find? (fun d => d.n == n && d.perf) with
    | none => s
    | some d => if overRecovery s d then s else settleAll (takeReply s core (arrived s d)) d.block)

/-- CQPOP (R280): the replies are taken at issue; in deterministic mode when they are in order (R306). The
registers are written when the operation completes. -/
def execCqpop (f : LForm) (s : State) :=
  issue (.cqpop f) (fun u _ =>
    let lanes := participants u f
    if lanes.isEmpty then .go [] [] (fun t => t)
    else .go [f.d.toNat, f.d.toNat + 1, f.d.toNat + 2] [] (fun t =>
      let o := newOp t u f lanes (.cqpop f) []
      if detMode t u.b || inReplay t u.b then settleAll (addOp t u o) u.b
      else
        let r := takeReplies t u.b u.c u.blk.core f u.cord.retired.toNat lanes
        addOp r.2 u { o with kind := .queued r.1 none, stream := 2 })) s

/-! ### Tentative stores -/

/-- TST (R281): its predicate is written when every participant's step has been performed. -/
def execTst (f : LForm) (s : State) :=
  issue (.tst f) (fun u s =>
    let eas := (participants u f).map (fun l => (l, eaGlobal u f l))
    checkGlobal eas true (stepSize f)
      (if eas.isEmpty then .go [] [] (fun t => t)
      else if stagingFull s u eas.length then awaitTicket u
      else .go [] [] (fun t => addAccOp t u { newOp t u f (eas.map Prod.fst) (.tst f) (stepAccs f u eas) with
        stream := f.mod.toNat, released := !detMode t u.b }))) s

/-- The outcome of a TST in a lane kept until all are known: its pF (R281). -/
def tstDone (s : State) (b c : Nat) (o : Op) (i : Nat) (f : LForm) (full : Bool) (st : AccState) : State :=
  match o.accs[i]? with
  | none => s
  | some a => modCord s b c (fun x => modOp x o.id (fun p =>
      { setAcc p i st with ws := p.ws ++ [.p a.lane f.d.toNat full] }))

/-- The step of access i of a TST that takes or joins a cell (R281): the 4,097th of a relaunchable braid ends its
relaunchability (R350). -/
def tstTake (s : State) (b c : Nat) (o : Op) (i : Nat) (f : LForm) : State :=
  match o.accs[i]? with
  | none => s
  | some a =>
    let me := braidOf s b
    let s := if (cellsAt s (dwOf a.pa)).any (fun x => x.owner == me) then s
      else takeCell (limitCells s me) (dwOf a.pa) me none
    tstDone (noteStep (ownWrite s me a.pa a.data false) b c a.lane o.ret (dwOf a.pa) 8 false) b c o i f false .done

/-- TST whose every step has been performed writes its predicates and is complete (R281), or where its results arrive one by
one, once the last has (R57). -/
def finishTst (s : State) (b c o : Nat) : State :=
  match opIn s b c o with
  | none => s
  | some op =>
    if op.accs.any Acc.open_ || (op.piece && !op.ws.isEmpty) then s else modCord s b c (fun x => completeOp x op op.ws)

/-- A replay recorded this lane's TST as a fallback (R311): it falls back at once. -/
def replayFallback (s : State) (b c : Nat) (o : Op) (a : Acc) : Option Nat :=
  match gridOfBlock s b with
  | some g => (replayValue s (ctxOf s g.part g.ctx) 6 (sourceOf s b c a.lane o.ret)).map Prod.snd
  | none => none

/-- The step of access i of a TST without a cell (R281): TFULL; it is recorded (R310), and its braid is no longer
relaunchable (R350). -/
def tstFall (s : State) (b c core : Nat) (o : Op) (i : Nat) (f : LForm) : State :=
  match o.accs[i]? with
  | none => s
  | some a =>
    let s := unrelaunch (ownWrite (bypassL1 s core a.pa a.size) (braidOf s b) a.pa a.data false) (braidOf s b)
    let s := noteStep s b c a.lane o.ret (dwOf a.pa) 8 false
    let s := recordFor s b { kind := 6, src := sourceOf s b c a.lane o.ret, data := dwOf a.pa }
    tstDone s b c o i f true .done

/-- One access of a TST at its home (R225, R281): outside homed memory it ends as a rejected tentative store does
(Table 11-7); else it joins its braid's cell, waits while another braid's cell
is live, which it observes, or while no cell is free, or takes a cell. -/
def tstOne (f : LForm) (s : State) (b c core : Nat) (o : Op) (i : Nat) : State :=
  match o.accs[i]? with
  | none => s
  | some a =>
    let me := braidOf s b
    let dw := dwOf a.pa
    match placeOf a.pa with
    | .homed =>
      match replayFallback s b c o a with
      | some n => replayed s b c o a (fun s => tstFall (meetEntry s b (some n)) b c core o i f)
      | none =>
        let s := bypassL1 s core dw 8
        let cs := cellsAt s dw
        if cs.any (fun x => x.owner == me) || (cs.isEmpty && weltRoom s dw) then
          replayed s b c o a (fun s => tstTake s b c o i f)
        else modCord (observe s dw (some me)) b c (fun x => modOp x o.id (fun p => setAcc p i (.sent 0)))
    | .hole | .mgmt => rejectStore (tstDone s b c o i f false (.rejected 7)) b c core o a true 7
    | _ =>
      let d := unhomedDetail s a
      unrelaunch (rejectStore (tstDone s b c o i f false (.rejected d)) b c core o a true d) me

/-- TST_STEP (R281): the participants at a doubleword, in ascending lane order. -/
def execTstStep (b c o dw : Nat) (s : State) : Host.Outcome State Fault Refusal :=
  .next (match opIn s b c o with
    | some op =>
      match op.kind with
      | .tst f => settleAll (finishTst (eachCell s b c o dw (tstOne f)) b c o) b
      | _ => s
    | none => s)

/-- A TST that has waited for 10 µs falls back; one whose context follows a log does so only where that has it fall
back (R311). -/
def tstWaited (s : State) (b c core : Nat) (o : Op) (i : Nat) (f : LForm) : State :=
  match o.accs[i]? with
  | none => s
  | some a => if logBound s b c core then s else replayed s b c o a (fun s => tstFall s b c core o i f)

/-- TST_CELL_WAIT_TIMEOUT (R281): the waits of a TST at a doubleword pass 10 µs. -/
def execTstCellWaitTimeout (b c o dw : Nat) (s : State) : Host.Outcome State Fault Refusal :=
  .next (match s.blocks[b]?, opIn s b c o with
    | some x, some op =>
      match op.kind with
      | .tst f =>
        settleAll (finishTst ((accsAtDw op dw).foldl (fun s i => match opIn s b c o with
          | some p => if (p.accs[i]?.map Acc.st) == some (.sent 0) then
              tstWaited s b c x.core p i f
            else s
          | none => s) s) b c o) b
      | _ => s
    | _, _ => s)

/-- RETRACT (R283): its target is checked first; each participant passes it when its step is performed. -/
def execRetract (f : LForm) (s : State) :=
  issue (.retract f) (fun u s =>
    match u.resume with
    | some _ => .wait
    | none =>
      let eas := (participants u f).map (fun l => (l, eaGlobal u f l))
      let lanes := eas.map Prod.fst
      checkGlobal eas true 4
        (if eas.isEmpty then .go [] [] (fun t => t)
        else checkTargets u s (lanes.map (fun l => (l, relTarget f u l)))
          (if stagingFull s u eas.length then awaitTicket u
          else .go [] [] (fun t =>
            let o := { newOp t u f lanes (.retract f) (eas.map (fun e => newAcc u e.1 e.2 4 [] [])) with
              stream := f.mod.toNat, released := !detMode t u.b }
            let t := addAccOp t u o
            modCord t u.b u.c (fun c => parkLanes u none 0 lanes (.op (c.nextOp - 1)) c))))) s

/-- TCOMMIT (R284). -/
def execTcommit (f : LForm) (s : State) :=
  issue (.tcommit f) (fun u s =>
    let eas := (participants u f).map (fun l => (l, eaGlobal u f l))
    checkGlobal eas true 4
      (if eas.isEmpty then .go [] [] (fun t => t)
      else if stagingFull s u eas.length then awaitTicket u
      else .go [] [] (fun t => addAccOp t u { newOp t u f (eas.map Prod.fst) (.tcommit f)
          (eas.map (fun e => newAcc u e.1 e.2 4 [] [])) with
        stream := f.mod.toNat, released := !detMode t u.b }))) s

end Sys2Proof.Machine
end

