-- ==== Sys2Proof/Machine/Scratch.lean ====
section
/-! DEFINITION. Descriptor instructions (R178, R179), tags and presence (R181 to R183), barrier objects (R165,
R166, R185, R186), and KICK, GSE and COLL as they issue (R184, R193, R197). -/

namespace Sys2Proof.Machine
open Sys2Proof

/-! ### Scalar operands (R174, R175) -/

/-- The elected strand (R174). -/
def elected (lanes : List Nat) : List Nat := lanes.take 1

/-- The checks of R175 on a local offset: aligned, and an object of `size` bytes within the window; then `k`. -/
def checkOwn (u : Issue) (lanes : List Nat) (x align size : Nat) (k : Act) : Act :=
  if bits x 31 20 != 0 || x % align != 0 then .trap .opndField (elected lanes) 0 0
  else if !inWindow u.blk x size then .trap .scratchRange (elected lanes) 0 0
  else k

/-- The lines of a range of the block's own window. -/
def ownLines (u : Issue) (off size : Nat) : List (Nat × Nat) := (linesOf off size).map (fun k => (u.b, k))

/-- A strand access of the elected strand to its own window is made: its cord waits while a line is absent (R158),
and it waits for what the strand has done earlier in stream 0, which the accesses of this chapter carry (R235, R238);
then `k`. -/
def withOwn (s : State) (u : Issue) (f : LForm) (lanes : List Nat) (off size : Nat) (k : Act) : Act :=
  if !present s u.b off size then awaitLines u (ownLines u off size)
  else if winBlocked s u f 0 (lanes.map (fun l => newAcc u l (packPos u.blk.pos off) size [] [])) then .wait
  else k

/-- A scalar register's value. -/
def scalA (u : Issue) (r : BitVec 8) : Nat := (u.cord.scal r.toNat).toNat

/-- The id operand: bits 9..0 of B or of the literal (R178). -/
def tdId (u : Issue) (f : LForm) : Nat :=
  (match f.lit with
    | some w => w.toNat
    | none => scalA u f.b) % 1024

/-- The state with a descriptor entry of a block's context replaced. -/
def setDesc (s : State) (b id : Nat) (e : BitVec 512) : State :=
  match gridOfBlock s b with
  | some g => modCtx s g.part g.ctx (fun x => { x with desc := tabPut x.desc id e })
  | none => s

/-- A store that the cord has issued to its own window at some bytes is still to be performed (R179). -/
def cordStores (u : Issue) (off size : Nat) : Bool :=
  let lo := packPos u.blk.pos off
  u.cord.ops.any (fun o => onWindow o.kind && plainStore o.kind
    && o.accs.any (fun a => a.open_ && a.va < lo + size && lo < a.va + a.size))

/-- TDSET (R146, R178, R179): the whole image, with the cord's earlier stores in it, is checked and becomes the entry. -/
def execTdset (f : LForm) (s : State) :=
  issue (.tdset f) (fun u s =>
    let lanes := participants u f
    let off := scalA u f.a
    if lanes.isEmpty then .go [] [] (fun t => t)
    else checkOwn u lanes off 64 64
      (withOwn s u f (elected lanes) off 64 (if cordStores u off 64 then .wait else
        let e := BitVec.ofNat 512 (leNat (winRead s u.b off 64))
        if (if dValid e then dAccepted e else dReservedOk e) then .go [] [] (fun t => setDesc t u.b (tdId u f) e)
        else .trap .descField (elected lanes) (tdId u f) 0))) s

/-- TDGET (R178, R179): the entry is stored into the image. -/
def execTdget (f : LForm) (s : State) :=
  issue (.tdget f) (fun u s =>
    let lanes := participants u f
    let off := scalA u f.a
    if lanes.isEmpty then .go [] [] (fun t => t)
    else checkOwn u lanes off 64 64
      (withOwn s u f (elected lanes) off 64 (.go [] [] (fun t =>
        winWrite t u.b off (leBytes 64 (blockDesc s u.b (tdId u f)).toNat) [])))) s

/-- TDINV (R178): VALID is cleared, the other fields stay. -/
def execTdinv (f : LForm) (s : State) :=
  issue (.tdinv f) (fun u s =>
    if (participants u f).isEmpty then .go [] [] (fun t => t)
    else .go [] [] (fun t => setDesc t u.b (tdId u f)
      (blockDesc s u.b (tdId u f) &&& ~~~(BitVec.twoPow 512 7)))) s

/-! ### Tags -/

/-- The slot of an address, or the miss code (R181). -/
def lookupVal (x : Block) (va : Nat) : Nat := (slotMatch x va).getD 0xFFFFFFFF

/-- LOOKUP (R181): the scalar form once for the cord, the vector form in each participant. -/
def execLookup (f : LForm) (s : State) :=
  issue (.lookup f) (fun u _ =>
    let lanes := participants u f
    if lanes.isEmpty then .go [] [] (fun t => t)
    else if f.asc then
      goRegs u [.s f.d.toNat (BitVec.ofNat 32 (lookupVal u.blk (regVal u.cord 0 true true f.a.toNat)))]
    else goRegs u (lanes.map (fun l =>
      .v l f.d.toNat (BitVec.ofNat 32 (lookupVal u.blk (regVal u.cord l false true f.a.toNat)))))) s

/-- A line bound to a slot (R156, R182): another slot that the address matched becomes invalid. -/
def bindTag (x : Block) (slot va : Nat) : Block :=
  let tags := match slotMatch x va with
    | some n => x.tags.modify n (fun t => { t with valid := false })
    | none => x.tags
  { x with tags := tags.set slot { valid := true, tag := BitVec.ofNat 49 (bits va 56 8) } }

/-- TAGSET (R156, R182). -/
def execTagset (f : LForm) (s : State) :=
  issue (.tagset f) (fun u _ =>
    let lanes := participants u f
    let slot := scalA u f.a
    let va := regVal u.cord 0 true true f.b.toNat
    if lanes.isEmpty then .go [] [] (fun t => t)
    else if u.blk.lines ≤ slot then .trap .scratchRange (elected lanes) 0 0
    else if 2 ^ 57 ≤ va then .trap .opndField (elected lanes) 0 0
    else .go [] [] (fun t => modBlock t u.b (fun x => bindTag x slot va))) s

/-- TAGCLR and TAGCLR.all (R182). -/
def execTagclr (f : LForm) (s : State) :=
  issue (.tagclr f) (fun u _ =>
    let lanes := participants u f
    let slot := scalA u f.a
    if lanes.isEmpty then .go [] [] (fun t => t)
    else if f.mod == 1 then .go [] [] (fun t => modBlock t u.b (fun x =>
      { x with tags := x.tags.map (fun y => { y with valid := false }) }))
    else if u.blk.lines ≤ slot then .trap .scratchRange (elected lanes) 0 0
    else .go [] [] (fun t => modBlock t u.b (fun x =>
      { x with tags := x.tags.modify slot (fun y => { y with valid := false }) }))) s

/-! ### PRES -/

/-- The presence bit of a slot's line; the slot 0xFFFFFFFF gives 0 (R183). -/
def presVal (x : Block) (slot : Nat) : Nat :=
  if slot = 0xFFFFFFFF then 0 else (x.presence.getD slot 0 == 0).toNat

/-- The results of PRES in some lanes: in a replay the recorded bits (R311), which are recorded otherwise
(R310). -/
def presLanes (u : Issue) : List (Nat × Nat) → State → List (Nat × Nat) × State
  | [], s => ([], s)
  | (l, slot) :: rest, s =>
    let src := sourceOf s u.b u.c l u.cord.retired.toNat
    let now := presVal u.blk slot
    let r : Nat × State :=
      match gridOfBlock s u.b with
      | none => (now, s)
      | some g =>
        match timedRead s g.part g.ctx 3 src with
        | .value v i => (v % 2, useEntry s g.part g.ctx i)
        | .diverge => (now, diverged s u.b u.pc.toNat)
        | .free => (now, recordTimed s u.b { kind := 3, src := src, data := now })
    let more := presLanes u rest r.2
    ((l, r.1) :: more.1, more.2)

/-- PRES (R183): the bit as it stands; in deterministic mode it waits for the bit and returns 1 (R306). -/
def execPres (f : LForm) (s : State) :=
  issue (.pres f) (fun u s =>
    let part := participants u f
    let lanes := if f.asc then elected part else part
    let slots := lanes.map (fun l => (l, regVal u.cord l f.asc false f.a.toNat))
    let bad := slots.filter (fun e => e.2 != 0xFFFFFFFF && u.blk.lines ≤ e.2)
    let absent := slots.filter (fun e => e.2 != 0xFFFFFFFF && presVal u.blk e.2 == 0)
    if lanes.isEmpty then .go [] [] (fun t => t)
    else if !bad.isEmpty then .trap .scratchRange (bad.map Prod.fst) 0 0
    else if detMode s u.b && !absent.isEmpty then awaitLines u (absent.map (fun e => (u.b, e.2)))
    else .go (if f.asc then [] else [f.d.toNat]) [] (fun t =>
      let r := presLanes u slots t
      modCord r.2 u.b u.c (writeRegs (r.1.map (fun e =>
        if f.asc then .s f.d.toNat (BitVec.ofNat 32 e.2) else .v e.1 f.d.toNat (BitVec.ofNat 32 e.2)))))) s

/-! ### Barrier objects -/

/-- A count brought down; below 0 it stays at 0 and sets OVER (R166). -/
def countDown (x n : Nat) : Nat × Bool := (x - n, x < n)

/-- An update of a barrier object at an offset of a block's window (R166): bytes off REMAIN, arrivals off
ARRIVE, an error recorded while ERR is 0. -/
def objectUpdate (s : State) (b off remain arrive err : Nat) : State :=
  let x := winRead s b off 12
  let r := countDown (leNat (x.take 4)) remain
  let a := countDown (leNat ((x.drop 4).take 4)) arrive
  let e := leNat ((x.drop 8).take 1)
  let ov := leNat ((x.drop 11).take 1)
  let s := winWrite s b off (leBytes 4 r.1 ++ leBytes 4 a.1) []
  let s := if e = 0 && err != 0 then winWrite s b (off + 8) (leBytes 1 err) [] else s
  if r.2 || a.2 then winWrite s b (off + 11) (leBytes 1 (ov ||| 1)) [] else s

/-- The counts of an object are both 0. -/
def objectZero (s : State) (b off : Nat) : Bool := (winRead s b off 8).all (fun x => x == 0)

/-- A barrier-object instruction: its offset checked and its line present; then `k` (R175, R158). -/
def objectBody (f : LForm) (k : Issue → Nat → Act) (u : Issue) (s : State) : Act :=
  let lanes := participants u f
  let off := scalA u f.a
  if lanes.isEmpty then .go [] [] (fun t => t)
  else checkOwn u lanes off 16 16 (withOwn s u f (elected lanes) off 16 (k u off))

/-- BOINIT (R166, R185): bits 127..96 stay. -/
def execBoinit (f : LForm) (s : State) :=
  issue (.boinit f) (objectBody f (fun u off =>
    let remain := match f.lit with
      | some w => w.toNat
      | none => scalA u f.b
    .go [] [] (fun t => winWrite t u.b off
      (leBytes 4 remain ++ leBytes 4 (if f.mod == 1 then scalA u f.c else 0) ++ leBytes 4 0) []))) s

/-- BOARRIVE (R166, R185). -/
def execBoarrive (f : LForm) (s : State) :=
  issue (.boarrive f) (objectBody f (fun u off => .go [] [] (fun t => objectUpdate t u.b off 0 1 0))) s

/-- BOWAIT returns (R159, R186): with .st the status; the bytes counted down are visible to the cord's later
accesses, so that the core keeps no former copy. -/
def bowaitReturn (s : State) (u : Issue) (f : LForm) (off : Nat) : State :=
  let p := f.mod == 1 && winPoison s u.b (off + 8) 4
  let s := if f.mod == 1 then modCord s u.b u.c (fun c => commit c
      [.s f.d.toNat (BitVec.ofNat 32 (leNat (winRead s u.b (off + 8) 4)))]) else s
  dropClean (if p then killBraid s u.b else s) u.blk.core

/-- BOWAIT (R186): it parks the cord until both counts are 0. -/
def execBowait (f : LForm) (s : State) :=
  issue (.bowait f) (fun u s =>
    match u.resume with
    | some (.bowait off) =>
      if present s u.b off 16 && objectZero s u.b off then
        .go [] [] (fun t => bowaitReturn (modCord t u.b u.c (passLanes u.len u.lanes)) u f off)
      else .wait
    | some _ => .wait
    | none => objectBody f (fun u off =>
        if objectZero s u.b off then
          .go [] [] (fun t => bowaitReturn t u f off)
        else .go [] [] (fun t => modCord t u.b u.c
          (parkLanes u (flagOf u f.setf f.fsel) u.cord.retired.toNat u.lanes (.bowait off)))) u s) s

/-! ### Requests as they are handed over -/

/-- Bits hi..lo of a request. -/
def Request.field (r : Request) (hi lo : Nat) : Nat := bits r.image hi lo

/-- How many requests an engine's queue holds (R163, R193, R197). -/
def engineSlots : Engine → Nat
  | .copy => 32
  | .gse => 16
  | .coll => 8

/-- The requests that stand in the queue of a core's engine: each until it is finished (log 87, DESIGN CHOICE: R163
does not say when an entry becomes free again). -/
def engineLoad (s : State) (core : Nat) (e : Engine) : Nat :=
  ((coreOf s core).requests.filter (fun r => r.engine == e && !r.finished)).length

/-- The descriptor table of a block's context. -/
def blockTable (s : State) (b : Nat) : Tab (BitVec 512) :=
  match gridOfBlock s b with
  | some g => (ctxOf s g.part g.ctx).desc
  | none => []

/-- An entry of a descriptor table. -/
def tableDesc (t : Tab (BitVec 512)) (id : Nat) : BitVec 512 := (tabGet t id).getD 0

/-- Whether a request image names a format that firmware emulates, by a descriptor table (R152). -/
def requestEmulated (t : Tab (BitVec 512)) (e : Engine) (image : Nat) : Bool :=
  let dfmt (id : Nat) : Bool :=
    let d := tableDesc t id
    dValid d && fmtEmulated (dFmt d)
  match e with
  | .copy => bit image 239 && (dfmt (bits image 233 224) || fmtEmulated (bits image 237 234))
  | .gse => bit image 216 && (dfmt (bits image 230 221) || fmtEmulated (bits image 220 217))
  | .coll => dfmt (bits image 209 200) || dfmt (bits image 219 210)

/-- A cord is suspended for a reason, once. -/
def Cord.hold (c : Cord) (w : SuspendWhy) : Cord :=
  { c with suspend := if c.suspend.contains w then c.suspend else c.suspend ++ [w] }

/-- A reason for a cord's suspension is gone. -/
def Cord.unhold (c : Cord) (w : SuspendWhy) : Cord := { c with suspend := c.suspend.filter (fun x => x != w) }

/-- A cord is suspended for a reason and goes to the pending set (R152, R300). -/
def suspendCord (s : State) (b c : Nat) (w : SuspendWhy) : State := swapOut (modCord s b c (fun x => Cord.hold x w)) b c

/-- The read of the 32 bytes of a request, an access of the vector path in stream 0 (R163, Table 12-4). -/
def requestOp (s : State) (u : Issue) (f : LForm) (lane off : Nat) : Op :=
  { newOp s u f [lane] .request [newAcc u lane (packPos u.blk.pos off) 32 [] []] with flag := none }

/-- A request handed to an engine: its flag is busy until the engine accepts it (R55, R177). It takes the descriptor
table as it stands (R147), and where its bytes name a format that firmware emulates its cord is suspended (R152). -/
def handOver (s : State) (u : Issue) (f : LForm) (e : Engine) (lane off : Nat) : State :=
  let core := u.blk.core
  let n := cutOf s core
  let flag := flagOf u f.setf f.fsel
  let op := ((cordOf s u.b u.c).map Cord.nextOp).getD 0
  let r : Request := {
    n := n, engine := e, block := u.b, cord := u.c, lane := lane, pc := u.pc, ret := u.cord.retBefore u.pc,
    seq := n, off := off, flag := flag, handler := u.cord.handler, op := op, table := blockTable s u.b,
    emulated := requestEmulated (blockTable s u.b) e (leNat (winRead s u.b off 32)) }
  let s := addAccOp s u (requestOp s u f lane off)
  let s := modCore s core (fun k => { k with
    kick := if e == .copy then BitVec.ofNat 20 off else k.kick,
    requests := k.requests ++ [r] })
  let s := modCord s u.b u.c (fun c => flagUp c flag)
  if r.emulated then suspendCord s u.b u.c .emulation else s

/-- The body of KICK, GSE and COLL: the offset is checked; the instruction waits for a place in its queue, for what its
strand has stored earlier in stream 0 to the request (R235), and its cord while the line of the request is absent
(R158). -/
def requestBody (f : LForm) (e : Engine) (k : State → State) (u : Issue) (s : State) : Act :=
  let lanes := participants u f
  let off := scalA u f.a
  if lanes.isEmpty then .go [] [] (fun t => t)
  else checkOwn u lanes off 32 32
    (if engineSlots e ≤ engineLoad s u.blk.core e then .wait
    else withOwn s u f (elected lanes) off 32 (.go [] [] (fun t => handOver (k t) u f e (lanes.headD 0) off)))

/-- KICK (R163, R184). -/
def execKick (f : LForm) (s : State) := issue (.kick f) (requestBody f .copy id) s

/-- GSE (R197). -/
def execGse (f : LForm) (s : State) := issue (.gse f) (requestBody f .gse id) s

/-- COLL (R193, R194): a relaunchable braid stops being so (R350). -/
def execColl (f : LForm) (s : State) :=
  issue (.coll f) (fun u s => requestBody f .coll (fun t => unrelaunch t (braidOf t u.b)) u s) s

end Sys2Proof.Machine
end

