-- ==== Sys2Proof/Machine/Engines.lean ====
section
/-! DEFINITION. The request engine (R161 to R164), the gather/scatter engine (R197 to R199) and the collective
engine (R193 to R196, R382). -/

namespace Sys2Proof.Machine
open Sys2Proof

/-! ### Request addresses (Table 8-3) -/

/-- A request address: global, or an offset in the window at a position. -/
inductive Side where
  | glob (va : Nat)
  | spad (pos off : Nat)
  deriving DecidableEq, Repr

/-- The address in a doubleword; none where a reserved bit is not 0. Bits 62..57 of a global address count as reserved, so
that they are REQ_FIELD (log 101, DESIGN CHOICE: R204 would have REQ_PROT for an address that is not canonical). -/
def sideOf (x : Nat) : Option Side :=
  if bits x 62 57 != 0 then none
  else if bit x 63 then (if bits x 56 26 != 0 then none else some (.spad (bits x 25 24) (bits x 23 0)))
  else some (.glob (bits x 56 0))

/-- The address n bytes on: global addresses wrap, offsets do not. -/
def Side.at_ (x : Side) (n : Nat) : Side :=
  match x with
  | .glob va => .glob ((va + n) % 2 ^ 64)
  | .spad pos off => .spad pos (off + n)

/-- A range of bytes lies in a window that the braid holds, if it is a scratchpad range. -/
def Side.fits (s : State) (b : Nat) (x : Side) (n : Nat) : Bool :=
  match x with
  | .glob _ => true
  | .spad pos off => (placeLocal s b pos off n).isSome

/-! ### What an engine reads and writes -/

/-- What an access of an engine finds: a missing translation, nothing yet, a protection error, or the bytes,
which of them are poisoned (none beyond the list), and the state after. -/
inductive EngGot where
  | need (va : Nat) (n : Need)
  | wait
  | bad
  | ok (bs : List Byte) (poison : List Bool) (s : State)

/-- The physical addresses of some virtual ones, or the first that its die has not translated. -/
def transAll (s : State) (b core : Nat) (n : Need) : List Nat → Except Nat (List Nat)
  | [] => .ok []
  | va :: vas =>
    match translate s b core va n with
    | none => .error va
    | some pa =>
      match transAll s b core n vas with
      | .ok pas => .ok (pa :: pas)
      | .error e => .error e

/-- n addresses from one on. -/
def addrs (va n : Nat) : List Nat := (List.range n).map (fun i => (va + i) % 2 ^ 64)

/-- Where some bytes of an engine are served: some are rejected, some wait, or all can be reached. -/
def reachAll (s : State) (b : Nat) (pas : List Nat) : Option Bool :=
  let rs := pas.map (fun pa => reachOf s b pa 1 false)
  if rs.any (fun r => match r with
    | .reject _ | .mgmt _ => true
    | _ => false) then none
  else some (rs.all (fun r => r != .waits))

/-- One physical byte read for a block's engine: what the ticket unit has staged for its braid (R248, R302), else the
byte at its home, or a free one where the module does not home it. -/
def engByte (s : State) (core b pa : Nat) : Byte × Bool × State :=
  if placeOf pa == .homed then
    match braidView s core b pa with
    | some x => (x.1, x.2, s)
    | none =>
      let x := homeRead s (some (braidOf s b)) pa
      (x.1, s.poison.contains pa, x.2)
  else
    let x := takeFree s
    (x.1.setWidth 8, false, x.2)

/-- Physical bytes read for a block's engine, each with its poison. -/
def engBytes (s : State) (core b : Nat) : List Nat → List Byte × List Bool × State
  | [] => ([], [], s)
  | pa :: pas =>
    let r := engByte s core b pa
    let rest := engBytes r.2.2 core b pas
    (r.1 :: rest.1, r.2.1 :: rest.2.1, rest.2.2)

/-- Some global addresses of an engine are not canonical: the request fails with REQ_PROT (R204). -/
def engFar (vas : List Nat) : Bool := vas.any (fun va => 2 ^ 57 ≤ va)

/-- The presence count of a line without what the request itself has raised (R158). -/
def othersPresence (s : State) (lines : List (Nat × Nat)) (b n : Nat) : Nat :=
  (((s.blocks[b]?).map (fun x => x.presence.getD n 0)).getD 0) - (lines.filter (fun e => e == (b, n))).length

/-- The lines that a request has raised. -/
def Request.raised (r : Request) : List (Nat × Nat) := r.lines.map (fun e => (e.1, e.2.1))

/-- A read of a request (R158, R162): `lines` are the lines it has raised itself. -/
def engRead (s : State) (b core : Nat) (lines : List (Nat × Nat)) (x : Side) (n : Nat) : EngGot :=
  match x with
  | .glob va =>
    if engFar (addrs va n) then .bad
    else
      (match transAll s b core .read (addrs va n) with
      | .error va => .need va .read
      | .ok pas =>
        match reachAll s b pas with
        | none => .bad
        | some false => .wait
        | some true =>
          let r := engBytes s core b pas
          .ok r.1 r.2.1 r.2.2)
  | .spad pos off =>
    match placeLocal s b pos off n with
    | none => .bad
    | some (i, off) =>
      if (linesOf off n).all (fun k => othersPresence s lines i k == 0) then
        .ok (winRead s i off n) (winPoisons s i off n) s
      else .wait

/-- A homed byte written by a block's engine: tentative in a relaunchable braid (R160, R350). -/
def engPut (s : State) (b pa : Nat) (x : Byte) (poison : Bool) : State :=
  let me := braidOf s b
  ownWrite (braidCell s me (dwOf pa)) me pa [x] poison

/-- Physical bytes written for a block's engine, each with its poison. -/
def engPuts (s : State) (b : Nat) (poison : List Bool) : List (Nat × Byte) → State
  | [] => s
  | (pa, x) :: rest =>
    let s := if placeOf pa == .homed then engPut s b pa x (poison.headD false)
      else unrelaunch (send s (.write pa [x])) (braidOf s b)
    engPuts s b (poison.drop 1) rest

/-- A write of a request: global bytes wait for the ticket (R176, R302), and then for what the braid had staged at them. -/
def engWrite (s : State) (b core : Nat) (x : Side) (bs : List Byte) (poison : List Bool) : EngGot :=
  match x with
  | .glob va =>
    if engFar (addrs va bs.length) then .bad
    else if !hasTicket s b then .wait
    else
      (match transAll s b core .write (addrs va bs.length) with
        | .error va => .need va .write
        | .ok pas =>
          match reachAll s b pas with
          | none => .bad
          | some false => .wait
          | some true =>
            if pas.any (fun pa => (stagedByte s b pa).isSome || (inTicketUnit s b && unmerged s core b pa)) then .wait
            else .ok [] [] (engPuts s b poison (pas.zip bs)))
  | .spad pos off =>
    match placeLocal s b pos off bs.length with
    | none => .bad
    | some (i, off) => .ok [] [] (winWrite s i off bs poison)

/-- Whether an engine's translation at an address is under way. -/
def engAsked (d : Die) (core n va : Nat) : Bool :=
  let mine (ok : Nat → Bool) (w : WalkSrc) : Bool := match w with
    | .eng c r v => c == core && r == n && ok v
    | _ => false
  let same (v : Nat) : Bool := granule v == granule va
  d.walks.any (fun w => mine same w.src) || d.waiting.any (fun w => mine same w.src)
    || d.faults.any (fun e => mine (fun _ => e.2.covers va) e.2.src)

/-- An engine asks for a translation, once. -/
def askEng (s : State) (core : Nat) (r : Request) (va : Nat) : State :=
  if engAsked (dieOf s (dieOfCore core)) core r.n va then s
  else askWalk s core { src := .eng core r.n va, pc := r.pc.toNat, smask := maskOf [r.lane] }

/-! ### Presence counts (R157) -/

/-- One line's presence count changed. -/
def modPresence (s : State) (b n : Nat) (f : Nat → Nat) : State :=
  modBlock s b (fun x => { x with presence := x.presence.modify n f })

/-- Every line can take one more count: it holds at most 15. -/
def canRaise (s : State) (ls : List (Nat × Nat)) : Bool :=
  ls.all (fun e => (((s.blocks[e.1]?).map (fun x => x.presence.getD e.2 0)).getD 0) < 15)

/-- Lines raised. -/
def raiseLines (s : State) (ls : List (Nat × Nat)) : State := ls.foldl (fun s e => modPresence s e.1 e.2 (· + 1)) s
/-- Lines lowered. -/
def lowerLines (s : State) (ls : List (Nat × Nat)) : State := ls.foldl (fun s e => modPresence s e.1 e.2 (· - 1)) s

/-- The bytes that a range directs into each line of a window. -/
def lineBytes (s : State) (b : Nat) (x : Side) (n : Nat) : List (Nat × Nat × Nat) :=
  match x with
  | .glob _ => []
  | .spad pos off =>
    match placeLocal s b pos off n with
    | none => []
    | some (i, off) => (linesOf off n).map (fun k =>
        (i, k, Nat.min (off + n) (256 * k + 256) - Nat.max off (256 * k)))

/-- Line counts added together. -/
def addLines (a : List (Nat × Nat × Nat)) : List (Nat × Nat × Nat) → List (Nat × Nat × Nat)
  | [] => a
  | (b, n, k) :: rest =>
    addLines (if a.any (fun e => e.1 == b && e.2.1 == n) then
        a.map (fun e => if e.1 == b && e.2.1 == n then (b, n, e.2.2 + k) else e)
      else a ++ [(b, n, k)]) rest

/-- Line counts after bytes have arrived, and the lines whose last byte that was. -/
def arrive (a : List (Nat × Nat × Nat)) (got : List (Nat × Nat × Nat)) :
    List (Nat × Nat × Nat) × List (Nat × Nat) :=
  let a := a.map (fun e => (e.1, e.2.1,
    e.2.2 - ((got.filter (fun g => g.1 == e.1 && g.2.1 == e.2.1)).map (fun g => g.2.2)).sum))
  (a.filter (fun e => e.2.2 != 0), (a.filter (fun e => e.2.2 == 0)).map (fun e => (e.1, e.2.1)))

/-! ### Ends of requests -/

/-- A core's request changed. -/
def modReq (s : State) (core n : Nat) (f : Request → Request) : State :=
  modCore s core (fun k => { k with requests := k.requests.map (fun r => if r.n == n then f r else r) })

/-- A core's request. -/
def reqOf (s : State) (core n : Nat) : Option Request := (coreOf s core).requests.find? (fun r => r.n == n)

/-- The barrier object of a request: its offset, if it has one inside the window. -/
def Request.object (s : State) (r : Request) : Option Nat :=
  let x := r.field 255 240
  match s.blocks[r.block]? with
  | some b => if x = 0xFFFF ∨ !inWindow b (16 * x) 16 then none else some (16 * x)
  | none => none

/-- A request's barrier object updated, if it has one. -/
def reqObject (s : State) (r : Request) (remain arrive err : Nat) : State :=
  match r.object s with
  | some off => objectUpdate s r.block off remain arrive err
  | none => s

/-- The cause of a failed request of an engine (Table 17-1). -/
def engineCause : Engine → Cause
  | .copy => .copyErr
  | .gse => .gseErr
  | .coll => .collErr

/-- A late cause of an engine or array against its cord (R164, R339); after the cord's end it goes into the
grid's status, which keeps the first. -/
def reportLate (s : State) (b c lane : Nat) (pc : DWord) (ret : Nat) (handler : Bool) (cause : Cause)
    (detail addr : Nat) : State :=
  match s.blocks[b]?, cordOf s b c with
  | some x, some y =>
    if y.ended then failOfEnded s x pc.toNat cause.code detail
    else modCord s b c (fun z => { z with lates := z.lates ++ [{
      pc := pc, ret := ret, cause := cause, lanes := [lane], detail := detail, addr := addr, handler := handler }] })
  | _, _ => s

/-- The late cause of a request. -/
def reqLate (s : State) (r : Request) (cause : Cause) (detail : Nat) : State :=
  reportLate s r.block r.cord r.lane r.pc r.ret r.handler cause detail 0

/-- A request is over: an emulated one stays until firmware has resumed its cord. -/
def endReq (s : State) (core n : Nat) : State :=
  modCore s core (fun k => { k with requests := (k.requests.map (fun r =>
    if r.n == n then { r with finished := true } else r)).filter (fun r => !(r.n == n && !r.emulated)) })

/-- The acceptance of a request clears its flag (R163, R177); one that firmware emulates suspends its cord, and its
flag stays busy (R152). `held`: its cord was suspended at issue, for the bytes that the request had then. -/
def clearReqFlag (s : State) (r : Request) (held : Bool) : State :=
  if r.emulated then suspendCord s r.block r.cord .emulation
  else modCord s r.block r.cord (fun c => flagDown (if held then Cord.unhold c .emulation else c) r.flag)

/-- A request fails (R164): what is left of its destination bytes is counted down, its lines are lowered, ERR
is recorded and a late fault is raised; one that had met an ill-formed byte raises FMT_ILL as well. -/
def failReq (s : State) (core : Nat) (r : Request) (total err : Nat) : State :=
  let s := lowerLines s r.raised
  let s := reqObject s r (total - r.counted) 0 err
  let s := reqLate s r (engineCause r.engine) err
  endReq (if r.ill then reqLate s r .fmtIll 0 else s) core r.n

/-- A request all of whose bytes have arrived is over; an ill-formed byte is reported (R164, R196). -/
def finishReq (s : State) (core : Nat) (r : Request) : State :=
  let s := if r.ill then reqLate (reqLate s r (engineCause r.engine) 5) r .fmtIll 0 else s
  endReq s core r.n

/-- Bytes of a request have been written: they are counted down, and lines whose last byte has arrived are
lowered (R157, R162). -/
def countBytes (s : State) (core : Nat) (r : Request) (x : Side) (n : Nat) (ill : Bool) : State :=
  let a := arrive r.lines (lineBytes s r.block x n)
  let s := reqObject (lowerLines s a.2) r n 0 (if ill then 5 else 0)
  modReq s core r.n (fun q => { q with lines := a.1, counted := q.counted + n, ill := q.ill || ill })

/-! ### Elements -/

/-- Bits of an element of a DFMT code. -/
def dfmtBits (x : Nat) : Nat := fmtBits x

/-- Values as bytes of a format (R98, R101, R151, R162): to nearest even, saturating. -/
def packFmt (x : Nat) : List FVal → Nat → Nat
  | [], _ => 0
  | v :: vs, i =>
    if x = 7 then
      match vs with
      | w :: ws => (q4Byte (q4FromVal 0 v).1 (q4FromVal 0 w).1).1 * 2 ^ (4 * i) + packFmt x ws (i + 2)
      | [] => (q4Byte (q4FromVal 0 v).1 0).1 * 2 ^ (4 * i)
    else (fmtPut x 0 0 0 false v).1 % 2 ^ fmtBits x * 2 ^ (fmtBits x * i) + packFmt x vs (i + 1)

/-- The values of n elements of a format (R140, R144, R151), and whether a byte was ill-formed. -/
def elementVals (d : BitVec 512) (rs : FVal) (x n : Nat) : List FVal × Bool :=
  let es := (List.range n).map (fun i => fmtElt (dFmt d) x i)
  (es.map (fun e => (scaled e.1 (dScale d) rs).1), es.any (fun e => e.2))

/-- Element i of `w` bits has a poisoned byte (R348). -/
def eltPoison (p : List Bool) (w i : Nat) : Bool :=
  ((p.drop (i * w / 8)).take ((i * w + w - 1) / 8 - i * w / 8 + 1)).any id

/-- The poison of n bytes that hold elements of `w` bits: a byte has that of the elements in it. -/
def bytePoisons (es : List Bool) (w n : Nat) : List Bool :=
  (List.range n).map (fun j => ((es.drop (8 * j / w)).take ((8 * j + 7) / w - 8 * j / w + 1)).any id)

/-- The poison of n bytes that hold `k` elements of `v` bits, each converted from one of `w` bits; a poisoned scale poisons them
all. -/
def convertedPoison (p : List Bool) (scale : Bool) (w v k n : Nat) : List Bool :=
  bytePoisons ((List.range k).map (fun i => scale || eltPoison p w i)) v n

/-- Source bytes converted through a descriptor with a row scale (R162): the destination bytes and whether a
byte was ill-formed. -/
def convertBytes (d : BitVec 512) (dfmt : Nat) (rs : FVal) (bs : List Byte) : List Byte × Bool :=
  let n := 8 * bs.length / fmtBits (dFmt d)
  let v := elementVals d rs (leNat bs) n
  (leBytes (n * dfmtBits dfmt / 8) (packFmt dfmt v.1 0), v.2)

/-- The row scale of a row of a descriptor (R144): 1 without RS; a read on the engine's path. -/
def rowScale (s : State) (b core : Nat) (d : BitVec 512) (row : Nat) : EngGot :=
  if dRs d then engRead s b core [] (.glob ((dRsAddr d + 4 * row) % 2 ^ 64)) 4
  else .ok (leBytes 4 0x3F800000) [] s

/-! ### Copies (R161 to R164) -/

/-- CV. -/
def Request.cv (r : Request) : Bool := bit r.image 239
/-- The source descriptor of a copy, as its engine read it (R147). -/
def copyDesc (r : Request) : BitVec 512 := r.da
/-- DFMT of a copy. -/
def Request.copyFmt (r : Request) : Nat := r.field 237 234
/-- LENGTH. -/
def Request.len (r : Request) : Nat := r.field 159 128
/-- The rows of a copy as R164 counts them. -/
def Request.rows (r : Request) : Nat := if r.field 163 160 = 1 then r.field 183 168 else 1

/-- Both formats of a converting request are known (R164). -/
def known (d : BitVec 512) (dfmt : Nat) : Bool := dValid d && dFmt d ≤ 0xB && dfmt ≤ 0xB

/-- The destination row length (R164). -/
def copyRow (r : Request) : Nat :=
  let d := copyDesc r
  if r.cv && known d r.copyFmt then r.len * dfmtBits r.copyFmt / fmtBits (dFmt d) else r.len

/-- The destination byte count of a copy (R164). -/
def copyTotal (r : Request) : Nat := copyRow r * r.rows

/-- Source and destination of row k. -/
def copySides (r : Request) (k : Nat) : Option (Side × Side) :=
  let strided := r.field 163 160 == 1
  match sideOf (r.field 63 0), sideOf (r.field 127 64) with
  | some a, some b => some (a.at_ (if strided then k * r.field 203 184 else 0),
      b.at_ (if strided then k * r.field 223 204 else 0))
  | _, _ => none

/-- REQ_FIELD of a copy (Table 8-4). -/
def copyFieldBad (r : Request) : Bool :=
  let mode := r.field 163 160
  bit r.image 238 || r.field 167 164 != 0 || 1 < mode || (mode == 0 && r.field 223 164 != 0)
    || (mode == 1 && r.field 183 168 == 0) || (!r.cv && r.field 237 224 != 0) || (copySides r 0).isNone

/-- BOBJ lies outside the window. -/
def objectBad (s : State) (r : Request) : Bool := r.field 255 240 != 0xFFFF && (r.object s).isNone

/-- REQ_RANGE of a copy: its last rows reach furthest. -/
def copyRangeBad (s : State) (r : Request) : Bool :=
  objectBad s r || (match copySides r (r.rows - 1) with
    | some (a, b) => !a.fits s r.block r.len || !b.fits s r.block (copyRow r)
    | none => true)

/-- REQ_DESC of a copy. -/
def copyDescBad (r : Request) : Bool :=
  let d := copyDesc r
  r.cv && (!known d r.copyFmt || 8 * r.len % fmtBits (dFmt d) != 0
    || 8 * r.len / fmtBits (dFmt d) * dfmtBits r.copyFmt % 8 != 0)

/-- The check of Table 8-4 on a copy: 0, or the first code. -/
def copyCheck (s : State) (r : Request) : Nat :=
  if copyFieldBad r then 1 else if copyRangeBad s r then 2 else if copyDescBad r then 3 else 0

/-- The bytes that a copy directs into each line. -/
def copyLines (s : State) (r : Request) : List (Nat × Nat × Nat) :=
  (List.range r.rows).foldl (fun a k => match copySides r k with
    | some (_, b) => addLines a (lineBytes s r.block b (copyRow r))
    | none => a) []

/-- The source bytes of one unit of a copy: one byte, or four elements where it converts. -/
def copyUnit (r : Request) : Nat := if r.cv then Nat.max 1 (fmtBits (dFmt (copyDesc r)) / 2) else 1

/-- Units in one row of a copy. -/
def copyUnits (r : Request) : Nat := (r.len + copyUnit r - 1) / copyUnit r

/-- The first unit from i on that no delivered run covers. -/
def freeUnit (runs : Tab Nat) : Nat → Nat → Nat
  | 0, i => i
  | fuel + 1, i =>
    match runs.find? (fun e => e.1 ≤ i && i < e.1 + e.2) with
    | some e => freeUnit runs fuel (e.1 + e.2)
    | none => i

/-- The oldest request of a core's engine that is not accepted. -/
def nextRequest (s : State) (core : Nat) (e : Engine) : Option Request :=
  (coreOf s core).requests.find? (fun r => r.engine == e && !r.accepted)

/-- The descriptor ids that a request image names: its source's, and of a collective its destination's. -/
def descIds (e : Engine) (image : Nat) : Nat × Nat :=
  match e with
  | .copy => (bits image 233 224, 0)
  | .gse => (bits image 230 221, 0)
  | .coll => (bits image 209 200, bits image 219 210)

/-- A request with its 32 bytes read, and the descriptor entries that they name, as they stood at its issue (R147).
Firmware carries it out where they name a format that it emulates (R152). -/
def readRequest (s : State) (r : Request) : Request :=
  let image := leNat (winRead s r.block r.off 32)
  let ids := descIds r.engine image
  { r with
    image := image, da := tableDesc r.table ids.1, db := tableDesc r.table ids.2, table := [],
    emulated := requestEmulated r.table r.engine image }

/-- A request whose bytes are poisoned kills the braid of its cord as its engine reads them (R348); else `k`. -/
def unpoisoned (s : State) (r : Request) (k : State) : State :=
  if winPoison s r.block r.off 32 then killBraid s r.block else k

/-- A request may be read (R158, R163): its line is present, and its read is not held back (R235). -/
def requestDue (s : State) (r : Request) : Bool :=
  present s r.block r.off 32
    && ((opIn s r.block r.cord r.op).map (fun o => o.accs.all (fun a => !blocked s r.block r.cord o a))).getD true

/-- The read of a request is performed. -/
def dropRead (s : State) (r : Request) : State :=
  modCord s r.block r.cord (fun c => { c with ops := c.ops.filter (fun o => !(o.id == r.op && o.kind == .request)) })

/-- A request taken into its queue with the lines it will write raised (R163). -/
def takeRequest (s : State) (core : Nat) (r : Request) (lines : List (Nat × Nat × Nat)) : State :=
  let r : Request := { r with accepted := true, lines := lines }
  let held := ((reqOf s core r.n).map Request.emulated).getD false
  clearReqFlag (modReq (raiseLines (dropRead s r) r.raised) core r.n (fun _ => r)) r held

/-- A request that a check of its acceptance stops (R164): firmware has nothing to carry out. -/
def refuseRequest (s : State) (core : Nat) (r : Request) (total err : Nat) : State :=
  let r : Request := { r with emulated := false }
  failReq (takeRequest s core r []) core r total err

/-- COPY_REQUEST_ACCEPT (R163): the request is read once its line is present, checked, and its destination
lines are raised. -/
def execCopyRequestAccept (core : Nat) (s : State) : Host.Outcome State Fault Refusal :=
  .next (match nextRequest s core .copy with
    | none => s
    | some q =>
      if !requestDue s q then s
      else unpoisoned s q (
        let r := readRequest s q
        let lines := copyLines s r
        if copyCheck s r != 0 then refuseRequest s core r (copyTotal r) (copyCheck s r)
        else if !canRaise s (lines.map (fun e => (e.1, e.2.1))) then s
        else
          let s := takeRequest s core r lines
          if copyTotal r = 0 then finishReq s core r else s))

/-- A run of units of a copy moved: `n` of them from unit i of row k. -/
def moveRun (s : State) (core : Nat) (r : Request) (k i n : Nat) : State :=
  let u := copyUnit r
  let d := copyDesc r
  let off := i * u
  let len := Nat.min r.len (off + n * u) - off
  let dOff := if r.cv then off * dfmtBits r.copyFmt / fmtBits (dFmt d) else off
  let deliver (s : State) (dst : Side) (bs : List Byte) (poison : List Bool) (ill : Bool) : State :=
    match engWrite s r.block core dst bs poison with
    | .need va _ => askEng s core r va
    | .wait => s
    | .bad => failReq s core r (copyTotal r) 4
    | .ok _ _ s =>
      let s := modReq s core r.n (fun q => { q with moved := tabPut q.moved (k * copyUnits r + i) n })
      let s := countBytes s core r dst bs.length ill
      match reqOf s core r.n with
      | some q => if copyTotal q ≤ q.counted then finishReq s core q else s
      | none => s
  match copySides r k with
  | none => s
  | some (src, dst) =>
    match engRead s r.block core r.raised (src.at_ off) len with
    | .need va _ => askEng s core r va
    | .wait => s
    | .bad => failReq s core r (copyTotal r) 4
    | .ok bs p s =>
      if !r.cv then deliver s (dst.at_ dOff) bs p false
      else
        match rowScale s r.block core d k with
        | .need va _ => askEng s core r va
        | .wait => s
        | .bad => failReq s core r (copyTotal r) 4
        | .ok rs p' s =>
          let x := convertBytes d r.copyFmt (fp32.decode (leNat rs)) bs
          let w := fmtBits (dFmt d)
          let p := convertedPoison p (p'.any id) w (dfmtBits r.copyFmt) (8 * bs.length / w) x.1.length
          deliver s (dst.at_ dOff) x.1 p x.2

/-- COPY_DELIVERY (R162, R163): some bytes of a copy that have not arrived are moved; which and how many is
free (log 3). -/
def execCopyDelivery (core r : Nat) (s : State) : Host.Outcome State Fault Refusal :=
  .next (match reqOf s core r with
    | none => s
    | some q =>
      if !q.accepted || q.finished || q.engine != .copy then s
      else
        let x := takeFree s
        let row := copyUnits q
        let all := row * q.rows
        let pick := freeUnit q.moved (q.moved.length + 1) (if all = 0 then 0 else x.1.toNat % all)
        let i := if all ≤ pick then freeUnit q.moved (q.moved.length + 1) 0 else pick
        let stop := (q.moved.filter (fun e => i < e.1)).foldl (fun a e => Nat.min a e.1) ((i / row + 1) * row)
        moveRun x.2 core q (i / row) (i % row) (Nat.min (stop - i) (1 + x.1.toNat / 2 ^ 40 % 64)))

/-! ### Gather and scatter (R197 to R199) -/

/-- CV of a gather/scatter request. -/
def Request.gcv (r : Request) : Bool := bit r.image 216
/-- The source descriptor of a gather, as its engine read it (R147). -/
def gseDesc (r : Request) : BitVec 512 := r.da
/-- DFMT of a gather. -/
def Request.gseFmt (r : Request) : Nat := r.field 220 217
/-- COUNT of a gather/scatter request. -/
def Request.gcount (r : Request) : Nat := r.field 207 192
/-- The bytes of one element at the destination. -/
def gseElt (r : Request) : Nat :=
  if r.gcv then dDim (gseDesc r) 0 * dfmtBits r.gseFmt / 8 else 2 ^ r.field 215 213
/-- The bytes of one index. -/
def Request.iw (r : Request) : Nat := if bit r.image 212 then 8 else 4

/-- REQ_FIELD of a gather/scatter request (R199); a converting scatter names no effect (log 20). ESZ nonzero where CV is
1 counts as a reserved field (log 88, DESIGN CHOICE: Table 9-10 asks for 0 and names no error). -/
def gseFieldBad (r : Request) : Bool :=
  let dir := r.field 211 208
  r.field 239 231 != 0 || 1 < dir || r.gcount == 0 || (!r.gcv && (r.field 230 217 != 0))
    || (r.gcv && (r.field 215 213 != 0 || dir == 1))
    || (match sideOf (r.field 191 128), sideOf (r.field 127 64), sideOf (r.field 63 0) with
      | some _, some _, some (.spad _ _) => dir == 1
      | some _, some _, some _ => false
      | _, _, _ => true)

/-- A scratchpad address names a position that holds no block of the braid. -/
def noBlock (s : State) (b : Nat) : Option Side → Bool
  | some (.spad pos _) => (mateAt s b pos).isNone
  | _ => false

/-- REQ_RANGE of a gather/scatter request as it is accepted; what its indices name is found during the run (R199). -/
def gseRangeBad (s : State) (r : Request) : Bool :=
  objectBad s r || noBlock s r.block (sideOf (r.field 63 0)) || (match sideOf (r.field 191 128), sideOf (r.field 127 64) with
    | some i, some l => !i.fits s r.block (r.iw * r.gcount) || !l.fits s r.block (gseElt r * r.gcount)
    | _, _ => true)

/-- The check of Table 8-4 on a gather/scatter request. A row length Lr that is not a whole number of bytes is REQ_DESC
(log 88, DESIGN CHOICE: R198 asks for whole bytes and names no error). -/
def gseCheck (s : State) (r : Request) : Nat :=
  if gseFieldBad r then 1 else if gseRangeBad s r then 2
  else if r.gcv && (!known (gseDesc r) r.gseFmt || dDim (gseDesc r) 0 * dfmtBits r.gseFmt % 8 != 0) then 3
  else 0

/-- The destination byte count; where a format is not known the spec gives none, and it is free (log 3). -/
def gseTotal (s : State) (r : Request) : Nat × State :=
  if r.gcv && !known (gseDesc r) r.gseFmt then
    let x := takeFree s
    (x.1.toNat % 2 ^ 32, x.2)
  else (r.gcount * gseElt r, s)

/-- GSE_REQUEST_ACCEPT (R197). -/
def execGseRequestAccept (core : Nat) (s : State) : Host.Outcome State Fault Refusal :=
  .next (match nextRequest s core .gse with
    | none => s
    | some q =>
      if !requestDue s q then s
      else unpoisoned s q (
        let r := readRequest s q
        let lines := match sideOf (r.field 127 64) with
          | some l => if r.field 211 208 = 0 then lineBytes s r.block l (gseElt r * r.gcount) else []
          | none => []
        if gseCheck s r != 0 then
          let t := gseTotal s r
          refuseRequest t.2 core r t.1 (gseCheck s r)
        else if !canRaise s (lines.map (fun e => (e.1, e.2.1))) then s
        else takeRequest s core r lines))

/-- Where element k of a gather/scatter request with index x is read and written (R198). -/
def gseSides (r : Request) (k x : Nat) : Option (Side × Side) :=
  match sideOf (r.field 63 0), sideOf (r.field 127 64) with
  | some base, some lin =>
    let indexed := base.at_ (x * (if r.gcv then dStr (gseDesc r) 1 else gseElt r))
    let linear := lin.at_ (k * gseElt r)
    some (if r.field 211 208 = 0 then (indexed, linear) else (linear, indexed))
  | _, _ => none

/-- The bytes of one element at the source. -/
def gseSrcLen (r : Request) : Nat :=
  if r.gcv then (dDim (gseDesc r) 0 * fmtBits (dFmt (gseDesc r)) + 7) / 8 else gseElt r

/-- An element outside its window ends a gather or scatter with REQ_RANGE (R199). -/
def gseOutside (s : State) (r : Request) (src dst : Side) : Bool :=
  !src.fits s r.block (gseSrcLen r) || !dst.fits s r.block (gseElt r)

/-- Element k of a request with its index known moved. -/
def moveElement (s : State) (core : Nat) (r : Request) (k x : Nat) : State :=
  let total := r.gcount * gseElt r
  let deliver (s : State) (dst : Side) (bs : List Byte) (poison : List Bool) (ill : Bool) : State :=
    match engWrite s r.block core dst bs poison with
    | .need va _ => askEng s core r va
    | .wait => s
    | .bad => failReq s core r total 4
    | .ok _ _ s =>
      let s := modReq s core r.n (fun q => { q with moved := tabPut q.moved k 1 })
      let s := countBytes s core r dst bs.length ill
      match reqOf s core r.n with
      | some q => if r.gcount ≤ q.moved.length then finishReq s core q else s
      | none => s
  match gseSides r k x with
  | none => s
  | some (src, dst) =>
    if gseOutside s r src dst then failReq s core r total 2
    else
      match engRead s r.block core r.raised src (gseSrcLen r) with
      | .need va _ => askEng s core r va
      | .wait => s
      | .bad => failReq s core r total 4
      | .ok bs p s =>
        if !r.gcv then deliver s dst bs p false
        else
          match rowScale s r.block core (gseDesc r) x with
          | .need va _ => askEng s core r va
          | .wait => s
          | .bad => failReq s core r total 4
          | .ok rs p' s =>
            let v := elementVals (gseDesc r) (fp32.decode (leNat rs)) (leNat bs) (dDim (gseDesc r) 0)
            let p := convertedPoison p (p'.any id) (fmtBits (dFmt (gseDesc r))) (dfmtBits r.gseFmt)
              (dDim (gseDesc r) 0) (gseElt r)
            deliver s dst (leBytes (gseElt r) (packFmt r.gseFmt v.1 0)) p v.2

/-- Element k of an accepted gather/scatter request, its index read first: a poisoned one kills the braid (R348). -/
def gseMove (s : State) (core : Nat) (r : Request) (k : Nat) : State :=
  match sideOf (r.field 191 128) with
  | none => s
  | some i =>
    match engRead s r.block core r.raised (i.at_ (k * r.iw)) r.iw with
    | .need va _ => askEng s core r va
    | .wait => s
    | .bad => failReq s core r (r.gcount * gseElt r) 4
    | .ok bs p s => if p.any id then killBraid s r.block else moveElement s core r k (leNat bs)

/-- GSE_ELEMENT_MOVE (R198): element k moves, once. -/
def execGseElementMove (core r k : Nat) (s : State) : Host.Outcome State Fault Refusal :=
  .next (match reqOf s core r with
    | none => s
    | some q =>
      if !q.accepted || q.finished || q.engine != .gse || q.gcount ≤ k || (tabGet q.moved k).isSome then s
      else gseMove s core q k)

/-! ### Collectives (R193 to R196) -/

/-- A member of a communicator (R368): device, context, block index, SEQ. -/
structure CommMember where
  dev : Nat
  ctx : Nat
  blk : Nat
  seq : Nat
  deriving DecidableEq, Repr

/-- The members of a communicator, in rank order. -/
def commMembers (c : Comm) : List CommMember :=
  (List.range ((c.image.length - 1) / 2)).map (fun k =>
    let a := (c.image.getD (1 + 2 * k) 0).toNat
    { dev := bits a 7 0, ctx := bits a 31 16, blk := bits a 63 32, seq := (c.image.getD (2 + 2 * k) 0).toNat })

/-- The member that a block of this device is. -/
def memberOf (s : State) (b : Nat) : Option CommMember :=
  match s.blocks[b]?, gridOfBlock s b with
  | some x, some g => some { dev := s.mgmt.devid.toNat, ctx := g.ctx, blk := x.index, seq := g.field 191 128 }
  | _, _ => none

/-- The communicator of a collective, by its members. -/
def reqComm (s : State) (r : Request) : List CommMember :=
  match tabGet (partOf s (partOfBlock s r.block)).comms (r.field 199 192) with
  | some c => commMembers c
  | none => []

/-- The rank of a collective's block; none where the communicator is not set up for it. -/
def reqRank (s : State) (r : Request) : Option Nat :=
  match memberOf s r.block with
  | some m =>
    let i := (reqComm s r).idxOf m
    if i < (reqComm s r).length then some i else none
  | none => none

/-- OP. -/
def Request.cop (r : Request) : Nat := r.field 163 160
/-- COUNT of a collective. -/
def Request.ccount (r : Request) : Nat := r.field 159 128
/-- Source and destination descriptors of a collective, as its engine read them (R147). -/
def collSrc (r : Request) : BitVec 512 := r.da
/-- The destination descriptor. -/
def collDst (r : Request) : BitVec 512 := r.db

/-- How many elements a rank reads (Table 9-8). -/
def collReads (r : Request) (n rank : Nat) : Nat :=
  match r.cop with
  | 2 => n * r.ccount
  | 4 => if rank = r.field 191 176 then r.ccount else 0
  | _ => r.ccount

/-- How many elements a rank writes (Table 9-8). -/
def collWrites (r : Request) (n rank : Nat) : Nat :=
  match r.cop with
  | 1 => if rank = r.field 191 176 then r.ccount else 0
  | 3 => n * r.ccount
  | _ => r.ccount

/-- REQ_FIELD of a collective (Table 9-9). A COUNT of 2^31 or more is one (log 88, DESIGN CHOICE: Table 9-7 bounds COUNT,
and Table 9-9 names only 0). -/
def collFieldBad (r : Request) (n : Nat) : Bool :=
  let reducing := r.cop ≤ 2
  let root := r.field 191 176
  r.field 239 220 != 0 || r.field 175 169 != 0 || 4 < r.cop || r.ccount == 0 || 2 ^ 31 ≤ r.ccount
    || (!reducing && (r.field 167 164 != 0 || bit r.image 168)) || 2 < r.field 167 164
    || ([0, 2, 3].contains r.cop && root != 0) || ([1, 4].contains r.cop && n != 0 && n ≤ root)
    || (sideOf (r.field 63 0)).isNone || (sideOf (r.field 127 64)).isNone

/-- The bytes of n elements of a descriptor's format. -/
def eltsLen (d : BitVec 512) (n : Nat) : Nat := n * fmtBits (dFmt d) / 8

/-- REQ_RANGE of a collective. -/
def collRangeBad (s : State) (r : Request) (n rank : Nat) : Bool :=
  objectBad s r || (match sideOf (r.field 63 0), sideOf (r.field 127 64) with
    | some a, some b => !a.fits s r.block (eltsLen (collSrc r) (collReads r n rank))
        || !b.fits s r.block (eltsLen (collDst r) (collWrites r n rank))
    | _, _ => true)

/-- REQ_DESC of a collective. -/
def collDescBad (r : Request) (n rank : Nat) : Bool :=
  let a := collSrc r
  let b := collDst r
  !dValid a || !dValid b || ([3, 4].contains r.cop && dFmt a != dFmt b)
    || collReads r n rank * fmtBits (dFmt a) % 8 != 0 || collWrites r n rank * fmtBits (dFmt b) % 8 != 0

/-- The check of Table 9-9 on a collective. -/
def collCheck (s : State) (r : Request) : Nat :=
  let n := (reqComm s r).length
  let rank := (reqRank s r).getD 0
  if collFieldBad r n then 1 else if collRangeBad s r n rank then 2 else if collDescBad r n rank then 3
  else if (reqRank s r).isNone then 6 else 0

/-- The destination byte count of a collective; free where its fields do not give it (log 3): with no rank, that of
a reduce, and of an all-gather among an unknown number. -/
def collTotal (s : State) (r : Request) : Nat × State :=
  match reqRank s r with
  | some k =>
    if dValid (collDst r) && r.cop ≤ 4 then (eltsLen (collDst r) (collWrites r (reqComm s r).length k), s)
    else
      let x := takeFree s
      (x.1.toNat % 2 ^ 32, x.2)
  | none =>
    if dValid (collDst r) && [0, 2, 4].contains r.cop then (eltsLen (collDst r) r.ccount, s)
    else if dValid (collDst r) && r.cop == 3 && !(reqComm s r).isEmpty then
      (eltsLen (collDst r) ((reqComm s r).length * r.ccount), s)
    else
      let x := takeFree s
      (x.1.toNat % 2 ^ 32, x.2)

/-- A collective that fails. -/
def failColl (s : State) (core : Nat) (r : Request) (err : Nat) : State :=
  let t := collTotal s r
  failReq t.2 core r t.1 err

/-- The collectives of a rank on its communicator are counted as its engine reads them (R194), from the COMM_SET that
set it up on (R381). A block that is no member has none. -/
def countColl (s : State) (r : Request) : Nat × State :=
  let comm := r.field 199 192
  let k := ((s.blocks[r.block]?).bind (fun x => tabGet x.colls comm)).getD 0
  if (reqRank s r).isNone then (0, s)
  else (k, modBlock s r.block (fun x => { x with colls := tabPut x.colls comm (k + 1) }))

/-- COLL_REQUEST_ACCEPT (R193, R195): a rank that reads nothing arrives at acceptance. -/
def execCollRequestAccept (core : Nat) (s : State) : Host.Outcome State Fault Refusal :=
  .next (match nextRequest s core .coll with
    | none => s
    | some q =>
      if !requestDue s q then s
      else unpoisoned s q (
        let r := readRequest s q
        let k := countColl s r
        let r : Request := { r with ordinal := k.1 }
        let n := (reqComm s r).length
        let rank := (reqRank s r).getD 0
        let lines := match sideOf (r.field 127 64) with
          | some d => lineBytes s r.block d (eltsLen (collDst r) (collWrites r n rank))
          | none => []
        if collCheck s r != 0 then
          let t := collTotal k.2 r
          refuseRequest t.2 core r t.1 (collCheck s r)
        else if !canRaise s (lines.map (fun e => (e.1, e.2.1))) then s
        else
          let s := takeRequest k.2 core r lines
          if collReads r n rank = 0 then reqObject s r 0 1 0 else s))

/-- The requests of this device in a collective: (rank, core, request). -/
def collLocal (s : State) (r : Request) : List (Nat × Nat × Request) :=
  let ms := reqComm s r
  s.cores.flatMap (fun k => (k.2.requests.filter (fun q => q.engine == .coll && q.accepted && !q.finished
      && partOfBlock s q.block == partOfBlock s r.block && q.field 199 192 == r.field 199 192
      && q.ordinal == r.ordinal)).filterMap (fun q =>
    match memberOf s q.block with
    | some m => if ms.contains m then some (ms.idxOf m, k.1, q) else none
    | none => none))

/-- A grid is one that a member names, of the context as it stands in a partition (R356, R368). -/
def memberGrid (s : State) (part : Nat) (m : CommMember) (i : Nat) (g : Grid) : Bool :=
  g.part == part && g.ctx == m.ctx && g.field 191 128 == m.seq && (ctxOf s part m.ctx).born ≤ i

/-- A placed block has ended for good: it has retired and is not to be placed again (R349). -/
def goneForGood (s : State) (x : Block) : Bool :=
  x.retired && ((braidRec s (x.grid, x.braid)).map (fun r => !r.pending && !r.toKill)).getD true

/-- A member's block has ended: every grid that the member names has placed it, and every block placed so is gone. -/
def memberEnded (s : State) (part : Nat) (m : CommMember) : Bool :=
  let gs := s.grids.zipIdx.filter (fun e => memberGrid s part m e.2 e.1)
  let bs := s.blocks.filter (fun x => x.index == m.blk && gs.any (fun e => e.2 == x.grid))
  !bs.isEmpty && bs.all (goneForGood s) && gs.all (fun e => bs.any (fun x => x.grid == e.2))

/-- A rank of this device has ended (COLL_COMM). -/
def collEnded (s : State) (r : Request) : Bool :=
  (reqComm s r).any (fun m => m.dev == s.mgmt.devid.toNat && memberEnded s (partOfBlock s r.block) m)

/-- The error with which a collective has failed at another rank of this device, if it has. -/
def collFailed (s : State) (r : Request) : Option Nat :=
  (tabGet (partOf s (partOfBlock s r.block)).comms (r.field 199 192)).bind (fun c =>
    (c.failed.find? (fun e => e.1 == r.ordinal)).map Prod.snd)

/-- A collective has failed: its ranks that come to it later fail too (R195, R196). -/
def noteFailed (s : State) (r : Request) (err : Nat) : State :=
  modPart s (partOfBlock s r.block) (fun p => match tabGet p.comms (r.field 199 192) with
    | some c => { p with comms := tabPut p.comms (r.field 199 192) { c with failed := c.failed ++ [(r.ordinal, err)] } }
    | none => p)

/-- The fields that the requests of one collective must share (R194). -/
def collKey (r : Request) : List Nat :=
  [r.cop, r.field 167 164, r.field 168 168, r.field 191 176, r.ccount, dFmt (collSrc r), dFmt (collDst r)]

/-- The format of WIRE. -/
def wireFmt (r : Request) : Fmt := if bit r.image 168 then bf16 else fp32

/-- Values in WIRE of the elements that a rank reads, from its source bytes and row scales (R194). -/
def wireVals (r : Request) (x n : Nat) (rs : Nat → FVal) : List Nat × Bool :=
  let d := collSrc r
  let es := (List.range n).map (fun e =>
    let q := fmtElt (dFmt d) x e
    ((fmtFromVal (wireFmt r) 0 false (scaled q.1 (dScale d) (rs (e / dDim d 0 % dDim d 1))).1).1, q.2))
  (es.map Prod.fst, es.any (fun e => e.2))

/-- One level of the canonical tree (R382): an odd last node is carried up. -/
def collLevel (g : Nat → Nat → Nat) : List Nat → List Nat
  | a :: b :: t => g a b :: collLevel g t
  | l => l

/-- The root of the canonical tree over the ranks (R382). -/
def collTree (g : Nat → Nat → Nat) : Nat → List Nat → Nat
  | 0, l => l.headD 0
  | fuel + 1, l => if l.length ≤ 1 then l.headD 0 else collTree g fuel (collLevel g l)

/-- ⊕ in WIRE (Table 5-6, R194). -/
def wireOp (r : Request) (a b : Nat) : Nat :=
  let F := wireFmt r
  match r.field 167 164 with
  | 0 => (F.add 0 a b).1
  | 1 => F.min a b
  | _ => F.max a b

/-- What a rank reads: its elements as numbers (in WIRE, or unchanged for OP 3 and 4), whether a byte was
ill-formed, and which elements are poisoned. -/
inductive CollGot where
  | need (va : Nat)
  | wait
  | bad
  | ok (vals : List Nat) (ill : Bool) (poison : List Bool) (s : State)

/-- The row scales of rows 0 to n - 1 of a descriptor. -/
def rowScales (s : State) (b core : Nat) (d : BitVec 512) : Nat → EngGot
  | 0 => .ok [] [] s
  | n + 1 =>
    match rowScales s b core d n with
    | .ok bs p s =>
      (match rowScale s b core d n with
        | .ok x p' s => .ok (bs ++ x) (p ++ p') s
        | r => r)
    | r => r

/-- The rows of a descriptor that n elements touch (R194): i1 = floor(e / DIM0) mod DIM1. -/
def collRows (d : BitVec 512) (n : Nat) : Nat :=
  if dRs d then Nat.min (dDim d 1) ((n + dDim d 0 - 1) / dDim d 0) else 1

/-- A row scale among those read. -/
def scaleAt (bs : List Byte) (d : BitVec 512) (i : Nat) : FVal :=
  fp32.decode (leNat ((bs.drop (if dRs d then 4 * i else 0)).take 4))

/-- The row scale that element e is scaled with is poisoned; `p` marks the bytes of those read. -/
def scalePoison (p : List Bool) (d : BitVec 512) (e : Nat) : Bool := dRs d && eltPoison p 32 (e / dDim d 0 % dDim d 1)

/-- What a rank of this device reads. The elements of a collective stand one after another from SRC on (log 88, DESIGN
CHOICE: R194 names no stride, and uses the descriptor's DIM fields for row scales alone). -/
def collRead (s : State) (core : Nat) (r : Request) (n rank : Nat) : CollGot :=
  let k := collReads r n rank
  let d := collSrc r
  match sideOf (r.field 63 0) with
  | none => .bad
  | some a =>
    if k = 0 then .ok [] false [] s
    else
      match engRead s r.block core r.raised a (eltsLen d k) with
      | .need va _ => .need va
      | .wait => .wait
      | .bad => .bad
      | .ok bs p s =>
        if 3 ≤ r.cop then
          .ok ((List.range k).map (fun e => elt (leNat bs) (fmtBits (dFmt d)) e)) false
            ((List.range k).map (eltPoison p (fmtBits (dFmt d)))) s
        else
          match rowScales s r.block core d (collRows d k) with
          | .need va _ => .need va
          | .wait => .wait
          | .bad => .bad
          | .ok rs p' s =>
            let v := wireVals r (leNat bs) k (scaleAt rs d)
            .ok v.1 v.2 ((List.range k).map (fun e => eltPoison p (fmtBits (dFmt d)) e || scalePoison p' d e)) s

/-- What a rank writes (Table 9-8), from the values of all ranks by rank and element: numbers in WIRE, or unchanged. -/
def collResult (r : Request) (n rank : Nat) (val : Nat → Nat → Nat) : List Nat :=
  let red (e : Nat) : Nat := collTree (wireOp r) n ((List.range n).map (fun j => val j e))
  match r.cop with
  | 0 => (List.range r.ccount).map red
  | 1 => if rank = r.field 191 176 then (List.range r.ccount).map red else []
  | 2 => (List.range r.ccount).map (fun e => red (rank * r.ccount + e))
  | 3 => (List.range n).flatMap (fun j => (List.range r.ccount).map (val j))
  | _ => (List.range r.ccount).map (val (r.field 191 176))

/-- Which of those values are poisoned (R348): a combined one with any of its leaves. -/
def collSpread (r : Request) (n rank : Nat) (p : Nat → Nat → Bool) : List Bool :=
  let red (e : Nat) : Bool := (List.range n).any (fun j => p j e)
  match r.cop with
  | 0 => (List.range r.ccount).map red
  | 1 => if rank = r.field 191 176 then (List.range r.ccount).map red else []
  | 2 => (List.range r.ccount).map (fun e => red (rank * r.ccount + e))
  | 3 => (List.range n).flatMap (fun j => (List.range r.ccount).map (p j))
  | _ => (List.range r.ccount).map (p (r.field 191 176))

/-- The destination bytes of a rank: quantised into DID (R103, R194), or unchanged. The row scale of DID is that of the
element's place in the rank's own destination, so that each rank of a reduce-scatter starts at row 0 (log 122, DESIGN
CHOICE: R194 gives the index for SID alone). -/
def collBytes (r : Request) (res : List Nat) (rs : List Byte) : List Byte :=
  let d := collDst r
  let n := eltsLen d res.length
  if 3 ≤ r.cop then leBytes n (packElts (fmtBits (dFmt d)) res)
  else leBytes n (packFmt (dFmt d) (res.zipIdx.map (fun e =>
    (unscaled ((wireFmt r).decode e.1) (dScale d) (scaleAt rs d (e.2 / dDim d 0 % dDim d 1))).1)) 0)

/-- The poison of n destination bytes of a rank, from that of its values and of the row scales read. -/
def collBytePoisons (r : Request) (p rs : List Bool) (n : Nat) : List Bool :=
  let d := collDst r
  bytePoisons (p.zipIdx.map (fun e => e.1 || (r.cop ≤ 2 && scalePoison rs d e.2))) (fmtBits (dFmt d)) n

/-- The source of a rank of this device is read: its values are kept, and ARRIVE falls (R195). An ill-formed byte is
recorded (R194). -/
def readSource (s : State) (core : Nat) (r : Request) (n rank : Nat) : State :=
  match collRead s core r n rank with
  | .need va => askEng s core r va
  | .wait => s
  | .bad => failColl s core r 4
  | .ok vals ill p s =>
    let err := if ill then 5 else 0
    modReq (reqObject s r 0 (if collReads r n rank = 0 then 0 else 1) err) core r.n (fun q =>
      { q with source := some (vals, ill, p), ill := q.ill || ill })

/-- The value of element e of a rank that has been read on this device. -/
def localVal (here : List (Nat × Nat × Request)) (j e : Nat) : Option Nat :=
  (here.find? (fun x => x.1 == j)).bind (fun x => x.2.2.source.map (fun y => y.1.getD e 0))

/-- The value of element e of rank j: read on this device, or brought from outside. -/
def collVal (here : List (Nat × Nat × Request)) (w : CollWorld) (j e : Nat) : Nat :=
  (localVal here j e).getD ((((w.vals.find? (fun x => x.1 == j)).map Prod.snd).getD []).getD e 0)

/-- Every rank's values are known: read on this device, or brought from outside. -/
def collWhole (here : List (Nat × Nat × Request)) (w : CollWorld) (n : Nat) : Bool :=
  (List.range n).all (fun j => here.any (fun x => x.1 == j && x.2.2.source.isSome) || w.vals.any (fun x => x.1 == j))

/-- Element e of a rank that has been read on this device is poisoned. -/
def herePoison (here : List (Nat × Nat × Request)) (j e : Nat) : Bool :=
  ((here.find? (fun x => x.1 == j)).bind (fun x => x.2.2.source.map (fun y => y.2.2.getD e false))).getD false

/-- The ranks of this device have their results: the same values everywhere, each with the poison of its leaves (R348). -/
def combineRanks (s : State) (here : List (Nat × Nat × Request)) (w : CollWorld) (n : Nat) : State :=
  here.foldl (fun s x => modReq s x.2.1 x.2.2.n (fun q =>
    { q with result := some (collResult q n x.1 (collVal here w), collSpread q n x.1 (herePoison here)) })) s

/-- The row scales that the result of a rank is quantised with. -/
def resultScales (s : State) (core : Nat) (r : Request) (res : List Nat) : EngGot :=
  rowScales s r.block core (collDst r) (if r.cop ≤ 2 && !res.isEmpty then collRows (collDst r) res.length else 0)

/-- A rank of this device writes its result, and its request is over (R194, R195). -/
def writeResult (s : State) (core : Nat) (r : Request) (res : List Nat) (poison : List Bool) : State :=
  match sideOf (r.field 127 64), resultScales s core r res with
  | some x, .ok rs p t =>
    let bs := collBytes r res rs
    (match (if bs.isEmpty then EngGot.ok [] [] t
      else engWrite t r.block core x bs (collBytePoisons r poison p bs.length)) with
      | .need va _ => askEng s core r va
      | .wait => s
      | .bad => failColl s core r 4
      | .ok _ _ t =>
        let t := countBytes t core r x bs.length false
        ((reqOf t core r.n).map (finishReq t core)).getD t)
  | _, .need va _ => askEng s core r va
  | _, .wait => s
  | _, _ => failColl s core r 4

/-! ### Collectives that fail (R196) -/

/-- The bits of a value that travels. -/
def valBits (r : Request) : Nat := if 3 ≤ r.cop then fmtBits (dFmt (collSrc r)) else if bit r.image 168 then 16 else 32

/-- A value of a collective that fails: one that was read, or a free one. -/
def failVal (s : State) (here : List (Nat × Nat × Request)) (r : Request) (j e : Nat) : Nat :=
  (localVal here j e).getD ((Config.freeWord (s.free + 1 + j * 2 ^ 64 + e)).toNat % 2 ^ valBits r)

/-- A destination byte of a collective that fails (R196): its former value, or the collective's `x`; which is free. -/
def spoilByte (s : State) (core : Nat) (r : Request) (d : Side) (poison : Bool) (i : Nat) (x : Byte) : State :=
  let c := takeFree s
  if !c.1.getLsbD 0 then c.2
  else
    match engWrite c.2 r.block core (d.at_ i) [x] [poison] with
    | .ok _ _ t => t
    | _ => c.2

/-- The destination bytes of a rank whose collective fails. -/
def spoilResult (s : State) (core : Nat) (r : Request) (here : List (Nat × Nat × Request)) (n rank : Nat) : State :=
  let res := collResult r n rank (failVal s here r)
  let s := { s with free := s.free + 1 + n * 2 ^ 64 }
  match sideOf (r.field 127 64), resultScales s core r res with
  | some d, .ok rs p _ =>
    let bs := collBytes r res rs
    let poison := collBytePoisons r (collSpread r n rank (herePoison here)) p bs.length
    bs.zipIdx.foldl (fun s e => spoilByte s core r d (poison.getD e.2 false) e.2 e.1) s
  | _, _ => s

/-- The ranks of this device fail with a collective (R196): after an ERR from 6 on the destination bytes are not
promised. -/
def failRanks (s : State) (r : Request) (here : List (Nat × Nat × Request)) (n err : Nat) : State :=
  noteFailed (here.foldl (fun s x =>
    failColl (if err < 6 then s else spoilResult s x.2.1 x.2.2 here n x.1) x.2.1 x.2.2 err) s) r err

/-- A peer of a collective is lost (Table 9-9): no port toward it is up any more (R379). -/
def collLost (s : State) (r : Request) : Bool :=
  (reqComm s r).any (fun m => m.dev != s.mgmt.devid.toNat && !(portsTo s m.dev).isEmpty
    && (portsTo s m.dev).all (fun p => !p.up))

/-- What a member of another device sends reaches this one: no port toward it, or one that is up and not in recovery
(R379). -/
def peerHeard (s : State) (m : CommMember) : Bool :=
  let ps := portsTo s m.dev
  m.dev == s.mgmt.devid.toNat || ps.isEmpty || ps.any (fun p => p.up && p.window.isNone)

/-- The values of a collective that have reached this device: traffic over a recovering port waits (R379). -/
def heardWorld (s : State) (r : Request) (w : CollWorld) : CollWorld :=
  { w with vals := w.vals.filter (fun x => ((reqComm s r)[x.1]?.map (peerHeard s)).getD true) }

/-- The error of a collective, 0 for none (Table 9-9). -/
def collError (s : State) (r : Request) (here : List (Nat × Nat × Request)) (w : CollWorld) : Nat :=
  if (collFailed s r).isSome then (collFailed s r).getD 6
  else if collEnded s r then 6
  else if w.err != 0 then w.err
  else if collLost s r then 7
  else if here.any (fun e => collKey e.2.2 != collKey r) then 8
  else 0

/-- COLLECTIVE_PERFORM (R194 to R196): the next step of a collective at one rank of this device. It reads its source;
once the values of every rank are known, the others' from outside, they are combined; it writes its result. -/
def execCollectivePerform (core r : Nat) (w : CollWorld) (s : State) : Host.Outcome State Fault Refusal :=
  .next (match reqOf s core r with
    | none => s
    | some q =>
      if !q.accepted || q.finished || q.engine != .coll then s
      else
        let w := heardWorld s q w
        match q.result, reqRank s q with
        | some res, _ => writeResult s core q res.1 res.2
        | none, none => failColl s core q 6
        | none, some rank =>
          let n := (reqComm s q).length
          let here := collLocal s q
          let err := collError s q here w
          if err != 0 then failRanks s q here n err
          else if q.source.isNone then readSource s core q n rank
          else if collWhole here w n then combineRanks s here w n
          else s)

end Sys2Proof.Machine
end

