-- ==== Sys2Proof/Machine/Arrays.lean ====
section
/-! DEFINITION. The matrix arrays (R148 to R152, R167 to R172, R187 to R192) and the emulation of the reserved
formats by firmware (R152). -/

namespace Sys2Proof.Machine
open Sys2Proof

/-! ### Scratchpad operands (R169, R170): base + 2^32 pitch word -/

/-- A scratchpad operand: its base register and its pitch register. -/
def padOpnd (u : Issue) (r : BitVec 8) : Nat := regVal u.cord 0 true true r.toNat

/-- Reserved bits, alignment and MODE of an operand (R169, R170). -/
def opndBad (x : Nat) : Bool :=
  bits x 31 26 != 0 || x % 16 != 0 || bits x 58 56 != 0 || 2 ≤ bits x 63 62

/-- The position of an operand. -/
def opndPos (x : Nat) : Nat := bits x 25 24

/-- Row r of half h of an operand (R169). -/
def rowOff (x h r : Nat) : Nat := bits x 23 0 + 16 * (h * bits x 55 43 + r * bits x 42 32)

/-- Where the 16-byte chunk c of row r is placed (R170). -/
def chunkPlace (x r c : Nat) : Nat := if bits x 63 62 = 1 then c ^^^ (r >>> bits x 61 59 % 4) else c

/-- The rows of an operand as (half, row). -/
def opndRows (halves rows : Nat) : List (Nat × Nat) :=
  (List.range halves).flatMap (fun h => (List.range rows).map (fun r => (h, r)))

/-- Some rows of n bytes lie in the window at the operand's position. -/
def rowsFit (s : State) (b x n : Nat) (rs : List (Nat × Nat)) : Bool :=
  rs.all (fun e => (placeLocal s b (opndPos x) (rowOff x e.1 e.2) n).isSome)

/-- The lines that some rows of n bytes touch, with the block whose window holds them. -/
def rowLines (s : State) (b x n : Nat) (rs : List (Nat × Nat)) : List (Nat × Nat) :=
  (rs.flatMap (fun e => match placeLocal s b (opndPos x) (rowOff x e.1 e.2) n with
    | some (i, off) => (linesOf off n).map (fun k => (i, k))
    | none => [])).eraseDups

/-- The lines that the queued drains of an array have raised; they stand at or behind its head, and the writes of the
head do not wait on them (R157, R158; log 21). -/
def ownRaised (k : CoreSt) : List (Nat × Nat) := k.array.flatMap (fun o => o.lines)

/-- Some lines are present (R158), without the counts of `own`. -/
def linesPresent (s : State) (own ls : List (Nat × Nat)) : Bool := ls.all (fun e => othersPresence s own e.1 e.2 == 0)

/-- A row of n bytes as a number, chunk 0 lowest (R170). -/
def padRow (s : State) (b x n h r : Nat) : Nat :=
  match placeLocal s b (opndPos x) (rowOff x h r) n with
  | some (i, off) => leNat ((List.range (n / 16)).flatMap (fun c => winRead s i (off + 16 * chunkPlace x r c) 16))
  | none => 0

/-- Whether a row holds a poisoned byte. -/
def padRowPoison (s : State) (b x n h r : Nat) : Bool :=
  match placeLocal s b (opndPos x) (rowOff x h r) n with
  | some (i, off) => winPoison s i off n
  | none => false

/-- Which bytes of a row of n bytes are poisoned, chunk 0 first. -/
def padRowPoisons (s : State) (b x n h r : Nat) : List Bool :=
  match placeLocal s b (opndPos x) (rowOff x h r) n with
  | some (i, off) => (List.range (n / 16)).flatMap (fun c => winPoisons s i (off + 16 * chunkPlace x r c) 16)
  | none => []

/-- A row of n bytes written in its placement, each byte with its poison. -/
def padWrite (s : State) (b x n h r y : Nat) (poison : List Bool) : State :=
  match placeLocal s b (opndPos x) (rowOff x h r) n with
  | some (i, off) => (List.range (n / 16)).foldl (fun s c =>
      winWrite s i (off + 16 * chunkPlace x r c) (leBytes 16 (y / 2 ^ (128 * c))) ((poison.drop (16 * c)).take 16)) s
  | none => s

/-! ### The core pair (R167, R168) -/

/-- A core is the follower of its pair (R167). -/
def isFollower (core : Nat) : Bool := core % 2 == 1

/-- The core's array is slaved by its leader (R167). -/
def slaved (s : State) (core : Nat) : Bool :=
  isFollower core && (coreOf s (core - 1)).array.any (fun o => o.fol == some core)

/-- The follower's core, where the braid holds a block there. -/
def followerOf (s : State) (u : Issue) : Option Nat :=
  (mateAt s u.b (u.blk.pos + 1)).bind (fun i => (s.blocks[i]?).bind (fun x =>
    if x.core = u.blk.core + 1 then some x.core else none))

/-- Operations of an array that stand in its queue: firmware holds those it emulates (R188). The one being performed takes
a place until it retires (log 100, DESIGN CHOICE). -/
def arrayLoad (k : CoreSt) : Nat := (k.array.filter (fun o => !o.emulated)).length

/-- A precise trap of an array instruction, in the elected strand (R174). -/
def arrTrap (lanes : List Nat) (cause : Cause) (detail : Nat) : Act := .trap cause (elected lanes) detail 0

/-- The role checks of Table 9-5 (rows 1 and 2); then `k` with the follower of a paired instruction. -/
def checkRole (s : State) (u : Issue) (lanes : List Nat) (paired : Bool) (k : Option Nat → Act) : Act :=
  if slaved s u.blk.core then arrTrap lanes .arrayBusy 0
  else if !paired then k none
  else if isFollower u.blk.core then arrTrap lanes .arrayRole 0
  else
    match followerOf s u with
    | none => arrTrap lanes .arrayRole 0
    | some f => k (some f)

/-- The follower of a paired operation has no operation of its own (Table 8-6). -/
def followerIdle (s : State) (fol : Option Nat) : Bool := fol.all (fun f => (coreOf s f).array.isEmpty)

/-- Whether an operation may enter its queue (R168): it has a place, and the follower of a paired one is idle. -/
def arrayRoom (s : State) (u : Issue) (fol : Option Nat) : Bool :=
  arrayLoad (coreOf s u.blk.core) < 4 && followerIdle s fol

/-- Whether an array instruction issued without its single-core modifier is paired (R167). -/
def pairedHere (u : Issue) (one : Bool) : Bool := !one && !isFollower u.blk.core

/-- An operation of an array as it issues. -/
def newArr (s : State) (u : Issue) (f : LForm) (kind : ArrKind) (fol : Option Nat) : ArrOp :=
  { n := cutOf s u.blk.core, kind := kind, block := u.b, cord := u.c, lane := (participants u f).headD 0, pc := u.pc,
    ret := u.cord.retBefore u.pc, seq := cutOf s u.blk.core, flag := flagOf u f.setf f.fsel,
    handler := u.cord.handler, fol := fol, ty := f.ty.toNat, mod := f.mod.toNat, mod2 := f.mod2.toNat,
    lanes := participants u f }

/-- An operation enters its array's queue, its flag busy; where firmware emulates it, its cord is suspended
(R152, R188). -/
def queueArr (s : State) (u : Issue) (o : ArrOp) : State :=
  let s := raiseLines s o.lines
  let s := modCore s u.blk.core (fun k => { k with seq := k.seq + 1, array := k.array ++ [o] })
  let s := modCord s u.b u.c (fun c => flagUp c o.flag)
  if o.emulated then suspendCord s u.b u.c .emulation else s

/-- How many halves an operation has. -/
def halvesOf (fol : Option Nat) : Nat := if fol.isSome then 2 else 1

/-! ### Issue -/

/-- MZERO (R189). -/
def execMzero (f : LForm) (s : State) :=
  issue (.mzero f) (fun u s =>
    let lanes := participants u f
    if lanes.isEmpty then .go [] [] (fun t => t)
    else checkRole s u lanes (pairedHere u (f.mod2 == 8)) (fun fol =>
      if !arrayRoom s u fol then .wait
      else .go [] [] (fun t => queueArr t u (newArr t u f .mzero fol)))) s

/-- Bytes of a row of a tile: 64 columns (R189, R191). -/
def tileRow (ty : Nat) : Nat := if ty = 3 then 256 else 128

/-- MACCLD (R189). -/
def execMaccld (f : LForm) (s : State) :=
  issue (.maccld f) (fun u s =>
    let lanes := participants u f
    let x := padOpnd u f.a
    if lanes.isEmpty then .go [] [] (fun t => t)
    else checkRole s u lanes (pairedHere u (f.mod2 == 8)) (fun fol =>
      if opndBad x then arrTrap lanes .opndField 0
      else if !rowsFit s u.b x (tileRow f.ty.toNat) (opndRows (halvesOf fol) 32) then arrTrap lanes .scratchRange 0
      else if !arrayRoom s u fol then .wait
      else .go [] [] (fun t => queueArr t u { newArr t u f .maccld fol with a := x }))) s

/-- The words of a register operand (R187): a lane outside part(c) supplies 0. -/
def regOpnd (u : Issue) (lanes : List Nat) (r : BitVec 8) (rows : Nat) : List Word :=
  (List.range rows).flatMap (fun i => (List.range 16).map (fun w =>
    let l := i % u.blk.width
    if lanes.contains l then (u.cord.lane l).reg (r.toNat + 16 * (i / u.blk.width) + w) else 0))

/-- The two formats form a row of Table 7-8 (R148). -/
def fmtPairOk (a b : Nat) : Bool :=
  let int (x : Nat) : Bool := x == 5 || x == 6
  let e8 (x : Nat) : Bool := x == 3 || x == 4
  (int a && int b) || (e8 a && e8 b) || (a == b && [7, 1, 2, 0xA, 0xB].contains a)

/-- The rows of B: 64 of a register operand, which every half reads, or rows 0 to 63 of each half of a scratchpad operand
(R169, R187, R190; log 112). -/
def bRows (regs : Bool) (halves : Nat) : List (Nat × Nat) := opndRows (if regs then 1 else halves) 64

/-- The checks and the queueing of MMA and MMAS (R187, R188, R190). -/
def mmaBody (f : LForm) (kind : ArrKind) (paired : Bool) (u : Issue) (s : State) : Act :=
  let lanes := participants u f
  let w := scalA u f.c
  let xa := padOpnd u f.a
  let xb := padOpnd u f.b
  let da := blockDesc s u.b (bits w 9 0)
  let db := blockDesc s u.b (bits w 25 16)
  if lanes.isEmpty then .go [] [] (fun t => t)
  else checkRole s u lanes paired (fun fol =>
    let rowsA := opndRows (halvesOf fol) 32
    if bits w 15 10 != 0 || bits w 31 26 != 0 || (f.asc && opndBad xa) || (f.bsc && opndBad xb) then
      arrTrap lanes .opndField 0
    else if !dValid da then arrTrap lanes .descInvalid (bits w 9 0)
    else if !dValid db then arrTrap lanes .descInvalid (bits w 25 16)
    else if !fmtPairOk (dFmt da) (dFmt db) then arrTrap lanes .fmtPair 0
    else if (f.asc && !rowsFit s u.b xa 64 rowsA) || (f.bsc && !rowsFit s u.b xb 64 (bRows false (halvesOf fol))) then
      arrTrap lanes .scratchRange 0
    else
      let em := fmtEmulated (dFmt da)
      if (if em then !followerIdle s fol else !arrayRoom s u fol) then .wait
      else .go [] [] (fun t => queueArr t u { newArr t u f kind fol with
        a := xa, b := xb, aDesc := da, bDesc := db, emulated := em,
        aRegs := if f.asc then none else some (regOpnd u lanes f.a (32 * halvesOf fol)),
        bRegs := if f.bsc then none else some (regOpnd u lanes f.b 64) }))

/-- MMA (R190): paired. -/
def execMma (f : LForm) (s : State) := issue (.mma f) (mmaBody f .mma true) s
/-- MMAS (R190): the issuing core's array alone. -/
def execMmas (f : LForm) (s : State) := issue (.mmas f) (mmaBody f .mmas false) s

/-- .reg of a drain (Table 9-6). -/
def ArrOp.reg (o : ArrOp) : Bool := o.mod2 / 4 % 2 == 1
/-- The band of a drain to registers. -/
def ArrOp.band (o : ArrOp) : Nat := o.mod2 % 4

/-- The rows that a drain writes, as (half, row): all of its tile, or a band of it (R191). -/
def drainRows (width halves : Nat) (reg : Bool) (band : Nat) : List (Nat × Nat) :=
  let all := opndRows halves 32
  if reg then (all.drop (band * width)).take width else all

/-- The bytes of a residual row (R191). -/
def resRow (mod : Nat) : Nat := if mod % 4 = 2 then 256 else 128

/-- A drain as it enters its queue (R157, R192): its destination lines are raised, or wait in the array where one
count would pass 15. -/
def drainLines (s : State) (o : ArrOp) (lines : List (Nat × Nat)) : ArrOp :=
  if canRaise s lines then { o with lines := lines } else { o with due := lines }

/-- A drain to registers is an outstanding operation with register destinations (R57, R192): its flag falls when they
are written. -/
def queueDrain (s : State) (u : Issue) (f : LForm) (o : ArrOp) : State :=
  addOp (queueArr s u { o with flag := none }) u
    { newOp s u f o.lanes (.drain o.n o.dst (tileRow o.ty / 4)) [] with seq := o.seq }

/-- MDRAIN (R188, R191, R192). -/
def execMdrain (f : LForm) (s : State) :=
  issue (.mdrain f) (fun u s =>
    let lanes := participants u f
    let reg := f.mod2.getLsbD 2
    let res := f.mod.toNat % 4 != 0
    let drop := f.mod.getLsbD 2
    let band := f.mod2.toNat % 4
    let x := padOpnd u f.d
    let h := padOpnd u f.a
    let dw := scalA u f.b
    if lanes.isEmpty then .go [] [] (fun t => t)
    else checkRole s u lanes (pairedHere u (f.mod2.getLsbD 3)) (fun fol =>
      let halves := halvesOf fol
      let rows := drainRows u.blk.width halves reg band
      if (!reg && opndBad x) || (res && opndBad h) || (drop && bits dw 31 24 != 0)
          || (reg && (32 * halves + u.blk.width - 1) / u.blk.width ≤ band) then arrTrap lanes .opndField 0
      else if (!reg && !rowsFit s u.b x (tileRow f.ty.toNat) rows)
          || (res && !rowsFit s u.b h (resRow f.mod.toNat) rows) then arrTrap lanes .scratchRange 0
      else
        let lines := if reg then [] else rowLines s u.b x (tileRow f.ty.toNat) rows
        if !arrayRoom s u fol then .wait
        else
          let regs := if reg then (List.range (tileRow f.ty.toNat / 4)).map (fun w => f.d.toNat + w) else []
          .go regs [] (fun t =>
            let o : ArrOp := { newArr t u f .mdrain fol with
              dst := if reg then f.d.toNat else x, a := h, drop := dw }
            if reg then queueDrain t u f o else queueArr t u (drainLines t o lines)))) s

/-! ### Retirement -/

/-- The cores whose arrays an operation uses, leader first. -/
def arrCores (core : Nat) (o : ArrOp) : List Nat := core :: o.fol.toList

/-- Firmware still carries out something else for a cord (R152). -/
def stillEmulated (s : State) (b c : Nat) : Bool :=
  s.cores.any (fun k => k.2.requests.any (fun r => r.emulated && r.block == b && r.cord == c)
    || k.2.array.any (fun o => o.emulated && o.block == b && o.cord == c))

/-- Firmware has finished an operation of a cord: the cord resumes once it has no other (R152). -/
def resumeCord (s : State) (b c : Nat) : State :=
  if stillEmulated s b c then s else modCord s b c (fun x => Cord.unhold x .emulation)

/-- An operation of an array has retired: its flag falls (R55, R168, R177), and a cord that firmware suspended for it resumes. -/
def retireArr (s : State) (core : Nat) (o : ArrOp) : State :=
  let s := modCore s core (fun k => { k with array := k.array.filter (fun p => p.n != o.n) })
  let s := modCord s o.block o.cord (fun c => flagDown c o.flag)
  if o.emulated then resumeCord s o.block o.cord else s

/-- The operation at the head of an array, of some kinds; firmware performs the emulated ones. -/
def headOp (s : State) (core : Nat) (kinds : List ArrKind) : Option ArrOp :=
  match (coreOf s core).array with
  | o :: _ => if kinds.contains o.kind && !o.emulated then some o else none
  | [] => none

/-- The accumulators of a core, all 32 × 64 of them, row after row. -/
def accOf (k : CoreSt) : List Word := (List.range 2048).map (fun i => k.acc.getD i 0)

/-- Poison of one operation's operand: the braid of its block is killed (R348). -/
def poisonKill (s : State) (o : ArrOp) (p : Bool) : State := if p then killBraid s o.block else s

/-! ### MZERO and MACCLD -/

/-- A core's tile set to +0, with its poison and sticky bits clear (R189). -/
def zeroTile (k : CoreSt) : CoreSt := { k with acc := [], apoison := [], asticky := 0 }

/-- Half h of MACCLD (R189): BF16 is widened exactly. -/
def loadTile (s : State) (o : ArrOp) (h : Nat) (k : CoreSt) : CoreSt :=
  { k with
    acc := (List.range 32).flatMap (fun r =>
      let x := padRow s o.block o.a (tileRow o.ty) h r
      (List.range 64).map (fun j => if o.ty = 3 then BitVec.ofNat 32 (elt x 32 j)
        else BitVec.ofNat 32 (elt x 16 j * 2 ^ 16))),
    apoison := [] }

/-- ARRAY_ZERO_LOAD_PERFORM (R189): MZERO and MACCLD in queue order; the source rows wait on presence. -/
def execArrayZeroLoadPerform (core : Nat) (s : State) : Host.Outcome State Fault Refusal :=
  .next (match headOp s core [.mzero, .maccld] with
    | none => s
    | some o =>
      if o.kind == .mzero then
        retireArr ((arrCores core o).foldl (fun s k => modCore s k zeroTile) s) core o
      else
        let rows := opndRows (halvesOf o.fol) 32
        if !linesPresent s [] (rowLines s o.block o.a (tileRow o.ty) rows) then s
        else
          let t := ((arrCores core o).zipIdx).foldl (fun t e => modCore t e.1 (loadTile s o e.2)) s
          let bad := rows.any (fun e => padRowPoison s o.block o.a (tileRow o.ty) e.1 e.2)
          poisonKill (retireArr t core o) o bad)

/-! ### MMA and MMAS -/

/-- What the row-scale reads of an operation find. -/
inductive Scales where
  | need (va : Nat)
  | wait
  | bad (va detail : Nat)
  | ok (xs : List FVal) (poison : Bool) (s : State)

/-- Row scales read one after another on the mat path (R190). -/
def readScales (s : State) (b core : Nat) : List Nat → Scales
  | [] => .ok [] false s
  | va :: vas =>
    match transAll s b core .read (addrs va 4) with
    | .error va => .need va
    | .ok pas =>
      match reachOf s b (pas.headD 0) 4 false with
      | .reject d => .bad va d
      | .mgmt _ => .bad va 7
      | .waits => .wait
      | _ =>
        let r := engBytes s core b pas
        match readScales r.2.2 b core vas with
        | .ok xs p s => .ok (fp32.decode (leNat r.1) :: xs) (r.2.1.any id || p) s
        | e => e

/-- The addresses of the row scales of n rows of a descriptor. -/
def scaleAddrs (d : BitVec 512) (n : Nat) : List Nat :=
  if dRs d then (List.range n).map (fun i => (dRsAddr d + 4 * i) % 2 ^ 64) else []

/-- The row scale of a row among those read: 1.0 without RS. -/
def scaleOf (d : BitVec 512) (xs : List FVal) (i : Nat) : FVal :=
  if dRs d then xs.getD i (.fin false 0 1) else .fin false 1 1

/-- The exact sum of a slab's products (R149), with the invalid flag of its special cases. -/
def slabSum (fa fb xa xb t : Nat) : FVal × FpFlags :=
  let n := 128 / fmtBits fa
  let ps := (List.range n).map (fun k => mulVal (fmtElt fa xa (t * n + k)).1 (fmtElt fb xb (t * n + k)).1)
  let has (v : FVal) : Bool := ps.any (fun p => p.1 == v)
  let fl := ps.foldl (fun a p => a ||| p.2) 0
  if has .nan then (.nan, fl)
  else if has (.inf false) && has (.inf true) then (.nan, fl ||| fNV)
  else
    let v := (ps.foldl (fun a p => (addVal 0 a p.1).1) (.fin false 0 1) : FVal)
    (match v with
      | .fin _ 0 _ => .fin false 0 1
      | _ => v, fl)

/-- Slab t added into one accumulator with its scale (R149): one rounding. -/
def slabAdd (fa fb xa xb : Nat) (sg : FVal) (a : Word × FpFlags) (t : Nat) : Word × FpFlags :=
  let v := slabSum fa fb xa xb t
  let p := mulVal v.1 sg
  let r := fp32.arith 0 (addVal 0 (fp32.decode a.1.toNat) p.1)
  (BitVec.ofNat 32 r.1, a.2 ||| v.2 ||| p.2 ||| r.2)

/-- The four slabs of one accumulator element, in slab order (R149). -/
def accAdd (fa fb xa xb : Nat) (sg : FVal) (a : Word) : Word × FpFlags :=
  (List.range 4).foldl (slabAdd fa fb xa xb sg) (a, 0)

/-- The sticky bits of an array from float flags: invalid, overflow, underflow, inexact (R150). -/
def stickyOf (fl : FpFlags) : BitVec 4 :=
  BitVec.ofBool (fl.getLsbD 4) ++ BitVec.ofBool (fl.getLsbD 3) ++ BitVec.ofBool (fl.getLsbD 2)
    ++ BitVec.ofBool (fl.getLsbD 0)

/-- The float flags of sticky bits. -/
def stickyFlags (x : BitVec 4) : FpFlags :=
  BitVec.ofBool (x.getLsbD 3) ++ BitVec.ofBool (x.getLsbD 2) ++ BitVec.ofBool (x.getLsbD 1)
    ++ BitVec.ofBool false ++ BitVec.ofBool (x.getLsbD 0)

/-- Row r of half h of an operand as a 512-bit number: from registers or from the scratchpad. -/
def opndRow (s : State) (b x : Nat) (regs : Option (List Word)) (h r : Nat) : Nat :=
  match regs with
  | some ws => leNat ((List.range 16).flatMap (fun w => leBytes 4 (ws.getD (16 * (32 * h + r) + w) 0).toNat))
  | none => padRow s b x 64 h r

/-- Half h of a matrix operation on a core's array (R149, R190). -/
def addTile (o : ArrOp) (ra rb : Nat → FVal) (rowA rowB : Nat → Nat) (h : Nat) (k : CoreSt) : CoreSt :=
  let fa := dFmt o.aDesc
  let fb := dFmt o.bDesc
  let sc := pow2Val (dScale o.aDesc + dScale o.bDesc)
  let rs := (List.range 32).flatMap (fun r =>
    let xa := rowA r
    let sa := mulVal sc (ra (32 * h + r))
    (List.range 64).map (fun j =>
      let sg := mulVal sa.1 (rb j)
      let y := accAdd fa fb xa (rowB j) sg.1 (k.acc.getD (64 * r + j) 0)
      (y.1, y.2 ||| sa.2 ||| sg.2)))
  { k with acc := rs.map Prod.fst, asticky := k.asticky ||| stickyOf (rs.foldl (fun a r => a ||| r.2) 0) }

/-- Whether an operand row of a descriptor's format holds an ill-formed byte (R140, R151). -/
def rowIll (f x : Nat) : Bool := (List.range (512 / fmtBits f)).any (fun i => (fmtElt f x i).2)

/-- An array operation's late cause (R339). -/
def arrLate (s : State) (o : ArrOp) (cause : Cause) (detail addr : Nat) : State :=
  reportLate s o.block o.cord o.lane o.pc o.ret o.handler cause detail addr

/-- An array asks for a translation, once. -/
def askArr (s : State) (core : Nat) (o : ArrOp) (va : Nat) : State :=
  let d := dieOf s (dieOfCore core)
  let mine (ok : Nat → Bool) (w : WalkSrc) : Bool := match w with
    | .array c v => c == core && ok v
    | _ => false
  let same (v : Nat) : Bool := granule v == granule va
  if d.walks.any (fun w => mine same w.src) || d.waiting.any (fun w => mine same w.src)
    || d.faults.any (fun e => mine (fun _ => e.2.covers va) e.2.src) then s
  else askWalk s core { src := .array core va, pc := o.pc.toNat, smask := maskOf [o.lane] }

/-- A matrix operation performed, if its operand lines are present and its row scales known. Where a row-scale read is
rejected it raises PROT_LATE and, whatever bytes its operands hold, no FMT_ILL (R140, R190; log 99, DESIGN CHOICE). -/
def performMma (s : State) (core : Nat) (o : ArrOp) : State :=
  let b := o.block
  let rowsA := opndRows (halvesOf o.fol) 32
  let rowsB := bRows o.bRegs.isSome (halvesOf o.fol)
  let lines := (if o.aRegs.isSome then [] else rowLines s b o.a 64 rowsA)
    ++ (if o.bRegs.isSome then [] else rowLines s b o.b 64 rowsB)
  match o.bad with
  | some (addr, d) => retireArr (arrLate s o .protLate d addr) core o
  | none =>
    if !linesPresent s [] lines then s
    else
      match readScales s b core (scaleAddrs o.aDesc (32 * halvesOf o.fol) ++ scaleAddrs o.bDesc 64) with
      | .need va => askArr s core o va
      | .wait => s
      | .bad va d => retireArr (arrLate s o .protLate d va) core o
      | .ok xs p t =>
        let na := (scaleAddrs o.aDesc (32 * halvesOf o.fol)).length
        let as := rowsA.map (fun e => opndRow s b o.a o.aRegs e.1 e.2)
        let bs := rowsB.map (fun e => opndRow s b o.b o.bRegs e.1 e.2)
        let t := ((arrCores core o).zipIdx).foldl (fun t e => modCore t e.1
          (addTile o (scaleOf o.aDesc (xs.take na)) (scaleOf o.bDesc (xs.drop na))
            (fun r => as.getD (32 * e.2 + r) 0) (fun j => bs.getD (if o.bRegs.isSome then j else 64 * e.2 + j) 0) e.2)) t
        let ill := as.any (rowIll (dFmt o.aDesc)) || bs.any (rowIll (dFmt o.bDesc))
        let t := if ill then arrLate t o .fmtIll 0 0 else t
        let bad := p || (o.aRegs.isNone && rowsA.any (fun e => padRowPoison s b o.a 64 e.1 e.2))
          || (o.bRegs.isNone && rowsB.any (fun e => padRowPoison s b o.b 64 e.1 e.2))
        poisonKill (retireArr t core o) o bad

/-- ARRAY_MMA_PERFORM (R149, R190). -/
def execArrayMmaPerform (core : Nat) (s : State) : Host.Outcome State Fault Refusal :=
  .next (match headOp s core [.mma, .mmas] with
    | none => s
    | some o => performMma s core o)

/-! ### Drains -/

/-- Whether dropout drops element (i, j) (R171). -/
def dropped (dw i j : Nat) : Bool :=
  let x := (bits dw 15 0 + 0x3C6D * i + 0x1F35 * j) % 2 ^ 16
  let x := x ^^^ (x >>> 7)
  let x := x * 0x2B5D % 2 ^ 16
  let x := x ^^^ (x >>> 9)
  x < bits dw 23 16 * 256

/-- One element of a drain (R171): its residual, dropout and one rounding. -/
def drainElt (F : Fmt) (res : Option FVal) (drop : Option Nat) (i j : Nat) (acc : Word) : Nat × FpFlags :=
  let v : FVal × FpFlags := match res with
    | some h => addVal 0 (fp32.decode acc.toNat) h
    | none => (fp32.decode acc.toNat, 0)
  match drop with
  | none => F.arith 0 v
  | some dw =>
    if dropped dw i j then (F.mk' false 0 0, 0)
    else
      let t := bits dw 23 16 * 256
      let w := mulVal v.1 (.fin false 65536 (65536 - t))
      F.arith 0 (w.1, v.2 ||| w.2)

/-- Row r of half h of a drain as a number, with its flags (R171). -/
def drainRow (s : State) (o : ArrOp) (k : CoreSt) (h r : Nat) : Nat × FpFlags :=
  let F := if o.ty = 3 then fp32 else bf16
  let rn := resRow o.mod
  let x := padRow s o.block o.a rn h r
  let es := (List.range 64).map (fun j =>
    let res : Option FVal := match o.mod % 4 with
      | 0 => none
      | 2 => some (fp32.decode (elt x 32 j))
      | _ => some (bf16.decode (elt x 16 j))
    drainElt F res (if o.mod / 4 % 2 = 1 then some o.drop else none) (32 * h + r) j (k.acc.getD (64 * r + j) 0))
  (packElts (if o.ty = 3 then 32 else 16) (es.map Prod.fst), es.foldl (fun a e => a ||| e.2) 0)

/-- The poison of the 64 elements of a drained row as that of its bytes: each has its residual's (R348). -/
def rowPoisons (o : ArrOp) (p : List Bool) : List Bool :=
  convertedPoison p false (resRow o.mod / 8) (tileRow o.ty / 8) 64 (tileRow o.ty)

/-- An accumulator of row r is poisoned. -/
def accPoison (k : CoreSt) (r : Nat) : Bool := k.apoison.any (fun i => i / 64 == r)

/-- The registers that a row of a register drain writes: row n of the band is lane n (R191). -/
def drainWs (o : ArrOp) (n x : Nat) : List RegW :=
  if o.lanes.contains n then
    (List.range (tileRow o.ty / 4)).map (fun w => .v n (o.dst + w) (BitVec.ofNat 32 (elt x 32 w)))
  else []

/-- The operation of a drain to registers. -/
def drainOp (s : State) (o : ArrOp) : Option Op :=
  (cordOf s o.block o.cord).bind (fun c => c.ops.find? (fun p => match p.kind with
    | .drain n _ _ => n == o.n
    | _ => false))

/-- The results of a drain reach its registers, and its operation is complete unless they arrive one by one (R57). -/
def drainRegs (s : State) (o : ArrOp) (ws : List RegW) : State :=
  match drainOp s o with
  | none => s
  | some p => finishOp (modCord s o.block o.cord (fun c => writeOp c p ws)) o.block o.cord p.id

/-- The head of an array raises the destination lines that it could not raise before (R157). -/
def raiseDue (s : State) (core : Nat) (o : ArrOp) : State :=
  modCore (raiseLines s o.due) core (fun k => { k with array := k.array.map (fun p =>
    if p.n == o.n then { p with lines := p.lines ++ p.due, due := [] } else p) })

/-- A drain performed (R171, R191, R192), if the lines it reads and writes are present. -/
def performDrain (s : State) (core : Nat) (o : ArrOp) : State :=
  let b := o.block
  let width := ((s.blocks[b]?).map (fun x => x.width)).getD 64
  let rows := drainRows width (halvesOf o.fol) o.reg o.band
  let src := if o.mod % 4 = 0 then [] else rowLines s b o.a (resRow o.mod) rows
  if !linesPresent s o.lines src || !linesPresent s (ownRaised (coreOf s core)) o.lines then s
  else
    let half (h : Nat) : CoreSt := coreOf s (core + h)
    let out := rows.map (fun e => (e, drainRow s o (half e.1) e.1 e.2,
      if o.mod % 4 = 0 then [] else padRowPoisons s b o.a (resRow o.mod) e.1 e.2))
    let fl := out.foldl (fun a e => a ||| e.2.1.2) 0
      ||| (arrCores core o).foldl (fun a k => a ||| stickyFlags (coreOf s k).asticky) 0
    let t := if o.reg then drainRegs s o (out.zipIdx.flatMap (fun e => drainWs o e.2 e.1.2.1.1))
      else out.foldl (fun t e => padWrite t b o.dst (tileRow o.ty) e.1.1 e.1.2 e.2.1.1 (rowPoisons o e.2.2)) s
    let t := lowerLines t o.lines
    let t := (arrCores core o).foldl (fun t k => modCore t k (fun x => { x with asticky := 0 })) t
    let t := modCord t b o.cord (fun c => commit c [.fp fl])
    let bad := rows.any (fun e => accPoison (half e.1) e.2) || (o.reg && out.any (fun e => e.2.2.any id))
    poisonKill (retireArr t core o) o bad

/-- ARRAY_DRAIN_PERFORM (R171, R192): a drain that could not raise its lines does that first. -/
def execArrayDrainPerform (core : Nat) (s : State) : Host.Outcome State Fault Refusal :=
  .next (match headOp s core [.mdrain] with
    | none => s
    | some o =>
      if o.due.isEmpty then performDrain s core o
      else if canRaise s o.due then raiseDue s core o
      else s)

/-! ### Emulation (R152) -/

/-- An emulated copy carried on, one unit after another from the lowest on (log 95, DESIGN CHOICE: the spec gives no
order in which firmware writes). -/
def emulateCopy (core n : Nat) : Nat → State → State
  | 0, s => s
  | fuel + 1, s =>
    match reqOf s core n with
    | none => s
    | some r =>
      if r.finished || !r.accepted then s
      else
        let row := copyUnits r
        let i := freeUnit r.moved (r.moved.length + 1) 0
        emulateCopy core n fuel (moveRun s core r (i / row) (i % row) 1)

/-- An emulated gather or scatter carried on, one element after another from the lowest on (log 95, DESIGN CHOICE). -/
def emulateGse (core n : Nat) : Nat → State → State
  | 0, s => s
  | fuel + 1, s =>
    match reqOf s core n with
    | none => s
    | some r =>
      if r.finished || !r.accepted then s
      else
        match (List.range r.gcount).find? (fun k => (tabGet r.moved k).isNone) with
        | some k => emulateGse core n fuel (gseMove s core r k)
        | none => s

/-- Firmware has finished an emulated request: its flag clears and the cord resumes. -/
def resumeRequest (s : State) (core n : Nat) : State :=
  match reqOf s core n with
  | none => s
  | some r =>
    if !r.finished then s
    else
      let s := modCord s r.block r.cord (fun c => flagDown c r.flag)
      resumeCord (modCore s core (fun k => { k with requests := k.requests.filter (fun q => q.n != n) })) r.block r.cord

/-- What is left to move of an emulated request. -/
def emulateRest (s : State) (core : Nat) (r : Request) : State :=
  match r.engine with
  | .copy => emulateCopy core r.n (copyUnits r * r.rows + 1) s
  | .gse => emulateGse core r.n (r.gcount + 1) s
  | .coll => s

/-- FIRMWARE_EMULATION (R152): `o` is the number of the request or array operation. Firmware carries out what
the native operation would do; the flag then clears and the cord resumes. -/
def execFirmwareEmulation (b c o : Nat) (s : State) : Host.Outcome State Fault Refusal :=
  .next (match s.blocks[b]? with
    | none => s
    | some x =>
      let core := x.core
      let mine (b' c' : Nat) : Bool := b' == b && c' == c
      match (coreOf s core).requests.find? (fun r => r.n == o && r.emulated && r.accepted && mine r.block r.cord) with
      | some r => resumeRequest (emulateRest s core r) core o
      | none =>
        match (coreOf s core).array with
        | p :: _ => if p.n == o && p.emulated && mine p.block p.cord then performMma s core p else s
        | [] => s)

end Sys2Proof.Machine
end

