-- ==== Sys2Proof/Machine/Barriers.lean ====
section
/-! DEFINITION. Barriers (R124 to R126), LAUNCH and WAITCH (R127, R128), and the queues of launch records
(R289, R291). -/

namespace Sys2Proof.Machine
open Sys2Proof

/-! ### Barriers -/

/-- BAR (R124): the strands arrive and park; the last arrival releases all. -/
def execBar (f : LForm) (s : State) :=
  issue (.bar f) (fun u _ =>
    match u.resume with
    | some _ => .wait
    | none => .go [] [] (fun t => checkBar (modCord t u.b u.c
        (parkLanes u (flagOf u f.setf f.fsel) u.cord.retired.toNat u.lanes (.bar f.mod.toNat))) u.b)) s

/-- A braid or grid barrier is arrived at: the strands park, and their arrival is a release that begins once what comes
before it is performed (log 109). -/
def arriveWide (s : State) (u : Issue) (f : LForm) (park : Nat → Bool → Park) : State :=
  modCord s u.b u.c (parkLanes u (flagOf u f.setf f.fsel) u.cord.retired.toNat u.lanes
    (park (cutOf s u.blk.core) false))

/-- The blocks that a condition holds of. -/
def blocksWhere (s : State) (p : Block → Bool) : List Nat :=
  (List.range s.blocks.length).filter (fun i => ((s.blocks[i]?).map p).getD false)

/-- The strands of some blocks that are parked in a way that `at_` names depart from an 8-byte barrier: each
takes a boundary, an acquire that drops its core's snapshot, and %phase counts the release (R232). -/
def departAll (s : State) (bs : List Nat) (at_ : Park → Bool) : State :=
  let here (t : Strand) : Bool := t.live && (t.park.map at_).getD false
  let cores := (bs.filterMap (fun i => (s.blocks[i]?).bind (fun x =>
    if x.cords.any (fun c => c.strands.any here) then some x.core else none))).eraseDups
  let s := bs.foldl (fun s i => modBlock s i (fun x => { x with cords := x.cords.map (fun c =>
    let ls := c.liveLanes.filter (fun l => here (c.lane l))
    passLanes 8 ls (boundary ls c)) })) s
  cores.foldl (fun s core => coreBoundary (countPhase (dropClean s core) core) core) s

/-- Every live strand of some blocks is parked as `at_` asks, and the releases of their arrivals, which have begun and
which `at_` gives the cuts of, are complete: the core's bytes are at their homes. -/
def allArrived (s : State) (bs : List Nat) (at_ : Park → Option Nat) : Bool :=
  bs.all (fun i => match s.blocks[i]? with
    | none => true
    | some x => x.cords.all (fun y => y.liveLanes.all (fun l => match (y.lane l).park.bind at_ with
      | some cut => coreHome s x.core (braidOf s i) cut
      | none => false)))

/-- The park at BARB of one id, with its release begun. -/
def atBarb (id : Nat) : Park → Option Nat
  | .barb n cut true => if n = id then some cut else none
  | _ => none

/-- The park at GBAR, with its release begun. -/
def atGbar : Park → Option Nat
  | .gbar cut true => some cut
  | _ => none

/-- The blocks of a block's braid. -/
def braidBlocks (s : State) (b : Nat) : List Nat := blocksWhere s (fun x => (x.grid, x.braid) == braidOf s b)

/-- BARB (R124): the arrivals of the braid's strands count together; when all have arrived and their releases
are complete, all depart. -/
def execBarb (f : LForm) (s : State) :=
  issue (.barb f) (fun u s =>
    match u.resume with
    | some (.barb id cut false) =>
      if releaseReady s u.b u.c u.blk.core cut u.lanes then
        .go [] [] (fun t => beginRelease t u 3 (fun n => .barb id n true))
      else .wait
    | some (.barb id _ true) =>
      let bs := braidBlocks s u.b
      if allArrived s bs (atBarb id) then
        .go [] [] (fun t => departAll t bs (fun p => (atBarb id p).isSome))
      else .wait
    | some _ => .wait
    | none => .go [] [] (fun t => arriveWide t u f (.barb f.mod.toNat))) s

/-- The release of a grid barrier (R126): g rises by one. -/
def releaseGbar (s : State) (g : Nat) : State :=
  modGrid (departAll s (blocksWhere s (fun x => x.grid == g)) (fun p => (atGbar p).isSome)) g
    (fun x => { x with barrier := x.barrier + 1 })

/-- What a release of the grid barrier waits for: every arrival, with its release complete; in deterministic
mode every staged operation of the grid (R305). -/
def gbarDone (s : State) (b g : Nat) (x : Grid) : Bool :=
  gbarArrived s g x && (!detMode s b || (holder s g x).isNone)
    && allArrived s (blocksWhere s (fun y => y.grid == g)) atGbar

/-- GBAR (R126): a strand whose count is at most g passes once its own release is complete; the others when
every strand of the grid has arrived. -/
def execGbar (f : LForm) (s : State) :=
  issue (.gbar f) (fun u s =>
    let g := u.blk.grid
    match gridOf s g, u.resume with
    | none, _ => .wait
    | some _, some (.gbar cut false) =>
      if releaseReady s u.b u.c u.blk.core cut u.lanes then
        .go [] [] (fun t => beginRelease t u 5 (fun n => .gbar n true))
      else .wait
    | some x, some (.gbar cut true) =>
      if u.lanes.all (fun l => (u.cord.lane l).gbars ≤ x.barrier) then
        (if releaseDone s u.b u.blk.core 5 cut then
          .go [] [] (fun t => passBoundary (modCord t u.b u.c (passLanes u.len u.lanes)) u.b u.c u.blk.core 5 true
            u.lanes)
        else .wait)
      else if gbarDone s u.b g x then .go [] [] (fun t => releaseGbar t g)
      else .wait
    | some _, some _ => .wait
    | some x, none =>
      if !x.isGbar then .trap .gbarUndeclared u.lanes 0 0
      else .go [] [] (fun t => arriveWide
        (modCord t u.b u.c (fun c => c.modLanes u.lanes (fun y => { y with gbars := y.gbars + 1 }))) u f .gbar)) s

/-! ### Launch queues -/

/-- The waits that a record uses (Table 15-2): the address and the value of each. -/
def recordWaits (r : Nat) : List (Nat × Nat) :=
  (if bit r 255 then [(bits r 248 192, bits r 319 256)] else [])
    ++ (if bit r 383 then [(bits r 376 320, bits r 447 384)] else [])

/-- The queue that a record names. -/
def recordQueue (r : Nat) : Nat := bits r 593 588

/-- The grids in a launch queue of a partition. -/
def queueOf (s : State) (part q : Nat) : List Nat := (partOf s part).queues.getD q []

/-- A launch queue holds 64 records (R289). -/
def queueRoom (s : State) (part q : Nat) : Bool := (queueOf s part q).length < 64

/-- A list with one place set, grown with empty lists where it is shorter. -/
def setQueue : List (List Nat) → Nat → List Nat → List (List Nat)
  | [], 0, x => [x]
  | [], n + 1, x => [] :: setQueue [] n x
  | _ :: t, 0, x => x :: t
  | y :: t, n + 1, x => y :: setQueue t n x

/-- The state with one launch queue changed. -/
def modQueue (s : State) (part q : Nat) (f : List Nat → List Nat) : State :=
  modPart s part (fun p => { p with queues := setQueue p.queues q (f (p.queues.getD q [])) })

/-- Where a launch record enters that names an address of a version whose place a re-optimised translation has taken (R352):
at the same distance from the entry of that translation, whether the version is still there or has been removed. -/
def successorOf (x : Ctx) (entry : Nat) : Option Nat :=
  match versionAt x entry with
  | some (_, v) =>
    (match v.superseded, v.next with
      | true, some e => some ((e + (entry - v.base)) % 2 ^ 57)
      | _, _ => none)
  | none => (x.removed.find? (fun r => r.1 ≤ entry && entry < r.1 + r.2.1)).map (fun r => (r.2.2 + (entry - r.1)) % 2 ^ 57)

/-- An entry followed through translations that have taken each other's place. -/
def latestEntry (x : Ctx) : Nat → Nat → Nat
  | 0, entry => entry
  | n + 1, entry =>
    match successorOf x entry with
    | some e => latestEntry x n e
    | none => entry

/-- A new record enters the re-optimised translation that has taken the place of the version it names (R352). -/
def redirect (x : Ctx) (record : Nat) : Nat :=
  let entry := bits record 56 0
  record - entry + latestEntry x (x.versions.length + x.removed.length) entry

/-- A record placed on the queue it names (R289, R291): a grid that waits for its acceptance. -/
def submitRecord (s : State) (part ctx record depth : Nat) (parent : Option (Nat × Nat)) : State :=
  let g := s.grids.length
  let record := redirect (ctxOf s part ctx) record
  let s := { s with grids := s.grids ++ [{
    part := part, ctx := ctx, record := record, depth := depth, parent := parent, stage := .queued }] }
  modQueue s part (recordQueue record) (fun l => l ++ [g])

/-! ### LAUNCH -/

/-- A nonzero handle that none of a block's handles has (R127), the lowest from n on. -/
def freshHandle (used : List Nat) : Nat → Nat → Nat
  | 0, n => n
  | fuel + 1, n =>
    if n % 2 ^ 32 = 0 ∨ n % 2 ^ 32 = 0xFFFFFFFF ∨ n % 2 ^ 32 = 0xFFFFFFFE ∨ used.contains (n % 2 ^ 32) then
      freshHandle used fuel (n + 1)
    else n % 2 ^ 32

/-- A handle for a block: nonzero and unique among its unreclaimed handles; which one is free (log 3), but in deterministic
mode the lowest, so that every run gives the same (R309; log 110). -/
def newHandle (s : State) (b : Nat) : Nat × State :=
  let used := ((s.blocks[b]?).map (fun y => y.handles.map Handle.h)).getD []
  if detMode s b then (freshHandle used 70 1, s)
  else
    let x := takeFree s
    (freshHandle used 70 x.1.toNat, x.2)

/-- A handle given to a block's leader: sD receives it (R127). -/
def giveHandle (s : State) (b c : Nat) (f : LForm) (grid : Option Nat) (status : Nat) : Nat × State :=
  let x := newHandle s b
  let s := modBlock x.2 b (fun y => { y with handles := y.handles ++ [{ h := x.1, grid := grid, status := status }] })
  (x.1, modCord s b c (fun y => commit y [.s f.d.toNat (BitVec.ofNat 32 x.1)]))

/-- The record of a LAUNCH enters its queue: the block gets its handle. -/
def launchRecord (s : State) (b c : Nat) (f : LForm) (g : Grid) (record : Nat) : State :=
  let x := giveHandle s b c f (some s.grids.length) 0
  submitRecord x.2 g.part g.ctx record (g.depth + 1) (some (b, x.1))

/-- The leader rule of LAUNCH and WAITCH (R24, R127): the participants are none, or the block leader. -/
def leaderOnly (u : Issue) (lanes : List Nat) : Bool := lanes == [0] && u.c == 0

/-- The outstanding LAUNCH of a cord, with its form. -/
def launchOp (c : Cord) : Option (Op × LForm) :=
  c.ops.findSome? (fun o => match o.kind with
    | .launch f => some (o, f)
    | _ => none)

/-- A LAUNCH is over: its operation is complete, the leader passes it, and what it held back goes on. -/
def endLaunch (s : State) (b c : Nat) (o : Op) : State :=
  settle (modCord s b c (fun x => passLanes 8 o.lanes (completeOp x o []))) b

/-- The record that has been read is queued, or the leader waits for queue space (R127). -/
def offerRecord (s : State) (b c : Nat) (o : Op) (f : LForm) (g : Grid) (bs : List Byte) : State :=
  if queueRoom s g.part (recordQueue (leNat bs)) then
    endLaunch (launchRecord s b c f g (leNat bs)) b c o
  else
    modCord s b c (fun x =>
      (modOp x o.id (fun p => { p with accs := p.accs.map (fun a => { a with data := bs, st := .done }) })).modLanes
        o.lanes (fun t => { t with park := some .launchRoom }))

/-- A LAUNCH whose release is complete reads its record (R127): a rejected read gives a handle with the status
of LAUNCH_FAULT (R291). -/
def readRecord (s : State) (b c core : Nat) (o : Op) (f : LForm) (g : Grid) : Option State :=
  match o.accs with
  | a :: _ =>
    match a.st with
    | .rejected _ => some (endLaunch (giveHandle s b c f none 0x108).2 b c o)
    | .ready =>
      (match readAcc s b core a with
        | (.wait, _) => none
        | (.bad _, s) => some (endLaunch (giveHandle s b c f none 0x108).2 b c o)
        | (.bytes bs _, s) => some (offerRecord s b c o f g bs))
    | _ => none
  | [] => none

/-- LAUNCH (R127): the checks, the device-scope release, the read of the record, its queueing. A record address at or above
2^57, for which R127 names no trap, is one that no entry maps: a translation fault with cause 0 (log 24). -/
def execLaunch (f : LForm) (s : State) :=
  issue (.launch f) (fun u s =>
    match gridOf s u.blk.grid, u.resume with
    | none, _ => .wait
    | some _, some (.launch cut false) =>
      if releaseReady s u.b u.c u.blk.core cut u.lanes then
        .go [] [] (fun t => beginRelease t u 5 (fun n => .launch n true))
      else .wait
    | some g, some (.launch cut true) =>
      (match launchOp u.cord with
        | some (o, f) =>
          if releaseDone s u.b u.blk.core 5 cut then
            (match readRecord s u.b u.c u.blk.core o f g with
              | some t => .go [] [] (fun _ => t)
              | none => .wait)
          else .wait
        | none => .wait)
    | some _, some _ => .wait
    | some g, none =>
      let lanes := participants u f
      let va := regVal u.cord 0 true true f.a.toNat
      if !lanes.isEmpty && !leaderOnly u lanes then .trap .launchLeader lanes 0 0
      else if g.depth = 10 then .trap .launchDepth lanes 0 0
      else if lanes.isEmpty then .go [] [] (fun t => t)
      else if va % 128 != 0 then .trap .launchRecord lanes 0 0
      else if 64 ≤ u.blk.handles.length then .trap .launchHandles lanes 0 0
      else .go [] [] (fun t =>
        let core := u.blk.core
        let t := boundaryHere (countPhase (unrelaunch t (braidOf t u.b)) core) u lanes
        let cut := cutOf t core
        let t := addAccOp t u (newOp t u f lanes (.launch f)
          (lanes.map (fun l => { newAcc u l va 128 [] [] with epoch := (u.cord.lane l).epoch + 1 })))
        modCord t u.b u.c (fun c => c.modLanes lanes (fun y => { y with park := some (.launch cut false), pc := u.pc })))) s
where
  boundaryHere (t : State) (u : Issue) (lanes : List Nat) : State :=
    coreBoundary (modCord t u.b u.c (fun c => boundary lanes c)) u.blk.core

/-- LAUNCH_QUEUE_ROOM (R127): a queue that has gained room takes the record that a leader holds. -/
def execLaunchQueueRoom (b : Nat) (s : State) : Host.Outcome State Fault Refusal :=
  .next (match cordOf s b 0, gridOfBlock s b with
    | some x, some g =>
      (match launchOp x with
        | some (o, f) =>
          (match o.accs with
            | a :: _ =>
              if (x.lane 0).park == some .launchRoom && queueRoom s g.part (recordQueue (leNat a.data)) then
                endLaunch (launchRecord s b 0 f g (leNat a.data)) b 0 o
              else s
            | [] => s)
        | none => s)
    | _, _ => s)

/-! ### WAITCH -/

/-- The status of a child once it has ended (R23, Table 5-8). -/
def handleEnd (s : State) (h : Handle) : Option Nat :=
  match h.grid.bind (gridOf s) with
  | none => some h.status
  | some g =>
    match g.stage with
    | .completed => some 0
    | .failed code => some code
    | _ => none

/-- What WAITCH answers for a handle, or for all, and which handles it reclaims; none while it waits. -/
def waitchAnswer (s : State) (x : Block) (h : Nat) : Option (Nat × List Nat) :=
  if h = 0xFFFFFFFF then
    (if x.handles.all (fun y => (handleEnd s y).isSome) then
      some (((x.handles.filterMap (handleEnd s)).find? (fun v => v != 0)).getD 0, x.handles.map Handle.h)
    else none)
  else
    match x.handles.find? (fun y => y.h == h) with
    | none => some (0xFFFFFFFE, [])
    | some y => (handleEnd s y).map (fun v => (v, [h]))

/-- WAITCH has its answer: sD is written and the handles are reclaimed; status 0 comes with a device-scope
acquire, which %phase counts. -/
def takeAnswer (s : State) (u : Issue) (f : LForm) (lanes : List Nat) (r : Nat × List Nat) : State :=
  let s := modBlock s u.b (fun x => { x with handles := x.handles.filter (fun y => !r.2.contains y.h) })
  let s := modCord s u.b u.c (fun c => commit c [.s f.d.toNat (BitVec.ofNat 32 r.1)])
  if r.1 = 0 then passBoundary (countPhase s u.blk.core) u.b u.c u.blk.core 5 true lanes else s

/-- An answer may be taken (R128): status 0 comes with an acquire, which follows what its strand issued before. -/
def answerDue (u : Issue) (cut : Nat) (lanes : List Nat) (r : Nat × List Nat) : Bool :=
  r.1 != 0 || ownQuiet u.cord cut lanes

/-- WAITCH (R128). It parks while it has no answer; an answer that it has at once comes at its issue. -/
def execWaitch (f : LForm) (s : State) :=
  issue (.waitch f) (fun u s =>
    match u.resume with
    | some (.waitch h cut) =>
      (match waitchAnswer s u.blk h with
        | some r =>
          if answerDue u cut u.lanes r then .go [] [] (fun t =>
            takeAnswer (modCord t u.b u.c (passLanes u.len u.lanes)) u f u.lanes r)
          else .wait
        | none => .wait)
    | some _ => .wait
    | none =>
      let lanes := participants u f
      let h := (match f.lit with
        | some w => w
        | none => u.cord.scal f.a.toNat).toNat
      if lanes.isEmpty then .go [] [] (fun t => t)
      else if !leaderOnly u lanes then .trap .launchLeader lanes 0 0
      else
        match waitchAnswer s u.blk h with
        | some r =>
          if answerDue u (cutOf s u.blk.core) lanes r then .go [] [] (fun t => takeAnswer t u f lanes r) else .wait
        | none => .go [] [] (fun t => modCord t u.b u.c
            (parkLanes u (flagOf u f.setf f.fsel) u.cord.retired.toNat lanes (.waitch h (cutOf s u.blk.core))))) s

end Sys2Proof.Machine
end

