-- ==== Sys2Proof/Machine/Homes.lean ====
section
/-! DEFINITION. What the homes and the snapshots do on their own: published bytes arrive, lines are written back
and evicted (R207), tentative stores arrive (R338, R350). -/

namespace Sys2Proof.Machine
open Sys2Proof

/-! ### Published bytes -/

/-- Bytes of a block written at their homes, each with its poison. -/
def homeBytes (s : State) (block : Nat) (poison : List Nat) : List (Nat × Byte) → State
  | [] => s
  | (pa, x) :: rest => homeBytes (braidWrite s (braidOf s block) pa x (poison.contains pa)) block poison rest

/-- An earlier line of a core on its way holds a byte of a later one. -/
def outboundBehind (k : CoreSt) (o : Outbound) : Bool :=
  k.outbound.any (fun e => e.n < o.n && e.bytes.any (fun x => o.bytes.any (fun y => y.1 == x.1)))

/-- STORE_ARRIVAL_AT_HOME (R206, R207): bytes of one line of a core reach their home. -/
def execStoreArrivalAtHome (core n : Nat) (s : State) : Host.Outcome State Fault Refusal :=
  .next (match (coreOf s core).outbound.find? (fun o => o.n == n) with
    | none => s
    | some o =>
      if outboundBehind (coreOf s core) o then s
      else homeBytes (modCore s core (fun k => { k with outbound := k.outbound.filter (fun e => e.n != n) }))
        o.block o.poison o.bytes)

/-- The blocks that have unpublished bytes in a line of a core. -/
def dirtyBlocks (k : CoreSt) (line : Nat) : List Nat :=
  ((k.dirty.filter (fun e => e.1 / 256 == line)).map (fun e => e.2.block)).eraseDups

/-- A core's unpublished bytes of one line sent to their home. -/
def writeBack (s : State) (core line : Nat) : State :=
  (dirtyBlocks (coreOf s core) line).foldl (fun s b => publishLine s core line b) s

/-- L1_WRITEBACK (R207): unpublished bytes are written to their homes at any time. -/
def execL1Writeback (core line : Nat) (s : State) : Host.Outcome State Fault Refusal :=
  .next (writeBack s core line)

/-- L1_LINE_EVICTION (R207): the line's unpublished bytes go to their home and its clean bytes are dropped. -/
def execL1LineEviction (core line : Nat) (s : State) : Host.Outcome State Fault Refusal :=
  .next (dropLine (writeBack s core line) core line)

/-! ### Tentative stores -/

/-- The bytes of a tentative store's access written at their home, but those that a higher lane has written (R237). -/
def laneWrite (s : State) (me : BraidId) (o : Op) (a : Acc) : State :=
  (laneBytes o a).foldl (fun s e => ownWrite s me e.1 [e.2] false) s

/-- A tentative store of a region at its home (R338): it joins the region's cell, takes one, stacked on the
braid's own where there is one, or is performed uncovered. -/
def regionStore (s : State) (b c : Nat) (o : Op) (a : Acc) : State :=
  let me := braidOf s b
  let dw := dwOf a.pa
  let cs := cellsAt s dw
  if cs.any (fun x => x.owner == me && x.region == some (b, c)) then laneWrite s me o a
  else if cs.any (fun x => x.owner != me) || !weltRoom s dw then
    unrelaunch (markUncovered (laneWrite s me o a) b c o) me
  else laneWrite (takeCell (limitCells s me) dw me (some (b, c))) me o a

/-- A tentative store's access i performed at its home. -/
def tentativeOne (s : State) (b c core : Nat) (o : Op) (i : Nat) : State :=
  match o.accs[i]? with
  | none => s
  | some a =>
    let s := bypassL1 s core (dwOf a.pa) 8
    let s := if o.region then regionStore s b c o a
      else laneWrite (braidCell s (braidOf s b) (dwOf a.pa)) (braidOf s b) o a
    modCord s b c (fun x => modOp x o.id (fun p => setAcc p i .done))

/-- Whether access i of a tentative store may be performed at its home now. -/
def tentativeReady (s : State) (b c : Nat) (o : Op) (i : Nat) : Bool :=
  match o.accs[i]? with
  | some a => a.st == .ready && reachOf s b a.pa a.size true == .home && !blocked s b c o a
  | none => false

/-- TENTATIVE_STORE_ARRIVAL (R338, R350): the accesses of a tentative store at a doubleword reach its home. -/
def execTentativeStoreArrival (b c o dw : Nat) (s : State) : Host.Outcome State Fault Refusal :=
  .next (match s.blocks[b]?, opIn s b c o with
    | some x, some op =>
      match op.kind with
      | .store _ true =>
        if !hasTicket s b then s
        else settleAll (finishOp ((accsAtDw op dw).foldl (fun s i => match opIn s b c o with
          | some p => if tentativeReady s b c p i then tentativeOne s b c x.core p i else s
          | none => s) s) b c o) b
      | _ => s
    | _, _ => s)

/-- UNCOVERED_STORE_REPORT (R338): the core learns that a store of the open region has no cell; the region ends at
the next instruction boundary. -/
def execUncoveredStoreReport (b c : Nat) (s : State) : Host.Outcome State Fault Refusal :=
  .next (modCord s b c (fun y => { y with region := y.region.map (fun g =>
    if g.uncov && !g.told then { g with told := true, ending := some (g.ending.getD .uncovered) } else g) }))

end Sys2Proof.Machine
end

