-- ==== Sys2Proof/Machine/Faults.lean ====
section
/-! DEFINITION. Walks and translation faults (R209 to R220), the fault queue, invalidation and the context slots
(R374 to R377), and host submissions (R357, R358). -/

namespace Sys2Proof.Machine
open Sys2Proof

/-! ### What a walk is for -/

/-- The first core of a partition. -/
def firstCore (s : State) (part : Nat) : Nat := 4 * bits ((partOf s part).record.getD 0 0).toNat 47 32

/-- The core on whose die a translation is made. -/
def srcCore (s : State) (w : WalkSrc) : Nat :=
  match w with
  | .fetch b _ _ | .op b _ _ _ => ((s.blocks[b]?).map (fun x => x.core)).getD 0
  | .eng core _ _ | .array core _ => core
  | .submit part _ _ | .ring part _ _ => firstCore s part

/-- The block that a translation is made for. -/
def srcBlock (s : State) (w : WalkSrc) : Option Nat :=
  match w with
  | .fetch b _ _ | .op b _ _ _ => some b
  | .eng core r _ => (reqOf s core r).map (fun q => q.block)
  | .array core _ => (coreOf s core).array.head?.map (fun o => o.block)
  | .submit _ _ _ | .ring _ _ _ => none

/-- The context slot that a translation uses. -/
def srcSlot (s : State) (w : WalkSrc) : Nat :=
  match w with
  | .submit part ctx _ => slotOn (dieOf s (dieOfCore (firstCore s part))) part ctx
  | .ring part r _ => slotOn (dieOf s (dieOfCore (firstCore s part))) part
      (((tabGet (partOf s part).rings r).map Ring.ctx).getD 0)
  | _ => ((srcBlock s w).map (slotOfBlock s)).getD 0

/-- The address that a translation is asked for. -/
def srcVa : WalkSrc → Nat
  | .fetch _ _ va | .op _ _ _ va | .eng _ _ va | .array _ va | .submit _ _ va | .ring _ _ va => va

/-- What a translation must allow. An engine or a ring that asks where a read is translated asks to write. -/
def srcNeed (s : State) (w : WalkSrc) : Need :=
  let again (n : Need) : Need :=
    if (tlbFind (dieOf s (dieOfCore (srcCore s w))) (srcSlot s w) (srcVa w) .read).isSome then .write else n
  match w with
  | .fetch _ _ _ => .fetch
  | .op b c o _ => ((opIn s b c o).map (fun p => opNeed p.kind)).getD .read
  | .eng _ _ _ | .ring _ _ _ => again .read
  | .array _ _ | .submit _ _ _ => .read

/-- The KIND of a fault entry (Table 11-5). -/
def srcKind (s : State) (w : WalkSrc) : Nat :=
  match w with
  | .fetch _ _ _ => 4
  | .op b c o _ =>
    (match (opIn s b c o).map Op.kind with
      | some (.store _ tent) => storeKind tent
      | some (.atom _) | some (.cas _) | some (.red _) | some (.atomr _) => 2
      | some (.tst _) | some (.retract _) | some (.tcommit _) => 3
      | some (.cvtsc _ _ _ _) => 10
      | _ => 0)
  | .eng core r _ =>
    (match reqOf s core r with
      | none => 5
      | some q => match q.engine with
        | .copy => 5
        | .gse => 6
        | .coll => 7)
  | .array _ _ => 8
  | .submit _ _ _ | .ring _ _ _ => 0

/-! ### Walks -/

/-- The walks asked for without one. -/
def dropWalk (s : State) (core : Nat) (w : WalkReq) : State :=
  modDie s (dieOfCore core) (fun d => { d with walks := d.walks.filter (fun e => e != w) })

/-- What a walk for a source finds. -/
def walkOf (s : State) (w : WalkSrc) : Walk :=
  let slot := (tabGet (dieOf s (dieOfCore (srcCore s w))).slots (srcSlot s w)).getD {}
  if slot.valid then walk s.mem slot.root (srcVa w) (srcNeed s w) else .fault 0

/-- Two cached translations say the same of one page. -/
def TlbEntry.same (x y : TlbEntry) : Bool :=
  x.slot == y.slot && x.base == y.base && x.size == y.size && x.pa == y.pa && x.wr == y.wr && x.ex == y.ex

/-- A translation entered in its die's caches. A former one of the page that says otherwise stays until it is invalidated:
each access until then uses the one or the other (R212). -/
def cacheEntry (d : Die) (e : TlbEntry) : Die := { d with tlb := e :: d.tlb.filter (fun x => !x.same e) }

/-- An access that entry i of the fault buffer parks waits for its translation again (R216). -/
def replayAcc (i : Nat) (a : Acc) : Acc := if a.st == .buffered i then { a with st := .wait } else a

/-- The accesses of an operation that wait for a page it can now translate become ready; `parked`: those parked
in entry i of the fault buffer, and for what still has none a translation is asked. -/
def readyAccs (s : State) (b c core o : Nat) (parked : Option Nat) : State :=
  match opIn s b c o with
  | none => s
  | some op =>
    let accs := match parked with
      | some i => op.accs.map (replayAcc i)
      | none => op.accs
    let op : Op := { op with accs := accs.map (fun a => if a.st == .wait then startAcc s b core op.kind a else a) }
    let s := modCord s b c (fun x => modOp x o (fun p => { p with accs := op.accs }))
    if parked.isSome then (opWalks b c op).foldl (fun s w => askWalk s core w) s else s

/-- A walk that has found its page (R211): ACC, and DIRTY for a write, are set at the entry's home, and the
translation is cached. -/
def walkFound (s : State) (w : WalkSrc) (ea base size pa entry : Nat) : State :=
  let n := srcNeed s w
  let slot := srcSlot s w
  let s := { s with mem := markLeaf s.mem ea entry n }
  modDie s (dieOfCore (srcCore s w)) (fun d => cacheEntry d {
    slot := slot, base := base, size := size, pa := pa, wr := bit entry 3, ex := bit entry 4,
    dirty := n == .write || bit entry 6 })

/-- What follows once an access has its translation. -/
def afterWalk (s : State) (w : WalkSrc) (parked : Option Nat) : State :=
  match w with
  | .op b c o _ =>
    (match s.blocks[b]? with
      | some x => settleAll (readyAccs s b c x.core o parked) b
      | none => s)
  | _ => s

/-! ### The fault buffer -/

/-- The lowest free entry of a die's fault buffer (R213; log 22). -/
def freeEntry (d : Die) : Option Nat := (List.range 1024).find? (fun i => (tabGet d.faults i).isNone)

/-- The cord that an entry names, with its block; a submission and a ring are no cord's (log 43). -/
def srcCord (s : State) (w : WalkSrc) : Option (Nat × Nat) :=
  match w with
  | .fetch b c _ | .op b c _ _ => some (b, c)
  | .eng core r _ => (reqOf s core r).map (fun q => (q.block, q.cord))
  | .array core _ => (coreOf s core).array.head?.map (fun o => (o.block, o.cord))
  | .submit _ _ _ | .ring _ _ _ => none

/-- The flag that an entry holds busy: that of an engine's request fell when the engine accepted it, but where firmware
carries it out (R152, R163, R177). -/
def srcFlag (s : State) (w : WalkSrc) : Option Nat :=
  match w with
  | .op b c o _ => (opIn s b c o).bind Op.flag
  | .eng core r _ => (reqOf s core r).bind (fun q => if q.accepted && !q.emulated then none else q.flag)
  | .array core _ => (coreOf s core).array.head?.bind (fun o => o.flag)
  | _ => none

/-- The stream of an entry's access. -/
def srcStream (s : State) (w : WalkSrc) : Nat :=
  match w with
  | .op b c o _ => ((opIn s b c o).map (fun p => p.stream)).getD 0
  | _ => 0

/-- The page on which a translation faults, as its base and size: that of the leaf which does not give the right, or
the granule where no leaf maps the address (log 15). -/
def faultPage (s : State) (w : WalkSrc) : Nat × Nat :=
  let slot := (tabGet (dieOf s (dieOfCore (srcCore s w))).slots (srcSlot s w)).getD {}
  match walk s.mem slot.root (srcVa w) .read with
  | .page _ base size _ _ => if slot.valid then (base, size) else (65536 * granule (srcVa w), 65536)
  | .fault _ => (65536 * granule (srcVa w), 65536)

/-- The accesses of an operation that wait for a translation on a page. -/
def waitingOn (s : State) (w : WalkSrc) (p : Nat × Nat) : List Acc :=
  match w with
  | .op b c o _ => (((opIn s b c o).map Op.accs).getD []).filter (fun a =>
      a.st == .wait && p.1 ≤ a.va && a.va < p.1 + p.2)
  | _ => []

/-- The entry that a fault takes (Table 11-5): the first address and the strands of the participants that fault on the
page; SMASK is 0 for engine accesses. -/
def newEntry (s : State) (w : WalkReq) (cause : Nat) : FaultEntry :=
  let at_ := srcCord s w.src
  let p := faultPage s w.src
  let mine := waitingOn s w.src p
  let smask : Mask := match w.src with
    | .fetch _ _ _ => w.smask
    | .op _ _ _ _ => maskOf (mine.map Acc.lane)
    | _ => 0
  { ctx := srcSlot s w.src, va := ((mine.map Acc.va).head?).getD (srcVa w.src), smask := smask, pc := w.pc,
    base := p.1, size := p.2,
    block := ((at_.bind (fun e => s.blocks[e.1]?)).map Block.index).getD 0, core := srcCore s w.src,
    cord := (at_.map Prod.snd).getD 0,
    stream := srcStream s w.src, flag := (srcFlag s w.src).getD 15, kind := srcKind s w.src, cause := cause,
    state := 0, exited := ((at_.bind (fun e => cordOf s e.1 e.2)).map Cord.ended).getD false, src := w.src }

/-- Another entry of the same context and page is pending, so that its report covers this one (R213). -/
def covered (d : Die) (i : Nat) (e : FaultEntry) : Bool :=
  d.faults.any (fun x => x.1 != i && x.2.state == 0 && x.2.ctx == e.ctx && x.2.base < e.base + e.size
    && e.base < x.2.base + x.2.size)

/-- An entry with its report (R213, R216). -/
def reportEntry (d : Die) (i : Nat) (e : FaultEntry) : Die :=
  { d with faults := tabPut d.faults i e, reports := d.reports ++ [(i, e.ctx, Sys2Proof.bits e.va 56 16)] }

/-- An entry taken (R213): one report covers every pending entry of its context and page. -/
def putEntry (d : Die) (i : Nat) (e : FaultEntry) : Die :=
  if covered d i e then { d with faults := tabPut d.faults i e } else reportEntry d i e

/-- Entries have been freed: the accesses that found the buffer full walk again (R215). -/
def Die.wake (d : Die) : Die := { d with walks := d.walks ++ d.waiting, waiting := [] }

/-- An entry freed. -/
def freeFault (s : State) (die i : Nat) : State := modDie s die (fun d => { d with faults := tabDel d.faults i }.wake)

/-- The accesses of an operation that wait at the page of a fault are parked in entry i. -/
def parkAccs (s : State) (w : WalkSrc) (i : Nat) : State :=
  match w with
  | .op b c o _ =>
    let pg := faultPage s w
    modCord s b c (fun x => modOp x o (fun p => { p with accs := p.accs.map (fun a =>
      if a.st == .wait && pg.1 ≤ a.va && a.va < pg.1 + pg.2 then { a with st := .buffered i } else a) }))
  | _ => s

/-- A prefetch that faults is dropped (R270). -/
def isPref (s : State) (w : WalkSrc) : Bool :=
  match w with
  | .op b c o _ =>
    (match (opIn s b c o).map Op.kind with
      | some (.pref _) => true
      | _ => false)
  | _ => false

/-- The accesses of a dropped prefetch at a page are over. -/
def dropPref (s : State) (w : WalkSrc) : State :=
  match w with
  | .op b c o va => finishOp (modCord s b c (fun x => modOp x o (fun p => { p with accs := p.accs.map (fun a =>
      if a.st == .wait && granule a.va == granule va then { a with st := .done } else a) }))) b c o
  | _ => s

/-- Two translations are asked for by one instruction, request, array or ring. -/
def sameAsker : WalkSrc → WalkSrc → Bool
  | .op b c o _, .op b' c' o' _ => b == b' && c == c' && o == o'
  | .fetch b c _, .fetch b' c' _ => b == b' && c == c'
  | .eng core r _, .eng core' r' _ => core == core' && r == r'
  | .array core _, .array core' _ => core == core'
  | .ring p r _, .ring p' r' _ => p == p' && r == r'
  | _, _ => false

/-- The lowest lane of a mask. -/
def lowestLane (m : Mask) : Nat := (lanesOf m).headD 64

/-- Further participants fault on the page of an entry: it names them, with the address of the lowest (Table 11-5). -/
def FaultEntry.join (e : FaultEntry) (w : WalkReq) : FaultEntry :=
  match w.src with
  | .fetch _ _ va =>
    { e with smask := e.smask ||| w.smask, va := if lowestLane w.smask < lowestLane e.smask then va else e.va }
  | _ => e

/-- A walk that has found a fault (R109, R211, R213, R215): one entry for each page of an issue or request. -/
def walkFault (s : State) (w : WalkReq) (cause : Nat) : State :=
  let core := srcCore s w.src
  let die := dieOfCore core
  if isPref s w.src then dropPref s w.src
  else
    match (dieOf s die).faults.find? (fun e => sameAsker e.2.src w.src && e.2.covers (srcVa w.src)), freeEntry (dieOf s die) with
    | some e, _ => modDie s die (fun d => { d with faults := tabPut d.faults e.1 (e.2.join w) })
    | none, none => modDie s die (fun d => { d with waiting := d.waiting ++ [w] })
    | none, some i => parkAccs (modDie s die (fun d => putEntry d i (newEntry s w cause))) w.src i

/-- Whether what a walk is for is still there. -/
def srcLive (s : State) (w : WalkSrc) : Bool :=
  match w with
  | .fetch b c _ => ((cordOf s b c).map (fun x => !x.ended)).getD false
  | .op b c o va => ((opIn s b c o).map (fun p => p.accs.any (fun a =>
      (a.st == .wait || a.parked) && granule a.va == granule va))).getD false
  | .eng core r _ => ((reqOf s core r).map (fun q => !q.finished)).getD false
  | .array core _ => !(coreOf s core).array.isEmpty
  | .submit part ctx va => (partOf s part).submits.contains (ctx, va)
  | .ring part r _ => (tabGet (partOf s part).rings r).isSome

/-! ### Host submissions -/

/-- A submission refused (R358): REFUSED and CODE of its doorbell page. -/
def refuseSubmit (s : State) (part ctx code : Nat) : State :=
  modPart s part (fun p => { p with sub := tabPut p.sub ctx (BitVec.ofNat 64 (1 + code <<< 16)) })

/-- A submission is no longer waiting for its record. -/
def dropSubmit (s : State) (part ctx va : Nat) : State :=
  modPart s part (fun p => { p with submits := p.submits.erase (ctx, va) })

/-- The submissions of an address are no longer waiting for their record. -/
def dropSubmits (s : State) (part ctx va : Nat) : State :=
  modPart s part (fun p => { p with submits := p.submits.filter (fun e => e != (ctx, va)) })

/-- How a device that is no core reaches a physical address: at its home, outside, not yet, or not at all (R358, R367,
R379). -/
def reachDevice (s : State) (pa : Nat) : Reach :=
  match placeOf pa with
  | .homed => .home
  | .host => .far
  | .peer i => reachPeer s i (pa % 2 ^ 44)
  | _ => .reject 7

/-- The record of a submission is queued, or refused where its queue is full (R358). -/
def takeRecord (s : State) (part ctx rec_ : Nat) : State :=
  if queueRoom s part (recordQueue rec_) then submitRecord s part ctx rec_ 0 none else refuseSubmit s part ctx 1

/-- A submission asks for its translation. -/
def askSubmit (s : State) (part ctx va : Nat) : State :=
  askWalk s (firstCore s part) { src := .submit part ctx va, pc := 0, smask := 0 }

/-- The record of a submission read at its physical address: it is queued, or refused where it lies nowhere (R358). A
port in recovery is asked again. -/
def readSubmit (s : State) (part ctx va pa : Nat) : State :=
  match reachDevice s pa with
  | .home =>
    let r := foreignRead pa 128 (dropSubmit s part ctx va)
    takeRecord r.2 part ctx (leNat r.1)
  | .far =>
    let r := freeBytes 128 (dropSubmit s part ctx va)
    takeRecord r.2 part ctx (leNat r.1)
  | .waits => askSubmit s part ctx va
  | _ => refuseSubmit (dropSubmit s part ctx va) part ctx 0x0108

/-- A submission goes on: its record is read where it is translated, else its translation is asked for. -/
def goSubmit (s : State) (part ctx va : Nat) : State :=
  let d := dieOf s (dieOfCore (firstCore s part))
  match tlbFind d (slotOn d part ctx) va .read with
  | some pa => readSubmit s part ctx va pa
  | none => askSubmit s part ctx va

/-- A write to SUBMIT of a doorbell page (R357, R358). -/
def submitWrite (s : State) (part ctx : Nat) (v : DWord) : State :=
  if (ctxOf s part ctx).life == .absent then refuseSubmit s part ctx 3
  else if bits v.toNat 63 57 != 0 || bits v.toNat 6 0 != 0 then refuseSubmit s part ctx 2
  else goSubmit (modPart s part (fun p => { p with submits := p.submits ++ [(ctx, v.toNat)] })) part ctx v.toNat

/-- HOST_SUBMIT (R357, R358). -/
def execHostSubmit (part ctx : Nat) (v : DWord) (s : State) : Host.Outcome State Fault Refusal :=
  .next (submitWrite s part ctx v)

/-- What the submissions of an address do once its page is translated: each has its record read. -/
def resumeSubmit (s : State) (w : WalkSrc) : State :=
  match w with
  | .submit part ctx va =>
    ((partOf s part).submits.filter (fun e => e == (ctx, va))).foldl (fun s _ => goSubmit s part ctx va) s
  | _ => s

/-- PAGE_WALK (R209 to R213): a translation that was asked for is walked. -/
def execPageWalk (w : WalkSrc) (s : State) : Host.Outcome State Fault Refusal :=
  let core := srcCore s w
  .next (match (dieOf s (dieOfCore core)).walks.find? (fun e => e.src == w) with
    | none => s
    | some q =>
      let s := dropWalk s core q
      if !srcLive s w then s
      else
        match walkOf s w with
        | .page ea base size pa e => resumeSubmit (afterWalk (walkFound s w ea base size pa e) w none) w
        | .fault cause => walkFault s q cause)

/-! ### Service and rejection -/

/-- STATE 1 written to an entry (R216): a pending one is replayed from its translation; it is freed, or pending again
with the new cause and a new report. -/
def serviceEntry (s : State) (die i : Nat) : State :=
  match tabGet (dieOf s die).faults i with
    | none => s
    | some e =>
      if e.state != 0 then s
      else if !srcLive s e.src then freeFault s die i
      else
        match walkOf s e.src with
        | .page ea base size pa x =>
          resumeSubmit (afterWalk (freeFault (walkFound s e.src ea base size pa x) die i) e.src (some i)) e.src
        | .fault cause =>
          let p := faultPage s e.src
          modDie s die (fun d => reportEntry d i { e with cause := cause, base := p.1, size := p.2 })

/-- FAULT_SERVICE (R216). -/
def execFaultService (die i : Nat) (s : State) : Host.Outcome State Fault Refusal := .next (serviceEntry s die i)

/-- The places of an operation's accesses that entry i parks. -/
def parkedIn (o : Op) (i : Nat) : List Nat :=
  (List.range o.accs.length).filter (fun k => (o.accs[k]?.map Acc.st) == some (.buffered i))

/-- An access that the hypervisor has rejected, without its report (Table 11-7): a destination receives 0, a credit
returns, a RETRACT fails. -/
def rejectAcc (s : State) (b c core : Nat) (o : Op) (k cause : Nat) : State :=
  match o.accs[k]? with
  | none => s
  | some a =>
    let mark (ws : List RegW) : State :=
      modCord s b c (fun x => modOp (writeOp x o ws) o.id (fun p => setAcc p k (.rejected cause)))
    match o.kind with
    | .load f => mark (loadWs f a.lane (List.replicate a.size 0))
    | .atom _ | .cas _ => mark (stepWs o.kind a.lane 0)
    | .atomr _ => modCore (mark []) core (fun x => { x with credits := x.credits + 1 })
    | .tst f => tstDone s b c o k f false (.rejected cause)
    | .retract f =>
      modCord (mark []) b c (passRetract o (f.lit.getD 0) a.lane false)
    | _ => mark []

/-- An operation over once its accesses are: a TST with its predicates, a CVTSC with its results. -/
def closeOp (s : State) (b c o : Nat) : State :=
  match (opIn s b c o).map Op.kind with
  | some (.tst _) => finishTst s b c o
  | some (.cvtsc _ _ _ _) => cvtscReady s b c o
  | some (.launch _) => s
  | _ => finishOp s b c o

/-- A rejected entry of an operation (Table 11-7): of an ended cord, a store or tentative store becomes an orphan and
any other result is discarded. -/
def rejectOp (s : State) (b c o i : Nat) (e : FaultEntry) : State :=
  match s.blocks[b]?, cordOf s b c, opIn s b c o with
  | some x, some y, some op =>
    let ks := parkedIn op i
    let lanes := ks.filterMap (fun k => op.accs[k]?.map Acc.lane)
    let t := ks.foldl (fun t k => rejectAcc t b c x.core op k e.cause) s
    let t := if y.ended then (if e.kind = 1 ∨ e.kind = 3 then orphanStore t b e else t)
      else
        match op.kind with
        | .launch _ => t
        | _ => reportProt t b c op lanes e.cause e.va
    settleAll (closeOp t b c o) b
  | _, _, _ => s

/-- The whole of a request's destination bytes, for its failure (R164). -/
def failEng (s : State) (core n err : Nat) : State :=
  match reqOf s core n with
  | none => s
  | some r =>
    match r.engine with
    | .copy => failReq s core r (copyTotal r) err
    | .gse =>
      let t := gseTotal s r
      failReq t.2 core r t.1 err
    | .coll => failColl s core r err

/-- A cord no longer waits for the fetches that it asked for: the first that is rejected is its fault (R109). -/
def dropFetches (s : State) (core b c : Nat) : State :=
  modDie s (dieOfCore core) (fun d => { d with
    walks := d.walks.filter (fun w => !w.fetchOf b c),
    waiting := d.waiting.filter (fun w => !w.fetchOf b c),
    faults := d.faults.filter (fun e => match e.2.src with
      | .fetch b' c' _ => !(b' == b && c' == c)
      | _ => true) }.wake)

/-- STATE 2 written to an entry (R216, R218, R220, Table 11-7). -/
def rejectEntry (s : State) (die i : Nat) : State :=
  match tabGet (dieOf s die).faults i with
    | none => s
    | some e =>
      if e.state != 0 then s
      else
        let t := freeFault s die i
        match e.src with
        | .fetch b c _ =>
          (match cordOf s b c with
            | some x => takeTrap (dropFetches t e.core b c) b c .fetchFault (BitVec.ofNat 64 e.pc) (x.retBefore (BitVec.ofNat 64 e.pc))
                (lanesOf e.smask) e.cause 0
            | none => t)
        | .op b c o _ => rejectOp t b c o i e
        | .eng core r _ => failEng t core r 4
        | .array core va => modCore t core (fun k => { k with array := match k.array with
            | o :: rest => ({ o with bad := some (va, e.cause) } : ArrOp) :: rest
            | [] => [] })
        | .submit part ctx va => refuseSubmit (dropSubmits t part ctx va) part ctx 0x0108
        | .ring part r _ => modPart t part (fun p => match tabGet p.rings r with
            | some x => { p with rings := tabPut p.rings r { x with bad := true } }
            | none => p)

/-- FAULT_REJECT (R216). -/
def execFaultReject (die i : Nat) (s : State) : Host.Outcome State Fault Refusal := .next (rejectEntry s die i)

/-! ### The fault queue, invalidation, context slots -/

/-- The report of an entry: its index, its context slot and its page (R375). -/
def reportWord (i slot vpage : Nat) : Nat := i + slot <<< 16 + vpage <<< 23

/-- The head report of a die written to its fault queue while that has room, with the signal to its lower-numbered
control core (R375). -/
def writeReport (s : State) (die : Nat) : State :=
  let d := dieOf s die
  match d.reports with
  | [] => s
  | (i, slot, vpage) :: rest =>
    if 2 ^ d.fqSize ≤ d.fqProd - d.fqCons then s
    else
      let s := foreignWrite s (d.fqBase + 8 * (d.fqProd % 2 ^ d.fqSize)) (leBytes 8 (reportWord i slot vpage))
      send (modDie s die (fun d => { d with reports := rest, fqProd := d.fqProd + 1 })) (.signal die)

/-- FAULT_REPORT_WRITE (R375): the dies' oldest reports are written. -/
def execFaultReportWrite (s : State) : Host.Outcome State Fault Refusal :=
  .next ((List.range 4).foldl writeReport s)

/-- An invalidation of a die carried out (R376): the translations of the slot that cover the range. -/
def invalidate (d : Die) : Die :=
  let lo := d.invVa
  let hi := if d.invLen = 0 then 2 ^ 57 else lo + 65536 * d.invLen
  let lo := if d.invLen = 0 then 0 else lo
  { d with invCmd := 0, tlb := d.tlb.filter (fun e =>
      e.slot != d.invCtx || !(e.base < hi && lo < e.base + e.size)) }

/-- A cached translation is no longer met by the next accesses, or is met again (R212): each of them uses the former or the
new entry. -/
def toggleCached (s : State) (die i : Nat) : State :=
  modDie s die (fun d => { d with tlb := d.tlb.modify i (fun e => { e with hidden := !e.hidden }) })

/-- TLB_INVALIDATE (R376): every die whose GO is set drops what its command names. -/
def execTlbInvalidate (s : State) : Host.Outcome State Fault Refusal :=
  .next { s with dies := s.dies.map (fun e => (e.1, if e.2.invCmd = 1 then invalidate e.2 else e.2)) }

/-- A cord of a context is resident on a die. -/
def residentOn (s : State) (die part ctx : Nat) : Bool :=
  s.blocks.any (fun x => dieOfCore x.core == die && x.cords.any (fun c => !c.ended)
    && (match gridOf s x.grid with
      | some g => g.part == part && g.ctx == ctx
      | none => false))

/-- A context slot of two doublewords (R377). -/
def slotOf (d0 d1 : DWord) : CtxSlot :=
  { valid := bit d0.toNat 0, root := bits d0.toNat 51 12 * 4096, part := bits d1.toNat 8 6, ctx := bits d1.toNat 5 0 }

/-- A context slot written (R377): ignored where it changes ROOT or clears VALID while a cord of the context that the slot
was last written for is resident on the die. What was translated through the former tree of the slot serves no other context (R212). -/
def slotWrite (s : State) (die k : Nat) (new : CtxSlot) : State :=
  let old := (tabGet (dieOf s die).slots k).getD {}
  if 128 ≤ k then s
  else if (tabGet (dieOf s die).slots k).isSome && residentOn s die old.part old.ctx
      && (new.root != old.root || (old.valid && !new.valid)) then s
  else modDie s die (fun d => { d with
    slots := tabPut d.slots k new, tlb := if new == old then d.tlb else d.tlb.filter (fun e => e.slot != k) })

/-- CONTEXT_SLOT_WRITE (R377). -/
def execContextSlotWrite (die k : Nat) (d0 d1 : DWord) (s : State) : Host.Outcome State Fault Refusal :=
  .next (slotWrite s die k (slotOf d0 d1))

end Sys2Proof.Machine
end

