-- ==== Sys2Proof/Machine/Grids.lean ====
section
/-! DEFINITION. From a launch record to its completion word (R17 to R23, R39 to R42, R289 to R308): acceptance,
waits, placement, retirement, the ticket, and completion. -/

namespace Sys2Proof.Machine
open Sys2Proof

/-! ### Fields of a record (Table 15-2) -/

/-- W of a grid; 0 for the code that is none. -/
def Grid.width (g : Grid) : Nat :=
  match g.field 565 564 with
  | 0 => 16
  | 1 => 32
  | 2 => 64
  | _ => 0
/-- V of a grid. -/
def Grid.vregs (g : Grid) : Nat := 8 * g.field 575 568
/-- N of a grid (R17). -/
def Grid.strandCount (g : Grid) : Nat := g.field 527 512 * g.field 543 528 * g.field 559 544
/-- C of a grid (R17). -/
def Grid.cordCount (g : Grid) : Nat := (g.strandCount + g.width - 1) / g.width
/-- L of a grid. -/
def Grid.lines (g : Grid) : Nat := g.field 587 576
/-- PRIO. -/
def Grid.prio (g : Grid) : Nat := g.field 595 594
/-- SCOPE. -/
def Grid.scope (g : Grid) : Nat := g.field 598 596
/-- COMPL. -/
def Grid.compl (g : Grid) : Nat := g.field 120 64
/-- SEQ. -/
def Grid.seq (g : Grid) : Nat := g.field 191 128
/-- RELAUNCH. -/
def Grid.relaunches (g : Grid) : Bool := bit g.record 567
/-- QUEUE. -/
def Grid.queue (g : Grid) : Nat := recordQueue g.record

/-! ### Capacity (R35, R39, R40) -/

/-- G of a side of a core (R33). -/
def goodOf (k : CoreSt) (side : Nat) : Nat := Config.goodLanes (if side = 0 then k.mapA else k.mapB)

/-- P (R35). -/
def passesOf (w g : Nat) : Nat := if g = 0 then 0 else (w + g - 1) / g

/-- The rows of a cord (R39). -/
def rowsOf (v w p : Nat) : Nat := v * w * p / 32

/-- The cords that are resident on a side of a core, with their blocks. -/
def residents (s : State) (core side : Nat) : List (Block × Cord) :=
  s.blocks.flatMap (fun x => if x.core = core ∧ x.side = side then
    (x.cords.filter (fun c => !c.ended)).map (fun c => (x, c)) else [])

/-- The braid of a block has retired. -/
def braidRetired (s : State) (x : Block) : Bool := ((braidRec s (x.grid, x.braid)).map (fun r => r.retired)).getD true

/-- The window lines of a core in use (R42). -/
def linesUsed (s : State) (core : Nat) : Nat :=
  (s.blocks.map (fun x => if x.core = core ∧ !braidRetired s x then x.lines else 0)).sum

/-- A block of a grid fits a side of a core beside some rows, cords and lines (R40). -/
def fitsBeside (g : Grid) (k : CoreSt) (side rows cords lines : Nat) : Bool :=
  let p := passesOf g.width (goodOf k side)
  0 < p && rows + g.cordCount * rowsOf g.vregs g.width p ≤ 2048 && cords + g.cordCount ≤ 32 && lines + g.lines ≤ 3072

/-- A block of a grid fits a side of a core as it is. -/
def fitsNow (s : State) (g : Grid) (core side : Nat) : Bool :=
  let rs := residents s core side
  fitsBeside g (coreOf s core) side ((rs.map (fun e => rowsOf e.1.vregs e.1.width e.2.passes)).sum) rs.length
    (linesUsed s core)

/-- A core receives blocks (R33): it is in service with 24 good lanes on each side, and no field fuse waits for it to
drain. -/
def takesBlocks (k : CoreSt) : Bool := k.inService && k.fuses.isEmpty && 24 ≤ goodOf k 0 && 24 ≤ goodOf k 1

/-- The side that a block takes (R40): A before B. -/
def sideFor (s : State) (g : Grid) (core : Nat) : Option Nat :=
  if !takesBlocks (coreOf s core) then none
  else if fitsNow s g core 0 then some 0
  else if fitsNow s g core 1 then some 1
  else none

/-- A block fits an empty core. -/
def fitsEmpty (s : State) (g : Grid) (core : Nat) : Bool :=
  (coreOf s core).inService && (fitsBeside g (coreOf s core) 0 0 0 0 || fitsBeside g (coreOf s core) 1 0 0 0)

/-- How many blocks of a grid an empty core holds together. -/
def roomEmpty (s : State) (g : Grid) (core : Nat) : Nat :=
  let k := coreOf s core
  let side (i : Nat) : Nat :=
    let p := passesOf g.width (goodOf k i)
    if p = 0 then 0 else Nat.min (2048 / Nat.max 1 (g.cordCount * rowsOf g.vregs g.width p)) (32 / Nat.max 1 g.cordCount)
  if !k.inService then 0
  else if g.lines = 0 then side 0 + side 1 else Nat.min (side 0 + side 1) (3072 / g.lines)

/-- The clusters of a partition (Table 18-11). -/
def clustersOf (s : State) (part : Nat) : List Nat :=
  let d := ((partOf s part).record.getD 0 0).toNat
  (List.range (bits d 63 48)).map (fun i => bits d 47 32 + i)

/-- The cores of some clusters. -/
def coresOf (cls : List Nat) : List Nat := cls.flatMap (fun c => (List.range 4).map (fun i => 4 * c + i))

/-- A cluster with an out-of-service core is degraded: no braid is placed on it (R389). -/
def degraded (s : State) (cluster : Nat) : Bool := (coresOf [cluster]).any (fun c => !(coreOf s c).inService)

/-- The cores that each braid of a grid can be placed on: of one block a core, of more a cluster's first cores
(R18). -/
def seats (s : State) (g : Grid) : List (List Nat) :=
  let cls := clustersOf s g.part
  if g.braidSize ≤ 1 then (coresOf cls).map (fun c => [c])
  else (cls.filter (fun c => !degraded s c)).map (fun c => (List.range g.braidSize).map (fun i => 4 * c + i))

/-! ### Acceptance (R41, R291) -/

/-- LAUNCH_FIELD (Table 15-3). -/
def fieldBad (g : Grid) : Bool :=
  g.field 639 599 != 0 || g.field 382 377 != 0 || g.field 254 249 != 0 || g.field 127 121 != 0 || g.field 63 57 != 0
    || g.field 191 176 != 0 || g.scope < 2 || 6 < g.scope || g.field 56 0 % 4 != 0 || g.compl % 8 != 0
    || (bit g.record 255 && g.field 248 192 % 8 != 0) || (bit g.record 383 && g.field 376 320 % 8 != 0)

/-- LAUNCH_SHAPE (Table 2-8). -/
def shapeBad (g : Grid) : Bool :=
  g.width == 0 || g.vregs == 0 || 256 < g.vregs || g.strandCount == 0
    || Nat.min 1024 (16 * g.width) < g.strandCount || g.blockCount == 0 || 2 ^ 31 ≤ g.nbx || 2 ^ 32 ≤ g.blockCount
    || g.braidSize == 0 || 4 < g.braidSize || g.blockCount % g.braidSize != 0

/-- LAUNCH_REGS (Table 2-8). -/
def regsBad (s : State) (g : Grid) : Bool :=
  (coresOf (clustersOf s g.part)).all (fun c =>
    !(coreOf s c).inService || [0, 1].all (fun i => !fitsBeside { g with record := g.record - g.lines * 2 ^ 576 }
      (coreOf s c) i 0 0 0))

/-- LAUNCH_BRAID (Table 2-8). A degraded cluster counts for no braid, whatever position its core that is out of service has
(log 98, DESIGN CHOICE: R41 does not say whether it counts for braids that do not use the position). -/
def braidBad (s : State) (g : Grid) : Bool :=
  2 ≤ g.braidSize && (seats s g).all (fun cs => !cs.all (fitsEmpty s g))

/-- GBAR_CAPACITY (Table 15-3). -/
def gbarBad (s : State) (g : Grid) : Bool :=
  g.isGbar && ((seats s g).map (fun cs => (cs.map (roomEmpty s g)).foldl Nat.min 65536)).sum * g.braidSize < g.blockCount

/-- The execution-model checks on a record (Table 2-8): 0, or the first code. -/
def modelCheck (s : State) (g : Grid) : Nat :=
  if shapeBad g then 0x0101 else if regsBad s g then 0x0102 else if 3072 < g.lines then 0x0103
  else if braidBad s g then 0x0104 else 0

/-- The checks at acceptance (Table 15-3, rows 2 to 4): 0, or the first code. -/
def acceptCheck (s : State) (g : Grid) : Nat :=
  if fieldBad g then 0x0105 else if modelCheck s g != 0 then modelCheck s g else if gbarBad s g then 0x0106 else 0

/-- A field test under way on a core that counts for the room of a `.gbar` grid is aborted (R388). -/
def abortTests (s : State) (g : Grid) : State :=
  if g.isGbar then
    (((seats s g).filter (fun cs => cs.all (fun c => 0 < roomEmpty s g c))).flatten).foldl
      (fun s c => modCore s c (fun k => { k with awl := false })) s
  else s

/-- A grid taken out of its queue. -/
def unqueue (s : State) (g : Nat) : State :=
  match gridOf s g with
  | some x => modQueue s x.part x.queue (fun l => l.filter (fun i => i != g))
  | none => s

/-! ### Completion words -/

/-- The device's own translation of an address of a context (log 23): the walk, with ACC and DIRTY set. -/
def deviceWalk (s : State) (part ctx va : Nat) (n : Need) : Option (Nat × State) :=
  let d := dieOf s (dieOfCore (firstCore s part))
  let slot := (tabGet d.slots (slotOn d part ctx)).getD {}
  if !slot.valid then none
  else
    match walk s.mem slot.root va n with
    | .page ea base _ pa e => some (pa + (va - base), { s with mem := markLeaf s.mem ea e n })
    | .fault _ => none

/-- A completion word written (R293): a step at its home (R310), or one write to its owner. It waits for its turn in
a replay (R311) and for a port in recovery (R379). In a hole or the management window there is no word to write, and the
write is dropped (log 105, DESIGN CHOICE: R293 names no outcome). -/
def writeWord (s : State) (pa x : Nat) : Option State :=
  match reachDevice s pa with
  | .home => if foreignHeld s (2 ^ 64) pa then none else some (foreignStep s pa 8 (leBytes 8 x))
  | .far => some (send s (.write pa (leBytes 8 x)))
  | .waits => none
  | _ => some s

/-- What is owed to a grid's completion word written, once its page is mapped. A record that is rejected because COMPL is
misaligned has its error form written there all the same (log 104, DESIGN CHOICE: R291 does not say where it goes). -/
def payOwed (s : State) (g : Nat) : State :=
  match gridOf s g with
  | none => s
  | some x =>
    match x.owed, deviceWalk s x.part x.ctx x.compl .write with
    | some v, some r =>
      (match writeWord r.2 r.1 v with
        | some t => modGrid t g (fun y => { y with owed := none })
        | none => s)
    | _, _ => s

/-- The error form of a grid's sequence value (R294). -/
def errorForm (x : Grid) (code : Nat) : Nat := 2 ^ 63 + code * 2 ^ 48 + x.seq % 2 ^ 48

/-- A grid has ended or failed. -/
def Grid.over (x : Grid) : Bool :=
  match x.stage with
  | .completed | .failed _ => true
  | _ => false

/-- A grid that ends without completing (R294): its completion word receives the error form, once. -/
def failGrid (s : State) (g code : Nat) : State :=
  match gridOf s g with
  | none => s
  | some x =>
    if x.over then s
    else payOwed (modGrid (unqueue s g) g (fun y => { y with
      stage := .failed code, owed := some (errorForm x code) })) g

/-- The head record of a queue. -/
def headOf (s : State) (part q : Nat) : Option Nat := (queueOf s part q).head?

/-- LAUNCH_RECORD_ACCEPT (R291): the record at the head of a queue is checked and accepted, or rejected. -/
def execLaunchRecordAccept (part q : Nat) (s : State) : Host.Outcome State Fault Refusal :=
  .next (match headOf s part q with
    | none => s
    | some g =>
      match gridOf s g with
      | none => s
      | some x =>
        if x.stage != .queued then s
        else
          let code := acceptCheck s x
          if code != 0 then failGrid s g code
          else
            let n := (ctxOf s x.part x.ctx).accepted + 1
            let ws := (recordWaits x.record).map (fun _ => false)
            let s := abortTests (modCtx s x.part x.ctx (fun c => { c with accepted := n })) x
            modGrid s g (fun y => { y with
              stage := if ws.isEmpty then .ready else .accepted, waits := ws, order := n }))

/-- The word that a wait of a record reads, with acquire meaning at system scope (R291). -/
def waitWord (s : State) (x : Grid) (va : Nat) : Option (Nat × State) :=
  match deviceWalk s x.part x.ctx va .read with
  | none => none
  | some r =>
    match reachDevice s r.1 with
    | .home =>
      let w := foreignRead r.1 8 r.2
      some (leNat w.1, w.2)
    | .far =>
      let w := takeFree r.2
      some (w.1.toNat, w.2)
    | _ => none

/-- LAUNCH_WAIT_SATISFIED (R291): wait k of an accepted record is looked at: it is satisfied, or an error form
rejects the record. -/
def execLaunchWaitSatisfied (g k : Nat) (s : State) : Host.Outcome State Fault Refusal :=
  .next (match gridOf s g with
    | none => s
    | some x =>
      match x.stage, (recordWaits x.record)[k]? with
      | .accepted, some (va, val) =>
        (match waitWord s x va with
          | none => s
          | some (w, t) =>
            if bit w 63 then failGrid t g 0x0107
            else if bits w 47 0 < bits val 47 0 then t
            else
              let ws := x.waits.set k true
              modGrid t g (fun y => { y with waits := ws, stage := if ws.all (fun b => b) then .ready else .accepted }))
      | _, _ => s)

/-! ### Placement (R22, R292, R295 to R298) -/

/-- The temperature of the hottest core of some seats. -/
def hottest (s : State) (cs : List Nat) : Int := cs.foldl (fun a c => if a < (coreOf s c).temp then (coreOf s c).temp else a) (-32768)

/-- A core of some seats is avoided (R295). -/
def anyAvoided (s : State) (cs : List Nat) : Bool := cs.any (fun c => (coreOf s c).avoided)

/-- The seats on which the next braid of a grid fits now. -/
def openSeats (s : State) (g : Grid) : List (List Nat) := (seats s g).filter (fun cs => cs.all (fun c => (sideFor s g c).isSome))

/-- The coolest of some seats, the lowest number at a tie (R296). -/
def coolest (s : State) : List (List Nat) → Option (List Nat)
  | [] => none
  | x :: xs =>
    match coolest s xs with
    | none => some x
    | some y => if hottest s y < hottest s x then some y else some x

/-- The seat that the distributor takes (R296, R297): an unavoided one; any, for a `.gbar` grid or after the
50 µs. -/
def chooseSeat (s : State) (g : Grid) (any : Bool) : Option (List Nat) :=
  coolest s (if any || g.isGbar then openSeats s g else (openSeats s g).filter (fun cs => !anyAvoided s cs))

/-- The registers that take the parameter words of a grid (R9): those of the code version at its entry. -/
def constRegs (s : State) (g : Grid) : List Nat :=
  match versionAt (ctxOf s g.part g.ctx) g.entry with
  | some (_, v) => ((v.consts.find? (fun e => e.1 == g.entry)).map Prod.snd).getD []
  | none => []

/-- The scalar registers of a placed cord (R9, R22). -/
def firstScalars (s : State) (g : Grid) : List Word :=
  ((constRegs s g).zipIdx).foldl (fun l e => l.set e.1 (BitVec.ofNat 32 (g.field (671 + 32 * e.2) (640 + 32 * e.2))))
    (List.replicate 64 0)

/-- A strand as it starts (R22). -/
def firstStrand (g : Grid) (c l : Nat) : Strand :=
  { present := c * g.width + l < g.strandCount, pc := BitVec.ofNat 64 g.entry, v := List.replicate g.vregs 0 }

/-- The lowest cord slots of a side that are free, n of them (R298); side B counts from 32. -/
def freeSlots (s : State) (core side n : Nat) : List Nat :=
  let used := (residents s core side).map (fun e => e.2.slot)
  (((List.range 32).map (fun i => 32 * side + i)).filter (fun i => !used.contains i)).take n

/-- The active slots of a side that are free, ascending (R298). -/
def freeActive (s : State) (core side : Nat) : List Nat :=
  let used := (residents s core side).filterMap (fun e => e.2.active)
  (List.range 8).filter (fun i => !used.contains i)

/-- A cord as it starts (R22, R35, R298). -/
def firstCord (s : State) (g : Grid) (core side c slot : Nat) (active : Option Nat) (since : Nat) : Cord :=
  { strands := (List.range g.width).map (firstStrand g c), s := firstScalars s g, k := List.replicate 12 0,
    f := List.replicate 12 0, slot := slot, passes := passesOf g.width (goodOf (coreOf s core) side),
    active := active, since := since, lastEnd := BitVec.ofNat 64 g.entry }

/-- A block placed on a core: its core's array is cleared (R167), its window and tags are fresh (R153, R155), its
strands take a device-scope acquire (Table 12-3), which %phase counts (R232). -/
def placeBlock (s : State) (gi : Nat) (g : Grid) (index braid pos core : Nat) : State :=
  match sideFor s g core with
  | none => s
  | some side =>
    let slots := freeSlots s core side g.cordCount
    let act := freeActive s core side
    let swaps := (coreOf s core).swaps
    let cords := (List.range g.cordCount).map (fun c => firstCord s g core side c (slots.getD c 0) act[c]? (swaps + c))
    let x : Block := {
      grid := gi, index := index, braid := braid, pos := pos, core := core, side := side, lines := g.lines,
      width := g.width, vregs := g.vregs, cords := cords, presence := List.replicate g.lines 0,
      tags := List.replicate g.lines {} }
    let s := { s with blocks := s.blocks ++ [x] }
    let s := modCore s core (fun k => { zeroTile k with awl := false, swaps := k.swaps + g.cordCount })
    let s := countPhase (dropClean s core) core
    modGrid s gi (fun y => { y with cores := if y.cores.contains core then y.cores else y.cores ++ [core] })

/-- A braid placed on its seats, all its blocks together (R18). -/
def placeBraid (s : State) (gi : Nat) (g : Grid) (braid : Nat) (cs : List Nat) : State :=
  let n := g.braidSize
  let s := (cs.zipIdx).foldl (fun s e =>
    placeBlock s gi g (braid * n + e.2) braid (if n = 1 then e.1 % 4 else e.2) e.1) s
  modGrid s gi (fun y =>
    let old := tabGet y.braids braid
    { y with braids := tabPut y.braids braid {
        relaunchable := g.relaunches, kills := (old.map (fun r => r.kills)).getD 0 } })

/-- The blocks of a context that hold a resident cord. -/
def residentCtx (s : State) (part ctx : Nat) : Bool :=
  s.blocks.any (fun x => x.cords.any (fun c => !c.ended)
    && (match gridOf s x.grid with
      | some g => g.part == part && g.ctx == ctx
      | none => false))

/-- Whether the distributor places blocks of a grid (R313): while its context drains, only of child grids. -/
def mayPlace (s : State) (g : Grid) (relaunch : Bool) : Bool :=
  match (ctxOf s g.part g.ctx).life with
  | .running => true
  | .draining => g.parent.isSome && !relaunch
  | _ => false

/-- A braid that waits for its relaunch (R349). -/
def pendingBraid (g : Grid) : Option Nat := (g.braids.find? (fun r => r.2.pending)).map Prod.fst

/-- The relaunch that the distributor is to place next for a grid: none while the context drains, when the grid's other
blocks go on being placed (R313). -/
def duePending (s : State) (g : Grid) : Option Nat := if mayPlace s g true then pendingBraid g else none

/-- A grid at the head of its queue that has blocks to place. -/
def placing (s : State) (gi : Nat) : Bool :=
  match gridOf s gi with
  | some g => (g.stage == .ready || g.stage == .placing) && headOf s g.part g.queue == some gi && mayPlace s g false
  | none => false

/-- The place of a queue in the turn of its priority (R292): those after the queue served last come first. -/
def turnOf (s : State) (g : Grid) : Nat :=
  (g.queue + 63 - (partOf s g.part).last.getD g.prio 63) % 64

/-- Every block of a `.gbar` grid placed, one braid after another (R297). -/
def placeAll (gi : Nat) : Nat → State → Option State
  | 0, s => some s
  | fuel + 1, s =>
    match gridOf s gi with
    | none => none
    | some g =>
      if g.blockCount ≤ g.next then some s
      else
        match chooseSeat s g true with
        | none => none
        | some cs => placeAll gi fuel (modGrid (placeBraid s gi g (g.next / g.braidSize) cs) gi (fun y =>
            { y with next := g.next + g.braidSize }))

/-- What the distributor would place next of a grid fits (R292): its next braid, or all of a `.gbar` grid (R297). -/
def nextFits (s : State) (gi : Nat) (g : Grid) (any : Bool) : Bool :=
  if g.isGbar then (placeAll gi g.blockCount s).isSome else (chooseSeat s g any).isSome

/-- No head record that the distributor offers capacity to first has a block that fits (R292). -/
def itsTurn (s : State) (gi : Nat) (g : Grid) (any : Bool) : Bool :=
  (List.range s.grids.length).all (fun j => match gridOf s j with
    | none => true
    | some y => j == gi || y.part != g.part || !placing s j
        || !(y.prio < g.prio || (y.prio == g.prio && turnOf s y < turnOf s g))
        || !nextFits s j y any)

/-- A grid whose last block has been placed leaves its queue (R291). -/
def leaveQueue (s : State) (gi : Nat) : State :=
  match gridOf s gi with
  | none => s
  | some g =>
    if g.next < g.blockCount then modGrid s gi (fun y => { y with stage := .placing })
    else unqueue (modGrid s gi (fun y => { y with stage := .running })) gi

/-- The queue that the distributor served last at a priority (R292). -/
def serveQueue (s : State) (g : Grid) : State :=
  modPart s g.part (fun p => { p with last :=
    ((List.range 4).map (fun i => p.last.getD i 63)).set g.prio g.queue })

/-- The next blocks of a grid placed, if they can be: a pending relaunch, which goes first (log 113, DESIGN CHOICE), or its
next braid. A killed braid of a grid that has ended is not placed again, one too whose grid, placed in part, the recheck of R41
has rejected: R25 and R349 would relaunch it, and R23 and R294 call the grid ended (log 115, DESIGN CHOICE). -/
def placeNext (s : State) (gi : Nat) (any : Bool) : State :=
  match gridOf s gi with
  | none => s
  | some g =>
    match duePending s g with
    | some i =>
      if g.over then s
      else
        (match chooseSeat s g any with
          | some cs => placeBraid s gi g i cs
          | none => s)
    | none =>
      if !placing s gi || !itsTurn s gi g any then s
      else if g.isGbar then
        (match placeAll gi g.blockCount s with
          | some t => leaveQueue (serveQueue t g) gi
          | none => s)
      else
        match chooseSeat s g any with
        | none => s
        | some cs => leaveQueue (modGrid (placeBraid (serveQueue s g) gi g (g.next / g.braidSize) cs) gi (fun y =>
            { y with next := g.next + g.braidSize })) gi

/-- BLOCK_PLACEMENT (R292, R296, R297). -/
def execBlockPlacement (g : Nat) (s : State) : Host.Outcome State Fault Refusal := .next (placeNext s g false)

/-- AVOIDED_PLACEMENT_TIMEOUT (R296): a block that has waited 50 µs takes the coolest avoided candidate. -/
def execAvoidedPlacementTimeout (g : Nat) (s : State) : Host.Outcome State Fault Refusal := .next (placeNext s g true)

/-! ### Retirement (R23, R304) -/

/-- Every grid that a block launched has ended. -/
def childrenOver (s : State) (b : Nat) : Bool :=
  s.grids.all (fun g => (g.parent.map Prod.fst) != some b || g.over)

/-- An engine or an array still works for a block (R160). -/
def engineBusy (s : State) (b : Nat) (x : Block) : Bool :=
  (coreOf s x.core).requests.any (fun r => r.block == b && !r.finished)
    || (coreOf s x.core).array.any (fun o => o.block == b)

/-- A braid's blocks, with their numbers. -/
def blocksOf (s : State) (x : BraidId) : List (Block × Nat) :=
  s.blocks.zipIdx.filter (fun e => (e.1.grid, e.1.braid) == x)

/-- A braid may retire: all its blocks have, no engine works for it, and where its operations are staged or
tentative every one has been performed (R304, R350). -/
def braidDone (s : State) (x : BraidId) : Bool :=
  match gridOf s x.1, braidRec s x with
  | some g, some r =>
    let bs := blocksOf s x
    let careful := ctxBit s g 3 || r.relaunchable || r.kept
    !r.retired && !r.pending && !r.toKill && bs.all (fun e => e.1.retired && !engineBusy s e.2 e.1)
      && (!careful || !braidStages s x)
  | _, _ => false

/-- The ticket passes to the braid of lowest index that has not retired (R302). -/
def passTicket (g : Grid) : Grid :=
  { g with ticket := ((List.range (g.braids.length + 1)).find? (fun i =>
      ((tabGet g.braids i).map (fun r => !r.retired)).getD true)).getD g.ticket }

/-- A braid retires (R23): its cells are freed (R350), and the ticket passes on. -/
def retireBraid (s : State) (x : BraidId) : State :=
  let s := (braidCells s x).foldl (fun s c => freeCell s c.dw (fun y => y.owner == x && y.region.isNone)) s
  modGrid (modBraid s x (fun r => { r with retired := true })) x.1 passTicket

/-- BLOCK_RETIRE (R23): a block whose cords and children have ended retires, and with the last its braid. -/
def execBlockRetire (b : Nat) (s : State) : Host.Outcome State Fault Refusal :=
  .next (match s.blocks[b]? with
    | none => s
    | some x =>
      let s := if x.cords.all (fun c => c.ended) && childrenOver s b then
          modBlock s b (fun y => { y with retired := true })
        else s
      if braidDone s (x.grid, x.braid) then retireBraid s (x.grid, x.braid) else s)

/-! ### The ticket unit (R302 to R305) -/

/-- The steps that a cord has staged, earliest first. -/
def stagedOps (c : Cord) : List Op := c.ops.filter (fun o => !o.released)

/-- The staged steps of a braid, each with its tag (R303): its count, its block's position, its cord. -/
def braidSteps (s : State) (x : BraidId) : List (Nat × Nat × Nat × Op) :=
  (blocksOf s x).flatMap (fun e => e.1.cords.zipIdx.flatMap (fun c =>
    (stagedOps c.1).map (fun o => (o.ret * 64 + e.1.pos * 16 + c.2, e.2, c.2, o))))

/-- A strand that is not ready in the sense of the ticket unit (R26, R124, R303): it waits for other strands, at a
WAITM or a barrier. -/
def Strand.waitsOthers (t : Strand) : Bool :=
  match t.park with
  | some (.waitm _) | some (.bar _) | some (.barb _ _ _) | some (.gbar _ _) => true
  | _ => false

/-- A cord does not hold back a step with count n (R303). -/
def stepPasses (c : Cord) (n : Nat) : Bool :=
  c.ended || n < c.retired.toNat
    || (c.strands.all (fun t => !t.live || t.waitsOthers) && (stagedOps c).all (fun o => n ≤ o.ret))

/-- Every other cord of a braid lets a step be released. -/
def othersPass (s : State) (x : BraidId) (b c n : Nat) : Bool :=
  (blocksOf s x).all (fun e => e.1.cords.zipIdx.all (fun y => (e.2 == b && y.2 == c) || stepPasses y.1 n))

/-- The last place that a released step has. -/
def lastOrder (s : State) : Nat := (allOps s).foldl (fun a e => Nat.max a e.2.2.order) 0

/-- Some bytes leave the snapshot of a core. -/
def dropBytes (s : State) (core : Nat) (pas : List Nat) : State :=
  modCore s core (fun k => { k with
    clean := k.clean.filter (fun e => !pas.contains e.1), cpoison := k.cpoison.filter (fun a => !pas.contains a) })

/-- The bytes that a braid released at braid scope written to their homes, now that it holds the ticket: what its cores
hold clean of them was read before (R248). -/
def flushStaged (s : State) (x : BraidId) : State :=
  match braidRec s x with
  | none => s
  | some r =>
    let s := ((blocksOf s x).map (fun e => e.1.core)).eraseDups.foldl (fun s c => dropBytes s c (r.staged.map Prod.fst)) s
    r.staged.foldl (fun s e => braidWrite s x e.1 e.2.2 false) (modBraid s x (fun r => { r with staged := [] }))

/-- The cores of a braid publish what their strands have stored (R304, R305). -/
def publishBraid (s : State) (x : BraidId) : State :=
  ((blocksOf s x).map (fun e => e.1.core)).foldl publishAll s

/-- A strand of a block waits for other strands of its braid, or for what a child grid is to bring about. -/
def awaitsChild (s : State) (x : Block) (t : Strand) : Bool :=
  match t.park with
  | some (.waitm _) | some (.bar _) | some (.barb _ _ _) | some .launchRoom => true
  | some (.waitch h _) => (waitchAnswer s x h).isNone
  | _ => false

/-- A braid stands still until a child grid goes on: no strand of it may move, and none of its steps is still to be
performed. -/
def braidIdle (s : State) (x : BraidId) : Bool :=
  (blocksOf s x).all (fun e => e.1.cords.all (fun c => c.strands.all (fun t => !t.live || awaitsChild s e.1 t)
    && c.ops.all (fun o => !(writesMemory o.kind && o.accs.any Acc.open_))))

/-- The steps of a child grid come where its parent braid stands still, one child after another, by the position of its
block and then in the order of their launches (R308, R309; log 110). `fuel` bounds the nesting. -/
def stepTurn : Nat → State → Nat → Bool
  | 0, _, _ => true
  | fuel + 1, s, g =>
    match (gridOf s g).bind Grid.parent with
    | none => true
    | some (b, _) =>
      match s.blocks[b]? with
      | none => true
      | some x =>
        braidIdle s (x.grid, x.braid) && stepTurn fuel s x.grid
          && (blocksOf s (x.grid, x.braid)).all (fun e => s.grids.zipIdx.all (fun y => y.1.over || y.2 == g
            || (y.1.parent.map Prod.fst) != some e.2 || x.pos < e.1.pos || (e.2 == b && g < y.2)))

/-- The next step of a braid in the order of tags is released, if it may be (R303). -/
def releaseStep (s : State) (x : BraidId) : State :=
  match (sortByKey (fun e => e.1) (braidSteps s x)).head? with
  | none => s
  | some (_, b, c, o) =>
    if othersPass s x b c o.ret && stepTurn 11 s x.1 then
      settleAll (modCord s b c (fun y => modOp y o.id (fun p =>
        { p with released := true, order := lastOrder s + 1 }))) b
    else s

/-- A braid of a grid had staged operations when its context was saved (R315). -/
def keptBraid (x : Grid) (i : Nat) : Bool := ((tabGet x.braids i).map Braid.kept).getD false

/-- STAGED_STEP_RELEASE (R302 to R305): the braid that holds the ticket, or that a GBAR release has reached,
performs what it has staged: its stores, then its steps in canonical tag order; nothing while the context is saved
(R315). -/
def execStagedStepRelease (g : Nat) (s : State) : Host.Outcome State Fault Refusal :=
  .next (match gridOf s g with
    | none => s
    | some x =>
      match holder s g x with
      | none => s
      | some i =>
        if !(ctxBit s x 3 || keptBraid x i) || ticketStands s x || !gridTurn 11 s g then s
        else
          releaseStep (publishBraid (flushStaged s (g, i)) (g, i)) (g, i))

/-! ### Completion (R293, R294) -/

/-- The scope of a grid's completion release: for a child at least device scope (R293). -/
def complScope (x : Grid) : Nat := if x.parent.isSome then Nat.max x.scope 5 else x.scope

/-- A grid's blocks have all been placed and its braids have all retired. -/
def gridDone (x : Grid) : Bool :=
  x.stage == .running && x.next == x.blockCount && x.braids.all (fun r => r.2.retired)

/-- The cores of a grid have performed everything they issued; what braids of other grids have staged does not count
(R302). -/
def coresQuiet (s : State) (g : Nat) (x : Grid) : Bool :=
  x.cores.all (fun c => coreQuiet s c (g, x.blockCount) (cutOf s c))

/-- The completion of a grid whose release is over (R293, R294). -/
def endGrid (s : State) (g : Nat) (x : Grid) : State :=
  if x.first = 0 then payOwed (modGrid s g (fun y => { y with stage := .completed, owed := some x.seq })) g
  else failGrid s g x.first

/-- GRID_COMPLETE (R293): the release at SCOPE is taken on every core that ran a block, and once it is complete SEQ
or the error form is written; a write that waits for its page is made. -/
def execGridComplete (g : Nat) (s : State) : Host.Outcome State Fault Refusal :=
  .next (match gridOf s g with
    | none => s
    | some x =>
      if x.over then payOwed s g
      else if !gridDone x then s
      else if wide (complScope x) then
        let s := x.cores.foldl publishAll s
        if coresQuiet s g x then endGrid s g x else s
      else endGrid s g x)

end Sys2Proof.Machine
end

