-- ==== Sys2Proof/Machine/Fetch.lean ====
section
/-! DEFINITION. Fetching an instruction (R43, R220, R351): the words at an address, through the translations of
the die. -/

namespace Sys2Proof.Machine
open Sys2Proof

/-- What a fetch gives: an address that has no translation yet, a poisoned line, or the words. -/
inductive Fetched where
  | miss (va : Nat)
  | poison
  | words (ws : List Word)
  deriving DecidableEq, Repr

/-- n words from an address on; poison anywhere in their code line is consumed with it (R351). -/
def fetchWords (s : State) (b core : Nat) : Nat → DWord → Fetched
  | 0, _ => .words []
  | n + 1, pc =>
    match translate s b core pc.toNat .fetch with
    | none => .miss pc.toNat
    | some pa =>
      if s.poison.any (fun a => a / 256 == pa / 256) then .poison
      else
        match fetchWords s b core n (pc + 4) with
        | .words ws => .words (codeWord s pa :: ws)
        | r => r

/-- The words of the instruction at an address: as many as its first word asks for; of a marked word, the word
after it too (R52, R59), wherever it stands: where a marked word off its 8-byte boundary is the last of its page, the page
after it is translated, and may fault, before ILLEGAL_PAIR is raised (log 119, DESIGN CHOICE: the spec gives no order). -/
def fetchAt (s : State) (b core : Nat) (pc : DWord) : Fetched :=
  match fetchWords s b core 1 pc with
  | .words (w :: _) =>
    let n := if lengthWords w == 1 && w.getLsbD 0 then 2 else lengthWords w
    fetchWords s b core n pc
  | r => r

/-- The instruction of some fetched words, if they are one. -/
def instrOf (ws : List Word) : Option Instr :=
  match decodeWords ws with
  | .ok (i, _) => some i
  | .error _ => none

/-- A fetch that has no translation asks for one (R220). -/
def askFetch (s : State) (b c core : Nat) (lanes : List Nat) (pc : DWord) (va : Nat) : State :=
  askWalk s core { src := .fetch b c va, pc := pc.toNat, smask := maskOf lanes }

end Sys2Proof.Machine
end

