-- ==== Sys2Proof/Machine/Groups.lean ====
section
/-! DEFINITION. The PC groups of a cord and its rounds (R26, R27), the scoreboard over an instruction (R61), and what
a cord stands before. -/

namespace Sys2Proof.Machine
open Sys2Proof

/-! ### Groups and rounds -/

/-- A strand that may issue (R26, R329): it has not ended and is not parked, and in the handler it has entered it. -/
def Cord.ready (c : Cord) (l : Nat) : Bool :=
  let t := c.lane l
  t.live && t.park.isNone && (!c.handler || t.entered)

/-- The ready strands of a cord, ascending. -/
def Cord.readyLanes (c : Cord) : List Nat := c.liveLanes.filter c.ready

/-- The lowest strand of a round that is unmarked and ready (R27). -/
def lowestUnmarked (c : Cord) : Option Nat :=
  (c.round.find? (fun e => !e.2 && c.ready e.1)).map Prod.fst

/-- The round in which the next issue falls (R27): the present one while it has an unmarked ready strand, else a new
one. Its set of strands is taken at that issue, so that those which have become ready since the last issue of the round
before belong to it (log 116, DESIGN CHOICE: R27 does not say when the set is taken). -/
def roundOf (c : Cord) : List (Nat × Bool) :=
  if (lowestUnmarked c).isSome then c.round else c.readyLanes.map (fun l => (l, false))

/-- The PC group of a strand (R26). -/
def groupAt (c : Cord) (l : Nat) : List Nat := c.readyLanes.filter (fun i => (c.lane i).pc == (c.lane l).pc)

/-- The strands that issue next: the group of the lowest unmarked strand (R27), or what the slow gear steps (R341). -/
def nextGroup (c : Cord) : List Nat :=
  match c.slow with
  | some z => z.step.filter c.ready
  | none =>
    match lowestUnmarked { c with round := roundOf c } with
    | some l => groupAt c l
    | none => []

/-! ### What a cord stands before -/

/-- The braid of a block is to be killed (R349). -/
def doomed (s : State) (b : Nat) : Bool := ((braidRec s (braidOf s b)).map Braid.toKill).getD false

/-- The registers that an instruction names, and its predicate. -/
def namesOf (W : Nat) (i : Instr) : List RegUse × Nat :=
  ((admits W i).regs, match i.shape with
    | .short _ f => f.pred.toNat
    | .long _ f => f.pred.toNat
    | _ => 0)

/-- The scoreboard of interlocked mode holds an instruction of some strands (R61). -/
def scoreboard (s : State) (u : Issue) (i : Instr) : Bool :=
  let n := namesOf u.blk.width i
  interlocked s u.b u.pc.toNat && scoreboardHolds u.cord u.lanes n.1 n.2

/-- The instruction at an address, where it is translated, sound and no pair. -/
def instrAt (s : State) (b core : Nat) (pc : DWord) : Option Instr :=
  match fetchAt s b core pc with
  | .words ws => instrOf ws
  | _ => none

/-- An operation that the ticket unit stages while its braid does not hold the ticket (R302). -/
def stagedKind (o : Op) : Bool := writesMemory o.kind && o.accs.any Acc.open_

/-- An instruction that stages what it does (R307). -/
def stagesEntries (i : Instr) : Bool :=
  match i with
  | .st _ | .atom _ | .cas _ | .red _ | .atomr _ | .tst _ | .retract _ | .tcommit _ => true
  | _ => false

end Sys2Proof.Machine
end

