-- ==== Sys2Proof/Machine/System.lean ====
section
/-! DEFINITION. Special registers (R21, R68, R129, R130), the trap and system instructions (R331 to R335), the
firmware forms (R353), and an opcode that is not assigned (R64). -/

namespace Sys2Proof.Machine
open Sys2Proof

/-! ### Special registers -/

/-- The block coordinates of a linear index (R19). -/
def blockX (g : Grid) (i : Nat) : Nat := i % g.nbx
/-- The y coordinate. -/
def blockY (g : Grid) (i : Nat) : Nat := i / g.nbx % g.nby
/-- The z coordinate. -/
def blockZ (g : Grid) (i : Nat) : Nat := i / g.nbx / g.nby

/-- %trapstat (Table 17-9). -/
def trapStat (c : Cord) : Nat :=
  (c.region.isSome).toNat + 2 * c.handler.toNat + 4 * c.lout.toNat + 2 ^ 8 * c.lcause.toNat
    + 2 ^ 19 * c.drop.toNat + 2 ^ 20 * c.queue.length + 2 ^ 24 * c.ncorr.toNat

/-- A special register other than %cycle as a strand reads it (Tables 2-2, 3-12, R21). -/
def sregVal (s : State) (u : Issue) (g : Grid) (r : SReg) (l : Nat) : Nat :=
  let core := coreOf s u.blk.core
  match r with
  | .lane => l
  | .strand => u.c * u.blk.width + l
  | .cord => u.c
  | .width => u.blk.width
  | .passes => u.cord.passes
  | .side => u.blk.side
  | .blkx => blockX g u.blk.index
  | .blky => blockY g u.blk.index
  | .blkz => blockZ g u.blk.index
  | .nblkx => g.nbx
  | .nblky => g.nby
  | .nblkz => g.nbz
  | .core => u.blk.core
  | .cluster => clusterOf u.blk.core
  | .depth => g.depth
  | .gooda => Config.goodLanes core.mapA
  | .goodb => Config.goodLanes core.mapB
  | .lmapa => core.mapA.toNat
  | .lmapb => core.mapB.toNat
  | .phase => core.phase.toNat
  | .det => (ctxBit s g 3).toNat
  | .cycle | .retired => u.cord.retired.toNat
  | .fpflags => u.cord.fpflags.toNat
  | .trapstat => trapStat u.cord
  | .trapctl => u.cord.trapctl.toNat

/-- %cycle read in free mode by one lane (R393): free, and never less than what the cord has read before; in
a replay the recorded value (R311). It is recorded (R310). -/
def cycleLane (s : State) (u : Issue) (g : Grid) (l : Nat) : Nat × State :=
  let src := sourceOf s u.b u.c l u.cord.retired.toNat
  let give (v : Nat) (s : State) : Nat × State :=
    (v, recordTimed s u.b { kind := 2, src := src, data := v })
  match timedRead s g.part g.ctx 2 src with
  | .value v i => (v, useEntry s g.part g.ctx i)
  | .diverge => (0, diverged s u.b u.pc.toNat)
  | .free =>
    let x := takeFree s
    let now := (((cordOf s u.b u.c).map Cord.cycle).getD 0) + (x.1 &&& 0xFFFFFFFFFFFF)
    give now.toNat (modCord x.2 u.b u.c (fun c => { c with cycle := now }))

/-- %cycle read by some lanes, ascending: the values and the state after. -/
def cycleLanes (u : Issue) (g : Grid) : List Nat → State → List (Nat × Nat) × State
  | [], s => ([], s)
  | l :: ls, s =>
    let r := cycleLane s u g l
    let rest := cycleLanes u g ls r.2
    ((l, r.1) :: rest.1, rest.2)

/-- MFS (R129): every special register of Table 3-12. -/
def execMfs (f : LForm) (s : State) :=
  issue (.mfs f) (fun u s =>
    match SReg.ofNum f.a.toNat, gridOf s u.blk.grid with
    | some r, some g =>
      let ls := targets u f
      let regs := if LForm.scalar f then [] else vregsOf (ls.flatMap (fun l => putD f f.ty.toNat l 0))
      .go regs [] (fun t =>
        if r == .cycle && !ctxBit s g 3 then
          let x := cycleLanes u g ls t
          modCord x.2 u.b u.c (writeRegs (x.1.flatMap (fun e => putD f f.ty.toNat e.1 e.2)))
        else
          modCord t u.b u.c (writeRegs (ls.flatMap (fun l => putD f f.ty.toNat l (sregVal s u g r l)))))
    | _, _ => .wait) s

/-- MTS (R130, R143, R327): %fpflags and %trapctl; their reserved bits stay 0. -/
def execMts (f : LForm) (s : State) :=
  issue (.mts f) (fun u _ =>
    let x := match f.lit with
      | some w => w
      | none => u.cord.scal f.a.toNat
    .go [] [] (fun t => modCord t u.b u.c (fun c =>
      match SReg.ofNum f.d.toNat with
      | some .fpflags => { c with fpflags := x.setWidth 5 }
      | some .trapctl => { c with trapctl := x &&& 0xFFFFF007 }
      | _ => c))) s

/-! ### Traps -/

/-- A trap whose strands resume at the next instruction (R332, Table 17-1): the issuing set stands there before the
record is delivered, the strands that do not take part with it (log entry 53). -/
def trapNext (s : State) (u : Issue) (cause : Cause) (lanes : List Nat) (detail : Nat) : Act :=
  .ask (fun _ => trapAt
    (modCord s u.b u.c (fun c => c.modLanes u.lanes (fun t => { t with pc := u.pc + BitVec.ofNat 64 u.len })))
    u cause lanes detail 0)

/-- TRAP (R332). -/
def execTrap (f : LForm) (s : State) :=
  issue (.trap f) (fun u s =>
    let lanes := participants u f
    if lanes.isEmpty then .go [] [] (fun t => t)
    else trapNext s u .trap lanes (match f.lit with
      | some w => w
      | none => u.cord.scal f.a.toNat).toNat) s

/-- BK of %trapctl (Table 17-3). -/
def Cord.bk (c : Cord) : Bool := c.trapctl.getLsbD 2
/-- HOFF of %trapctl. -/
def Cord.hoff (c : Cord) : Nat := bits c.trapctl.toNat 31 12

/-- Every special-function and conversion operation of a cord has written its result (R317). -/
def resultsIn (c : Cord) : Bool := c.ops.all (fun o => (opQueue o).isNone)

/-- BKPT (R332): it suspends a cord that a debugger holds, once its queued results are written (R317); or it traps; or
it is a NOP. -/
def execBkpt (f : LForm) (s : State) :=
  issue (.bkpt f) (fun u s =>
    let lanes := participants u f
    if u.cord.debugger && !resultsIn u.cord then .wait
    else if u.cord.debugger then .go [] [] (fun t => modCord t u.b u.c (fun c =>
        { c with suspend := if c.suspend.contains .debugger then c.suspend else c.suspend ++ [.debugger] }))
    else if u.cord.bk && u.cord.hoff != 0 && !lanes.isEmpty then trapNext s u .bkpt lanes 0
    else .go [] [] (fun t => t)) s

/-- The address after the instruction at an address, if its word is translated. -/
def nextAfter (s : State) (b core : Nat) (pc : DWord) : Option DWord :=
  (translate s b core pc.toNat .fetch).map (fun pa =>
    pc + BitVec.ofNat 64 (4 * lengthWords (codeWord s pa)))

/-- Where TRET.skip returns a strand (R333): past the instruction of a KIND 0 record that names the strand at
its saved PC. -/
def skipTo (r : TrapRec) (next : DWord) (l : Nat) (pc : DWord) : Option DWord :=
  if r.kind == 0 && r.smask.getLsbD l && pc == r.pc.setWidth 64 then some next else none

/-- Where the strands of a cord that entered the handler return to, `skip` before their saved PCs. -/
def tretTargets (c : Cord) (skip : Nat → DWord → Option DWord) : List (Nat × DWord) :=
  (c.liveLanes.filter (fun l => (c.lane l).entered)).map (fun l => (l, (skip l (c.lane l).tret).getD (c.lane l).tret))

/-- The strands that entered the handler return (R333); from interlocked into native code once the operations with
register destinations are complete (R62). -/
def tretGo (s : State) (u : Issue) (skip : Nat → DWord → Option DWord) : Act :=
  if nativeWait s u (tretTargets u.cord skip) then .wait
  else .go [] [] (fun t => modCord t u.b u.c (returnFromTrap skip))

/-- TRET and TRET.skip (R333). -/
def execTret (f : LForm) (s : State) :=
  issue (.tret f) (fun u s =>
    if !u.cord.handler then .trap .illegalOpcode u.lanes 0 0
    else
      match u.cord.queue with
      | r :: _ =>
        if f.mod == 1 && r.kind == 0 then
          (match nextAfter s u.b u.blk.core (r.pc.setWidth 64) with
            | some n => tretGo s u (skipTo r n)
            | none => .ask (fun t => askWalk t u.blk.core
                { src := .fetch u.b u.c r.pc.toNat, pc := u.pc.toNat, smask := maskOf u.lanes }))
        else tretGo s u (fun _ _ => none)
      | [] => tretGo s u (fun _ _ => none)) s

/-- The word k of a number. -/
def wordOf (x k : Nat) : Word := BitVec.ofNat 32 (x / 2 ^ (32 * k))

/-- TQPEEK (R334): the head record in twelve registers; zeros where the queue is empty. -/
def execTqpeek (f : LForm) (s : State) :=
  issue (.tqpeek f) (fun u _ =>
    let x := (u.cord.queue.head?.map TrapRec.bits).getD 0
    goRegs u ((List.range 12).map (fun k => .s (f.d.toNat + k) (wordOf x k)))) s

/-- The queue without the oldest record that is not under delivery, or without all of those (R334). -/
def dropRecs (c : Cord) (all : Bool) : List TrapRec :=
  let kept := if c.delivering then c.queue.take 1 else []
  let rest := if c.delivering then c.queue.drop 1 else c.queue
  kept ++ (if all then [] else rest.drop 1)

/-- The records that TQDROP removes. -/
def droppedRecs (c : Cord) (all : Bool) : List TrapRec :=
  let rest := if c.delivering then c.queue.drop 1 else c.queue
  if all then rest else rest.take 1

/-- TQDROP (R334). -/
def execTqdrop (f : LForm) (s : State) :=
  issue (.tqdrop f) (fun u _ =>
    .go [] [] (fun t => modCord t u.b u.c (fun c =>
      let q := dropRecs c (f.mod == 1)
      commit { c with queue := q, region := c.region.map (keepPopped c (droppedRecs c (f.mod == 1)) false) } [.s f.d.toNat (BitVec.ofNat 32 (c.queue.length - q.length))]))) s

/-- RGNEND (R335): it ends the region, as every such instruction does before it issues. -/
def execRgnend (f : LForm) (s : State) := issue (.rgnend f) (fun _ _ => .go [] [] (fun t => t)) s

/-- The status that CHKPT writes (Table 17-5). -/
def chkptVal (s : State) (b : Nat) (c : Cord) : Nat :=
  let me := braidOf s b
  let n (g : Option Region) (h : Region → Nat) : Nat := (g.map h).getD 0
  n c.region Region.count + 2 ^ 16 * n c.region (fun g => g.cells.length) + 2 ^ 31 * c.region.isSome.toNat
    + 2 ^ 32 * Nat.min 4096 (s.cells.filter (fun x => x.owner == me)).length
    + 2 ^ 63 * (relaunchable s me).toNat

/-- CHKPT (R335). -/
def execChkpt (f : LForm) (s : State) :=
  issue (.chkpt f) (fun u s => goRegs u (scalPair f.d.toNat (BitVec.ofNat 64 (chkptVal s u.b u.cord)))) s

/-! ### Firmware forms (R353) -/

/-- A firmware form that is injected into a suspended cord and that the table lists takes effect; another is
refused, and firmware sees it. In a cord it is an illegal opcode (R67). -/
def inject (i : Instr) (body : Issue → State → Act) (s : State) : Host.Outcome State Fault Refusal :=
  match issueOf s i.length with
  | none => .fault .noCord
  | some u =>
    if u.injected && ((decodeTrap (decodeCtx u) i).isSome || u.cord.suspend.isEmpty) then .next (send s .fwRefused)
    else if u.injected then
      match body u s with
      | .go _ _ k => .next (k s)
      | _ => .next (send s .fwRefused)
    else issue i body s

/-- The physical address in an even scalar pair. -/
def physA (u : Issue) (f : LForm) : Nat := regVal u.cord 0 true true f.a.toNat % 2 ^ 52

/-- Bytes written at a physical address by firmware. -/
def physWrite (s : State) (pa : Nat) (bs : List Byte) : State :=
  if placeOf pa == .homed then foreignWrite s pa bs else send s (.write pa bs)

/-- Bytes that firmware reads at a physical address: what homed memory holds. -/
def physRead (s : State) (pa n : Nat) : List Byte × State :=
  if placeOf pa == .homed then foreignRead pa n s else freeBytes n s

/-- The PC word of a lane in a cord image (Table 17-11). -/
def pcWord (t : Strand) : Nat :=
  t.pc.toNat % 2 ^ 57 + 2 ^ 63 * t.ended.toNat + 2 ^ 62 * t.park.isSome.toNat

/-- The queue of an image: eight records, unused slots 0. -/
def queueBytes (q : List TrapRec) : List Byte :=
  (List.range 8).flatMap (fun i => leBytes 48 ((q[i]?.map TrapRec.bits).getD 0))

/-- The identity bytes of a cord image: bytes 0 to 7 (Table 17-11). -/
def imageHead (x : Block) (c : Nat) (y : Cord) : List Byte :=
  leBytes 4 x.index ++ leBytes 1 c ++ leBytes 1 x.width ++ leBytes 1 (x.vregs / 8) ++ leBytes 1 y.passes

/-- The cord image (Table 17-11). -/
def cordImage (x : Block) (c : Nat) (y : Cord) : List Byte :=
  let lanes := List.range x.width
  imageHead x c y ++ leBytes 8 y.retired.toNat
    ++ (List.range 64).flatMap (fun r => leBytes 4 (y.scal r).toNat)
    ++ (List.range 12).flatMap (fun n => leBytes 8 (y.mask n).toNat)
    ++ (List.range 12).flatMap (fun n => leBytes 1 (y.f.getD n 0))
    ++ leBytes 4 y.fpflags.toNat
    ++ queueBytes y.queue
    ++ lanes.flatMap (fun l => leBytes 8 (pcWord (y.lane l)))
    ++ lanes.flatMap (fun l => leBytes 8 (y.lane l).tret.toNat)
    ++ lanes.flatMap (fun l => leBytes 1 ((y.lane l).p ||| 1).toNat)
    ++ (List.range x.vregs).flatMap (fun r => lanes.flatMap (fun l => leBytes 4 ((y.lane l).reg r).toNat))

/-- A number in an image. -/
def imgNat (img : List Byte) (off n : Nat) : Nat := leNat ((img.drop off).take n)

/-- A strand from a cord image: it is parked only where it is parked already. -/
def strandFrom (x : Block) (img : List Byte) (l : Nat) (t : Strand) : Strand :=
  let w := x.width
  let pcw := imgNat img (768 + 8 * l) 8
  { t with
    pc := BitVec.ofNat 64 (pcw % 2 ^ 57), ended := pcw.testBit 63,
    park := if pcw.testBit 62 then t.park else none,
    tret := BitVec.ofNat 64 (imgNat img (768 + 8 * w + 8 * l) 8),
    p := BitVec.ofNat 8 (imgNat img (768 + 16 * w + l) 1),
    v := (List.range x.vregs).map (fun r => BitVec.ofNat 32 (imgNat img (768 + 17 * w + 4 * (r * w + l)) 4)) }

/-- A cord whose masks hold no strand that has ended or is absent (R16, R17, R29). -/
def liveMasks (c : Cord) : Cord := { c with k := c.k.map (fun m => m &&& maskOf c.liveLanes) }

/-- A cord from its image (R353, Table 17-11). DESIGN CHOICE (log 97): the spec says only that the image replaces the
cord's state, so the model makes no release check for the masks and strands that it brings, and a cord whose strands the
image says have all ended is not ended by it. -/
def cordFrom (x : Block) (img : List Byte) (y : Cord) : Cord :=
  liveMasks { y with
    retired := BitVec.ofNat 64 (imgNat img 8 8),
    s := (List.range 64).map (fun r => BitVec.ofNat 32 (imgNat img (16 + 4 * r) 4)),
    k := (List.range 12).map (fun n => BitVec.ofNat 64 (imgNat img (272 + 8 * n) 8)),
    f := (List.range 12).map (fun n => imgNat img (368 + n) 1),
    fpflags := BitVec.ofNat 5 (imgNat img 380 4),
    queue := ((List.range 8).map (fun i => imgNat img (384 + 48 * i) 48)).filterMap (fun r =>
      if r = 0 then none else some (TrapRec.ofBits r)),
    strands := y.strands.mapIdx (fun l t => if t.present then strandFrom x img l t else t) }

/-- The length of a cord image. -/
def imageLen (x : Block) : Nat := 768 + 17 * x.width + 4 * x.vregs * x.width

/-- FWSAVE (R353): the cord image is written at the address; the cord is unchanged. -/
def execFwsave (f : LForm) (s : State) :=
  inject (.fwsave f) (fun u _ => .go [] [] (fun t => physWrite t (physA u f) (cordImage u.blk u.c u.cord))) s

/-- FWREST (R353): the cord's state is replaced with the image, whose header must match the cord. -/
def execFwrest (f : LForm) (s : State) :=
  inject (.fwrest f) (fun u s =>
    let r := physRead s (physA u f) (imageLen u.blk)
    if r.1.take 8 == imageHead u.blk u.c u.cord then
      .go [] [] (fun _ => modCord r.2 u.b u.c (cordFrom u.blk r.1))
    else .wait) s

/-- The bytes of an array that FWARR moves (log 18): 2,048 accumulators, their poison bits, the sticky bits. -/
def arrayBytes (k : CoreSt) : List Byte :=
  (List.range 2048).flatMap (fun i => leBytes 4 (k.acc.getD i 0).toNat)
    ++ (List.range 256).map (fun j => BitVec.ofNat 8 (((List.range 8).map (fun i =>
      if k.apoison.contains (8 * j + i) then 2 ^ i else 0)).sum))
    ++ leBytes 1 k.asticky.toNat

/-- An array from the bytes that FWARR reads. -/
def arrayFrom (img : List Byte) (k : CoreSt) : CoreSt :=
  { k with
    acc := (List.range 2048).map (fun i => BitVec.ofNat 32 (imgNat img (4 * i) 4)),
    apoison := (List.range 2048).filter (fun i => (imgNat img (8192 + i / 8) 1).testBit (i % 8)),
    asticky := BitVec.ofNat 4 (imgNat img 8448 1) }

/-- FWARR (R353): MOD 0 writes the array to the address, MOD 1 loads it from there. -/
def execFwarr (f : LForm) (s : State) :=
  inject (.fwarr f) (fun u _ => .go [] [] (fun t =>
    if f.mod == 0 then physWrite t (physA u f) (arrayBytes (coreOf t u.blk.core))
    else
      let r := physRead t (physA u f) 8449
      modCore r.2 u.blk.core (arrayFrom r.1))) s

/-- FWEND (R353): the injected sequence ends; the cord is in its suspended state. -/
def execFwend (f : LForm) (s : State) := inject (.fwend f) (fun _ _ => .go [] [] (fun t => t)) s

/-- UNASSIGNED_OPCODE (R45, R64, R67): a precise illegal opcode; injected, it is refused. -/
def execUnassignedOpcode (w : UWord) (s : State) : Host.Outcome State Fault Refusal :=
  inject (.unassignedOpcode w) (fun u _ => .trap .illegalOpcode u.lanes 0 0) s

end Sys2Proof.Machine
end

