-- ==== Sys2Proof/Machine/Traps.lean ====
section
/-! DEFINITION. Suspension and delivery (R317, R329, R330), regions, withdrawal and the slow gear (R336 to R345),
twin issue (R347), and braid containment (R348 to R350). -/

namespace Sys2Proof.Machine
open Sys2Proof

/-! ### Suspension and delivery -/

/-- A debugger holds the cord. -/
def Cord.held (c : Cord) : Bool := c.suspend.contains .debugger

/-- The region of a cord is to be withdrawn. -/
def Cord.withdrawing (c : Cord) : Bool := ((c.region.bind Region.cause).isSome) && c.slow.isNone

/-- The head record of a cord can be delivered (R329). -/
def mayDeliver (c : Cord) : Bool :=
  !c.ended && !c.queue.isEmpty && !c.delivering && !c.held && resultsIn c && !c.withdrawing

/-- A cord suspended for a reason that there is for it (R317); the debugger attaches and stays attached (log 46). -/
def suspendFor (why : SuspendWhy) (c : Cord) : Cord :=
  match why with
  | .debugger => { Cord.hold c .debugger with debugger := true }
  | .trap => if mayDeliver c then Cord.hold c .trap else c
  | .slowGear => if c.withdrawing then Cord.hold c .slowGear else c
  | .emulation => c

/-- A suspension of a cord is to wait until its queued results are written (R317). -/
def suspendWaits (s : State) (b c : Nat) : Bool := (cordOf s b c).any (fun x => !x.ended && !resultsIn x)

/-- CORD_SUSPEND (R317): it takes effect once the queued results are written, and waits for that where it comes. The
suspension for an emulation is part of its instruction (R152). -/
def execCordSuspend (b c : Nat) (why : SuspendWhy) (s : State) : Host.Outcome State Fault Refusal :=
  .next (if suspendWaits s b c then s else modCord s b c (fun x => if x.ended then x else suspendFor why x))

/-- The slow gear of a cord whose strands have been moved: none has stopped or waits. -/
def restartRound (z : SlowGear) : SlowGear := { z with stopped := [], waiting := [], step := [] }

/-- A handler in native code waits for the operations with register destinations that interlocked code has left
(R62). -/
def deliveryWaits (s : State) (b : Nat) (g : Grid) (c : Cord) : Bool :=
  c.ops.any opWrites && !interlocked s b (handlerEntry g.entry c.trapctl).toNat
    && c.liveLanes.any (fun l => (c.lane l).park.isNone && interlocked s b (c.lane l).pc.toNat)

/-- TRAP_DELIVERY (R329, R330): the head record goes to the handler, to the debugger, or is fatal; an informational
record without a handler is discarded. -/
def execTrapDelivery (b c : Nat) (s : State) : Host.Outcome State Fault Refusal :=
  .next (match cordOf s b c, gridOfBlock s b with
    | some x, some g =>
      if !mayDeliver x then s
      else
        match x.queue with
        | [] => s
        | r :: rest =>
          if Cord.hoff x != 0 then
            if deliveryWaits s b g x then s
            else modCord s b c (fun y => { deliver g.entry (Cord.unhold y .trap) with slow := y.slow.map restartRound })
          else if x.debugger then modCord s b c (fun y => { Cord.hold y .trap with given := true })
          else if informationalCode r.cause then
            modCord s b c (fun y => { Cord.unhold y .trap with queue := rest })
          else fatal s b 0x0201 r.cause.toNat r.pc.toNat
    | _, _ => s)

/-- What a debugger lets go of (R330): a record that it was given is removed, and the cord goes on in its round (R27). -/
def debuggerLeaves (c : Cord) : Cord :=
  { Cord.unhold (Cord.unhold c .trap) .debugger with queue := if c.given then c.queue.tail else c.queue, given := false }

/-- DEBUGGER_RELEASE (R317, R330). -/
def execDebuggerRelease (b c : Nat) (s : State) : Host.Outcome State Fault Refusal :=
  .next (modCord s b c (fun x => if x.debugger then debuggerLeaves x else x))

/-! ### Reports -/

/-- The PC of a cord's lowest-numbered strand that has not ended. -/
def lowestPc (c : Cord) : DWord := ((c.liveLanes.head?).map (fun l => (c.lane l).pc)).getD 0

/-- A record of a cause that was found after its instruction (Table 17-2). -/
def reportRec (r : Report) (kind reason : Nat) (pc : DWord) (ret : Nat) (endPc : DWord) : TrapRec :=
  { kind := BitVec.ofNat 2 kind, reason := BitVec.ofNat 2 reason, cause := BitVec.ofNat 8 r.cause.code,
    ret := BitVec.ofNat 32 ret, detail := BitVec.ofNat 32 r.detail, pc := pc.setWidth 57,
    endPc := endPc.setWidth 57, smask := maskOf r.lanes, addr := BitVec.ofNat 64 r.addr }

/-- An imprecise cause of the open region (R339, R344): at speed the first is kept for the withdrawal; in the slow
gear it has recurred, and the region closes with the record of its own step. -/
def regionCause (r : Report) (c : Cord) : Cord :=
  match c.region, c.slow with
  | some g, none =>
    { c with region := some { g with
        cause := some (g.cause.getD (reportRec r 1 0 g.entry g.ret 0)),
        hcause := if g.cause.isSome then g.hcause else r.handler } }
  | some g, some z =>
    { c with
      region := some { g with ending := some (.trap (reportRec r 0 0 r.pc r.ret 0)) },
      slow := some { z with closing := true, step := [] } }
  | none, _ => c

/-- IMPRECISE_FAULT_REPORT (R330, R339): report n of a cord. A cause of the open region withdraws it; another of a
handler's instruction is a double fault, and one of an uncovered stretch makes a KIND 2 record. -/
def execImpreciseFaultReport (b c n : Nat) (s : State) : Host.Outcome State Fault Refusal :=
  .next (match cordOf s b c with
    | none => s
    | some x =>
      match x.reports[n]? with
      | none => s
      | some r =>
        let t := modCord s b c (fun y => { y with reports := y.reports.eraseIdx n })
        if x.ended then t
        else if r.region && x.region.isSome then modCord t b c (regionCause r)
        else if r.handler then fatal t b 0x0201 r.cause.code r.pc.toNat
        else queueRec t b c (reportRec r 2 2 x.lastEnd x.lastRet (lowestPc x)))

/-- LATE_FAULT_RECORD (R164, R339): late cause n of a cord makes a KIND 3 record; once the cord has ended it goes into
the status of its grid. -/
def execLateFaultRecord (b c n : Nat) (s : State) : Host.Outcome State Fault Refusal :=
  .next (match cordOf s b c with
    | none => s
    | some x =>
      match x.lates[n]? with
      | none => s
      | some r =>
        let t := modCord s b c (fun y => { y with lates := y.lates.eraseIdx n })
        if x.ended then lateOfEnded t b r
        else if r.handler then fatal t b 0x0201 r.cause.code r.pc.toNat
        else queueRec t b c (reportRec r 3 0 r.pc r.ret 0))

/-! ### Ends of regions -/

/-- An operation that a region's end waits for (R337). -/
def imprecise : OpKind → Bool
  | .queued _ _ | .load _ | .loadC _ | .store _ _ | .cvtsc _ _ _ _ => true
  | _ => false

/-- A region has drained (R337), and no cause of it is on its way. `c` is the cord as its braid sees it: stores that
the ticket unit has staged do not hold the end up (R345). -/
def regionQuiet (c : Cord) : Bool :=
  c.ops.all (fun o => !o.region || !imprecise o.kind) && c.reports.all (fun r => !r.region)

/-- The cells of a cord's region. -/
def regionCells (s : State) (b c : Nat) : List Cell := s.cells.filter (fun x => x.region == some (b, c))

/-- One cell of a region that ends (R338): freed, into the cell below it where it is stacked; alone in a
relaunchable braid it becomes the braid's (log 44). -/
def closeCell (s : State) (b c : Nat) (x : Cell) : State :=
  let stacked := s.cells.any (fun y => y.dw == x.dw && y.owner == x.owner && y.region.isNone)
  if relaunchable s x.owner && !stacked then
    { s with cells := s.cells.map (fun y =>
        if y.dw == x.dw && y.region == some (b, c) then { y with region := none } else y) }
  else freeCell s x.dw (fun y => y.region == some (b, c))

/-- The cells of a cord's region freed with their values kept. -/
def closeCells (s : State) (b c : Nat) : State := (regionCells s b c).foldl (fun s x => closeCell s b c x) s

/-- The instruction that ends a region, and the retired count before it (Table 17-2). -/
def endPoint (c : Cord) (g : Region) : Ending → DWord × Nat
  | .instr pc => (pc, c.retired.toNat)
  | .limit | .uncovered => (g.lastPc, c.retired.toNat - 1)
  | .trap r => (r.pc.setWidth 64, r.ret.toNat)

/-- A cord is uncovered from here on, with the outcome of the region if it ran again (Table 17-9). -/
def uncover (pc : DWord) (ret : Nat) (out : Option (Nat × BitVec 8)) (c : Cord) : Cord :=
  { c with
    region := none, slow := none, lastEnd := pc, lastRet := ret,
    lout := (out.map (fun o => BitVec.ofNat 2 o.1)).getD c.lout, lcause := (out.map Prod.snd).getD c.lcause }

/-- The record that a region leaves in the queue when it ends (R337, Table 17-7). -/
def endRecord (c : Cord) (e : Ending) : Option TrapRec :=
  match e, c.slow with
  | .trap r, _ => some r
  | _, some z =>
    if c.trapctl.getLsbD 0 then
      some { z.held with kind := 1, reason := 0, cause := 0x38, detail := z.held.cause.setWidth 32 }
    else none
  | _, none => none

/-- How a re-run ended (Table 17-7): recurred or vanished, with the original cause. -/
def outcome (c : Cord) (e : Ending) : Option (Nat × BitVec 8) :=
  c.slow.map (fun z => ((match e with
    | .trap _ => 1
    | _ => 2), z.held.cause))

/-- The fault that ends a region is raised: its record is queued, or in the handler it is a double fault (R330). -/
def raiseEnd (s : State) (b c : Nat) (x : Cord) (e : Ending) (r : TrapRec) : State :=
  match e with
  | .trap _ =>
    if x.handler && r.cause != 0x30 && r.cause != 0x31 then fatal s b 0x0201 r.cause.toNat r.pc.toNat
    else queueRec s b c r
  | _ => queueRec s b c r

/-- Stores of a region that the ticket unit has staged are, once the region has ended, stores like any other (R345). -/
def keepRegionOps (c : Cord) : Cord := { c with ops := c.ops.map (fun o => { o with region := false }) }

/-- REGION_END (R337, R344): the ending event takes effect once the region has drained. -/
def execRegionEnd (b c : Nat) (s : State) : Host.Outcome State Fault Refusal :=
  .next (match cordOf s b c with
    | none => s
    | some x =>
      match x.region with
      | none => s
      | some g =>
        match g.ending with
        | none => s
        | some e =>
          if x.withdrawing || !regionQuiet (viewCord s b x) then s
          else
            let p := endPoint x g e
            let t := settle (modCord (closeCells s b c) b c (fun y => keepRegionOps (uncover p.1 p.2 (outcome x e) y))) b
            match endRecord x e with
            | some r => raiseEnd t b c x e r
            | none => t)

/-- The region's count has reached 256. -/
def Cord.atLimit (c : Cord) : Bool := ((c.region.map (fun g => 256 ≤ g.count && g.ending.isNone))).getD false

/-- REGION_COUNT_LIMIT (R336, R343): a region ends after its 256th instruction. -/
def execRegionCountLimit (b c : Nat) (s : State) : Host.Outcome State Fault Refusal :=
  .next (modCord s b c (fun x => if x.atLimit then
    { x with region := x.region.map (fun g => { g with ending := some .limit }) } else x))

/-! ### Withdrawal -/

/-- The operations of a cord without those of its region, whose flags fall (R340). -/
def dropRegionOps (c : Cord) : Cord :=
  let gone := c.ops.filter (fun o => o.region)
  gone.foldl (fun c o => flagDown c o.flag)
    { c with ops := c.ops.filter (fun o => !o.region), reports := c.reports.filter (fun r => !r.region) }

/-- Lane l as the shadow holds it (R340). -/
def restoreLane (g : Region) (l : Nat) (t : Strand) : Strand :=
  match g.lanes[l]? with
  | none => t
  | some h =>
    { t with
      pc := h.pc, clause := h.clause, park := h.park, p := h.p, tret := h.tret, tclause := h.tclause,
      entered := h.entered, refs := h.refs,
      v := g.vs.foldl (fun v e => v.set e.1 (e.2.getD l 0)) t.v }

/-- The lanes that were parked within the region: not as they were at its entry. -/
def parkedSince (g : Region) (c : Cord) : List Nat :=
  c.liveLanes.filter (fun l => (c.lane l).park.isSome && ((g.lanes[l]?).bind Shadow.park) != (c.lane l).park)

/-- A record put back into the queue: before every record whose RET is not smaller. -/
def putRecBack (r : TrapRec) (q : List TrapRec) : List TrapRec :=
  q.takeWhile (fun h => h.ret.toNat < r.ret.toNat) ++ r :: q.dropWhile (fun h => h.ret.toNat < r.ret.toNat)

/-- The queue with the records that a region's instructions removed back in their places (R326, R345), the one that was
under delivery at its entry at the head (R329). -/
def requeue (g : Region) (q : List TrapRec) : List TrapRec :=
  let rest := (g.popped.filter (fun e => !e.2)).map Prod.fst
  match (g.popped.filter Prod.snd).map Prod.fst with
  | r :: _ => r :: rest.foldr putRecBack q
  | [] => if g.handler then q.take 1 ++ rest.foldr putRecBack (q.drop 1) else rest.foldr putRecBack q

/-- The cord as the shadow restores it (R340, R343). -/
def restoreCord (g : Region) (c : Cord) : Cord :=
  let c := passTags c (parkedSince g c)
  { c with
    strands := c.strands.mapIdx (restoreLane g), s := g.s, k := g.k, fpflags := g.fp, handler := g.handler, queue := requeue g c.queue,
    retired := BitVec.ofNat 64 g.ret }

/-- The region as it is entered again in the slow gear, from a cord that has been restored. -/
def reenter (g : Region) : Region :=
  { g with count := 0, lastPc := g.entry, cells := [], vs := [], ending := none, uncov := false, told := false, cause := none, hcause := false, popped := [] }

/-- The region cannot be withdrawn (R338, R340): its REASON. -/
def unrecoverable (s : State) (b c : Nat) (g : Region) : Option Nat :=
  if g.uncov then some 3 else if (regionCells s b c).any (fun x => x.observed) then some 1 else none

/-- A region that cannot be withdrawn (R340): its effects stand, and a KIND 2 record is queued; of a handler's
instruction it is a double fault (R330). -/
def abandon (s : State) (b c : Nat) (x : Cord) (g : Region) (r : TrapRec) (reason : Nat) : State :=
  let s := modCord (closeCells s b c) b c (fun y =>
    uncover g.lastPc (y.retired.toNat - 1) (some (3, r.cause)) (Cord.unhold (dropRegionOps y) .slowGear))
  if g.hcause then fatal s b 0x0201 r.cause.toNat r.pc.toNat
  else queueRec s b c { r with kind := 2, reason := BitVec.ofNat 2 reason, endPc := (lowestPc x).setWidth 57 }

/-- A region withdrawn (R340): cells retracted, registers restored, the acquire of slow-gear entry taken, which every
strand's later accesses follow (R233). Records that come back to a queue which others have filled meanwhile are an
overflow (R326; log 45). -/
def withdraw (s : State) (b c core : Nat) (g : Region) (r : TrapRec) : State :=
  let s := (regionCells s b c).foldl (fun s x => retractCell s x.dw (fun y => y.region == some (b, c))) s
  let s := modCord s b c (fun y =>
    let y := boundary y.liveLanes (restoreCord g (Cord.unhold (dropRegionOps y) .slowGear))
    { y with region := some (reenter g), slow := some { held := r } })
  let s := coreBoundary (countPhase (dropClean s core) core) core
  if (cordOf s b c).any (fun y => 8 < y.queue.length) then killBraid s b else s

/-- The stores of a region have all been performed, rejected or staged (R340, R345), and so has what its strands issued before it:
the acquire of slow-gear entry follows that (R233, R247). -/
def storesIn (c : Cord) : Bool :=
  c.ops.all (fun o => if o.region then !writesMemory o.kind || !o.accs.any Acc.open_ else eventless o.kind || !o.accs.any Acc.open_)

/-- REGION_WITHDRAWAL (R340): once the cord is suspended and its stores are performed. Sealing and retracting are
one step of the cells' arbiters (R345). -/
def execRegionWithdrawal (b c : Nat) (s : State) : Host.Outcome State Fault Refusal :=
  .next (match s.blocks[b]?, cordOf s b c with
    | some blk, some x =>
      match x.region with
      | none => s
      | some g =>
        match g.cause with
        | none => s
        | some r =>
          if x.slow.isSome || !resultsIn x || !storesIn (viewCord s b x) || doomed s b then s
          else
            match unrecoverable s b c g with
            | some reason => abandon s b c x g r reason
            | none => withdraw s b c blk.core g r
    | _, _ => s)

/-! ### The slow gear -/

/-- What a strand's next instruction is to the slow gear (R341, R342). -/
inductive Next where
  | miss (va : Nat)
  | stop
  | wait
  | go
  deriving DecidableEq, Repr

/-- An instruction at which a strand stops, waits for the others, or which it steps. -/
def nextKind (i : Instr) : Next :=
  match i with
  | .clauseHeader h => if h.rgn then .stop else .go
  | _ => if endsRegion i then .stop else if waitsInSlowGear i then .wait else .go

/-- The next instruction of a strand. -/
def nextOf (s : State) (b core : Nat) (t : Strand) : Next :=
  match fetchAt s b core t.pc with
  | .miss va => .miss va
  | .poison => .go
  | .words ws =>
    match instrOf ws with
    | some i => nextKind i
    | none => .go

/-- The strands that step: those that have not ended and are not parked (R341), and in the handler have entered it: a
strand released meanwhile is ready only after TRET (R329). -/
def stepping (c : Cord) : List Nat := c.readyLanes

/-- The waiting strands that stand at the lowest PC among them (R342). -/
def lowestWaiting (c : Cord) (z : SlowGear) : List Nat :=
  let pcs := z.waiting.map (fun l => (c.lane l).pc.toNat)
  let low := pcs.foldl Nat.min (pcs.headD 0)
  z.waiting.filter (fun l => (c.lane l).pc.toNat == low)

/-- The end of a round (R341, R342): a new one begins; or, where no strand stepped, the waiting instruction of
lowest PC executes once, and then a new one begins; or every stepping strand has stopped and the region ends. -/
def endRound (c : Cord) (z : SlowGear) : Cord :=
  if !z.served.isEmpty then { c with slow := some { z with served := [], waiting := [], counted := [] } }
  else if !z.waiting.isEmpty then
    { c with slow := some { z with
        step := lowestWaiting c z, waiting := [], counted := [], served := List.range 64 } }
  else
    match (stepping c).head? with
    | some l => { c with region := c.region.map (fun g => { g with ending := some (.instr (c.lane l).pc) }) }
    | none => c

/-- The next strand of the round looked at: it steps, waits, stops, or its fetch is asked for. -/
def lookAt (s : State) (b c core l : Nat) (x : Cord) (z : SlowGear) : State :=
  let put (z : SlowGear) : State := modCord s b c (fun y => { y with slow := some z })
  match nextOf s b core (x.lane l) with
  | .miss va => askFetch s b c core [l] (x.lane l).pc va
  | .stop => put { z with stopped := z.stopped ++ [l] }
  | .wait => put { z with waiting := z.waiting ++ [l] }
  | .go => put { z with step := [l] }

/-- A strand waits at a phase or fence, or for a barrier object, that it has stepped to in the slow gear: the step is not
complete (R341). -/
def stepParked (g : Region) (c : Cord) : Bool :=
  (parkedSince g c).any (fun l => match (c.lane l).park with
    | some (.hold _ _) | some (.bowait _) | some (.op _) => true
    | _ => false)

/-- An operation of a step is complete (R341): of those that are still outstanding only a store may be, which the ticket
unit has staged; whatever has a result to write is complete once it is written, and its faults reported (R80). -/
def stepDone (o : Op) : Bool := plainStore o.kind && !o.accs.isEmpty && !o.accs.any Acc.open_

/-- The slow gear can choose its next step: the last one is complete, and a strand steps. `c` is the cord as its braid
sees it. -/
def slowReady (c : Cord) : Bool :=
  match c.slow, c.region with
  | some z, some g =>
    z.step.isEmpty && !z.closing && g.ending.isNone && g.count < 256 && (!g.uncov || g.told) && c.suspend.isEmpty
      && !c.ended && !stepParked g c && !(stepping c).isEmpty && c.ops.all (fun o => !o.region || stepDone o)
      && c.reports.all (fun r => !r.region)
  | _, _ => false

/-- SLOW_GEAR_STEP (R341, R342): the strand, or the waiting set, that steps next is chosen; it then issues its
instruction alone. -/
def execSlowGearStep (b c : Nat) (s : State) : Host.Outcome State Fault Refusal :=
  .next (match s.blocks[b]?, cordOf s b c with
    | some blk, some x =>
      match x.slow with
      | none => s
      | some z =>
        if !slowReady (viewCord s b x) || fetchHeld s b c blk.core then s
        else
          match (stepping x).find? (fun l => !z.served.contains l && !z.stopped.contains l && !z.waiting.contains l) with
          | some l => lookAt s b c blk.core l x z
          | none => modCord s b c (fun y => endRound y z)
    | _, _ => s)

/-! ### Twin issue -/

/-- The CORRECTED record of a cord (R347): its strands are not stated (log 47). -/
def correctedRec (c : Cord) (side lane : Nat) (smask : Mask) : TrapRec :=
  { kind := 1, cause := 0x39, ret := BitVec.ofNat 32 ((c.region.map Region.ret).getD c.lastRet),
    detail := BitVec.ofNat 32 (lane % 64 + side % 2 * 256), pc := ((c.region.map Region.entry).getD c.lastEnd).setWidth 57,
    smask := smask }

/-- A corrected event of a cord (R347). -/
def corrected (s : State) (b c side lane : Nat) (x : Cord) : State :=
  let s := modCord s b c (fun y => { y with ncorr := if y.ncorr == 255 then 255 else y.ncorr + 1 })
  if x.trapctl.getLsbD 1 then
    let m := takeFree s
    queueRec m.2 b c (correctedRec x side lane m.1)
  else s

/-- The good physical lanes of a side of a core, ascending (R33, R36). -/
def goodList (k : CoreSt) (side : Nat) : List Nat :=
  let m := if side = 0 then k.mapA else k.mapB
  (List.range 36).filter (fun i => m.getLsbD i)

/-- The physical lane on which logical lane l runs (R36), moved on by some good lanes (R347). -/
def physLane (k : CoreSt) (side l rot : Nat) : Option Nat :=
  let good := goodList k side
  good[(l % good.length + rot) % good.length]?

/-- A physical lane on which a strand of a cord that may issue runs in the first or in the second issue of a pass (R36,
R347): a lane that only absent, ended or parked strands have forms no result. -/
def twinLane (s : State) (x : Block) (c : Cord) (side lane : Nat) : Bool :=
  side == x.side && c.readyLanes.any (fun l =>
    physLane (coreOf s x.core) side l 0 == some lane || physLane (coreOf s x.core) side l 1 == some lane)

/-- TWIN_MISMATCH (R347, R348): in Checked mode two of three issues agree, or the braid is contained. The lane is one on
which the cord's passes run. -/
def execTwinMismatch (b c side lane : Nat) (resolved : Bool) (s : State) : Host.Outcome State Fault Refusal :=
  .next (match s.blocks[b]?, cordOf s b c, gridOfBlock s b with
    | some k, some x, some g =>
      if !ctxBit s g 0 || x.ended || !twinLane s k x side lane then s
      else if resolved then corrected s b c side lane x
      else killBraid s b
    | _, _, _ => s)

/-! ### Braid containment -/

/-- A cord killed (R349). -/
def killCord (c : Cord) : Cord :=
  { c with
    strands := c.strands.map (fun t => { t with ended := true, park := none, refs := [] }),
    k := c.k.map (fun _ => 0), queue := [], ops := [], reports := [], lates := [], region := none, slow := none,
    suspend := [], round := [], given := false, killed := true, ended := true }

/-- Whether a walk is made for one of some blocks. -/
def walkFor (s : State) (p : Nat → Bool) (w : WalkSrc) : Bool := ((srcBlock s w).map p).getD false

/-- The fault entries and walks of some blocks dropped (R219). -/
def dropFaults (s : State) (p : Nat → Bool) : State :=
  { s with dies := s.dies.map (fun e =>
      let gone := (e.2.faults.filter (fun f => walkFor s p f.2.src)).map Prod.fst
      (e.1, { e.2 with
        faults := e.2.faults.filter (fun f => !gone.contains f.1),
        walks := e.2.walks.filter (fun w => !walkFor s p w.src) ++ e.2.waiting.filter (fun w => !walkFor s p w.src),
        waiting := [] })) }

/-- The credits that a cord's commands hold that have not left. -/
def heldCredits (c : Cord) : Nat :=
  (c.ops.map (fun o => match o.kind with
    | .atomr _ => (o.accs.filter Acc.open_).length
    | _ => 0)).sum

/-- A core without what the ticket unit has staged of a relaunchable braid's block, or is still on its way (R349). -/
def withoutStores (b : Nat) (k : CoreSt) : CoreSt :=
  { k with dirty := k.dirty.filter (fun e => e.2.block != b), outbound := k.outbound.filter (fun o => o.block != b) }

/-- A core without the replies, requests and array operations of a block (R160, R228). -/
def coreWithout (b credits : Nat) (k : CoreSt) : CoreSt :=
  { k with
    cq := k.cq.filter (fun r => r.block != b),
    credits := k.credits + (k.cq.filter (fun r => r.block == b)).length + credits,
    requests := k.requests.filter (fun r => r.block != b),
    array := k.array.filter (fun o => o.block != b) }

/-- A block killed: its cords, and what they have outstanding; its window is freed. The engine writes that have not been made
are dropped, so that an element of a gather or scatter has landed whole or not at all, where R160 lets each of its bytes be
the former or the new one (log 114, DESIGN CHOICE). -/
def killBlock (s : State) (b : Nat) : State :=
  match s.blocks[b]? with
  | none => s
  | some x =>
    let s := modCore s x.core (coreWithout b ((x.cords.map heldCredits).sum))
    modBlock s b (fun y => { y with
      cords := y.cords.map killCord, lines := 0, window := [], wpoison := [], presence := [], tags := [],
      handles := [], retired := true })

/-- The withdrawn steps of a braid recorded (Table 15-7, KIND 7). -/
def recordWithdrawn (s : State) (g : Grid) (r : Braid) : State :=
  r.steps.foldl (fun s e => record s g.part g.ctx
    { kind := 7, src := { core := e.1, slot := e.2.1, lane := e.2.2.1, count := e.2.2.2.1 }, data := e.2.2.2.2 }) s

/-- The observer of a killed braid's cell (R349): a live, relaunchable braid of the context is killed too; any other
makes the context's end. -/
def killObserver (g : Grid) (s : State) (y : BraidId) : State :=
  match gridOf s y.1, braidRec s y with
  | some h, some r =>
    if h.part == g.part && h.ctx == g.ctx && r.relaunchable && !r.retired then
      modBraid s y (fun r => { r with toKill := true })
    else fatalOf s g 0x0201 0 0
  | _, _ => fatalOf s g 0x0201 0 0

/-- The record of a braid after its kill: it waits for its relaunch. -/
def Braid.afterKill (r : Braid) (again : Bool) : Braid :=
  { r with toKill := false, staged := [], steps := [], pending := again, kills := r.kills + 1 }

/-- The stores of the blocks of a relaunchable braid that are not at their homes are dropped (R349). -/
def dropStores (s : State) (bs : List Nat) : State :=
  bs.foldl (fun s b => match s.blocks[b]? with
    | some x => modCore s x.core (withoutStores b)
    | none => s) s

/-- A braid killed (R349). -/
def killNow (s : State) (x : BraidId) (g : Grid) (r : Braid) : State :=
  let bs := (blocksOf s x).map Prod.snd
  let cs := s.cells.filter (fun c => c.owner == x)
  let again := r.relaunchable && r.kills < 3
  let s := bs.foldl killBlock (dropFaults (if r.relaunchable then dropStores s bs else s) bs.contains)
  let s := cs.foldl (fun s c => retractCell s c.dw (fun y => y.owner == x)) s
  let s := modBraid (recordWithdrawn s g r) x (fun r => r.afterKill again)
  let s := if again then s else fatalOf s g 0x0201 0 0
  let s := ((cs.flatMap (fun c => c.seen)).eraseDups.filter (fun y => y != x)).foldl (killObserver g) s
  if cs.any (fun c => c.foreign) then fatalOf s g 0x0201 0 0 else s

/-- BRAID_KILL (R348, R349). -/
def execBraidKill (g braid : Nat) (s : State) : Host.Outcome State Fault Refusal :=
  .next (match gridOf s g, braidRec s (g, braid) with
    | some x, some r =>
      if !r.toKill then s
      else if r.retired || r.pending then modBraid s (g, braid) (fun r => { r with toKill := false })
      else killNow s (g, braid) x r
    | _, _ => s)

end Sys2Proof.Machine
end

