-- ==== Sys2Proof/Machine/Contexts.lean ====
section
/-! DEFINITION. The life of a context: its control words (R288), creation and destruction (R356, R314), pre-emption,
save and restore (R313, R315), the forced reset (R314), the hang watchdog (R318 to R320), replay divergence (R312)
and the fatal-error dump (R354). -/

namespace Sys2Proof.Machine
open Sys2Proof

/-! ### The event log (R371) -/

/-- The time in nanoseconds since start-up: it goes on by a free amount (log 9). -/
def tick (s : State) : Nat × State :=
  let x := takeFree s
  let t := s.mgmt.time + x.1.toNat % 2 ^ 48
  (t, { x.2 with mgmt := { x.2.mgmt with time := t } })

/-- The log with one event more: it holds 4,096, and the oldest makes room. -/
def Mgmt.push (m : Mgmt) (e : Event) : Mgmt :=
  if m.events.length < 4096 then { m with events := m.events ++ [e] }
  else { m with events := m.events.drop 1 ++ [e], dropped := m.dropped + 1 }

/-- An event logged; `detail` is bytes 16 to 31 as a number. -/
def logEvent (s : State) (kind subject detail : Nat) : State :=
  let t := tick s
  { t.2 with mgmt := t.2.mgmt.push { kind := kind, subject := subject, detail := detail, time := t.1 } }

/-! ### Parts of a context -/

/-- A grid belongs to a context. -/
def Grid.within (g : Grid) (part ctx : Nat) : Bool := g.part == part && g.ctx == ctx

/-- A block belongs to a context. -/
def blockWithin (s : State) (part ctx b : Nat) : Bool :=
  ((gridOfBlock s b).map (fun g => g.within part ctx)).getD false

/-- The blocks of a context. -/
def ctxBlocks (s : State) (part ctx : Nat) : List Nat :=
  (List.range s.blocks.length).filter (blockWithin s part ctx)

/-- The grids of a context. -/
def ctxGrids (s : State) (part ctx : Nat) : List Nat :=
  (List.range s.grids.length).filter (fun g => ((gridOf s g).map (fun x => x.within part ctx)).getD false)

/-- The dies that hold a cluster of a partition (R356). -/
def diesOf (s : State) (part : Nat) : List Nat := ((clustersOf s part).map (fun c => c / 40)).eraseDups

/-- A context takes a fatal error: the first one is kept (R354). -/
def fatalCtx (s : State) (part ctx status : Nat) : State :=
  modCtx s part ctx (fun x => match x.fatal with
    | some _ => x
    | none => { x with fatal := some (status, 0, 0) })

/-! ### Control words (R288) -/

/-- A value outside its range or a reserved bit of the control words (Table 15-1). -/
def controlBad (x : BitVec 128) : Bool :=
  let v := x.toNat
  let hang := bits v 63 48
  let dl := bits v 47 32
  bits v 75 64 != 0 || bits v 31 6 != 0 || bit v 1 || bits v 5 4 == 3 || (bits v 5 4 != 0 && bits v 127 116 == 0)
    || (hang != 0 && (hang < 10 || 60000 < hang)) || 10000 < dl

/-- The control words of two doublewords. -/
def controlWords (d0 d1 : DWord) : BitVec 128 := d1 ++ d0

/-- CONTROL_WORDS_WRITE (R288): only while the context is saved; a refused write leaves the former words. -/
def execControlWordsWrite (part ctx : Nat) (d0 d1 : DWord) (s : State) : Host.Outcome State Fault Refusal :=
  .next (modCtx s part ctx (fun x =>
    if x.life == .saved && !controlBad (controlWords d0 d1) then { x with control := controlWords d0 d1 } else x))

/-! ### Creation and destruction -/

/-- The lowest free context slot of a die (R356). -/
def freeSlot (d : Die) : Option Nat := (List.range 128).find? (fun k => (tabGet d.slots k).isNone)

/-- A context has a slot on a die, or one is free. -/
def slotRoom (s : State) (part ctx die : Nat) : Bool :=
  let d := dieOf s die
  slotOn d part ctx != 128 || (freeSlot d).isSome

/-- The translations of a slot dropped. -/
def dropSlotTlb (d : Die) (k : Nat) : Die := { d with tlb := d.tlb.filter (fun e => e.slot != k) }

/-- A context's slot on a die: its own, or a free one, not yet valid. -/
def takeSlot (part ctx : Nat) (d : Die) : Die :=
  let k := slotOn d part ctx
  if k != 128 then { dropSlotTlb d k with slots := tabPut d.slots k { part := part, ctx := ctx } }
  else
    match freeSlot d with
    | some k => { dropSlotTlb d k with slots := tabPut d.slots k { part := part, ctx := ctx } }
    | none => d

/-- The steps of a former context of the same number are no longer told from others (R310). -/
def forgetSteps (s : State) (part ctx : Nat) : State :=
  { s with last := s.last.map (fun e => (e.1, e.2.filter (fun p => p.foreign || p.part != part || p.ctx != ctx))) }

/-- CONTEXT_CREATION (R356, R145, R314): a context that is absent or reset is made anew where every die of its
partition has a slot for it. -/
def execContextCreation (part ctx : Nat) (d0 d1 : DWord) (intlk : Bool) (s : State) :
    Host.Outcome State Fault Refusal :=
  let life := (ctxOf s part ctx).life
  .next (if part < 8 && ctx < 64 && (life == .absent || life == .reset) && (diesOf s part).all (slotRoom s part ctx) then
    let w := controlWords d0 d1
    let s := (diesOf s part).foldl (fun s d => modDie s d (takeSlot part ctx)) s
    let s := forgetSteps s part ctx
    modCtx s part ctx (fun _ => {
      life := .running, control := if controlBad w then 0 else w, intlk := intlk, born := s.grids.length })
  else s)

/-- A context has a block that has not retired. -/
def hasBlocks (s : State) (part ctx : Nat) : Bool :=
  s.blocks.any (fun x => !x.retired && ((gridOf s x.grid).map (fun g => g.within part ctx)).getD false)

/-- A context has a grid that has not ended. -/
def hasGrids (s : State) (part ctx : Nat) : Bool := s.grids.any (fun g => g.within part ctx && !g.over)

/-- The slots of a context freed. -/
def releaseSlots (s : State) (part ctx : Nat) : State :=
  { s with dies := s.dies.map (fun e =>
      let k := slotOn e.2 part ctx
      (e.1, { dropSlotTlb e.2 k with slots := tabDel e.2.slots k })) }

/-- CONTEXT_DESTRUCTION (R314, R356): of a reset context, or one with nothing unfinished (log 48). -/
def execContextDestruction (part ctx : Nat) (s : State) : Host.Outcome State Fault Refusal :=
  .next (if (ctxOf s part ctx).life == .reset || (!hasBlocks s part ctx && !hasGrids s part ctx) then
    { releaseSlots s part ctx with ctxs := tabDel s.ctxs (ctxKey part ctx) }
  else s)

/-! ### Pre-emption (R313, R315) -/

/-- The life of a context changed from one state to another. -/
def lifeFrom (s : State) (part ctx : Nat) (a b : CtxLife) : State :=
  modCtx s part ctx (fun x => if x.life == a then { x with life := b } else x)

/-- PREEMPT_REQUEST (R313). -/
def execPreemptRequest (part ctx : Nat) (s : State) : Host.Outcome State Fault Refusal :=
  .next (lifeFrom s part ctx .running .draining)

/-- The braids of a context that still stage operations, marked as its save finds them (R315). -/
def keepStaged (s : State) (part ctx : Nat) : State :=
  { s with grids := s.grids.mapIdx (fun i g => if g.within part ctx && ctxBit s g 3 then
      { g with braids := g.braids.map (fun r => (r.1, { r.2 with kept := r.2.kept || braidStages s (i, r.1) })) }
    else g) }

/-- CONTEXT_SAVE (R313): once no block of the context is resident. Its state stays where it is (Table 15-8): its records
keep their places in the partition's launch queues, and hold later ones back there (log 106, DESIGN CHOICE: R313 does not
say whether the queue is freed). -/
def execContextSave (part ctx : Nat) (s : State) : Host.Outcome State Fault Refusal :=
  .next (if hasBlocks s part ctx || (ctxOf s part ctx).life != .draining then s
  else lifeFrom (keepStaged s part ctx) part ctx .draining .saved)

/-- CONTEXT_RESTORE (R315). -/
def execContextRestore (part ctx : Nat) (s : State) : Host.Outcome State Fault Refusal :=
  .next (lifeFrom s part ctx .saved .running)

/-! ### The forced reset (R314) -/

/-- A core without what blocks have on their way to memory. -/
def coreDrop (gone : Nat → Bool) (k : CoreSt) : CoreSt :=
  let lost := k.commands.filter (fun d => gone d.block && !d.perf)
  { k with
    dirty := k.dirty.filter (fun e => !gone e.2.block),
    outbound := k.outbound.filter (fun o => !gone o.block),
    commands := k.commands.filter (fun d => !(gone d.block && !d.perf)),
    credits := k.credits + lost.length }

/-- The live cells of a context freed: each doubleword keeps its value or goes back to the former one. -/
def releaseCells (s : State) (part ctx : Nat) : State :=
  let mine := s.cells.filter (fun c => ((gridOf s c.owner.1).map (fun g => g.within part ctx)).getD false)
  mine.foldl (fun s c =>
    let x := takeFree s
    let p (y : Cell) : Bool := y.owner == c.owner && y.region == c.region
    if x.1.getLsbD 0 then retractCell x.2 c.dw p else freeCell x.2 c.dw p) s

/-- A braid of a context that is reset. -/
def Braid.stopped (r : Braid) : Braid :=
  { r with retired := true, toKill := false, pending := false, staged := [], steps := [] }

/-- What is outstanding of a context's blocks discarded: it has not been performed (log 49). -/
def discardBlocks (s : State) (bs : List Nat) : State :=
  let s := bs.foldl killBlock (dropFaults s bs.contains)
  { s with cores := s.cores.map (fun e => (e.1, coreDrop bs.contains e.2)) }

/-- The fault entries and walks of a context's submissions and rings dropped (R219). -/
def dropWaiting (s : State) (part ctx : Nat) : State :=
  let mine (w : WalkSrc) : Bool := match w with
    | .submit p c _ => p == part && c == ctx
    | .ring p r _ => p == part && ((tabGet (partOf s p).rings r).map Ring.ctx) == some ctx
    | _ => false
  { s with dies := s.dies.map (fun e => (e.1, { e.2 with
      faults := e.2.faults.filter (fun f => !mine f.2.src),
      walks := e.2.walks.filter (fun w => !mine w.src) ++ e.2.waiting.filter (fun w => !mine w.src), waiting := [] })) }

/-- A context forced to reset: its grids that have not completed end with the status. -/
def forcedReset (s : State) (part ctx status : Nat) : State :=
  let gs := ctxGrids s part ctx
  let s := dropWaiting (discardBlocks s (ctxBlocks s part ctx)) part ctx
  let s := releaseCells s part ctx
  let s := gs.foldl (fun s g => failGrid
    (modGrid s g (fun x => { x with braids := x.braids.map (fun r => (r.1, r.2.stopped)) })) g status) s
  let s := modPart s part (fun p => { p with submits := p.submits.filter (fun e => e.1 != ctx) })
  modCtx s part ctx (fun x => { x with life := .reset, fatal := none })

/-- PREEMPT_DEADLINE_EXPIRY (R314). A context that a fatal error has stopped before is being reset with the status of that
error, and its dump is still to be made (R294, R354). -/
def execPreemptDeadlineExpiry (part ctx : Nat) (s : State) : Host.Outcome State Fault Refusal :=
  .next (if (ctxOf s part ctx).life == .draining && (ctxOf s part ctx).fatal.isNone then forcedReset s part ctx 0x0202 else s)

/-! ### Hangs and divergence -/

/-- A strand parked in one of some ways. -/
def anyParked (c : Cord) (p : Park → Bool) : Bool := c.liveLanes.any (fun l => ((c.lane l).park.map p).getD false)

/-- The operations of a cord, by their ids, that wait for what the ticket unit has staged (R302): the staged ones; a CQPOP
for the reply to a staged command; and what an earlier one of them holds back. -/
def ticketOps (y : Cord) : List Nat :=
  y.ops.foldl (fun ids o =>
    if stagedKind o || (match o.kind with
          | .cqpop _ => y.ops.any (fun p => stagedKind p && (match p.kind with
            | .atomr _ => true
            | _ => false))
          | _ => false)
        || o.accs.any (fun a => a.open_ && y.ops.any (fun p => ids.contains p.id && opHolds true true p o a))
    then ids ++ [o.id] else ids) []

/-- A request writes to global memory what it has (R302): a copy or a gather by its destination, a collective once it has
its result. -/
def writesGlobal (r : Request) : Bool :=
  let glob (x : Option (Side × Side)) : Bool := match x with
    | some (_, .glob _) => true
    | _ => false
  match r.engine with
  | .copy => glob (copySides r 0)
  | .gse => glob (gseSides r 0 0)
  | .coll => r.result.isSome

/-- A request waits for the ticket of its block's braid with its writes, or behind one of the braid that does, for its
engine (R302). -/
def stagedRequest (s : State) (core : Nat) (r : Request) : Bool :=
  let writes (q : Request) : Bool := q.accepted && !q.finished && writesGlobal q
  writes r || (!r.accepted && (coreOf s core).requests.any (fun q =>
    q.engine == r.engine && braidOf s q.block == braidOf s r.block && writes q))

/-- The requests of a cord that wait so. -/
def stagedRequests (s : State) (b c core : Nat) : List Request :=
  (coreOf s core).requests.filter (fun r => r.block == b && r.cord == c && stagedRequest s core r)

/-- A flag of a WAIT field is held by such an operation or request. -/
def waitsStaged (s : State) (b c core : Nat) (y : Cord) (wait : BitVec 12) : Bool :=
  let named (f : Option Nat) : Bool := (f.map (fun n => wait.getLsbD n)).getD false
  y.ops.any (fun o => named o.flag && (ticketOps y).contains o.id)
    || (stagedRequests s b c core).any (fun r => named r.flag)

/-- A park at which strands wait for what the ticket unit has staged (R302): an operation of theirs, a release wider than
the braid, a fence behind a request, a LAUNCH, or a barrier object that an engine counts down. -/
def parkStaged (s : State) (b c core : Nat) (y : Cord) (t : Strand) : Bool :=
  match t.park with
  | some (.op id) => (ticketOps y).contains id
  | some (.hold cut _) =>
    y.ops.any (fun o => o.seq < cut && (ticketOps y).contains o.id)
      || (match instrAt s b core t.pc with
        | some (.phase f) => phaseRel f && 3 < f.mod.toNat
        | some (.fenceP f) => (stagedRequests s b c core).any (fun r => r.seq < cut
            && (engineClass r.engine == f.mod.toNat || engineClass r.engine == f.mod2.toNat))
        | _ => false)
  | some (.launch _ _) => true
  | some (.bowait _) => !(stagedRequests s b c core).isEmpty
  | _ => false

/-- The engine of an instruction that starts a request. -/
def engineOf (i : Instr) : Option Engine :=
  match i with
  | .kick _ => some .copy
  | .gse _ => some .gse
  | .coll _ => some .coll
  | _ => none

/-- An instruction finds no place in its engine's queue, or no credit for its commands, while the braid's own wait for the
ticket there (R163, R227, R302). -/
def fullStaged (s : State) (b core n : Nat) (i : Instr) : Bool :=
  let k := coreOf s core
  match engineOf i, i with
  | some e, _ => engineSlots e ≤ engineLoad s core e && k.requests.any (fun r =>
      r.engine == e && braidOf s r.block == braidOf s b && stagedRequest s core r)
  | none, .atomr _ => k.credits < n && s.blocks.zipIdx.any (fun x => x.1.core == core && braidOf s x.2 == braidOf s b
      && x.1.cords.any (fun z => z.ops.any (fun o => stagedKind o && (match o.kind with
        | .atomr _ => true
        | _ => false))))
  | _, _ => false

/-- The group of a cord that would issue next waits for what the ticket unit has staged: at a clause header, under the
scoreboard, since the staging is full (R307), or since a queue is. -/
def issueStaged (s : State) (b c core : Nat) (y : Cord) : Bool :=
  match (nextGroup y).head? with
  | none => false
  | some l =>
    let pc := (y.lane l).pc
    match instrAt s b core pc with
    | some (.clauseHeader h) => waitsStaged s b c core y h.wait
    | some i =>
      (stagesEntries i && (nextGroup y).any (fun l => y.full.contains (l, pc, y.handler))) || fullStaged s b core (nextGroup y).length i
        || (interlocked s b pc.toNat && scoreboardHolds { y with ops := y.ops.filter (fun o => (ticketOps y).contains o.id) }
          (nextGroup y) (namesOf y.strands.length i).1 (namesOf y.strands.length i).2)
    | none => false

/-- A cord waits for its braid's ticket (R302, R307). -/
def waitsTicket (s : State) (b c : Nat) (x : Block) (y : Cord) : Bool :=
  !hasTicket s b && (issueStaged s b c x.core y || y.strands.any (fun t => t.live && parkStaged s b c x.core y t))

/-- A park in which the hang clock stands (R318): at a WAITCH for a child that is not complete, or at a LAUNCH for queue
space. -/
def parkStops (s : State) (x : Block) : Park → Bool
  | .waitch h _ => (waitchAnswer s x h).isNone
  | .launchRoom => true
  | _ => false

/-- A cord waits on an access whose entry is pending with the hypervisor: of one of its instructions, or of an engine or
an array that works for it. A cord that issues nothing while it has such an entry waits on it (log 92). -/
def waitsFault (s : State) (b c core : Nat) : Bool :=
  (dieOf s (dieOfCore core)).faults.any (fun e => e.2.state == 0 && srcCord s e.2.src == some (b, c))

/-- The hang clock of a cord stands (R318). -/
def clockStands (s : State) (b c : Nat) (x : Block) (y : Cord) : Bool :=
  y.ended || y.held || anyParked y (parkStops s x) || waitsTicket s b c x y || waitsFault s b c x.core

/-- The hang deadline of a block's context, in 10 µs samples (Table 15-1): 0 selects 2,000 ms. -/
def hangDeadline (s : State) (b : Nat) : Nat :=
  let ms := ((gridOfBlock s b).map (fun g => bits (ctxOf s g.part g.ctx).control.toNat 63 48)).getD 0
  100 * (if ms = 0 then 2000 else ms)

/-- The peers in whose memory a global range lies, looked at once for each 64 KiB. -/
def Side.peers (s : State) (b core : Nat) (x : Side) (n : Nat) : List Nat :=
  match x with
  | .spad _ _ => []
  | .glob va => (List.range (n / 65536 + 2)).filterMap (fun i =>
      match (translate s b core ((va + Nat.min (65536 * i) (n - 1)) % 2 ^ 64) .read).map placeOf with
      | some (.peer p) => some p
      | _ => none)

/-- The peers of element k of a gather or scatter, where its index can be read. -/
def elementPeers (s : State) (core : Nat) (r : Request) (k : Nat) : List Nat :=
  match (sideOf (r.field 191 128)).map (fun i => engRead s r.block core r.raised (i.at_ (k * r.iw)) r.iw) with
  | some (.ok bs _ _) =>
    ((gseSides r k (leNat bs)).map (fun e =>
      e.1.peers s r.block core (gseSrcLen r) ++ e.2.peers s r.block core (gseElt r))).getD []
  | _ => []

/-- The peers that what is left of a request concerns: before its engine has accepted it, as its 32 bytes stand. -/
def requestPeers (s : State) (core : Nat) (r : Request) : List Nat :=
  let r : Request := if r.accepted then r else { r with image := leNat (winRead s r.block r.off 32) }
  match r.engine with
  | .copy => (List.range r.rows).flatMap (fun k => ((copySides r k).map (fun e =>
      e.1.peers s r.block core r.len ++ e.2.peers s r.block core (copyRow r))).getD [])
  | .gse =>
    ((sideOf (r.field 191 128)).map (fun i => i.peers s r.block core (r.iw * r.gcount))).getD []
      ++ ((List.range r.gcount).filter (fun k => (tabGet r.moved k).isNone)).flatMap (elementPeers s core r)
  | .coll => ((reqComm s r).map CommMember.dev).filter (fun d => d != s.mgmt.devid.toNat)

/-- The peers of the remote operations of a cord that are not over: its accesses, its commands until their replies have
come (R227), and the requests of its engines. -/
def remotePeers (s : State) (b c core : Nat) (y : Cord) : List Nat :=
  let peer (pa : Nat) : Option Nat := match placeOf pa with
    | .peer i => some i
    | _ => none
  ((y.ops.flatMap Op.accs).filter Acc.open_).filterMap (fun a => peer a.pa)
  ++ ((coreOf s core).commands.filter (fun d => d.block == b && d.cord == c)).filterMap (fun d => peer d.pa)
  ++ ((coreOf s core).requests.filter (fun r => r.block == b && r.cord == c && !r.finished)).flatMap (requestPeers s core)

/-- The recovery window in 10 µs samples that a peer of a remote operation of a cord has announced, the longest of them; 0
where none has (R319, R379). -/
def announced (s : State) (b c core : Nat) (y : Cord) : Nat :=
  100 * (((remotePeers s b c core y).flatMap (portsTo s)).filterMap Port.window).foldl Nat.max 0

/-- The hang clock of a cord has reached its deadline, as extended so far (R318, R319). -/
def hangDue (s : State) (b : Nat) (y : Cord) : Bool := hangDeadline s b + y.ext ≤ y.idle

/-- By how much a deadline that has been reached is extended (R319): extensions for one wait total at most 2 s. -/
def hangExtension (s : State) (b c core : Nat) (y : Cord) : Nat := Nat.min (announced s b c core y) (200000 - y.ext)

/-- A 10 µs sample of the hang clocks of a core (R318): they run while their cords issue nothing and nothing stops
them. -/
def runClocks (s : State) (core : Nat) : State :=
  { s with blocks := s.blocks.mapIdx (fun b x => if x.core == core then
      { x with cords := x.cords.mapIdx (fun c y => if clockStands s b c x y then y else { y with idle := y.idle + 1 }) }
    else x) }

/-- HANG_DEADLINE_EXPIRY (R318 to R320): the deadline is extended by an announced window, or a hang is declared. -/
def execHangDeadlineExpiry (b c : Nat) (s : State) : Host.Outcome State Fault Refusal :=
  .next (match s.blocks[b]?, cordOf s b c with
    | some x, some y =>
      if clockStands s b c x y || !hangDue s b y then s
      else if hangExtension s b c x.core y = 0 then fatal s b 0x0204 0 0
      else modCord s b c (fun z => { z with ext := z.ext + hangExtension s b c x.core y })
    | _, _ => s)

/-- REPLAY_FOREIGN_TIMEOUT (R312): a recorded foreign step has not arrived. -/
def execReplayForeignTimeout (part ctx : Nat) (s : State) : Host.Outcome State Fault Refusal :=
  let x := ctxOf s part ctx
  .next (if ctxLog x == 2 && x.life != .absent && (logLeft s x).any (fun e => e.1.kind == 1) then
    fatalCtx s part ctx 0x0205
  else s)

/-! ### The dump (R354) -/

/-- Bytes filled up to a 256-byte boundary. -/
def pad256 (bs : List Byte) : List Byte := bs ++ List.replicate ((256 - bs.length % 256) % 256) 0

/-- The cord images of a context (Table 17-11). -/
def ctxImages (s : State) (part ctx : Nat) : List (List Byte) :=
  (ctxBlocks s part ctx).flatMap (fun b => match s.blocks[b]? with
    | some x => (x.cords.zipIdx.filter (fun c => !c.1.ended)).map (fun c => cordImage x c.2 c.1)
    | none => [])

/-- The fault entries of a context on a die. -/
def dieEntries (d : Die) (part ctx : Nat) : List FaultEntry :=
  ((d.faults.map Prod.snd).filter (fun e => e.ctx == slotOn d part ctx))

/-- The fault entries of a context, as bytes (Table 11-5). -/
def ctxEntries (s : State) (part ctx : Nat) : List (List Byte) :=
  (s.dies.flatMap (fun e => dieEntries e.2 part ctx)).map (fun e => leBytes 32 e.bits)

/-- The descriptor table of a context (R145). -/
def descBytes (x : Ctx) : List Byte :=
  (List.range 1024).flatMap (fun i => leBytes 64 (((tabGet x.desc i).map (fun d => d.toNat)).getD 0))

/-- The dump header (Table 17-12). -/
def dumpHeader (x : Ctx) (ctx total time ncord nfault status cause pc : Nat) : Nat :=
  1 + cause <<< 32 + (pc % 2 ^ 57) <<< 64 + ctx <<< 128 + status <<< 144 + (nfault % 2 ^ 16) <<< 160
    + (ncord % 2 ^ 16) <<< 176 + (time % 2 ^ 64) <<< 192 + total <<< 256 + x.logPos <<< 320

/-- The dump of a context: each of its parts starts on a 256-byte boundary. -/
def dumpBytes (s : State) (part ctx time status cause pc : Nat) (state : List Byte) : List Byte :=
  let x := ctxOf s part ctx
  let images := ctxImages s part ctx
  let entries := ctxEntries s part ctx
  let rest := pad256 (leBytes 16 x.control.toNat) ++ pad256 entries.flatten ++ pad256 images.flatten
    ++ pad256 (descBytes x) ++ state
  pad256 (leBytes 64 (dumpHeader x ctx (256 + rest.length) time images.length entries.length status cause pc)) ++ rest

/-- Every cord of a context is suspended (R317, R354): its special-function and conversion operations have written their
results. -/
def allSuspended (s : State) (part ctx : Nat) : Bool :=
  (ctxBlocks s part ctx).all (fun b => ((s.blocks[b]?).map (fun x => x.cords.all (fun c => c.ended || resultsIn c))).getD true)

/-- The dump of a context made, and the context stopped as a forced reset stops it, with the status of its fatal error
(R354). -/
def dumpContext (s : State) (part ctx status cause pc : Nat) : State :=
  let t := tick s
  let bs := dumpBytes s part ctx t.1 status cause pc (Config.savedState s.free)
  let s := forcedReset t.2 part ctx status
  let s := send (modPart s part (fun p => { p with reserved := bs })) (.dump part ctx bs)
  logEvent s 0x0040 part (ctx + status <<< 16)

/-- FATAL_ERROR_DUMP (R354): once its cords are suspended the context is stopped; its dump goes to the partition's
reserved region and to the host. -/
def execFatalErrorDump (part ctx : Nat) (s : State) : Host.Outcome State Fault Refusal :=
  .next (match (ctxOf s part ctx).fatal with
    | none => s
    | some (status, cause, pc) =>
      if !allSuspended s part ctx then s else dumpContext s part ctx status cause pc)

end Sys2Proof.Machine
end

