-- ==== Sys2Proof/Machine/FloatOps.lean ====
section
/-! DEFINITION. The float instructions (R91 to R94) and their short forms. -/

namespace Sys2Proof.Machine
open Sys2Proof

/-- FADD (R91). -/
def faddBody (f : LForm) : Issue → State → Act :=
  eltBody f (fun x y _ => (fmtOf f.ty.toNat).add f.mod.toNat x y)
/-- FSUB (R91). -/
def fsubBody (f : LForm) : Issue → State → Act :=
  eltBody f (fun x y _ => (fmtOf f.ty.toNat).sub f.mod.toNat x y)
/-- FMUL (R91). -/
def fmulBody (f : LForm) : Issue → State → Act :=
  eltBody f (fun x y _ => (fmtOf f.ty.toNat).mul f.mod.toNat x y)
/-- FMIN (R92). -/
def fminBody (f : LForm) : Issue → State → Act := eltBody f (fun x y _ => ((fmtOf f.ty.toNat).min x y, 0))
/-- FMAX (R92). -/
def fmaxBody (f : LForm) : Issue → State → Act := eltBody f (fun x y _ => ((fmtOf f.ty.toNat).max x y, 0))
/-- FSAT (R92). -/
def fsatBody (f : LForm) : Issue → State → Act := eltBody f (fun x _ _ => ((fmtOf f.ty.toNat).sat x, 0))

/-- FADD (R91). -/
def execFadd (f : LForm) (s : State) := issue (.fadd f) (faddBody f) s
/-- FSUB (R91). -/
def execFsub (f : LForm) (s : State) := issue (.fsub f) (fsubBody f) s
/-- FMUL (R91). -/
def execFmul (f : LForm) (s : State) := issue (.fmul f) (fmulBody f) s
/-- FFMA (R91): one rounding. -/
def execFfma (f : LForm) (s : State) :=
  issue (.ffma f) (eltBody f (fun x y z => (fmtOf f.ty.toNat).fma f.mod.toNat x y z)) s
/-- FMIN (R92). -/
def execFmin (f : LForm) (s : State) := issue (.fmin f) (fminBody f) s
/-- FMAX (R92). -/
def execFmax (f : LForm) (s : State) := issue (.fmax f) (fmaxBody f) s
/-- FSAT (R92). -/
def execFsat (f : LForm) (s : State) := issue (.fsat f) (fsatBody f) s
/-- FADD, short (R91). -/
def execFaddShort (f : SForm) (s : State) := issue (.faddShort f) (faddBody (SForm.long f true)) s
/-- FSUB, short (R91). -/
def execFsubShort (f : SForm) (s : State) := issue (.fsubShort f) (fsubBody (SForm.long f true)) s
/-- FMUL, short (R91). -/
def execFmulShort (f : SForm) (s : State) := issue (.fmulShort f) (fmulBody (SForm.long f true)) s
/-- FMIN, short (R92). -/
def execFminShort (f : SForm) (s : State) := issue (.fminShort f) (fminBody (SForm.long f true)) s
/-- FMAX, short (R92). -/
def execFmaxShort (f : SForm) (s : State) := issue (.fmaxShort f) (fmaxBody (SForm.long f true)) s
/-- FSAT, short (R92). -/
def execFsatShort (f : SForm) (s : State) := issue (.fsatShort f) (fsatBody (SForm.long f false)) s

/-- The element that FCMP and FCLASS look at: MOD2 bit 2 (R93). -/
def chosenElt (f : LForm) (x : Nat) : Nat := elt x (eltBits f.ty.toNat) (f.mod2.toNat / 4)

/-- FCMP (R93). -/
def execFcmp (f : LForm) (s : State) :=
  issue (.fcmp f) (predBody f (fun c l =>
    let F := fmtOf f.ty.toNat
    let r := fcmp f.mod.toNat (F.decode (chosenElt f (valA c f f.ty.toNat l)))
      (F.decode (chosenElt f (valB c f f.ty.toNat l)))
    (combine f c l r.1, r.2))) s

/-- FCLASS (R94): the mask is the whole of b. -/
def execFclass (f : LForm) (s : State) :=
  issue (.fclass f) (predBody f (fun c l =>
    let k := (fmtOf f.ty.toNat).classBit (chosenElt f (valA c f f.ty.toNat l))
    (combine f c l ((valB c f 0 l).testBit k), 0))) s

end Sys2Proof.Machine
end

