-- ==== Sys2Proof/Machine/Integer.lean ====
section
/-! DEFINITION. Moves, integer arithmetic, bit operations, shifts, bit fields and addresses (R81 to R88), and
their short forms (R45), which are the long forms with MOD and MOD2 zero (R76). -/

namespace Sys2Proof.Machine
open Sys2Proof

/-- MOV copies bits (R81). -/
def movBody (f : LForm) : Issue → State → Act := wholeBody f (fun x _ _ => x)
/-- ADD (R83). -/
def addBody (f : LForm) : Issue → State → Act := intBody f (fun x y _ => x + y)
/-- SUB (R83). -/
def subBody (f : LForm) : Issue → State → Act := intBody f (fun x y _ => x - y)
/-- MIN (R83). -/
def minBody (f : LForm) : Issue → State → Act := intBody f (fun x y _ => if x ≤ y then x else y)
/-- MAX (R83). -/
def maxBody (f : LForm) : Issue → State → Act := intBody f (fun x y _ => if x ≤ y then y else x)
/-- NEG (R83). -/
def negBody (f : LForm) : Issue → State → Act := intBody f (fun x _ _ => -x)
/-- ABS (R83). -/
def absBody (f : LForm) : Issue → State → Act := intBody f (fun x _ _ => x.natAbs)
/-- MUL (R83): the lower half. -/
def mulBody (f : LForm) : Issue → State → Act := intBody f (fun x y _ => x * y)
/-- MULH (R83): the floor of the product over 2^bits(T). -/
def mulhBody (f : LForm) : Issue → State → Act :=
  intBody f (fun x y _ => (x * y) / (2 ^ eltBits f.ty.toNat : Int))
/-- MAD (R83). -/
def madBody (f : LForm) : Issue → State → Act := intBody f (fun x y z => x * y + z)

/-- The width of a shift (R86). -/
def shiftWidth (f : LForm) : Nat := if wideNat f.ty.toNat then 64 else 32

/-- The amount of a shift: b, or the low word of its pair (R86). -/
def shiftBy (y : Nat) : Nat := y % 2 ^ 32

/-- SHL (R86). -/
def shlVal (w x n : Nat) : Nat := if w ≤ n then 0 else x * 2 ^ n % 2 ^ w
/-- SHR (R86). -/
def shrVal (w x n : Nat) : Nat := if w ≤ n then 0 else x / 2 ^ n
/-- SAR (R86). -/
def sarVal (w x n : Nat) : Nat := wrapInt w (toInt true w x / (2 ^ (Nat.min n w) : Int))
/-- ROT to the left (R86). -/
def rotlVal (w x n : Nat) : Nat :=
  let k := n % w
  (x * 2 ^ k % 2 ^ w) + x / 2 ^ (w - k)

/-- AND (R85). -/
def andBody (f : LForm) : Issue → State → Act := wholeBody f (fun x y _ => x &&& y)
/-- OR (R85). -/
def orBody (f : LForm) : Issue → State → Act := wholeBody f (fun x y _ => x ||| y)
/-- XOR (R85). -/
def xorBody (f : LForm) : Issue → State → Act := wholeBody f (fun x y _ => x ^^^ y)
/-- NOT (R85). -/
def notBody (f : LForm) : Issue → State → Act :=
  wholeBody f (fun x _ _ => 2 ^ shiftWidth f - 1 - x % 2 ^ shiftWidth f)
/-- SHL (R86). -/
def shlBody (f : LForm) : Issue → State → Act := wholeBody f (fun x y _ => shlVal (shiftWidth f) x (shiftBy y))
/-- SHR (R86). -/
def shrBody (f : LForm) : Issue → State → Act := wholeBody f (fun x y _ => shrVal (shiftWidth f) x (shiftBy y))
/-- SAR (R86). -/
def sarBody (f : LForm) : Issue → State → Act := wholeBody f (fun x y _ => sarVal (shiftWidth f) x (shiftBy y))
/-- ROT (R86): MOD 1 is to the right, which is to the left by the rest of the width. -/
def rotBody (f : LForm) : Issue → State → Act :=
  wholeBody f (fun x y _ =>
    let w := shiftWidth f
    let n := shiftBy y % w
    rotlVal w x (if f.mod == 1 then w - n else n))

/-- The number of 1 bits of a word (R85). -/
def popcVal (x : Nat) : Nat := ((List.range 32).filter (fun i => x.testBit i)).length
/-- The leading 0 bits of a word, 32 for 0 (R85). -/
def clzVal (x : Nat) : Nat := if x = 0 then 32 else 31 - Nat.log2 x
/-- Bit i to bit 31 − i (R85). -/
def brevVal (x : Nat) : Nat :=
  (List.range 32).foldl (fun r i => if x.testBit i then r + 2 ^ (31 - i) else r) 0

/-- POPC (R85). -/
def popcBody (f : LForm) : Issue → State → Act := wholeBody f (fun x _ _ => popcVal x)
/-- CLZ (R85). -/
def clzBody (f : LForm) : Issue → State → Act := wholeBody f (fun x _ _ => clzVal x)
/-- BREV (R85). -/
def brevBody (f : LForm) : Issue → State → Act := wholeBody f (fun x _ _ => brevVal x)

/-- BFE (R87): bits above 31 read as 0, or as bit 31 for s32; the field is extended as the type says. -/
def bfeVal (signed : Bool) (x y : Nat) : Nat :=
  let pos := y % 256
  let len := Nat.min (y / 256 % 256) 32
  let wide : Int := toInt signed 32 x
  let field := wrapInt len (wide / (2 ^ pos : Int))
  if len = 0 then 0 else wrapInt 32 (toInt signed len field)

/-- BFI (R87). -/
def bfiVal (x y z : Nat) : Nat :=
  let pos := y % 256
  let len := Nat.min (y / 256 % 256) 32
  let m := (2 ^ len - 1) * 2 ^ pos % 2 ^ 32
  (z - (z &&& m)) + ((x * 2 ^ pos) % 2 ^ 32 &&& m)

/-- LEA (R88): a plus b shifted, b extended by MOD2 bit 0. -/
def leaBody (f : LForm) : Issue → State → Act :=
  aluBody f 5 (fun c l =>
    let b := match f.lit with
      | some w => w.toNat
      | none => regVal c l f.bsc false f.b.toNat
    let e : Int := toInt (f.mod2 == 1) 32 b
    (wrapInt 64 ((valA c f 5 l : Int) + e * 2 ^ f.mod.toNat), 0))

/-- MOV (R81). -/
def execMov (f : LForm) (s : State) := issue (.mov f) (movBody f) s
/-- MOVI (R81): the literal, extended. -/
def execMovi (f : LForm) (s : State) := issue (.movi f) (wholeBody f (fun _ y _ => y)) s
/-- SEL (R82). -/
def execSel (f : LForm) (s : State) :=
  issue (.sel f) (aluBody f f.ty.toNat (fun c l =>
    (if (c.lane l).pred f.c.toNat then valA c f f.ty.toNat l else valB c f f.ty.toNat l, 0))) s
/-- ADD (R83). -/
def execAdd (f : LForm) (s : State) := issue (.add f) (addBody f) s
/-- SUB (R83). -/
def execSub (f : LForm) (s : State) := issue (.sub f) (subBody f) s
/-- ADDC (R84): the carry out goes to pC. -/
def execAddc (f : LForm) (s : State) :=
  issue (.addc f) (fun u _ => goRegs u ((participants u f).flatMap (fun l =>
    let x : Word := BitVec.ofNat 32 (valA u.cord f 2 l)
    let y : Word := BitVec.ofNat 32 (valB u.cord f 2 l)
    let ci := (u.cord.lane l).pred f.c.toNat
    putD f 2 l (x.toNat + y.toNat + ci.toNat) ++ [.p l f.c.toNat (carryOut x y ci)]))) s
/-- SUBB (R84): the borrow out goes to pC. -/
def execSubb (f : LForm) (s : State) :=
  issue (.subb f) (fun u _ => goRegs u ((participants u f).flatMap (fun l =>
    let x : Word := BitVec.ofNat 32 (valA u.cord f 2 l)
    let y : Word := BitVec.ofNat 32 (valB u.cord f 2 l)
    let bi := (u.cord.lane l).pred f.c.toNat
    putD f 2 l (wrapInt 32 ((x.toNat : Int) - y.toNat - bi.toNat))
      ++ [.p l f.c.toNat (borrowOut x y bi)]))) s
/-- MUL (R83). -/
def execMul (f : LForm) (s : State) := issue (.mul f) (mulBody f) s
/-- MULH (R83). -/
def execMulh (f : LForm) (s : State) := issue (.mulh f) (mulhBody f) s
/-- MAD (R83). -/
def execMad (f : LForm) (s : State) := issue (.mad f) (madBody f) s
/-- NEG (R83). -/
def execNeg (f : LForm) (s : State) := issue (.neg f) (negBody f) s
/-- ABS (R83). -/
def execAbs (f : LForm) (s : State) := issue (.abs f) (absBody f) s
/-- MIN (R83). -/
def execMin (f : LForm) (s : State) := issue (.min f) (minBody f) s
/-- MAX (R83). -/
def execMax (f : LForm) (s : State) := issue (.max f) (maxBody f) s
/-- AND (R85). -/
def execAnd (f : LForm) (s : State) := issue (.and f) (andBody f) s
/-- OR (R85). -/
def execOr (f : LForm) (s : State) := issue (.or f) (orBody f) s
/-- XOR (R85). -/
def execXor (f : LForm) (s : State) := issue (.xor f) (xorBody f) s
/-- NOT (R85). -/
def execNot (f : LForm) (s : State) := issue (.not f) (notBody f) s
/-- SHL (R86). -/
def execShl (f : LForm) (s : State) := issue (.shl f) (shlBody f) s
/-- SHR (R86). -/
def execShr (f : LForm) (s : State) := issue (.shr f) (shrBody f) s
/-- SAR (R86). -/
def execSar (f : LForm) (s : State) := issue (.sar f) (sarBody f) s
/-- ROT (R86). -/
def execRot (f : LForm) (s : State) := issue (.rot f) (rotBody f) s
/-- POPC (R85). -/
def execPopc (f : LForm) (s : State) := issue (.popc f) (popcBody f) s
/-- CLZ (R85). -/
def execClz (f : LForm) (s : State) := issue (.clz f) (clzBody f) s
/-- BREV (R85). -/
def execBrev (f : LForm) (s : State) := issue (.brev f) (brevBody f) s
/-- BFE (R87). -/
def execBfe (f : LForm) (s : State) :=
  issue (.bfe f) (wholeBody f (fun x y _ => bfeVal (f.ty == 1) x y)) s
/-- BFI (R87). -/
def execBfi (f : LForm) (s : State) := issue (.bfi f) (wholeBody f bfiVal) s
/-- LEA (R88). -/
def execLea (f : LForm) (s : State) := issue (.lea f) (leaBody f) s

/-- MOV, short (R45, R81). -/
def execMovShort (f : SForm) (s : State) := issue (.movShort f) (movBody (SForm.long f false)) s
/-- ADD, short (R83). -/
def execAddShort (f : SForm) (s : State) := issue (.addShort f) (addBody (SForm.long f true)) s
/-- SUB, short (R83). -/
def execSubShort (f : SForm) (s : State) := issue (.subShort f) (subBody (SForm.long f true)) s
/-- MUL, short (R83). -/
def execMulShort (f : SForm) (s : State) := issue (.mulShort f) (mulBody (SForm.long f true)) s
/-- MULH, short (R83). -/
def execMulhShort (f : SForm) (s : State) := issue (.mulhShort f) (mulhBody (SForm.long f true)) s
/-- MIN, short (R83). -/
def execMinShort (f : SForm) (s : State) := issue (.minShort f) (minBody (SForm.long f true)) s
/-- MAX, short (R83). -/
def execMaxShort (f : SForm) (s : State) := issue (.maxShort f) (maxBody (SForm.long f true)) s
/-- AND, short (R85). -/
def execAndShort (f : SForm) (s : State) := issue (.andShort f) (andBody (SForm.long f true)) s
/-- OR, short (R85). -/
def execOrShort (f : SForm) (s : State) := issue (.orShort f) (orBody (SForm.long f true)) s
/-- XOR, short (R85). -/
def execXorShort (f : SForm) (s : State) := issue (.xorShort f) (xorBody (SForm.long f true)) s
/-- NOT, short (R85). -/
def execNotShort (f : SForm) (s : State) := issue (.notShort f) (notBody (SForm.long f false)) s
/-- NEG, short (R83). -/
def execNegShort (f : SForm) (s : State) := issue (.negShort f) (negBody (SForm.long f false)) s
/-- ABS, short (R83). -/
def execAbsShort (f : SForm) (s : State) := issue (.absShort f) (absBody (SForm.long f false)) s
/-- SHL, short (R86). -/
def execShlShort (f : SForm) (s : State) := issue (.shlShort f) (shlBody (SForm.long f true)) s
/-- SHR, short (R86). -/
def execShrShort (f : SForm) (s : State) := issue (.shrShort f) (shrBody (SForm.long f true)) s
/-- SAR, short (R86). -/
def execSarShort (f : SForm) (s : State) := issue (.sarShort f) (sarBody (SForm.long f true)) s
/-- ROT.l, short (R86). -/
def execRotShort (f : SForm) (s : State) := issue (.rotShort f) (rotBody (SForm.long f true)) s
/-- POPC, short (R85). -/
def execPopcShort (f : SForm) (s : State) := issue (.popcShort f) (popcBody (SForm.long f false)) s
/-- CLZ, short (R85). -/
def execClzShort (f : SForm) (s : State) := issue (.clzShort f) (clzBody (SForm.long f false)) s
/-- BREV, short (R85). -/
def execBrevShort (f : SForm) (s : State) := issue (.brevShort f) (brevBody (SForm.long f false)) s

/-- The short NOP retires with no effect (R46). -/
def execNop (f : SForm) (s : State) := issue (.nop f) (fun _ _ => .go [] [] id) s
/-- The long NOP retires with no effect (R114). -/
def execNopLong (f : LForm) (s : State) := issue (.nopLong f) (fun _ _ => .go [] [] id) s

/-- ICMP (R89). -/
def execIcmp (f : LForm) (s : State) :=
  issue (.icmp f) (predBody f (fun c l =>
    let sg := signedTy f.ty.toNat
    let w := eltBits f.ty.toNat
    let x := toInt sg w (valA c f f.ty.toNat l)
    let y := toInt sg w (valB c f f.ty.toNat l)
    let t : Bool := match f.mod.toNat with
      | 0 => x == y
      | 1 => x != y
      | 2 => x < y
      | 3 => x ≤ y
      | 4 => y < x
      | _ => y ≤ x
    (combine f c l t, 0))) s

/-- PSET (R90): .nz tests a or the literal; .bit takes bit %lane of a. -/
def execPset (f : LForm) (s : State) :=
  issue (.pset f) (predBody f (fun c l =>
    (if f.mod == 1 then (valA c f 5 l).testBit l
     else match f.lit with
      | some w => w != 0
      | none => valA c f 0 l != 0, 0))) s

/-- A predicate instruction on pA and pB (R90). -/
def predLogic (f : LForm) (g : Bool → Bool → Bool) : Issue → State → Act :=
  predBody f (fun c l => (g ((c.lane l).pred f.a.toNat) ((c.lane l).pred f.b.toNat), 0))

/-- PAND (R90). -/
def execPand (f : LForm) (s : State) := issue (.pand f) (predLogic f (fun x y => x && y)) s
/-- POR (R90). -/
def execPor (f : LForm) (s : State) := issue (.por f) (predLogic f (fun x y => x || y)) s
/-- PXOR (R90). -/
def execPxor (f : LForm) (s : State) := issue (.pxor f) (predLogic f (fun x y => x != y)) s
/-- PNOT (R90). -/
def execPnot (f : LForm) (s : State) := issue (.pnot f) (predLogic f (fun x _ => !x)) s

end Sys2Proof.Machine
end

