-- ==== Sys2Proof/Machine/Sha512.lean ====
section
/-! DEFINITION. The hash function SHA-512, which the spec names and does not describe (R365, R370, R398; log 80): the Secure
Hash Standard's. Its words are big-endian. -/

namespace Sys2Proof.Machine
open Sys2Proof

/-- The eight working words a to h. -/
structure HashWords where
  a : DWord
  b : DWord
  c : DWord
  d : DWord
  e : DWord
  f : DWord
  g : DWord
  h : DWord
  deriving DecidableEq, Repr

/-- The hash before any block: the square roots of the first eight primes, 64 bits of fraction. -/
def HashWords.start : HashWords where
  a := 0x6A09E667F3BCC908
  b := 0xBB67AE8584CAA73B
  c := 0x3C6EF372FE94F82B
  d := 0xA54FF53A5F1D36F1
  e := 0x510E527FADE682D1
  f := 0x9B05688C2B3E6C1F
  g := 0x1F83D9ABFB41BD6B
  h := 0x5BE0CD19137E2179

/-- The round constants 0 to 19: the cube roots of the first eighty primes, 64 bits of fraction. -/
def roundKeys0 : List DWord :=
  [0x428A2F98D728AE22, 0x7137449123EF65CD, 0xB5C0FBCFEC4D3B2F, 0xE9B5DBA58189DBBC,
   0x3956C25BF348B538, 0x59F111F1B605D019, 0x923F82A4AF194F9B, 0xAB1C5ED5DA6D8118,
   0xD807AA98A3030242, 0x12835B0145706FBE, 0x243185BE4EE4B28C, 0x550C7DC3D5FFB4E2,
   0x72BE5D74F27B896F, 0x80DEB1FE3B1696B1, 0x9BDC06A725C71235, 0xC19BF174CF692694,
   0xE49B69C19EF14AD2, 0xEFBE4786384F25E3, 0x0FC19DC68B8CD5B5, 0x240CA1CC77AC9C65]

/-- The round constants 20 to 39: the cube roots of the first eighty primes, 64 bits of fraction. -/
def roundKeys1 : List DWord :=
  [0x2DE92C6F592B0275, 0x4A7484AA6EA6E483, 0x5CB0A9DCBD41FBD4, 0x76F988DA831153B5,
   0x983E5152EE66DFAB, 0xA831C66D2DB43210, 0xB00327C898FB213F, 0xBF597FC7BEEF0EE4,
   0xC6E00BF33DA88FC2, 0xD5A79147930AA725, 0x06CA6351E003826F, 0x142929670A0E6E70,
   0x27B70A8546D22FFC, 0x2E1B21385C26C926, 0x4D2C6DFC5AC42AED, 0x53380D139D95B3DF,
   0x650A73548BAF63DE, 0x766A0ABB3C77B2A8, 0x81C2C92E47EDAEE6, 0x92722C851482353B]

/-- The round constants 40 to 59: the cube roots of the first eighty primes, 64 bits of fraction. -/
def roundKeys2 : List DWord :=
  [0xA2BFE8A14CF10364, 0xA81A664BBC423001, 0xC24B8B70D0F89791, 0xC76C51A30654BE30,
   0xD192E819D6EF5218, 0xD69906245565A910, 0xF40E35855771202A, 0x106AA07032BBD1B8,
   0x19A4C116B8D2D0C8, 0x1E376C085141AB53, 0x2748774CDF8EEB99, 0x34B0BCB5E19B48A8,
   0x391C0CB3C5C95A63, 0x4ED8AA4AE3418ACB, 0x5B9CCA4F7763E373, 0x682E6FF3D6B2B8A3,
   0x748F82EE5DEFB2FC, 0x78A5636F43172F60, 0x84C87814A1F0AB72, 0x8CC702081A6439EC]

/-- The round constants 60 to 79: the cube roots of the first eighty primes, 64 bits of fraction. -/
def roundKeys3 : List DWord :=
  [0x90BEFFFA23631E28, 0xA4506CEBDE82BDE9, 0xBEF9A3F7B2C67915, 0xC67178F2E372532B,
   0xCA273ECEEA26619C, 0xD186B8C721C0C207, 0xEADA7DD6CDE0EB1E, 0xF57D4F7FEE6ED178,
   0x06F067AA72176FBA, 0x0A637DC5A2C898A6, 0x113F9804BEF90DAE, 0x1B710B35131C471B,
   0x28DB77F523047D84, 0x32CAAB7B40C72493, 0x3C9EBE0A15C9BEBC, 0x431D67C49C100D4C,
   0x4CC5D4BECB3E42B6, 0x597F299CFC657E2A, 0x5FCB6FAB3AD6FAEC, 0x6C44198C4A475817]

/-- The round constants. -/
def roundKeys : List DWord := roundKeys0 ++ roundKeys1 ++ roundKeys2 ++ roundKeys3

/-- Three rotations to the right, added bit by bit. -/
def rotors (i j k : Nat) (x : DWord) : DWord := x.rotateRight i ^^^ x.rotateRight j ^^^ x.rotateRight k

/-- Two rotations and a shift to the right, added bit by bit. -/
def shifters (i j k : Nat) (x : DWord) : DWord := x.rotateRight i ^^^ x.rotateRight j ^^^ (x >>> k)

/-- One round, with its constant and its word of the schedule. -/
def HashWords.round (x : HashWords) (k w : DWord) : HashWords :=
  let choice := (x.e &&& x.f) ^^^ (~~~x.e &&& x.g)
  let majority := (x.a &&& x.b) ^^^ (x.a &&& x.c) ^^^ (x.b &&& x.c)
  let t := x.h + rotors 14 18 41 x.e + choice + k + w
  { a := t + rotors 28 34 39 x.a + majority, b := x.a, c := x.b, d := x.c, e := x.d + t, f := x.e, g := x.f, h := x.g }

/-- The schedule's next word, from the sixteen before it. -/
def nextWord (ws : List DWord) : DWord :=
  ws.getD 0 0 + shifters 1 8 7 (ws.getD 1 0) + ws.getD 9 0 + shifters 19 61 6 (ws.getD 14 0)

/-- The rounds with some constants; `ws` holds the next sixteen words of the schedule. -/
def HashWords.rounds : List DWord → List DWord → HashWords → HashWords
  | [], _, x => x
  | k :: ks, ws, x => HashWords.rounds ks (ws.drop 1 ++ [nextWord ws]) (x.round k (ws.getD 0 0))

/-- One block of sixteen words taken into the hash. -/
def HashWords.block (x : HashWords) (ws : List DWord) : HashWords :=
  let y := HashWords.rounds roundKeys ws x
  { a := x.a + y.a, b := x.b + y.b, c := x.c + y.c, d := x.d + y.d, e := x.e + y.e, f := x.f + y.f, g := x.g + y.g, h := x.h + y.h }

/-- Bytes as a number, the first byte the highest. -/
def beNat (bs : List Byte) : Nat := bs.foldl (fun n b => 256 * n + b.toNat) 0

/-- A number as n bytes, the highest first. -/
def beBytes (n x : Nat) : List Byte := (leBytes n x).reverse

/-- Some whole blocks of 128 bytes taken into the hash. -/
def HashWords.blocks : Nat → List Byte → HashWords → HashWords
  | 0, _, x => x
  | n + 1, bs, x =>
    HashWords.blocks n (bs.drop 128)
      (x.block ((List.range 16).map (fun i => BitVec.ofNat 64 (beNat ((bs.drop (8 * i)).take 8)))))

/-- A message as whole blocks: a bit 1, zeros, and its length in bits as 16 bytes. -/
def padded (bs : List Byte) : List Byte :=
  let zeros := (239 - bs.length % 128) % 128
  bs ++ [0x80] ++ List.replicate zeros 0 ++ beBytes 16 (8 * bs.length)

/-- SHA-512 of a message: 64 bytes. -/
def sha512 (bs : List Byte) : List Byte :=
  let m := padded bs
  let x := HashWords.blocks (m.length / 128) m HashWords.start
  [x.a, x.b, x.c, x.d, x.e, x.f, x.g, x.h].flatMap (fun w => beBytes 8 w.toNat)

end Sys2Proof.Machine
end

