-- ==== Sys2Proof/Machine/Mgmt.lean ====
section
/-! DEFINITION. The management block (R361 to R363, R372 to R374), the mailbox and its commands (R363 to R371), and
the partition reset (R387, R389). -/

namespace Sys2Proof.Machine
open Sys2Proof

/-! ### Stages (R385, R386) -/

/-- STAGE. -/
def stageOf (s : State) : Nat := bits s.mgmt.bootstat.toNat 7 0
/-- ERRCODE. -/
def errOf (s : State) : Nat := bits s.mgmt.bootstat.toNat 31 16

/-- The state with the management block changed. -/
def modMgmt (s : State) (f : Mgmt → Mgmt) : State := { s with mgmt := f s.mgmt }

/-- BOOTSTAT with a stage and an ERRCODE. -/
def bootWord (stage err : Nat) : DWord := BitVec.ofNat 64 (stage % 256 + err % 65536 * 65536)

/-- The state at a stage with an ERRCODE. -/
def setStage (s : State) (stage err : Nat) : State := modMgmt s (fun m => { m with bootstat := bootWord stage err })

/-- How many partitions run. -/
def partsRunning (s : State) : Nat := (s.parts.filter (fun p => p.2.running)).length

/-! ### Partition records (R366, R387) -/

/-- The record that takes effect next for a partition. -/
def nextRecord (s : State) (p : Nat) : Option (List DWord) :=
  match tabGet s.mgmt.configured p with
  | some r => some r
  | none => tabGet s.mgmt.stored p

/-- A doubleword of a record. -/
def recWord (r : List DWord) (i : Nat) : Nat := (r.getD i 0).toNat

/-- A record enables its partition. -/
def recEnabled (r : List DWord) : Bool := bit (recWord r 0) 8

/-- Two ranges have an element in common. -/
def rangesMeet (a n b m : Nat) : Bool := a < b + m && b < a + n

/-- Two records overlap in clusters or memory. -/
def recordsMeet (r q : List DWord) : Bool :=
  let c (x : List DWord) := (bits (recWord x 0) 47 32, bits (recWord x 0) 63 48)
  rangesMeet (c r).1 (c r).2 (c q).1 (c q).2 || rangesMeet (recWord r 1) (recWord r 2) (recWord q 1) (recWord q 2)
    || rangesMeet (recWord r 3) (recWord r 4) (recWord q 3) (recWord q 4)

/-- A range lies in the populated part of the HBM window, or of the second tier's (Table 11-2, R4). -/
def inHbm (a n : Nat) : Bool := a + n ≤ 1024 * 10 ^ 9
/-- The second tier's part. -/
def inTier2 (a n : Nat) : Bool := 2 ^ 40 ≤ a && a + n ≤ 2 ^ 40 + 4096 * 10 ^ 9

/-- A field of a record is out of range (Table 18-11). -/
def recordBad (r : List DWord) : Bool :=
  let d := recWord r 0
  let cl0 := bits d 47 32
  let ncl := bits d 63 48
  let gib := 2 ^ 30
  7 < bits d 7 0 || bits d 15 10 != 0 || bits d 31 16 != 0 || ncl == 0 || 160 < cl0 + ncl
    || recWord r 1 % gib != 0 || recWord r 2 % gib != 0 || recWord r 2 == 0 || !inHbm (recWord r 1) (recWord r 2)
    || recWord r 4 % gib != 0 || (recWord r 4 == 0 && recWord r 3 != 0)
    || (recWord r 4 != 0 && (recWord r 3 % gib != 0 || !inTier2 (recWord r 3) (recWord r 4)))
    || recWord r 5 % 4096 != 0 || recWord r 5 < recWord r 1 || recWord r 1 + recWord r 2 ≤ recWord r 5

/-- A record overlaps that of another enabled partition. -/
def recordClash (s : State) (r : List DWord) : Bool :=
  (List.range 8).any (fun q => q != bits (recWord r 0) 7 0 && (match nextRecord s q with
    | some x => recEnabled x && recordsMeet r x
    | none => false))

/-- A partition takes the record that is set for it. -/
def configure (s : State) (p : Nat) : State :=
  match nextRecord s p with
  | some r => modPart s p (fun x => { x with record := r, enabled := recEnabled r })
  | none => s

/-- The physical cluster that carries a logical one. -/
def physCluster (s : State) (c : Nat) : Nat := (coreOf s (4 * c)).phys / 4

/-- A spare of a die: a physical cluster that carries nothing and has not been replaced (R389): 42 to a die. -/
def spareOf (s : State) (die : Nat) : Option Nat :=
  ((List.range 42).map (fun i => 42 * die + i)).find? (fun p =>
    !(dieOf s die).bad.contains p && (List.range 40).all (fun c => physCluster s (40 * die + c) != p))

/-- The fuse map of a side of a physical core that carries no logical core: with its field fuses, or as shipped. -/
def idleMap (m : Mgmt) (q side : Nat) : BitVec 36 :=
  match tabGet m.maps q with
  | some x => if side = 0 then x.1 else x.2
  | none => Config.fuseMap q side

/-- A core carried by a physical core, as nothing has touched it. -/
def coreOn (m : Mgmt) (phys : Nat) : CoreSt := { phys := phys, mapA := idleMap m phys 0, mapB := idleMap m phys 1 }

/-- The fuse maps of a physical core that no longer carries its logical core are kept (R370). -/
def keepMaps (s : State) (core : Nat) : State :=
  let k := coreOf s core
  modMgmt s (fun m => { m with maps := tabPut m.maps k.phys (k.mapA, k.mapB) })

/-- The fuse maps of the cores of a logical cluster kept (R370). -/
def keepCluster (s : State) (c : Nat) : State := (List.range 4).foldl (fun s i => keepMaps s (4 * c + i)) s

/-- A logical cluster carried by a physical one, as nothing has touched it. -/
def carryCluster (s : State) (c p : Nat) : State :=
  (List.range 4).foldl (fun s i => setCore s (4 * c + i) (coreOn s.mgmt (4 * p + i))) s

/-- A physical cluster of a die is found bad. -/
def markBad (s : State) (p : Nat) : State :=
  modDie s (p / 42) (fun d => { d with bad := if d.bad.contains p then d.bad else d.bad ++ [p] })

/-- A logical cluster taken over by a spare of its die (R385, R389). -/
def moveToSpare (s : State) (c p : Nat) : State := carryCluster (markBad (keepCluster s c) (physCluster s c)) c p

/-- A degraded cluster taken over by a spare of its die, if there is one (R389). -/
def replaceCluster (s : State) (c : Nat) : State :=
  if !degraded s c then s
  else
    match spareOf s (c / 40) with
    | none => s
    | some p => logEvent (moveToSpare s c p) 0x0012 c p

/-- A context of a partition that is reset is forced to reset (R314, R387): with the status of the fatal error that it had
before, of which the dump is made (R294, R354). -/
def resetContext (p : Nat) (s : State) (c : Nat) : State :=
  if (ctxOf s p c).life == .absent then s
  else
    match (ctxOf s p c).fatal with
    | some e => dumpContext s p c e.1 e.2.1 e.2.2
    | none => forcedReset s p c 0x0202

/-- A partition reset (R232, R381, R387, R389): `how` is 0 by PART_RESET, 1 by a Function Level Reset. Its system image
starts again once start-up has come to stage 3 (R386). -/
def partReset (s : State) (p how : Nat) : State :=
  let s := (List.range 64).foldl (resetContext p) s
  let s := configure s p
  let cls := clustersOf s p
  let s := cls.foldl replaceCluster s
  let s := (coresOf cls).foldl (fun s c => modCore s c (fun k => { k with phase := 0 })) s
  let s := modPart s p (fun x => { x with comms := [], running := x.enabled && stageOf s == 3 })
  logEvent s 0x0030 p how

/-- A reset of a partition waits: a context of it that a fatal error has stopped has a cord that is not suspended yet, so
that its dump cannot be made (R354). -/
def resetWaits (s : State) (p : Nat) : Bool :=
  (List.range 64).any (fun c => (ctxOf s p c).life != .absent && (ctxOf s p c).fatal.isSome && !allSuspended s p c)

/-- FUNCTION_LEVEL_RESET (R355); it waits where it comes while it has to. -/
def execFunctionLevelReset (n : Nat) (s : State) : Host.Outcome State Fault Refusal :=
  .next (if n < 8 && !resetWaits s n then partReset s n 1 else s)

/-! ### The mailbox (R363, R364) -/

/-- The command GO started, if it is one of this opcode. -/
def started (s : State) (op : Nat) : Bool := s.mgmt.mbcmd.getLsbD 63 && bits s.mgmt.mbcmd.toNat 15 0 == op

/-- A command ends (R363): its response, RLEN, RESULT and DONE are written and GO is cleared. -/
def endCommand (m : Mgmt) (result : Nat) (resp : List Byte) : Mgmt :=
  let resp := if result = 0 then resp else []
  { m with
    mbbuf := memWrite m.mbbuf 0 resp,
    mbstat := BitVec.ofNat 64 (resp.length * 2 ^ 32 + result * 2 ^ 8 + 1),
    mbcmd := m.mbcmd &&& 0x7FFFFFFFFFFFFFFF }

/-- What a command does: its RESULT, its response, and the state after it. -/
abbrev Ran := Nat × List Byte × State

/-- Start-up has stopped with a failed signature: few commands are accepted (R364). -/
def signatureStop (s : State) : Bool := errOf s == 1 && stageOf s == 0

/-- The commands that are always accepted. -/
def alwaysTaken (op : Nat) : Bool := [0x0001, 0x0010, 0x0011, 0x0070].contains op

/-- How every mailbox command runs (R363, R364). -/
def mailbox (op : Nat) (lenOk : Nat → Bool) (run : List Byte → State → Ran) (s : State) :
    Host.Outcome State Fault Refusal :=
  .next (
    let n := bits s.mgmt.mbcmd.toNat 47 32
    if !started s op then s
    else if signatureStop s && !alwaysTaken op then modMgmt s (fun m => endCommand m 4 [])
    else if 32768 < n || !lenOk n then modMgmt s (fun m => endCommand m 2 [])
    else
      let r := run (memRead s.mgmt.mbbuf 0 n) s
      modMgmt r.2.2 (fun m => endCommand m r.1 r.2.1))

/-- n bytes of a request from one on, as a number. -/
def req (bs : List Byte) (off n : Nat) : Nat := leNat ((bs.drop off).take n)

/-- VERSION (R364). -/
def execVersion (s : State) : Host.Outcome State Fault Refusal :=
  mailbox 0x0001 (fun n => n == 0) (fun _ s =>
    (0, leBytes 8 Config.firmwareVersion.toNat ++ leBytes 2 Config.stepping ++ leBytes 2 1 ++ leBytes 4 1, s)) s

/-- FW_UPLOAD (R365). -/
def execFwUpload (s : State) : Host.Outcome State Fault Refusal :=
  mailbox 0x0010 (fun n => 8 ≤ n) (fun bs s =>
    let off := req bs 0 8
    if off % 8 != 0 || 2 ^ 26 < off + (bs.length - 8) then (3, [], s)
    else (0, [], modMgmt s (fun m => { m with staging := memWrite m.staging off (bs.drop 8) }))) s

/-- The SHA-512 digest of an image as 64 bytes: of its body, without the signature (R365). -/
def digestOf (image : List Byte) : List Byte := sha512 (image.take (image.length - 512))

/-- The digest of the image of an index in use: one that was committed, or the factory's (R370, R398). -/
def loadedDigest (m : Mgmt) (i : Nat) : List Byte :=
  match tabGet m.loaded i with
  | some image => digestOf image
  | none => (List.range 64).map (fun k => (Config.factoryDigest i).getD k 0)

/-- The module starts again at stage 0 with the stored images, after a failed signature (R365). -/
def restart (s : State) : State :=
  if signatureStop s then
    let ok := s.mgmt.images.all (fun e => Config.signatureOk e.2)
    setStage (modMgmt s (fun m => { m with loaded := m.images })) 0 (if ok then 0 else 1)
  else s

/-- FW_COMMIT (R365): a failed signature discards the staging. -/
def execFwCommit (s : State) : Host.Outcome State Fault Refusal :=
  mailbox 0x0011 (fun n => n == 8) (fun bs s =>
    let n := req bs 0 4
    let i := req bs 4 4
    if n < 520 || 2 ^ 26 < n || 3 < i then (3, [], s)
    else
      let image := memRead s.mgmt.staging 0 n
      if Config.signatureOk image then
        (0, digestOf image, restart (modMgmt s (fun m => { m with images := tabPut m.images i image })))
      else (5, [], modMgmt s (fun m => { m with staging := [] }))) s

/-- Bytes as doublewords. -/
def dwords : List Byte → Nat → List DWord
  | _, 0 => []
  | bs, n + 1 => BitVec.ofNat 64 (leNat (bs.take 8)) :: dwords (bs.drop 8) n

/-- PART_SET (R366). -/
def execPartSet (s : State) : Host.Outcome State Fault Refusal :=
  mailbox 0x0020 (fun n => n == 48) (fun bs s =>
    let r := dwords bs 6
    let p := bits (recWord r 0) 7 0
    if recordBad r || recordClash s r then (3, [], s)
    else if 2 ≤ stageOf s && (partOf s p).running then (4, [], s)
    else (0, [], modMgmt s (fun m => { m with
      configured := tabPut m.configured p r,
      stored := if bit (recWord r 0) 9 then tabPut m.stored p r else m.stored }))) s

/-- The partition that a PART_RESET names (R364). -/
def resetTarget (s : State) : Nat := req (memRead s.mgmt.mbbuf 0 1) 0 1

/-- A PART_RESET that is under way, and not to be turned away, waits with the reset that it asks for. -/
def resetHeld (s : State) : Bool :=
  started s 0x0021 && bits s.mgmt.mbcmd.toNat 47 32 == 1 && !signatureStop s && resetTarget s ≤ 7 && stageOf s == 3
    && resetWaits s (resetTarget s)

/-- PART_RESET (R364, R387). -/
def execPartReset (s : State) : Host.Outcome State Fault Refusal :=
  if resetHeld s then .next s
  else mailbox 0x0021 (fun n => n == 1) (fun bs s =>
    let p := req bs 0 1
    if 7 < p then (3, [], s) else if stageOf s != 3 then (4, [], s) else (0, [], partReset s p 0)) s

/-- DEV_SET (R367). -/
def execDevSet (s : State) : Host.Outcome State Fault Refusal :=
  mailbox 0x0030 (fun n => n == 264) (fun bs s =>
    let id := req bs 0 1
    if 127 < id || req bs 1 7 != 0 || req bs (8 + 2 * id) 2 != 0 then (3, [], s)
    else if 2 ≤ stageOf s then (4, [], s)
    else (0, [], modMgmt s (fun m => { m with
      devid := BitVec.ofNat 64 id,
      masks := (List.range 128).map (fun i => BitVec.ofNat 64 (req bs (8 + 2 * i) 2)) }))) s

/-- A member entry out of range (R368). -/
def memberBad (bs : List Byte) (k : Nat) : Bool :=
  let o := 8 + 16 * k
  127 < req bs o 1 || req bs (o + 1) 1 != 0 || 63 < req bs (o + 2) 2

/-- The collectives of a partition on a communicator are counted anew once it is set (R194, R381). One that is still pending
goes on, with the new members, and matches their collective of its own number (log 121, DESIGN CHOICE: R381 does not say what
becomes of it). -/
def restartColls (s : State) (part comm : Nat) : State :=
  { s with blocks := s.blocks.mapIdx (fun i x =>
      if partOfBlock s i == part then { x with colls := tabDel x.colls comm } else x) }

/-- COMM_SET (R368, R381): no members remove the communicator. -/
def execCommSet (s : State) : Host.Outcome State Fault Refusal :=
  mailbox 0x0040 (fun n => n == 8 + 16 * leNat (memRead s.mgmt.mbbuf 2 2)) (fun bs s =>
    let p := req bs 0 1
    let c := req bs 1 1
    let n := req bs 2 2
    if 7 < p || 1024 < n || req bs 4 4 != 0 || (List.range n).any (memberBad bs) then (3, [], s)
    else if stageOf s != 3 then (4, [], s)
    else (0, [], modPart (restartColls s p c) p (fun x =>
      let t := if n = 0 then tabDel x.comms c else tabPut x.comms c { image := dwords bs (1 + 2 * n) }
      { x with comms := t }))) s

/-- RING_SET (R369): an address of 0 removes the ring. -/
def execRingSet (s : State) : Host.Outcome State Fault Refusal :=
  mailbox 0x0050 (fun n => n == 16) (fun bs s =>
    let p := req bs 0 1
    let r := req bs 1 1
    let a := req bs 8 8
    if 7 < p || 15 < r || 63 < req bs 2 2 || req bs 4 4 != 0 || a % 64 != 0 || 2 ^ 57 ≤ a then (3, [], s)
    else if stageOf s != 3 then (4, [], s)
    else (0, [], modPart s p (fun x =>
      let t := if a = 0 then tabDel x.rings r else tabPut x.rings r { ctx := req bs 2 2, addr := a }
      { x with rings := t }))) s

/-- The fuse map of a side of a physical core: that of the logical core it carries, or its own (R370). -/
def physMap (s : State) (q side : Nat) : BitVec 36 :=
  match (List.range 640).find? (fun c => (coreOf s c).phys == q) with
  | some c => if side = 0 then (coreOf s c).mapA else (coreOf s c).mapB
  | none => idleMap s.mgmt q side

/-- The partition record in the report: 0 where it is disabled (Table 18-12). -/
def reportRecord (s : State) (p : Nat) : List Byte :=
  let x := partOf s p
  (List.range 6).flatMap (fun i => leBytes 8 (if x.enabled then recWord x.record i else 0))

/-- The attestation report without its signature (Table 18-12). -/
def reportBody (s : State) (nonce : List Byte) : List Byte :=
  nonce ++ leBytes 2 Config.stepping ++ leBytes 2 4 ++ leBytes 4 0
    ++ (List.range 4).flatMap (loadedDigest s.mgmt)
    ++ (List.range 672).flatMap (fun q => leBytes 8 (physMap s q 0).toNat ++ leBytes 8 (physMap s q 1).toNat)
    ++ (List.range 640).flatMap (fun c => leBytes 2 (coreOf s c).phys)
    ++ (List.range 8).flatMap (reportRecord s)

/-- ATTEST (R370, R398). -/
def execAttest (s : State) : Host.Outcome State Fault Refusal :=
  mailbox 0x0060 (fun n => n == 64) (fun bs s =>
    if stageOf s < 2 then (4, [], s)
    else
      let body := reportBody s bs
      let sig := Config.signReport body
      (0, body ++ (List.range 512).map (fun i => sig.getD i 0), s)) s

/-- An event as 32 bytes (R371). -/
def Event.bytes (e : Event) : List Byte :=
  leBytes 8 e.time ++ leBytes 2 e.kind ++ leBytes 2 e.subject ++ leBytes 4 0 ++ leBytes 16 e.detail

/-- EVENT_READ (R371). -/
def execEventRead (s : State) : Host.Outcome State Fault Refusal :=
  mailbox 0x0070 (fun n => n == 2) (fun bs s =>
    let n := req bs 0 2
    if n = 0 || 1023 < n then (3, [], s)
    else
      let es := s.mgmt.events.take n
      (0, leBytes 4 es.length ++ leBytes 4 s.mgmt.dropped ++ es.flatMap Event.bytes,
        modMgmt s (fun m => { m with events := m.events.drop n, dropped := 0 }))) s

/-! ### Fluid inputs (R372) -/

/-- A 16-bit field as a signed number. -/
def signed16 (x : Nat) : Int := (BitVec.ofNat 16 x).toInt

/-- The points that the host has written: temperature and q_chf. -/
def fluidPoints (m : Mgmt) : List (Int × Nat) :=
  (List.range 8).map (fun i =>
    let w := (m.qchf.getD i 0).toNat
    (signed16 (bits w 15 0), bits w 31 16))

/-- The temperatures of some points ascend strictly. -/
def ascending : List (Int × Nat) → Bool
  | a :: b :: t => a.1 < b.1 && ascending (b :: t)
  | _ => true

/-- VALID written 1 (R372). -/
def fluidSubmit (s : State) : State :=
  let ps := fluidPoints s.mgmt
  if ascending ps && ps.all (fun p => p.2 != 0) then
    modMgmt s (fun m => { m with fluidctl := 1, fluid := true, inTsat := signed16 m.tsat.toNat, inPoints := ps })
  else logEvent (modMgmt s (fun m => { m with fluidctl := 0 })) 0x0021 0 0

/-- VALID written 0 (R372). -/
def fluidWithdraw (s : State) : State := modMgmt s (fun m => { m with fluidctl := 0, fluid := false })

/-- FLUID_TABLE_SUBMIT (R372). -/
def execFluidTableSubmit (s : State) : Host.Outcome State Fault Refusal := .next (fluidSubmit s)
/-- FLUID_TABLE_WITHDRAW (R372). -/
def execFluidTableWithdraw (s : State) : Host.Outcome State Fault Refusal := .next (fluidWithdraw s)

/-! ### Registers (Tables 18-8, 18-9, 18-14) -/

/-- The die power word (Table 18-6). -/
def powerWord (d : Die) : Nat :=
  d.vcore % 65536 + d.fclk % 256 * 2 ^ 16 + d.qpeak % 256 * 2 ^ 24 + d.capeff % 65536 * 2 ^ 32 + d.pmeas % 65536 * 2 ^ 48

/-- A core word (R373). -/
def coreWord (k : CoreSt) : Nat := Nat.min k.droops 0xFFFFFFFF + (BitVec.ofInt 16 k.temp).toNat * 2 ^ 32

/-- A word of a port (Table 18-2). -/
def portWord (p : Port) (i : Nat) : Nat :=
  match i with
  | 0 => p.flits.toNat
  | 1 => p.feccor.toNat % 2 ^ 32 + p.crccor.toNat % 2 ^ 32 * 2 ^ 32
  | 2 => p.margin % 256 + p.grade % 4 * 256 + p.ctemp % 65536 * 2 ^ 16 + p.lost.toNat % 65536 * 2 ^ 32
      + p.recov.toNat % 65536 * 2 ^ 48
  | _ => 0

/-- A doubleword of a context slot (R377). -/
def slotWord (k : CtxSlot) (i : Nat) : Nat := if i = 0 then k.root + k.valid.toNat else k.ctx + k.part * 64

/-- A doubleword of a die's control space (R374, R376, R377). -/
def dieRead (d : Die) (off : Nat) : Nat :=
  if off < 0x8000 then
    (match tabGet d.faults (off / 32) with
      | some e => bits e.bits (64 * (off / 8 % 4) + 63) (64 * (off / 8 % 4))
      | none => if off % 32 = 0 then 15 * 64 else 0)
  else if off = 0x10000 then d.fqBase
  else if off = 0x10008 then d.fqSize
  else if off = 0x10010 then d.fqProd
  else if off = 0x10018 then d.fqCons
  else if off = 0x10100 then d.invCtx
  else if off = 0x10108 then d.invVa
  else if off = 0x10110 then d.invLen
  else if off = 0x10118 then d.invCmd
  else if 0x20000 ≤ off && off < 0x20800 then slotWord ((tabGet d.slots ((off - 0x20000) / 16)).getD {}) (off / 8 % 2)
  else 0

/-- A register of the fluid inputs. -/
def fluidRead (m : Mgmt) (off : Nat) : Nat :=
  if off = 0 then m.tsat.toNat else if off = 0x48 then m.fluidctl.toNat
  else if off < 0x48 then (m.qchf.getD (off / 8 - 1) 0).toNat else 0

/-- A register of the management block as the host reads it (Table 18-8). -/
def mgmtRead (s : State) (off : Nat) : DWord :=
  BitVec.ofNat 64 (
    if off % 8 != 0 then 0
    else if off = 0 then s.mgmt.bootstat.toNat + partsRunning s * 256
    else if off = 0x100 then s.mgmt.mbcmd.toNat
    else if off = 0x108 then s.mgmt.mbstat.toNat
    else if off = 0x200 then s.mgmt.triprec.toNat
    else if 0x1000 ≤ off && off < 0x1100 then
      (match off % 0x40 with
        | 0 => powerWord (dieOf s ((off - 0x1000) / 0x40))
        | 8 => (dieOf s ((off - 0x1000) / 0x40)).hostcap
        | _ => 0)
    else if 0x2000 ≤ off && off < 0x2050 then fluidRead s.mgmt (off - 0x2000)
    else if 0x3000 ≤ off && off < 0x3200 then portWord ((tabGet s.ports ((off - 0x3000) / 0x20)).getD {}) (off / 8 % 4)
    else if 0x8000 ≤ off && off < 0x10000 then leNat (memRead s.mgmt.mbbuf (off - 0x8000) 8)
    else if 0x10000 ≤ off && off < 0x11400 then coreWord (coreOf s ((off - 0x10000) / 8))
    else 0)

/-- An OPCODE of Table 18-10. -/
def knownOpcode (op : Nat) : Bool :=
  [0x0001, 0x0010, 0x0011, 0x0020, 0x0021, 0x0030, 0x0040, 0x0050, 0x0060, 0x0070].contains op

/-- MBCMD written (R363): ignored while GO is 1; an unknown opcode ends at once. -/
def mbcmdWrite (m : Mgmt) (v : DWord) : Mgmt :=
  if m.mbcmd.getLsbD 63 then m
  else
    let m := { m with mbcmd := v &&& 0x8000FFFF0000FFFF }
    let op := bits v.toNat 15 0
    if v.getLsbD 63 && !knownOpcode op then
      endCommand m 1 []
    else m

/-- MBBUF written (R363). -/
def mbbufWrite (m : Mgmt) (off : Nat) (v : DWord) : Mgmt :=
  if m.mbcmd.getLsbD 63 then m else { m with mbbuf := memWrite m.mbbuf off (leBytes 8 v.toNat) }

/-- TRIPREC cleared (R361). -/
def clearTrip (s : State) : State := modMgmt s (fun m => { m with triprec := 0 })

/-- A register of the fluid inputs written (R372). -/
def fluidWrite (s : State) (off : Nat) (v : DWord) : State :=
  if off = 0 then modMgmt s (fun m => { m with tsat := v &&& 0xFFFF })
  else if off = 0x48 then (if v.getLsbD 0 then fluidSubmit s else fluidWithdraw s)
  else if off < 0x48 then
    modMgmt s (fun m =>
      let q := (List.range 8).map (fun i => if i = off / 8 - 1 then v &&& 0xFFFFFFFF else m.qchf.getD i 0)
      { m with qchf := q })
  else s

/-- An INV register written: ignored while GO is 1 (R376). -/
def invWrite (d : Die) (off : Nat) (v : DWord) : Die :=
  if d.invCmd = 1 then d
  else if off = 0x10100 then { d with invCtx := bits v.toNat 6 0 }
  else if off = 0x10108 then { d with invVa := bits v.toNat 56 16 * 65536 }
  else if off = 0x10110 then { d with invLen := bits v.toNat 31 0 }
  else { d with invCmd := bits v.toNat 0 0 }

/-- A doubleword of a context slot written: the other keeps its value. -/
def slotHalf (s : State) (die off : Nat) (v : DWord) : State :=
  let k := (off - 0x20000) / 16
  let old := (tabGet (dieOf s die).slots k).getD {}
  let half (i : Nat) : DWord := if off / 8 % 2 = i then v else BitVec.ofNat 64 (slotWord old i)
  slotWrite s die k (slotOf (half 0) (half 1))

/-- A doubleword of a die's control space written (R374 to R377). -/
def dieWrite (s : State) (die off : Nat) (v : DWord) : State :=
  if off < 0x8000 then
    (if off % 32 != 0 then s
    else
      match bits v.toNat 2 1 with
      | 1 => serviceEntry s die (off / 32)
      | 2 => rejectEntry s die (off / 32)
      | _ => s)
  else if off = 0x10000 then modDie s die (fun d => { d with fqBase := bits v.toNat 51 12 * 4096 })
  else if off = 0x10008 then modDie s die (fun d => { d with fqSize := bits v.toNat 3 0 })
  else if off = 0x10018 then modDie s die (fun d => { d with fqCons := v.toNat })
  else if [0x10100, 0x10108, 0x10110, 0x10118].contains off then modDie s die (fun d => invWrite d off v)
  else if 0x20000 ≤ off && off < 0x20800 then slotHalf s die off v
  else s

/-- A write by the host to the management block (Table 18-8). -/
def hostWrite (s : State) (off : Nat) (v : DWord) : State :=
  if off = 0x100 then modMgmt s (fun m => mbcmdWrite m v)
  else if off = 0x108 then (if v.getLsbD 0 then modMgmt s (fun m => { m with mbstat := m.mbstat &&& ~~~1 }) else s)
  else if off = 0x200 then clearTrip s
  else if 0x1000 ≤ off && off < 0x1100 then
    (if off % 0x40 = 8 then modDie s ((off - 0x1000) / 0x40) (fun d => { d with hostcap := bits v.toNat 15 0 }) else s)
  else if 0x2000 ≤ off && off < 0x2050 then fluidWrite s (off - 0x2000) v
  else if 0x8000 ≤ off && off < 0x10000 then modMgmt s (fun m => mbbufWrite m (off - 0x8000) v)
  else if 0x20000 ≤ off && off < 0x28000 && off % 0x1000 < 0x80 then ringWrite s ((off - 0x20000) / 0x1000) off
  else s

/-- A write by a control core, which reaches every part of the block (R362): the die control spaces, and the registers
that the host writes (log 67). -/
def controlWrite (s : State) (off : Nat) (v : DWord) : State :=
  if 0x100000 ≤ off && off < 0x500000 then dieWrite s ((off - 0x100000) / 0x100000) (off % 0x100000) v
  else hostWrite s off v

/-- A doorbell page of a virtual function as it reads (R357, Table 18-1): SUBMIT and what the table does not list read as
0, and so does the page of a number that holds no context. -/
def functionRead (s : State) (part off : Nat) : DWord :=
  let ctx := off / 4096
  if 64 ≤ ctx || (ctxOf s part ctx).life == .absent then 0
  else if off % 4096 = 8 then (tabGet (partOf s part).sub ctx).getD 0
  else 0

/-- A register of the management block as a control core reads it (R362, R374): the die control spaces as well. -/
def controlRead (s : State) (off : Nat) : DWord :=
  if 0x100000 ≤ off && off < 0x500000 then
    BitVec.ofNat 64 (dieRead (dieOf s ((off - 0x100000) / 0x100000)) (off % 0x100000))
  else mgmtRead s off

/-- A write to a doorbell page of a virtual function (Table 18-1). -/
def functionWrite (s : State) (part off : Nat) (v : DWord) : State :=
  let ctx := off / 4096
  if 64 ≤ ctx then s
  else if off % 4096 = 0 then submitWrite s part ctx v
  else if off % 4096 = 8 && v.getLsbD 0 then
    modPart s part (fun p => match tabGet p.sub ctx with
      | some w => { p with sub := tabPut p.sub ctx (w &&& ~~~1) }
      | none => p)
  else s

/-- A write of 8 bytes to a register (R357, R361, R362). -/
def registerWrite (s : State) (who : MgmtWho) (off : Nat) (v : DWord) : State :=
  if off % 8 != 0 then s
  else
    match who with
    | .host => hostWrite s off v
    | .control => controlWrite s off v
    | .image p => if doorbellPage p ≤ off && off < doorbellPage p + 0x80 then ringWrite s p off else s
    | .function p => functionWrite s p off v

/-- MANAGEMENT_REGISTER_WRITE (R361): the register takes the value, and does what the spec gives it to do. -/
def execManagementRegisterWrite (who : MgmtWho) (off : Nat) (v : DWord) (s : State) :
    Host.Outcome State Fault Refusal := .next (registerWrite s who off v)

/-- TRIPREC_CLEAR (R361). -/
def execTriprecClear (s : State) : Host.Outcome State Fault Refusal := .next (clearTrip s)

/-- I3C_PRIVATE_WRITE (R363): it sets the offset and writes there as the host does. -/
def execI3cPrivateWrite (off : Nat) (v : DWord) (s : State) : Host.Outcome State Fault Refusal :=
  let off := off % 2 ^ 24
  .next (registerWrite (modMgmt s (fun m => { m with i3cOff := off })) .host off v)

/-- I3C_PRIVATE_READ (R363). -/
def execI3cPrivateRead (s : State) : Host.Outcome State Fault Refusal :=
  .next (send (modMgmt s (fun m => { m with i3cOff := (m.i3cOff + 8) % 2 ^ 24 })) (.i3c (mgmtRead s s.mgmt.i3cOff)))

end Sys2Proof.Machine
end

