-- ==== Sys2Proof/Machine/Links.lean ====
section
/-! DEFINITION. The port engines and their rings (R369, R383, R384), accesses from the host and from peers (R355,
R359, R378), and the Frekolink ports (R379, R380). -/

namespace Sys2Proof.Machine
open Sys2Proof

/-! ### Rings -/

/-- The physical address that a ring's context gives, if its die has translated it. -/
def ringPa (s : State) (part r va : Nat) (n : Need) : Option Nat :=
  let d := dieOf s (dieOfCore (firstCore s part))
  tlbFind d (srcSlot s (.ring part r va)) va n

/-- The first address of some ranges that is not translated as it must be. -/
def ringMiss (s : State) (part r : Nat) : List (Nat × Nat × Need) → Option Nat
  | [] => none
  | (va, n, need) :: rest =>
    match (addrs va n).find? (fun a => (ringPa s part r a need).isNone) with
    | some a => some a
    | none => ringMiss s part r rest

/-- A ring's translation at an address is under way. -/
def ringAsked (d : Die) (part r va : Nat) : Bool :=
  let mine (ok : Nat → Bool) (w : WalkSrc) : Bool := match w with
    | .ring p i v => p == part && i == r && ok v
    | _ => false
  let same (v : Nat) : Bool := granule v == granule va
  d.walks.any (fun w => mine same w.src) || d.waiting.any (fun w => mine same w.src)
    || d.faults.any (fun e => mine (fun _ => e.2.covers va) e.2.src)

/-- A ring asks for a translation, once. -/
def askRing (s : State) (part r va : Nat) : State :=
  let core := firstCore s part
  if ringAsked (dieOf s (dieOfCore core)) part r va then s
  else askWalk s core { src := .ring part r va, pc := 0, smask := 0 }

/-- Every byte of a translated range lies in memory that can be reached (R367). -/
def ringReach (s : State) (part r va n : Nat) (need : Need) : Bool :=
  (addrs va n).all (fun a => match (ringPa s part r a need).map (reachDevice s) with
    | some .home | some .far => true
    | _ => false)

/-- A byte of a translated range lies behind a port in recovery: the engine waits for it (R379). -/
def ringWaits (s : State) (part r : Nat) (rs : List (Nat × Nat × Need)) : Bool :=
  rs.any (fun e => (addrs e.1 e.2.1).any (fun a => (ringPa s part r a e.2.2).map (reachDevice s) == some .waits))

/-- Translated bytes read by a ring's engine: homed ones from outside the cores, others free. -/
def ringRead (s : State) (part r : Nat) : List Nat → List Byte × State
  | [] => ([], s)
  | va :: rest =>
    let x : List Byte × State := match ringPa s part r va .read with
      | some pa => if placeOf pa == .homed then foreignRead pa 1 s else freeBytes 1 s
      | none => ([0], s)
    let y := ringRead x.2 part r rest
    (x.1 ++ y.1, y.2)

/-- Translated bytes written by a ring's engine. -/
def ringPut (s : State) (part r va : Nat) : List Byte → State
  | [] => s
  | b :: bs =>
    let s := match ringPa s part r va .write with
      | some pa => if placeOf pa == .homed then foreignWrite s pa [b] else send s (.write pa [b])
      | none => s
    ringPut s part r ((va + 1) % 2 ^ 64) bs

/-- A ring changed. -/
def modRing (s : State) (part r : Nat) (f : Ring → Ring) : State :=
  modPart s part (fun p => match tabGet p.rings r with
    | some x => { p with rings := tabPut p.rings r (f x) }
    | none => p)

/-- A field of a ring's header (Table 18-3). -/
abbrev Head := Nat

/-- EN. -/
def headEn (h : Head) : Bool := bit h 0
/-- The entry count. -/
def headSize (h : Head) : Nat := 2 ^ (bits h 39 36 + 4)
/-- KIND. -/
def headKind (h : Head) : Nat := bits h 35 32
/-- BASE. -/
def headBase (h : Head) : Nat := bits h 127 64
/-- CONS. -/
def headCons (h : Head) : Nat := bits h 383 320
/-- PROD. -/
def headProd (h : Head) : Nat := bits h 319 256

/-- The ERR that a header is refused or stopped with (R384); 0 for none. -/
def headErr (h : Head) : Nat :=
  if 12 < bits h 39 36 || 2 < headKind h || headBase h % 64 != 0 then 2
  else if headSize h < (headProd h + 2 ^ 64 - headCons h) % 2 ^ 64 then 1 else 0

/-- ERR set and EN cleared in a header. -/
def stopRing (s : State) (part r va : Nat) (h : Head) (err : Nat) : State :=
  ringPut s part r va [BitVec.ofNat 8 (bits h 7 1 * 2), BitVec.ofNat 8 err]

/-- The engine looks at a ring that was rung (R384): it reads PROD, or refuses the header. -/
def lookRing (s : State) (part r : Nat) : State :=
  match tabGet (partOf s part).rings r with
  | none => s
  | some x =>
    if !x.rung then s
    else
      match ringMiss s part r [(x.addr, 64, .read)] with
      | some va => askRing s part r va
      | none =>
        if ringWaits s part r [(x.addr, 64, .read)] then s
        else if !ringReach s part r x.addr 64 .read then modRing s part r (fun x => { x with rung := false })
        else
        let y := ringRead s part r (addrs x.addr 64)
        let h := leNat y.1
        if !headEn h then modRing y.2 part r (fun x => { x with rung := false })
        else if headErr h != 0 then
          (match ringMiss s part r [(x.addr, 2, .write)] with
            | some va => askRing s part r va
            | none => modRing (stopRing y.2 part r x.addr h (headErr h)) part r (fun x => { x with rung := false }))
        else modRing y.2 part r (fun x => { x with rung := false, prod := headProd h, seen := true })

/-- RING_DOORBELL (R369, R384). -/
def execRingDoorbell (part r : Nat) (s : State) : Host.Outcome State Fault Refusal :=
  .next (lookRing (modRing s part r (fun x => { x with rung := true })) part r)

/-- RING_POLL (R384): PROD of every ring is read. -/
def execRingPoll (s : State) : Host.Outcome State Fault Refusal :=
  .next ((s.parts.flatMap (fun p => p.2.rings.map (fun r => (p.1, r.1)))).foldl (fun s e =>
    lookRing (modRing s e.1 e.2 (fun x => { x with rung := true })) e.1 e.2) s)

/-- A reserved field of a descriptor is not 0 (Table 18-4). -/
def descReserved (kind d : Nat) : Bool :=
  bits d 239 232 != 0 || bits d 159 128 != 0
    || (if kind = 2 then 2 < bits d 231 224 else bits d 231 224 != 0 || bits d 191 160 != 0 || bits d 127 64 != 0)

/-- What a descriptor moves (R383): the bytes it reads from its buffer, and those it writes there. -/
def descMoves (kind d len : Nat) : Nat × Nat :=
  match kind with
  | 0 => (bits d 223 192, 0)
  | 1 => (0, Nat.min len (bits d 223 192))
  | _ => (match bits d 231 224 with
      | 1 => (len, 0)
      | 2 => (0, len)
      | _ => (0, 0))

/-- CONS of a ring written (R384): a step, which is one from outside where the header is homed (R310). -/
def putCons (s : State) (part r : Nat) (x : Ring) (v : Nat) : State :=
  let s := ringPut s part r (x.addr + 40) (leBytes 8 v)
  match ringPa s part r (x.addr + 40) .write with
  | some pa => if placeOf pa == .homed then noteForeign s pa 8 else s
  | none => s

/-- The step at CONS of a ring waits for its turn in a replay (R311). -/
def consHeld (s : State) (part r : Nat) (x : Ring) : Bool :=
  match ringPa s part r (x.addr + 40) .write with
  | some pa => placeOf pa == .homed && foreignHeld s (2 ^ 64) pa
  | none => false

/-- A descriptor finished with a status: STATUS, for a received frame LEN, then CONS (R384). -/
def closeDesc (s : State) (part r : Nat) (x : Ring) (h : Head) (at_ status : Nat) (len : Option Nat) : State :=
  let s := match len with
    | some n => ringPut s part r (at_ + 24) (leBytes 4 n)
    | none => s
  let s := ringPut s part r (at_ + 30) (leBytes 2 status)
  modRing (putCons s part r x ((headCons h + 1) % 2 ^ 64)) part r (fun x => { x with bad := false })

/-- A received frame is longer than its buffer: it is cut, and STATUS says so (Table 18-4). -/
def frameCut (kind d len : Nat) : Bool := kind == 1 && bits d 223 192 < len

/-- A descriptor served (R384): `buf` is its buffer. What the far side reports beyond a cut frame is a device error. -/
def serveDesc (s : State) (part r : Nat) (x : Ring) (h : Head) (at_ d : Nat) (w : RingWorld) : Except Nat State :=
  let m := descMoves (headKind h) d w.len
  let buf := bits d 63 0
  if descReserved (headKind h) d then .ok (closeDesc s part r x h at_ 1 none)
  else if x.bad then .ok (closeDesc s part r x h at_ 2 none)
  else if w.status != 0 && w.status != 4 then .ok (closeDesc s part r x h at_ 3 none)
  else
    match ringMiss s part r [(buf, m.1, .read), (buf, m.2, .write)] with
    | some va => .error va
    | none =>
      if ringWaits s part r [(buf, m.1, .read), (buf, m.2, .write)] then .error buf
      else if !ringReach s part r buf m.1 .read || !ringReach s part r buf m.2 .write then
        .ok (closeDesc s part r x h at_ 2 none)
      else
        let y := ringRead s part r (addrs buf m.1)
        let z := freeBytes m.2 y.2
        .ok (closeDesc (ringPut z.2 part r buf z.1) part r x h at_ (if frameCut (headKind h) d w.len then 4 else 0)
          (if headKind h = 1 then some w.len else none))

/-- What the engine was asked to finish stays with the world until it can be finished. -/
def putBack (s : State) (part r : Nat) (w : RingWorld) : State :=
  { s with inputs := s.inputs ++ [{ i := .ringDescriptorFinish part r w }] }

/-- It stays there until the engine has its translations. -/
def finishLater (s : State) (part r va : Nat) (w : RingWorld) : State := putBack (askRing s part r va) part r w

/-- RING_DESCRIPTOR_FINISH (R384): the next descriptor of a ring is finished. -/
def execRingDescriptorFinish (part r : Nat) (w : RingWorld) (s : State) : Host.Outcome State Fault Refusal :=
  .next (match tabGet (partOf s part).rings r with
    | none => s
    | some x =>
      match ringMiss s part r [(x.addr, 64, .read), (x.addr + 40, 8, .write)] with
      | some va => finishLater s part r va w
      | none =>
        if ringWaits s part r [(x.addr, 64, .read)] || consHeld s part r x then putBack s part r w
        else if !ringReach s part r x.addr 64 .read then s
        else
        let y := ringRead s part r (addrs x.addr 64)
        let h := leNat y.1
        let at_ := headBase h + 32 * (headCons h % headSize h)
        if !headEn h || headErr h != 0 || !x.seen || headCons h == x.prod then y.2
        else
          match ringMiss y.2 part r [(at_, 32, .read), (at_ + 24, 8, .write)] with
          | some va => finishLater y.2 part r va w
          | none =>
            if ringWaits y.2 part r [(at_, 32, .read)] then putBack y.2 part r w
            else if !ringReach y.2 part r at_ 32 .read then y.2
            else
            let z := ringRead y.2 part r (addrs at_ 32)
            match serveDesc z.2 part r x h at_ (leNat z.1) w with
            | .ok t => t
            | .error va => finishLater z.2 part r va w)

/-! ### Accesses from outside -/

/-- An atomic step from outside at homed memory (R310, R355): the old value. -/
def outsideStep (s : State) (pa op ty val cmp : Nat) : State :=
  let size := if ty = 4 ∨ ty = 5 then 8 else 4
  let r := foreignRead pa size s
  let old := leNat r.1
  let y : Option Nat := if op = 7 then (if old = cmp % 2 ^ (8 * size) then some val else none)
    else some (newWord op ty old val)
  send (foreignStep r.2 pa size (match y with
    | some y => leBytes size y
    | none => [])) (.answer pa r.1)

/-- An access from outside served at its homes. -/
def outsideAccess (s : State) (pa : Nat) (a : Outside) : State :=
  match a with
  | .read n =>
    let r := foreignRead pa n s
    send r.2 (.answer pa r.1)
  | .write bs => foreignWrite s pa bs
  | .step op ty val cmp => outsideStep s pa op ty val.toNat cmp.toNat

/-- How many bytes an access from outside touches. -/
def outSize : Outside → Nat
  | .read n => n
  | .write bs => bs.length
  | .step _ ty _ _ => if ty = 4 ∨ ty = 5 then 8 else 4

/-- The host link completes an access (R355): of AtomicOps FetchAdd, Swap and CAS. -/
def hostCompletes (pa : Nat) : Outside → Bool
  | .step op ty _ _ => hostServes op ty && pa % (if ty = 4 ∨ ty = 5 then 8 else 4) == 0
  | _ => true

/-- HOST_MEMORY_ACCESS (R355, R359): to device HBM. -/
def execHostMemoryAccess (pa : Nat) (a : Outside) (s : State) : Host.Outcome State Fault Refusal :=
  .next (if inHbm pa (outSize a) && hostCompletes pa a then outsideAccess s pa a else send s (.refused pa))

/-- PEER_ACCESS_ARRIVAL (R378, R379): an offset into the HBM and second-tier windows is served; one at or above
0x0500_0000_0000 is rejected. Traffic over a port in recovery waits, and a lost port carries none. -/
def execPeerAccessArrival (peer pa : Nat) (a : Outside) (s : State) : Host.Outcome State Fault Refusal :=
  .next (match reachPeer s peer pa with
    | .waits => { s with inputs := s.inputs ++ [{ i := .peerAccessArrival peer pa a }] }
    | .reject 8 => s
    | _ => if inHbm pa (outSize a) || inTier2 pa (outSize a) then outsideAccess s pa a else send s (.refused pa))

/-! ### Ports -/

/-- A port. -/
def portOf (s : State) (n : Nat) : Port := (tabGet s.ports n).getD {}

/-- The state with a port changed. -/
def modPort (s : State) (n : Nat) (f : Port → Port) : State := { s with ports := tabPut s.ports n (f (portOf s n)) }

/-- A counter that never wraps. -/
def countTo (x : DWord) (top : Nat) : DWord := if x.toNat < top then x + 1 else x

/-- Traffic that waited goes on, or ends, after a port has changed. -/
def resumeTraffic (s : State) : State := (List.range s.blocks.length).foldl settleAll s

/-- PORT_RECOVERY_ENTER (R379): a window of 1 to 2,000 ms is announced, to the peer and to both watchdogs. -/
def execPortRecoveryEnter (port window : Nat) (s : State) : Host.Outcome State Fault Refusal :=
  .next (if (portOf s port).up && (portOf s port).window.isNone && port < 16 && 1 ≤ window && window ≤ 2000 then
    send (modPort s port (fun p => { p with window := some window, recov := countTo p.recov 65535 })) (.recovery port window)
  else s)

/-- PORT_RECOVERED (R379). -/
def execPortRecovered (port : Nat) (s : State) : Host.Outcome State Fault Refusal :=
  .next (if (portOf s port).window.isSome then
    resumeTraffic (send (modPort s port (fun p => { p with window := none })) (.recovered port))
  else s)

/-- The peer that a port leads to: the lowest whose mask names it. -/
def peerOf (s : State) (port : Nat) : Nat :=
  ((List.range 128).find? (fun i => (s.mgmt.masks.getD i 0).getLsbD port)).getD 0

/-- PORT_RECOVERY_EXPIRY (R379): a port still down at the end of its window is lost. -/
def execPortRecoveryExpiry (port : Nat) (s : State) : Host.Outcome State Fault Refusal :=
  .next (if (portOf s port).window.isSome then
    let s := modPort s port (fun p => { p with window := none, up := false, lost := countTo p.lost 65535 })
    resumeTraffic (logEvent s 0x0002 port (peerOf s port))
  else s)

/-- PORT_LINK_UP (R380). -/
def execPortLinkUp (port : Nat) (s : State) : Host.Outcome State Fault Refusal :=
  .next (if port < 16 && !(portOf s port).up then
    resumeTraffic (modPort s port (fun p => { p with up := true, window := none }))
  else s)

/-- The grade of a rate per 10^12 flits (R380). -/
def gradeFor (corrected flits : Nat) : Nat :=
  let r := corrected * 10 ^ 12
  if r < flits then 0 else if r < 100 * flits then 1 else if r < 10000 * flits then 2 else if corrected = 0 then 0 else 3

/-- A counter that has gone on by a free amount and has not passed its top. -/
def growBy (x free top : Nat) : DWord := BitVec.ofNat 64 (Nat.min top (x + free))

/-- The counters and readings of a port after a second of traffic, of which the link brings the flits and the corrected
errors: how many of these a replay has corrected is free (Table 18-2). -/
def portSecond (s : State) (port corrected flits : Nat) : State :=
  let a := takeFree s
  let b := takeFree a.2
  let replayed := a.1.toNat % (corrected + 1)
  modPort b.2 port (fun p => { p with
    flits := growBy p.flits.toNat flits (2 ^ 64 - 1),
    crccor := growBy p.crccor.toNat replayed (2 ^ 32 - 1),
    feccor := growBy p.feccor.toNat (corrected - replayed) (2 ^ 32 - 1),
    recent := ((flits, corrected) :: p.recent).take 60,
    ctemp := b.1.toNat % 2 ^ 16, margin := b.1.toNat / 2 ^ 16 % 256 })

/-- The grade of a port: from the corrected errors and the flits of its last 60 s (R380). -/
def gradeOf (p : Port) : Nat := gradeFor ((p.recent.map Prod.snd).sum) ((p.recent.map Prod.fst).sum)

/-- GRADE_RECOMPUTE (R380): a second of traffic is over. -/
def execGradeRecompute (port corrected flits : Nat) (s : State) : Host.Outcome State Fault Refusal :=
  .next (
    let old := (portOf s port).grade
    let s := portSecond s port corrected flits
    let g := gradeOf (portOf s port)
    let s := modPort s port (fun p => { p with grade := g })
    if 2 ≤ g && old < g then logEvent s 0x0001 port g else s)

end Sys2Proof.Machine
end

