-- ==== Sys2Proof/Machine/Portable.lean ====
section
/-! DEFINITION. Portable programs and their translation into native code (R395, R396). The form in which an object
holds its program, and the shape of the native code, are the model's own (log 107). -/

namespace Sys2Proof.Machine
open Sys2Proof

/-! ### What a portable program may hold -/

/-- The fields of a long form with everything 0. -/
def blankForm : LForm :=
  { d := 0, a := 0, b := 0, c := 0, pred := 0, pneg := false, ty := 0, mod := 0, fsel := false, setf := false,
    asc := false, bsc := false, mod2 := 0, lit := none }

/-- A long opcode of the instruction reference of file 04, or a load or store of global memory. -/
def portableOp (op : Nat) : Bool := op < 0x200 || op == 0x300 || op == 0x301

/-- A special register that a portable program reads: any but %lane, %width and %passes (R396). -/
def portableReg (n : Nat) : Bool := n != 0x00 && n != 0x03 && n != 0x04

/-- The kind of an instruction is one that a portable program may hold: PSET.bit looks at %lane. -/
def portableKind (i : Instr) : Bool :=
  match i with
  | .mfs f => portableReg f.a.toNat && !LForm.scalar f
  | .pset f => f.mod == 0
  | _ =>
    match i.shape with
    | .short _ _ => true
    | .long op f => portableOp op && !LForm.scalar f
    | _ => false

/-- The fields that a portable program leaves to the translator: the flag of the instruction. -/
def flagless (i : Instr) : Bool :=
  match i.shape with
  | .long _ f => !f.setf && !f.fsel
  | _ => true

/-- A register of a portable program: its own vector registers, and p1 to p6. -/
def portableUse (n : Nat) (r : RegUse) : Bool :=
  match r with
  | .pred k => k ≤ 6
  | r => RegUse.ok n r

/-- The predicate that an instruction is under. -/
def predOf (i : Instr) : Nat :=
  match i.shape with
  | .short _ f => f.pred.toNat
  | .long _ f => f.pred.toNat
  | _ => 0

/-- An operation that a portable program of n registers may hold (R396). -/
def portableInstr (n : Nat) (i : Instr) : Bool :=
  portableKind i && flagless i && predOf i ≤ 6 && (admits 32 i).regs.all (portableUse n)
    && (decodeTrap { V := n, W := 32, aval := false, bval := false, injected := false } i).isNone

/-- A reduction that Table 5-6 admits, over the program's registers. -/
def portableReduce (n op ty d a : Nat) : Bool :=
  (if op ≤ 2 then [1, 2, 3, 4, 5].contains ty else op ≤ 5 && ty == 0)
    && RegUse.ok n (.vec d (ty == 4 || ty == 5)) && RegUse.ok n (.vec a (ty == 4 || ty == 5))

/-- A region that may stand in a program of n registers. -/
def portableRegion (n : Nat) (r : PortableRegion) : Bool :=
  match r with
  | .each ops => ops.all (fun ws => ((instrOf ws).map (portableInstr n)).getD false)
  | .reduce op ty d a => portableReduce n op ty d a

/-- A portable program that can be translated: at least one index, and room for the translator's registers. -/
def portableOk (p : Portable) : Bool := 1 ≤ p.n && p.regs ≤ 240 && p.regions.all (portableRegion p.regs)

/-! ### Native code -/

/-- Each instruction stands in a clause of its own, which waits for the one before it. -/
def lineHeader : Header :=
  { rgn := false, yield := false, bval := false, flagB := 0, aval := true, flagA := 0, wait := 1 }

/-- An instruction whose result the scoreboard does not watch is tagged (Table 3-9). -/
def tagged (i : Instr) : List Word :=
  match i.shape with
  | .long op f =>
    if (0x180 ≤ op && op < 0x200) || [0x300, 0x301, 0x304, 0x305].contains op then
      [encodeLongLo op f, encodeLongHi { f with setf := true }] ++ f.lit.toList
    else encode i
  | _ => encode i

/-- An instruction with its header. -/
def line (i : Instr) : List Word := encodeHeader lineHeader :: tagged i

/-- Some lines of code one after another. -/
def lines (is : List Instr) : List Word := is.flatMap line

/-- A branch by some bytes from itself, under p7 or where p7 is false. -/
def jump (neg : Bool) (by_ : Int) : Instr :=
  .bra { blankForm with pred := 7, pneg := neg, lit := some (BitVec.ofInt 32 by_) }

/-- Code that is passed over where p7 is false: the branch has 12 bytes. -/
def unless7 (code : List Word) : List Word := line (jump true (12 + 4 * code.length)) ++ code

/-- The registers that the translator takes beside the program's: the index, the base of its values, an offset, a word,
and two pairs of a reduction. -/
structure Temps where
  idx  : BitVec 8
  base : BitVec 8
  off  : BitVec 8
  word : BitVec 8
  x    : BitVec 8
  y    : BitVec 8

/-- They follow the program's registers. -/
def tempsOf (p : Portable) : Temps :=
  let b := (p.regs + 1) / 2 * 2
  let r (k : Nat) : BitVec 8 := BitVec.ofNat 8 (b + k)
  { idx := r 0, base := r 1, off := r 2, word := r 3, x := r 4, y := r 6 }

/-- A register set to a number. -/
def setReg (d : BitVec 8) (x : Nat) : Instr := .movi { blankForm with d := d, lit := some (BitVec.ofNat 32 x) }

/-- p7 set by a comparison of a register with a number, as unsigned numbers: 0 equal, 2 below. -/
def test7 (cond : Nat) (a : BitVec 8) (x : Nat) : Instr :=
  .icmp { blankForm with d := 7, a := a, ty := 2, mod := BitVec.ofNat 4 cond, lit := some (BitVec.ofNat 32 x) }

/-- A load from the scratchpad at the base, which holds the block's position, and an offset, of a type. -/
def getAt (t : Temps) (ty : Nat) (d : BitVec 8) (off : Nat) : List Instr :=
  [setReg t.off off, .ldc { blankForm with d := d, a := t.base, c := t.off, ty := BitVec.ofNat 4 ty }]

/-- A store to it. -/
def putAt (t : Temps) (ty : Nat) (b : BitVec 8) (off : Nat) : List Instr :=
  [setReg t.off off, .stc { blankForm with b := b, a := t.base, c := t.off, ty := BitVec.ofNat 4 ty }]

/-- The words of scratchpad in which the values of one index stay between regions: its registers, and p1 to p6. -/
def homeWords (p : Portable) : Nat := (p.regs + 7) / 2 * 2

/-- Where the values of the reductions stand, after those of every index. -/
def workAt (p : Portable) : Nat := 4 * homeWords p * p.n

/-- The indices of the padded tree (R121, R396). -/
def paddedCount (n : Nat) : Nat := ((List.range 33).map (fun k => 2 ^ k)).find? (fun m => n ≤ m) |>.getD n

/-- The block's own scratchpad (R260): its position in bits 25..24 of the base, which is its core's place in the cluster
(R18). -/
def addPosition (t : Temps) : List Instr :=
  [.mfs { blankForm with d := t.off, a := 0x10 },
   .and { blankForm with d := t.off, a := t.off, lit := some 3 },
   .shl { blankForm with d := t.off, a := t.off, lit := some 24 },
   .add { blankForm with d := t.base, a := t.base, b := t.off, ty := 2 }]

/-- The values of an index brought into the registers. -/
def loadIndex (p : Portable) (t : Temps) : List Instr :=
  .mul { blankForm with d := t.base, a := t.idx, ty := 2, lit := some (BitVec.ofNat 32 (4 * homeWords p)) }
    :: addPosition t ++ (List.range p.regs).flatMap (fun r => getAt t 0 (BitVec.ofNat 8 r) (4 * r))
    ++ (List.range 6).flatMap (fun k => getAt t 0 t.word (4 * (p.regs + k))
      ++ [Instr.icmp { blankForm with d := BitVec.ofNat 8 (k + 1), a := t.word, ty := 2, mod := 1, lit := some 0 }])

/-- The values of an index put back. -/
def saveIndex (p : Portable) (t : Temps) : List Instr :=
  (List.range p.regs).flatMap (fun r => putAt t 0 (BitVec.ofNat 8 r) (4 * r))
    ++ (List.range 6).flatMap (fun k =>
      [setReg t.word 0, Instr.movi { blankForm with d := t.word, pred := BitVec.ofNat 3 (k + 1), lit := some 1 }]
        ++ putAt t 0 t.word (4 * (p.regs + k)))

/-- An operation as it stands in the native code: one instruction (R396), where %strand is the index. -/
def nativeOp (t : Temps) (i : Instr) : Instr :=
  match i with
  | .mfs f =>
    if f.a == 1 then
      (if f.ty == 5 then .cvt { blankForm with d := f.d, a := t.idx, ty := 5, mod2 := 2, pred := f.pred, pneg := f.pneg }
      else .mov { blankForm with d := f.d, a := t.idx, pred := f.pred, pneg := f.pneg })
    else i
  | i => i

/-- The work of a region at the index in its register. -/
def bodyOf (p : Portable) (t : Temps) (ops : List (List Word)) : List Word :=
  lines (loadIndex p t ++ (ops.filterMap instrOf).map (nativeOp t) ++ saveIndex p t)

/-- The index register set to the strand number. -/
def readStrand (t : Temps) : Instr := .mfs { blankForm with d := t.idx, a := 1 }

/-- A number added to the index, or the index multiplied by one. -/
def addIdx (t : Temps) (n : Nat) : Instr :=
  .add { blankForm with d := t.idx, a := t.idx, ty := 2, lit := some (BitVec.ofNat 32 n) }
/-- The index multiplied by a number. -/
def mulIdx (t : Temps) (n : Nat) : Instr :=
  .mul { blankForm with d := t.idx, a := t.idx, ty := 2, lit := some (BitVec.ofNat 32 n) }

/-- What only strand 0 does. -/
def strandZero (t : Temps) (code : List Word) : List Word :=
  lines [readStrand t, test7 0 t.idx 0] ++ unless7 code

/-- The form in which a region runs (R396). -/
inductive RegionForm where
  | lanes
  | coarse
  | serial
  deriving DecidableEq, Repr

/-- How many indices a strand has. -/
def perStrand (p : Portable) (strands : Nat) : Nat := (p.n + strands - 1) / strands

/-- A parallel region in a form: strand s has the indices s, s + T, ... of T strands; or the k indices from s k on; or
strand 0 has them all, one after another. -/
def eachCode (p : Portable) (t : Temps) (strands : Nat) (form : RegionForm) (ops : List (List Word)) : List Word :=
  let body := bodyOf p t ops
  let k := perStrand p strands
  let guarded : List Word := line (test7 2 t.idx p.n) ++ unless7 body
  match form with
  | .lanes => (List.range k).flatMap (fun u => lines [readStrand t, addIdx t (u * strands)] ++ guarded)
  | .coarse => (List.range k).flatMap (fun u => lines [readStrand t, mulIdx t k, addIdx t u] ++ guarded)
  | .serial =>
    let round := body ++ lines [addIdx t 1, test7 2 t.idx p.n]
    strandZero t (round ++ line (jump false (-(4 * (round.length + 1) : Int))))

/-- The identity of an operation of Table 5-6, as two words. -/
def identityWords (op ty : Nat) : Nat × Nat :=
  match op with
  | 0 => if ty = 3 then (0x80000000, 0) else (0, 0)
  | 1 => (match ty with
      | 1 => (0x7FFFFFFF, 0)
      | 3 => (0x7F800000, 0)
      | 4 => (0xFFFFFFFF, 0x7FFFFFFF)
      | _ => (0xFFFFFFFF, 0xFFFFFFFF))
  | 2 => (match ty with
      | 1 => (0x80000000, 0)
      | 3 => (0xFF800000, 0)
      | 4 => (0, 0x80000000)
      | _ => (0, 0))
  | 3 => (0xFFFFFFFF, 0)
  | _ => (0, 0)

/-- A node of the tree: x := x and y combined (Table 5-6). -/
def nodeInstr (t : Temps) (op ty : Nat) : Instr :=
  let f : LForm := { blankForm with d := t.x, a := t.x, b := t.y, ty := BitVec.ofNat 4 ty }
  match op with
  | 0 => if ty = 3 then .fadd f else .add f
  | 1 => if ty = 3 then .fmin f else .min f
  | 2 => if ty = 3 then .fmax f else .max f
  | 3 => .and f
  | 4 => .or f
  | _ => .xor f

/-- The tree over m values, level by level: the neighbours combined, the lower on the left, until one is left. -/
def treeCode (t : Temps) (op ty at_ size : Nat) : Nat → Nat → List Instr
  | 0, _ => []
  | fuel + 1, m =>
    if m ≤ 1 then []
    else
      (List.range (m / 2)).flatMap (fun i =>
        getAt t ty t.x (at_ + size * (2 * i)) ++ getAt t ty t.y (at_ + size * (2 * i + 1))
          ++ [nodeInstr t op ty] ++ putAt t ty t.x (at_ + size * i))
        ++ treeCode t op ty at_ size fuel (m / 2)

/-- A block reduction (R121, R396): strand 0 combines register `a` of every index, with identities in the padding, and
every index has the value in register `d`. -/
def reduceCode (p : Portable) (t : Temps) (op ty d a : Nat) : List Word :=
  let size := if ty = 4 ∨ ty = 5 then 8 else 4
  let work := workAt p
  let home (i r : Nat) : Nat := 4 * (homeWords p * i + r)
  let id_ := identityWords op ty
  let m := paddedCount p.n
  strandZero t (lines (setReg t.base 0
    :: addPosition t ++ (List.range p.n).flatMap (fun i => getAt t ty t.x (home i a) ++ putAt t ty t.x (work + size * i))
    ++ [setReg t.x id_.1, setReg (t.x + 1) id_.2]
    ++ (List.range (m - p.n)).flatMap (fun i => putAt t ty t.x (work + size * (p.n + i)))
    ++ treeCode t op ty work size 33 m
    ++ getAt t ty t.x work
    ++ (List.range p.n).flatMap (fun i => putAt t ty t.x (home i d))))

/-! ### The translator -/

/-- The free choices of a translation: the width, the strands of a block, and the form of each region. -/
structure Choices where
  width   : Nat
  strands : Nat
  forms   : Nat → RegionForm

/-- The width and the number of strands from a free number: full cords, as many as there are indices, R17 allows 16. -/
def choicesOf (p : Portable) (free : Nat → Nat) : Choices :=
  let w := [16, 32, 64].getD (free 0 % 3) 64
  let most := Nat.min 16 ((p.n + w - 1) / w)
  { width := w, strands := Nat.min p.n (w * (1 + free 0 / 3 % most)),
    forms := fun r => match free (r + 1) % 3 with
      | 0 => .lanes
      | 1 => .coarse
      | _ => .serial }

/-- A region as native code. -/
def regionCode (p : Portable) (t : Temps) (c : Choices) (i : Nat) (r : PortableRegion) : List Word :=
  match r with
  | .each ops => eachCode p t c.strands (c.forms i) ops
  | .reduce op ty d a => reduceCode p t op ty d a

/-- A portable program as native code (R396): its regions, each followed by a BAR, and the end of its strands. -/
def translateCode (p : Portable) (c : Choices) : List Word :=
  p.regions.zipIdx.flatMap (fun e => regionCode p (tempsOf p) c e.2 e.1 ++ line (.bar blankForm)) ++ line (.exit blankForm)

/-- The directives of the native code, from which the loader builds the shape fields of a launch record (R290): the
width, the strands of a block, V / 8, and the lines of scratchpad. -/
def translateShape (p : Portable) (c : Choices) : Shape :=
  { width := c.width, strands := c.strands, vregs := ((tempsOf p).y.toNat + 2 + 7) / 8,
    lines := (workAt p + 8 * paddedCount p.n + 255) / 256 }

end Sys2Proof.Machine
end

