-- ==== Sys2Proof/Machine/Loader.lean ====
section
/-! DEFINITION. Code objects and code versions (R62, R180, R351, R352, R395). -/

namespace Sys2Proof
open Sys2Proof.Machine

/-! ### Code objects -/

/-- A field of the header (Table 18-7). -/
def CodeObject.field (o : CodeObject) (hi lo : Nat) : Nat := bits o.head.toNat hi lo
/-- MAGIC. -/
def CodeObject.magic (o : CodeObject) : Nat := o.field 31 0
/-- FORMVER. -/
def CodeObject.formver (o : CodeObject) : Nat := o.field 47 32
/-- STEPPING. -/
def CodeObject.stepping (o : CodeObject) : Nat := o.field 63 48
/-- FORM. -/
def CodeObject.form (o : CodeObject) : Nat := o.field 65 64
/-- KTAB, where the kernel table stands in the object: `consts` is what it says. -/
def CodeObject.ktab (o : CodeObject) : Nat := o.field 191 128
/-- NKERN. -/
def CodeObject.nkern (o : CodeObject) : Nat := o.field 223 192

/-- The kernels of an object: NKERN of its kernel table. -/
def CodeObject.kernels (o : CodeObject) : List (Nat × List Nat) := o.consts.take o.nkern

end Sys2Proof

namespace Sys2Proof.Machine
open Sys2Proof

/-! ### Versions and loading -/

/-- An object that the loader refuses (R395). -/
def objectRefused (o : CodeObject) : Bool := o.magic != 0x4C444E58 || 1 < o.formver || 2 ≤ o.form

/-- Addresses that an installed version holds: its bytes never change (R352). -/
def versionAtAny (x : Ctx) (base len : Nat) : Bool :=
  x.versions.any (fun v => base < v.2.base + v.2.len && v.2.base < base + len)

/-- A number that no version of a context has. -/
def newVersion (x : Ctx) : Nat := x.versions.foldl (fun n v => Nat.max n (v.1 + 1)) 0

/-- The version that a native object becomes (R62, R395): native for this stepping, else interlocked. -/
def versionOf (o : CodeObject) : Version :=
  { base := o.base, len := o.len, step := o.stepping, intlk := o.stepping != Config.stepping, consts := o.kernels }

/-- The native version that a portable program is translated into (R395, R396). -/
def translated (o : CodeObject) (p : Portable) (c : Choices) : Version :=
  { base := o.base, len := 4 * (translateCode p c).length, step := Config.stepping, intlk := false, consts := o.kernels,
    shape := some (translateShape p c) }

/-- The free numbers that the translator chooses by. -/
def freeFrom (s : State) (k : Nat) : Nat := (Config.freeWord (s.free + k)).toNat

/-- The physical address that a context's tree gives, without an access: the loader knows where it has mapped what it
places (R13). -/
def mappedPa (s : State) (part ctx va : Nat) : Option Nat :=
  let d := dieOf s (dieOfCore (firstCore s part))
  let slot := (tabGet d.slots (slotOn d part ctx)).getD {}
  if !slot.valid then none
  else
    match walk s.mem slot.root va .read with
    | .page _ base _ pa _ => some (pa + (va - base))
    | .fault _ => none

/-- The bytes of a data object with the addresses filled in (R132). -/
def filledBytes (os : List DataObject) (o : DataObject) : List Byte :=
  o.fills.foldl (fun bs f =>
    let a := ((os[f.2.1]?).map DataObject.addr).getD 0
    bs.take f.1 ++ leBytes 4 (if f.2.2 then a / 2 ^ 32 else a) ++ bs.drop (f.1 + 4)) o.bytes

/-- Some data objects stand where the loader may place them (R13): each aligned to 256 bytes, on mapped pages, apart from
the others, and its fills on its own words and of objects that are there. -/
def placedWell (s : State) (part ctx : Nat) (os : List DataObject) : Bool :=
  os.zipIdx.all (fun e =>
    let o := e.1
    o.addr % 256 == 0 && (addrs o.addr o.bytes.length).all (fun a => (mappedPa s part ctx a).isSome)
      && o.fills.all (fun f => f.1 + 4 ≤ o.bytes.length && f.2.1 < os.length)
      && os.zipIdx.all (fun x => x.2 == e.2
        || !(o.addr < x.1.addr + x.1.bytes.length && x.1.addr < o.addr + o.bytes.length)))

/-- A data object laid down in the context's global memory (R13). -/
def placeData (part ctx : Nat) (os : List DataObject) (s : State) (o : DataObject) : State :=
  ((addrs o.addr o.bytes.length).zip (filledBytes os o)).foldl (fun s e => match mappedPa s part ctx e.1 with
    | some pa => physWrite s pa [e.2]
    | none => s) s

/-- An object installed: its version, the descriptors it declares, its code and its data objects. -/
def installWith (s : State) (part ctx : Nat) (o : CodeObject) (v : Version) (code : List (Nat × Byte)) : State :=
  let s := modCtx s part ctx (fun x => { x with
    versions := tabPut x.versions (newVersion x) v,
    desc := o.tensors.foldl (fun t e => tabPut t (e.1 % 1024) (BitVec.ofNat 512 e.2)) x.desc })
  let s := code.foldl (fun s e => if placeOf e.1 == .homed then foreignWrite s e.1 [e.2] else s) s
  o.data.foldl (placeData part ctx o.data) s

/-- A native object installed. -/
def installObject (s : State) (part ctx : Nat) (o : CodeObject) : State := installWith s part ctx o (versionOf o) o.bytes

/-- The bytes of native code by physical address, where every page of it is mapped. -/
def codeBytes (s : State) (part ctx base : Nat) (code : List Word) : Option (List (Nat × Byte)) :=
  let pas := (addrs base (4 * code.length)).map (mappedPa s part ctx)
  if pas.all Option.isSome then some ((pas.map (fun a => a.getD 0)).zip (code.flatMap bytesOfWord)) else none

/-- A portable object is translated into a new native version and installed (R352, R395, R396), where it can be and its
code has room. -/
def installPortable (s : State) (part ctx : Nat) (o : CodeObject) (p : Portable) : State :=
  let c := choicesOf p (freeFrom s)
  let v := translated o p c
  if !portableOk p || o.base % 4 != 0 || versionAtAny (ctxOf s part ctx) v.base v.len then s
  else
    match codeBytes s part ctx o.base (translateCode p c) with
    | some code => installWith { s with free := s.free + 1 + p.regions.length } part ctx o v code
    | none => s

/-- CODE_OBJECT_LOAD (R13, R395, R396): an object is refused, or installed at addresses that no version holds, its data
objects where the loader may place them; a portable one is translated. -/
def execCodeObjectLoad (part ctx : Nat) (o : CodeObject) (s : State) : Host.Outcome State Fault Refusal :=
  let x := ctxOf s part ctx
  .next (if x.life == .absent || objectRefused o || !placedWell s part ctx o.data then s
  else if o.form = 1 then ((o.portable.map (installPortable s part ctx o)).getD s)
  else if versionAtAny x o.base o.len then s
  else installObject s part ctx o)

/-- An address lies in a version. -/
def Version.holds (v : Version) (a : Nat) : Bool := v.base ≤ a && a < v.base + v.len

/-- A strand refers to a version (R352): by a CALL reference, its PC or its trap-return PC. -/
def strandRefers (n : Nat) (v : Version) (t : Strand) : Bool :=
  t.live && (t.refs.any (fun r => r.version == n) || v.holds t.pc.toNat || v.holds t.tret.toNat)

/-- The shadow of an open region refers to a version: a withdrawal restores its references and its PCs (R340). -/
def shadowRefers (n : Nat) (v : Version) (c : Cord) : Bool :=
  ((c.region.map Region.lanes).getD []).any (fun h =>
    h.refs.any (fun r => r.version == n) || v.holds h.pc.toNat || v.holds h.tret.toNat)

/-- Something refers to a version of a context (R352): a strand, or a record that is queued or retained. -/
def versionUsed (s : State) (part ctx n : Nat) (v : Version) : Bool :=
  (ctxBlocks s part ctx).any (fun b => ((s.blocks[b]?).map (fun x =>
      x.cords.any (fun c => !c.ended && (c.strands.any (strandRefers n v) || shadowRefers n v c)))).getD false)
    || s.grids.any (fun g => g.within part ctx && !g.over && v.holds g.entry)

/-- CODE_VERSION_REMOVE (R352): a superseded version whose count is 0. -/
def execCodeVersionRemove (part ctx v : Nat) (s : State) : Host.Outcome State Fault Refusal :=
  .next (match tabGet (ctxOf s part ctx).versions v with
    | none => s
    | some x =>
      if x.superseded && !versionUsed s part ctx v x then
        modCtx s part ctx (fun c => { c with
          versions := tabDel c.versions v, removed := (x.next.map (fun e => (x.base, x.len, e))).toList ++ c.removed })
      else s)

/-- The version that takes the place of another: its entries lie where those of the other lay. -/
def successor (v : Version) (base len : Nat) : Version :=
  { base := base, len := len, step := Config.stepping, intlk := false, shape := v.shape,
    consts := v.consts.map (fun e => (base + (e.1 - v.base), e.2)) }

/-- What directed new records to a version directs them to its successor (R352). -/
def directOn (v : Version) (base : Nat) (w : Version) : Version :=
  { w with next := w.next.map (fun e => if v.holds e then base + (e - v.base) else e) }

/-- RE_OPTIMISED_TRANSLATION_INSTALL (R352): a new version at new addresses; new launch records are directed to it. -/
def execReOptimisedTranslationInstall (part ctx old base len : Nat) (s : State) : Host.Outcome State Fault Refusal :=
  let x := ctxOf s part ctx
  .next (match tabGet x.versions old with
    | none => s
    | some v =>
      if v.superseded || versionAtAny x base len then s
      else modCtx s part ctx (fun c =>
        let ws := c.versions.map (fun e => (e.1, directOn v base e.2))
        let vs := tabPut ws old { v with superseded := true, next := some base }
        { c with versions := tabPut vs (newVersion c) (successor v base len) }))

end Sys2Proof.Machine
end

