-- ==== Sys2Proof/Machine/Power.lean ====
section
/-! DEFINITION. Start-up (R385, R386), sensors and avoidance (R295, R390, R391), trips (R394), the power cap and the
clock (R392, R393), awl tests and field fuses (R33, R41, R388, R389), and errors that ECC cannot correct (R348). -/

namespace Sys2Proof.Machine
open Sys2Proof

/-! ### Start-up -/

/-- The fuses of a core, which stay when power goes: its maps and what carries it. A core that was out of service is in service
again after a power cycle, and field fuses that waited for the core to drain are lost (log 117, DESIGN CHOICE: R33 and R389
speak of a partition's reset alone). -/
def keepFuses (k : CoreSt) : CoreSt := { phys := k.phys, mapA := k.mapA, mapB := k.mapB }

/-- The module at stage 0 after power-on: what is non-volatile stays (R361, R365, R366, R394). -/
def powerUp (s : State) (sigOk : Bool) : State :=
  { State.reset with
    cores := s.cores.map (fun e => (e.1, keepFuses e.2)),
    dies := s.dies.map (fun e => (e.1, { bad := e.2.bad })),
    mgmt := {
      bootstat := bootWord 0 (if sigOk then 0 else 1), triprec := s.mgmt.triprec, images := s.mgmt.images,
      loaded := s.mgmt.images, stored := s.mgmt.stored, maps := s.mgmt.maps },
    out := s.out, inputs := s.inputs, free := s.free }

/-- POWER_ON (R385, R386). -/
def execPowerOn (sigOk : Bool) (s : State) : Host.Outcome State Fault Refusal := .next (powerUp s sigOk)

/-- A logical core map can be one of the module (R1, R385): every entry gives a logical cluster a physical cluster of its
die that the core test has not failed, and no other logical cluster is carried by it. -/
def mapsOk (s : State) (ms : List (Nat × Nat)) : Bool :=
  ms.all (fun e =>
    e.1 < 160 && e.2 / 42 == e.1 / 40 && !(dieOf s (e.1 / 40)).bad.contains e.2
      && ms.all (fun x => (x.1 == e.1) == (x.2 == e.2))
      && (List.range 40).all (fun i =>
        let d := 40 * (e.1 / 40) + i
        ms.any (fun x => x.1 == d) || physCluster s d != e.2))

/-- The map that start-up has built is taken: the fuses of every core stay with the physical core (R34). -/
def takeMap (s : State) (ms : List (Nat × Nat)) : State :=
  if mapsOk s ms then ms.foldl (fun s e => carryCluster s e.1 e.2) (ms.foldl (fun s e => keepCluster s e.1) s) else s

/-- A logical cluster that a failed physical cluster would carry is carried by a spare of its die, if there is one
(R385). -/
def avoidFailed (s : State) (c : Nat) : State :=
  if !(dieOf s (c / 40)).bad.contains (physCluster s c) then s
  else
    match spareOf s (c / 40) with
    | some p => moveToSpare s c p
    | none => s

/-- The work of stage 1 (R1, R385): the physical clusters that the core test has failed are known, and the logical core map
is built, with spares in their place. -/
def buildMap (s : State) (w : StartupWorld) : State :=
  (List.range 160).foldl avoidFailed (takeMap ((w.failed.filter (fun p => p < 168)).foldl markBad s) w.maps)

/-- Fewer than 40 good clusters are left on a die (R386). -/
def fewClusters (s : State) : Bool := (List.range 4).any (fun d => 2 < ((dieOf s d).bad.filter (fun p => p / 42 == d)).length)

/-- The fault that stage 1 finds (R386), 0 for none. -/
def stageOneFault (s : State) (fault : Nat) : Nat :=
  if fault = 0x0101 then 0x0101 else if fewClusters s then 0x0102 else if fault = 0x0103 then 0x0103 else 0

/-- The configuration takes effect (R366). -/
def configureAll (s : State) : State := (List.range 8).foldl configure s

/-- The partitions that are enabled start (R366, R385). -/
def startPartitions (s : State) : State :=
  let s := configureAll s
  { s with parts := s.parts.map (fun e => (e.1, { e.2 with running := e.2.enabled })) }

/-- STARTUP_STAGE_ADVANCE (R385, R386): the work of the stage is done; a fault stops it or is a warning. -/
def execStartupStageAdvance (w : StartupWorld) (s : State) : Host.Outcome State Fault Refusal :=
  .next (
    let err := errOf s
    if err != 0 && err != 0x0103 then s
    else
      match stageOf s with
      | 0 => if w.fault = 0x0001 then setStage s 0 0x0001 else setStage s 1 0
      | 1 =>
        let s := buildMap s w
        let f := stageOneFault s w.fault
        if f = 0x0101 || f = 0x0102 then setStage s 1 f else setStage (configureAll s) 2 (if f = 0 then err else f)
      | 2 => setStage (startPartitions s) 3 err
      | _ => s)

/-- HARDWARE_TRIP (R394): a junction at 110 °C or the input outside 46 V to 60 V powers the module down. -/
def execHardwareTrip (cause die reading : Nat) (s : State) : Host.Outcome State Fault Refusal :=
  .next (
    let ok := (cause = 1 && 1100 ≤ reading) || (cause = 2 && reading < 460) || (cause = 3 && 600 < reading)
    let d := if cause = 1 then die % 256 else 0xFF
    if s.power && ok then
      { modMgmt s (fun m => { m with triprec := BitVec.ofNat 64 (cause + d * 256 + reading % 65536 * 65536) }) with
        power := false }
    else s)

/-! ### Sensors -/

/-- The third droop event within 1 ms (R295): ages count samples of 10 µs. -/
def threeDroops (k : CoreSt) : Bool := 3 ≤ (k.dtimes.filter (fun a => a ≤ 100)).length

/-- Avoidance after a reading (R295). -/
def avoidAfter (k : CoreSt) : Bool :=
  if k.avoided then !(k.temp ≤ 890 && k.dtimes.all (fun a => 400 ≤ a)) else 950 ≤ k.temp || threeDroops k

/-- A core's reading taken. -/
def sampleCore (tj : Int) (k : CoreSt) : CoreSt :=
  let k : CoreSt := { k with temp := tj, dtimes := (k.dtimes.map (· + 1)).filter (fun a => a ≤ 400) }
  { k with avoided := avoidAfter k }

/-- SENSOR_SAMPLE (R295, R373, R390), with which the hang clocks of the core go on by 10 µs (R318). -/
def execSensorSample (core : Nat) (tj : Int) (p : PowerSample) (s : State) : Host.Outcome State Fault Refusal :=
  .next (modDie (modCore (runClocks s core) core (sampleCore tj)) (dieOfCore core) (fun d => { d with
    pmeas := p.pmeas % 65536, qpeak := p.qpeak % 256, vcore := p.vcore % 65536 }))

/-- DROOP_EVENT (R295, R391): the core's clock stretches, which is timing only. -/
def execDroopEvent (core : Nat) (s : State) : Host.Outcome State Fault Refusal :=
  .next (modCore s core (fun k =>
    let k : CoreSt := { k with droops := Nat.min (k.droops + 1) 0xFFFFFFFF, dtimes := 0 :: k.dtimes }
    { k with avoided := k.avoided || threeDroops k }))

/-! ### Power -/

/-- q_chf at a temperature (R392): linear between points, clamped at the ends; as a numerator over a denominator. -/
def chfAt (t : Int) : List (Int × Nat) → Nat × Nat
  | [] => (0, 1)
  | [p] => (p.2, 1)
  | p :: q :: rest =>
    if t ≤ p.1 then (p.2, 1)
    else if t ≤ q.1 then
      let den := (q.1 - p.1).toNat
      let x := (t - p.1).toNat
      (p.2 * (den - x) + q.2 * x, den)
    else chfAt t (q :: rest)

/-- P_fluid of a die in 0.1 W units (R392), rounded down (log 50). -/
def fluidPower (m : Mgmt) (d : Die) : Nat :=
  let q := chfAt m.inTsat m.inPoints
  d.pmeas * 8 * q.1 / (10 * q.2 * d.qpeak)

/-- CAPEFF without the fluid. -/
def hostLimit (d : Die) : Nat := Nat.min 5200 d.hostcap

/-- CAPEFF of a die (R392): where no heat flux is read, P_fluid has no stated value and is free. -/
def capOf (m : Mgmt) (free : DWord) (d : Die) : Nat :=
  if !m.fluid then hostLimit d
  else if d.qpeak = 0 then Nat.min (hostLimit d) free.toNat
  else Nat.min (hostLimit d) (fluidPower m d)

/-- A die's cap computed. -/
def capDie (s : State) (die : Nat) : State :=
  let x := takeFree s
  modDie x.2 die (fun d => { d with capeff := capOf s.mgmt x.1 d })

/-- POWER_CAP_COMPUTE (R392): every die's cap. -/
def execPowerCapCompute (s : State) : Host.Outcome State Fault Refusal := .next ((List.range 4).foldl capDie s)

/-- A 1 ms window of a die (R393): FCLK steps down above CAPEFF, and up after ten windows below 0.95 of it. `atMin`
counts the windows above CAPEFF at 300 MHz in a row, up to the event's 101. -/
def clockWindow (d : Die) : Die :=
  if d.capeff < d.pmeas then
    { d with
      fclk := Nat.max 12 (d.fclk - 1), underMs := 0,
      atMin := if d.fclk ≤ 12 then (if d.atMin < 100 then d.atMin + 1 else d.atMin) else 0 }
  else if d.pmeas * 100 < 95 * d.capeff then
    (if 9 ≤ d.underMs then { d with fclk := Nat.min 24 (d.fclk + 1), underMs := 0, atMin := 0 }
    else { d with underMs := d.underMs + 1, atMin := 0 })
  else { d with underMs := 0, atMin := 0 }

/-- CLOCK_STEP (R393). -/
def execClockStep (s : State) : Host.Outcome State Fault Refusal :=
  .next ((List.range 4).foldl (fun s d => modDie s d clockWindow) s)

/-- A die that has been above CAPEFF at 300 MHz for 100 ms raises its event, once (R393). -/
def overcap (s : State) (die : Nat) : State :=
  let d := dieOf s die
  if d.atMin = 100 then
    logEvent (modDie s die (fun d => { d with atMin := 101 })) 0x0020 die (d.pmeas + d.capeff * 65536)
  else s

/-- PERSISTENT_OVERCAP (R393). -/
def execPersistentOvercap (s : State) : Host.Outcome State Fault Refusal := .next ((List.range 4).foldl overcap s)

/-! ### Field fuses and awl tests -/

/-- A core has a resident cord. -/
def hasResident (s : State) (core : Nat) : Bool := s.blocks.any (fun x => x.core == core && x.cords.any (fun c => !c.ended))

/-- The partitions that hold a core. -/
def partsOfCore (s : State) (core : Nat) : List Nat :=
  (s.parts.map Prod.fst).filter (fun p => (clustersOf s p).contains (clusterOf core))

/-- A grid whose record is still queued, in whole or in part. -/
def Grid.waiting (g : Grid) : Bool :=
  match g.stage with
  | .accepted | .ready | .placing => true
  | _ => false

/-- The records of a partition that are still queued are checked again (R41, R389); `full`: against all of
Table 15-3. -/
def recheck (full : Bool) (s : State) (p : Nat) : State :=
  (List.range s.grids.length).foldl (fun s g => match gridOf s g with
    | some x =>
      if x.part == p && x.waiting then
        let code := if full then acceptCheck s x else modelCheck s x
        if code != 0 then failGrid s g code else s
      else s
    | none => s) s

/-- A core goes out of service (R33, R389): `why` is 1 for a fuse that would leave G below 24, 2 for another failure. -/
def outOfService (s : State) (core why : Nat) : State :=
  let s := modCore s core (fun k => { k with inService := false, awl := false, awlFails := 0, fuses := [] })
  (partsOfCore s core).foldl (recheck true) (logEvent s 0x0011 core why)

/-- A map without a lane. -/
def fused (m : BitVec 36) (lane : Nat) : BitVec 36 := m &&& ~~~(BitVec.twoPow 36 lane)

/-- A field fuse taken (R33, R389): a core that it would leave with G below 24 goes out of service instead. -/
def takeFuse (s : State) (core side lane : Nat) : State :=
  let k := coreOf s core
  let m := fused (if side = 0 then k.mapA else k.mapB) lane
  if Config.goodLanes m < 24 then outOfService s core 1
  else
    let s := modCore s core (fun k =>
      let k : CoreSt := { k with fuses := k.fuses.erase (side, lane) }
      if side = 0 then { k with mapA := m } else { k with mapB := m })
    (partsOfCore s core).foldl (recheck false) (logEvent s 0x0010 core (side + lane * 256))

/-- FIELD_FUSE_APPLY (R33): a fuse that waits takes effect while the core has no resident cord. -/
def execFieldFuseApply (core side lane : Nat) (s : State) : Host.Outcome State Fault Refusal :=
  .next (if (coreOf s core).fuses.contains (side, lane) && !hasResident s core then takeFuse s core side lane else s)

/-- AWL_TEST_START (R388): on one idle core at a time. -/
def execAwlTestStart (core : Nat) (s : State) : Host.Outcome State Fault Refusal :=
  .next (if core < 640 && (coreOf s core).inService && !hasResident s core && s.cores.all (fun e => !e.2.awl) then
    modCore s core (fun k => { k with awl := true })
  else s)

/-- A test that failed: the first failure repeats it, the second in a row counts (R389). -/
def awlFailed (s : State) (core : Nat) (second : State → State) : State :=
  if (coreOf s core).awlFails = 0 then modCore s core (fun k => { k with awlFails := 1 })
  else second (modCore s core (fun k => { k with awl := false, awlFails := 0 }))

/-- AWL_TEST_COMPLETE (R388, R389). -/
def execAwlTestComplete (core : Nat) (r : AwlResult) (s : State) : Host.Outcome State Fault Refusal :=
  .next (if !(coreOf s core).awl then s
    else
      match r with
      | .pass => modCore s core (fun k => { k with awl := false, awlFails := 0 })
      | .aborted => modCore s core (fun k => { k with awl := false })
      | .lane side lane => awlFailed s core (fun s =>
          modCore s core (fun k => { k with fuses := k.fuses ++ [(side, lane)] }))
      | .other => awlFailed s core (fun s => outOfService s core 2))

/-! ### Uncorrectable errors -/

/-- UNCORRECTABLE_ECC_ERROR (R172, R348, R351): the bytes or the accumulator are poisoned. An error that the array has
corrected and a code line that is discarded are logged (log 89). -/
def execUncorrectableEccError (w : EccWhere) (s : State) : Host.Outcome State Fault Refusal :=
  .next (match w with
    | .memory pa n =>
      let new := ((List.range n).map (fun i => pa + i)).filter (fun a => placeOf a == .homed && !s.poison.contains a)
      { s with poison := s.poison ++ new }
    | .array core i => modCore s core (fun k =>
        if i < 2048 && !k.apoison.contains i then { k with apoison := k.apoison ++ [i] } else k)
    | .corrected _ | .discarded _ => modMgmt s (fun m => { m with eccLog := m.eccLog ++ [w] }))

end Sys2Proof.Machine
end

