-- ==== Sys2Proof/Machine/Dispatch.lean ====
section
/-! DEFINITION. Which meaning each instruction has: one arm for each constructor. -/

namespace Sys2Proof.Machine
open Sys2Proof

/-- What an instruction or step of the device does. -/
def exec (i : Instr) (s : State) : Host.Outcome State Fault Refusal :=
  match i with
  | .clauseHeader h => Sys2Proof.Machine.execClauseHeader h s
  | .movShort f => Sys2Proof.Machine.execMovShort f s
  | .addShort f => Sys2Proof.Machine.execAddShort f s
  | .subShort f => Sys2Proof.Machine.execSubShort f s
  | .mulShort f => Sys2Proof.Machine.execMulShort f s
  | .mulhShort f => Sys2Proof.Machine.execMulhShort f s
  | .minShort f => Sys2Proof.Machine.execMinShort f s
  | .maxShort f => Sys2Proof.Machine.execMaxShort f s
  | .andShort f => Sys2Proof.Machine.execAndShort f s
  | .orShort f => Sys2Proof.Machine.execOrShort f s
  | .xorShort f => Sys2Proof.Machine.execXorShort f s
  | .notShort f => Sys2Proof.Machine.execNotShort f s
  | .negShort f => Sys2Proof.Machine.execNegShort f s
  | .absShort f => Sys2Proof.Machine.execAbsShort f s
  | .shlShort f => Sys2Proof.Machine.execShlShort f s
  | .shrShort f => Sys2Proof.Machine.execShrShort f s
  | .sarShort f => Sys2Proof.Machine.execSarShort f s
  | .rotShort f => Sys2Proof.Machine.execRotShort f s
  | .popcShort f => Sys2Proof.Machine.execPopcShort f s
  | .clzShort f => Sys2Proof.Machine.execClzShort f s
  | .brevShort f => Sys2Proof.Machine.execBrevShort f s
  | .faddShort f => Sys2Proof.Machine.execFaddShort f s
  | .fsubShort f => Sys2Proof.Machine.execFsubShort f s
  | .fmulShort f => Sys2Proof.Machine.execFmulShort f s
  | .fminShort f => Sys2Proof.Machine.execFminShort f s
  | .fmaxShort f => Sys2Proof.Machine.execFmaxShort f s
  | .fsatShort f => Sys2Proof.Machine.execFsatShort f s
  | .nop f => Sys2Proof.Machine.execNop f s
  | .mov f => Sys2Proof.Machine.execMov f s
  | .movi f => Sys2Proof.Machine.execMovi f s
  | .sel f => Sys2Proof.Machine.execSel f s
  | .add f => Sys2Proof.Machine.execAdd f s
  | .sub f => Sys2Proof.Machine.execSub f s
  | .addc f => Sys2Proof.Machine.execAddc f s
  | .subb f => Sys2Proof.Machine.execSubb f s
  | .mul f => Sys2Proof.Machine.execMul f s
  | .mulh f => Sys2Proof.Machine.execMulh f s
  | .mad f => Sys2Proof.Machine.execMad f s
  | .neg f => Sys2Proof.Machine.execNeg f s
  | .abs f => Sys2Proof.Machine.execAbs f s
  | .min f => Sys2Proof.Machine.execMin f s
  | .max f => Sys2Proof.Machine.execMax f s
  | .and f => Sys2Proof.Machine.execAnd f s
  | .or f => Sys2Proof.Machine.execOr f s
  | .xor f => Sys2Proof.Machine.execXor f s
  | .not f => Sys2Proof.Machine.execNot f s
  | .shl f => Sys2Proof.Machine.execShl f s
  | .shr f => Sys2Proof.Machine.execShr f s
  | .sar f => Sys2Proof.Machine.execSar f s
  | .rot f => Sys2Proof.Machine.execRot f s
  | .popc f => Sys2Proof.Machine.execPopc f s
  | .clz f => Sys2Proof.Machine.execClz f s
  | .brev f => Sys2Proof.Machine.execBrev f s
  | .bfe f => Sys2Proof.Machine.execBfe f s
  | .bfi f => Sys2Proof.Machine.execBfi f s
  | .lea f => Sys2Proof.Machine.execLea f s
  | .icmp f => Sys2Proof.Machine.execIcmp f s
  | .pset f => Sys2Proof.Machine.execPset f s
  | .pand f => Sys2Proof.Machine.execPand f s
  | .por f => Sys2Proof.Machine.execPor f s
  | .pxor f => Sys2Proof.Machine.execPxor f s
  | .pnot f => Sys2Proof.Machine.execPnot f s
  | .fadd f => Sys2Proof.Machine.execFadd f s
  | .fsub f => Sys2Proof.Machine.execFsub f s
  | .fmul f => Sys2Proof.Machine.execFmul f s
  | .ffma f => Sys2Proof.Machine.execFfma f s
  | .fmin f => Sys2Proof.Machine.execFmin f s
  | .fmax f => Sys2Proof.Machine.execFmax f s
  | .fsat f => Sys2Proof.Machine.execFsat f s
  | .fcmp f => Sys2Proof.Machine.execFcmp f s
  | .fclass f => Sys2Proof.Machine.execFclass f s
  | .div f => Sys2Proof.Machine.execDiv f s
  | .rem f => Sys2Proof.Machine.execRem f s
  | .rcp f => Sys2Proof.Machine.execRcp f s
  | .rsq f => Sys2Proof.Machine.execRsq f s
  | .sqrt f => Sys2Proof.Machine.execSqrt f s
  | .exp2 f => Sys2Proof.Machine.execExp2 f s
  | .log2 f => Sys2Proof.Machine.execLog2 f s
  | .sin f => Sys2Proof.Machine.execSin f s
  | .cos f => Sys2Proof.Machine.execCos f s
  | .tanh f => Sys2Proof.Machine.execTanh f s
  | .cvt f => Sys2Proof.Machine.execCvt f s
  | .pack f => Sys2Proof.Machine.execPack f s
  | .unpack f => Sys2Proof.Machine.execUnpack f s
  | .cvtsc f => Sys2Proof.Machine.execCvtsc f s
  | .queuedResultWrite b c o => Sys2Proof.Machine.execQueuedResultWrite b c o s
  | .bra f => Sys2Proof.Machine.execBra f s
  | .brx f => Sys2Proof.Machine.execBrx f s
  | .call f => Sys2Proof.Machine.execCall f s
  | .callx f => Sys2Proof.Machine.execCallx f s
  | .ret f => Sys2Proof.Machine.execRet f s
  | .exit f => Sys2Proof.Machine.execExit f s
  | .yield f => Sys2Proof.Machine.execYield f s
  | .nopLong f => Sys2Proof.Machine.execNopLong f s
  | .join f => Sys2Proof.Machine.execJoin f s
  | .leave f => Sys2Proof.Machine.execLeave f s
  | .waitm f => Sys2Proof.Machine.execWaitm f s
  | .kset f => Sys2Proof.Machine.execKset f s
  | .kmov f => Sys2Proof.Machine.execKmov f s
  | .kand f => Sys2Proof.Machine.execKand f s
  | .kor f => Sys2Proof.Machine.execKor f s
  | .kpop f => Sys2Proof.Machine.execKpop f s
  | .vote f => Sys2Proof.Machine.execVote f s
  | .shfl f => Sys2Proof.Machine.execShfl f s
  | .shflp f => Sys2Proof.Machine.execShflp f s
  | .reduce f => Sys2Proof.Machine.execReduce f s
  | .scan f => Sys2Proof.Machine.execScan f s
  | .matchLanes f => Sys2Proof.Machine.execMatchLanes f s
  | .bar f => Sys2Proof.Machine.execBar f s
  | .barb f => Sys2Proof.Machine.execBarb f s
  | .gbar f => Sys2Proof.Machine.execGbar f s
  | .launch f => Sys2Proof.Machine.execLaunch f s
  | .launchQueueRoom b => Sys2Proof.Machine.execLaunchQueueRoom b s
  | .waitch f => Sys2Proof.Machine.execWaitch f s
  | .mfs f => Sys2Proof.Machine.execMfs f s
  | .mts f => Sys2Proof.Machine.execMts f s
  | .trap f => Sys2Proof.Machine.execTrap f s
  | .bkpt f => Sys2Proof.Machine.execBkpt f s
  | .tret f => Sys2Proof.Machine.execTret f s
  | .tqpeek f => Sys2Proof.Machine.execTqpeek f s
  | .tqdrop f => Sys2Proof.Machine.execTqdrop f s
  | .rgnend f => Sys2Proof.Machine.execRgnend f s
  | .chkpt f => Sys2Proof.Machine.execChkpt f s
  | .fwsave f => Sys2Proof.Machine.execFwsave f s
  | .fwrest f => Sys2Proof.Machine.execFwrest f s
  | .fwarr f => Sys2Proof.Machine.execFwarr f s
  | .fwend f => Sys2Proof.Machine.execFwend f s
  | .ld f => Sys2Proof.Machine.execLd f s
  | .st f => Sys2Proof.Machine.execSt f s
  | .ldx f => Sys2Proof.Machine.execLdx f s
  | .stx f => Sys2Proof.Machine.execStx f s
  | .ldc f => Sys2Proof.Machine.execLdc f s
  | .stc f => Sys2Proof.Machine.execStc f s
  | .phase f => Sys2Proof.Machine.execPhase f s
  | .fenceX f => Sys2Proof.Machine.execFenceX f s
  | .fenceP f => Sys2Proof.Machine.execFenceP f s
  | .pref f => Sys2Proof.Machine.execPref f s
  | .atom f => Sys2Proof.Machine.execAtom f s
  | .cas f => Sys2Proof.Machine.execCas f s
  | .red f => Sys2Proof.Machine.execRed f s
  | .atomr f => Sys2Proof.Machine.execAtomr f s
  | .cqpop f => Sys2Proof.Machine.execCqpop f s
  | .tst f => Sys2Proof.Machine.execTst f s
  | .retract f => Sys2Proof.Machine.execRetract f s
  | .tcommit f => Sys2Proof.Machine.execTcommit f s
  | .tdset f => Sys2Proof.Machine.execTdset f s
  | .tdget f => Sys2Proof.Machine.execTdget f s
  | .tdinv f => Sys2Proof.Machine.execTdinv f s
  | .lookup f => Sys2Proof.Machine.execLookup f s
  | .tagset f => Sys2Proof.Machine.execTagset f s
  | .tagclr f => Sys2Proof.Machine.execTagclr f s
  | .pres f => Sys2Proof.Machine.execPres f s
  | .kick f => Sys2Proof.Machine.execKick f s
  | .boinit f => Sys2Proof.Machine.execBoinit f s
  | .boarrive f => Sys2Proof.Machine.execBoarrive f s
  | .bowait f => Sys2Proof.Machine.execBowait f s
  | .mzero f => Sys2Proof.Machine.execMzero f s
  | .mma f => Sys2Proof.Machine.execMma f s
  | .mmas f => Sys2Proof.Machine.execMmas f s
  | .mdrain f => Sys2Proof.Machine.execMdrain f s
  | .maccld f => Sys2Proof.Machine.execMaccld f s
  | .coll f => Sys2Proof.Machine.execColl f s
  | .gse f => Sys2Proof.Machine.execGse f s
  | .loadDataReturn b c o => Sys2Proof.Machine.execLoadDataReturn b c o s
  | .storeArrivalAtHome core n => Sys2Proof.Machine.execStoreArrivalAtHome core n s
  | .l1Writeback core line => Sys2Proof.Machine.execL1Writeback core line s
  | .tentativeStoreArrival b c o dw => Sys2Proof.Machine.execTentativeStoreArrival b c o dw s
  | .uncoveredStoreReport b c => Sys2Proof.Machine.execUncoveredStoreReport b c s
  | .atomicStep b c o pa => Sys2Proof.Machine.execAtomicStep b c o pa s
  | .routerMergeWindow b c o pa => Sys2Proof.Machine.execRouterMergeWindow b c o pa s
  | .tstStep b c o dw => Sys2Proof.Machine.execTstStep b c o dw s
  | .tstCellWaitTimeout b c o dw => Sys2Proof.Machine.execTstCellWaitTimeout b c o dw s
  | .delegatedAtomicPerform core n => Sys2Proof.Machine.execDelegatedAtomicPerform core n s
  | .cqReplyArrival core n => Sys2Proof.Machine.execCqReplyArrival core n s
  | .pageWalk w => Sys2Proof.Machine.execPageWalk w s
  | .faultService die e => Sys2Proof.Machine.execFaultService die e s
  | .faultReject die e => Sys2Proof.Machine.execFaultReject die e s
  | .contextSlotWrite die k d0 d1 => Sys2Proof.Machine.execContextSlotWrite die k d0 d1 s
  | .copyRequestAccept core => Sys2Proof.Machine.execCopyRequestAccept core s
  | .copyDelivery core r => Sys2Proof.Machine.execCopyDelivery core r s
  | .gseRequestAccept core => Sys2Proof.Machine.execGseRequestAccept core s
  | .gseElementMove core r k => Sys2Proof.Machine.execGseElementMove core r k s
  | .collRequestAccept core => Sys2Proof.Machine.execCollRequestAccept core s
  | .collectivePerform core r w => Sys2Proof.Machine.execCollectivePerform core r w s
  | .arrayMmaPerform core => Sys2Proof.Machine.execArrayMmaPerform core s
  | .arrayZeroLoadPerform core => Sys2Proof.Machine.execArrayZeroLoadPerform core s
  | .arrayDrainPerform core => Sys2Proof.Machine.execArrayDrainPerform core s
  | .firmwareEmulation b c o => Sys2Proof.Machine.execFirmwareEmulation b c o s
  | .hostSubmit part ctx v => Sys2Proof.Machine.execHostSubmit part ctx v s
  | .launchRecordAccept part q => Sys2Proof.Machine.execLaunchRecordAccept part q s
  | .launchWaitSatisfied g k => Sys2Proof.Machine.execLaunchWaitSatisfied g k s
  | .blockPlacement g => Sys2Proof.Machine.execBlockPlacement g s
  | .avoidedPlacementTimeout g => Sys2Proof.Machine.execAvoidedPlacementTimeout g s
  | .blockRetire b => Sys2Proof.Machine.execBlockRetire b s
  | .stagedStepRelease g => Sys2Proof.Machine.execStagedStepRelease g s
  | .gridComplete g => Sys2Proof.Machine.execGridComplete g s
  | .controlWordsWrite part ctx d0 d1 => Sys2Proof.Machine.execControlWordsWrite part ctx d0 d1 s
  | .preemptRequest part ctx => Sys2Proof.Machine.execPreemptRequest part ctx s
  | .contextSave part ctx => Sys2Proof.Machine.execContextSave part ctx s
  | .preemptDeadlineExpiry part ctx => Sys2Proof.Machine.execPreemptDeadlineExpiry part ctx s
  | .contextRestore part ctx => Sys2Proof.Machine.execContextRestore part ctx s
  | .cordSuspend b c why => Sys2Proof.Machine.execCordSuspend b c why s
  | .debuggerRelease b c => Sys2Proof.Machine.execDebuggerRelease b c s
  | .hangDeadlineExpiry b c => Sys2Proof.Machine.execHangDeadlineExpiry b c s
  | .replayForeignTimeout part ctx => Sys2Proof.Machine.execReplayForeignTimeout part ctx s
  | .trapDelivery b c => Sys2Proof.Machine.execTrapDelivery b c s
  | .impreciseFaultReport b c n => Sys2Proof.Machine.execImpreciseFaultReport b c n s
  | .lateFaultRecord b c n => Sys2Proof.Machine.execLateFaultRecord b c n s
  | .regionEnd b c => Sys2Proof.Machine.execRegionEnd b c s
  | .regionCountLimit b c => Sys2Proof.Machine.execRegionCountLimit b c s
  | .regionWithdrawal b c => Sys2Proof.Machine.execRegionWithdrawal b c s
  | .slowGearStep b c => Sys2Proof.Machine.execSlowGearStep b c s
  | .twinMismatch b c side lane resolved => Sys2Proof.Machine.execTwinMismatch b c side lane resolved s
  | .braidKill g braid => Sys2Proof.Machine.execBraidKill g braid s
  | .fatalErrorDump part ctx => Sys2Proof.Machine.execFatalErrorDump part ctx s
  | .codeObjectLoad part ctx o => Sys2Proof.Machine.execCodeObjectLoad part ctx o s
  | .codeVersionRemove part ctx v => Sys2Proof.Machine.execCodeVersionRemove part ctx v s
  | .i3cPrivateWrite off v => Sys2Proof.Machine.execI3cPrivateWrite off v s
  | .managementRegisterWrite who off v => Sys2Proof.Machine.execManagementRegisterWrite who off v s
  | .ringDoorbell part r => Sys2Proof.Machine.execRingDoorbell part r s
  | .ringDescriptorFinish part r w => Sys2Proof.Machine.execRingDescriptorFinish part r w s
  | .functionLevelReset n => Sys2Proof.Machine.execFunctionLevelReset n s
  | .hostMemoryAccess pa a => Sys2Proof.Machine.execHostMemoryAccess pa a s
  | .peerAccessArrival peer pa a => Sys2Proof.Machine.execPeerAccessArrival peer pa a s
  | .portRecoveryEnter port window => Sys2Proof.Machine.execPortRecoveryEnter port window s
  | .portRecovered port => Sys2Proof.Machine.execPortRecovered port s
  | .portRecoveryExpiry port => Sys2Proof.Machine.execPortRecoveryExpiry port s
  | .gradeRecompute port corrected flits => Sys2Proof.Machine.execGradeRecompute port corrected flits s
  | .sensorSample core tj p => Sys2Proof.Machine.execSensorSample core tj p s
  | .droopEvent core => Sys2Proof.Machine.execDroopEvent core s
  | .hardwareTrip cause die reading => Sys2Proof.Machine.execHardwareTrip cause die reading s
  | .powerOn sigOk => Sys2Proof.Machine.execPowerOn sigOk s
  | .startupStageAdvance w => Sys2Proof.Machine.execStartupStageAdvance w s
  | .awlTestStart core => Sys2Proof.Machine.execAwlTestStart core s
  | .awlTestComplete core r => Sys2Proof.Machine.execAwlTestComplete core r s
  | .fieldFuseApply core side lane => Sys2Proof.Machine.execFieldFuseApply core side lane s
  | .unassignedOpcode w => Sys2Proof.Machine.execUnassignedOpcode w s
  | .l1LineEviction core line => Sys2Proof.Machine.execL1LineEviction core line s
  | .uncorrectableEccError w => Sys2Proof.Machine.execUncorrectableEccError w s
  | .contextCreation part ctx d0 d1 intlk => Sys2Proof.Machine.execContextCreation part ctx d0 d1 intlk s
  | .contextDestruction part ctx => Sys2Proof.Machine.execContextDestruction part ctx s
  | .reOptimisedTranslationInstall part ctx old base len => Sys2Proof.Machine.execReOptimisedTranslationInstall part ctx old base len s
  | .portLinkUp port => Sys2Proof.Machine.execPortLinkUp port s
  | .faultReportWrite => Sys2Proof.Machine.execFaultReportWrite s
  | .tlbInvalidate => Sys2Proof.Machine.execTlbInvalidate s
  | .version => Sys2Proof.Machine.execVersion s
  | .fwUpload => Sys2Proof.Machine.execFwUpload s
  | .fwCommit => Sys2Proof.Machine.execFwCommit s
  | .partSet => Sys2Proof.Machine.execPartSet s
  | .partReset => Sys2Proof.Machine.execPartReset s
  | .devSet => Sys2Proof.Machine.execDevSet s
  | .commSet => Sys2Proof.Machine.execCommSet s
  | .ringSet => Sys2Proof.Machine.execRingSet s
  | .attest => Sys2Proof.Machine.execAttest s
  | .eventRead => Sys2Proof.Machine.execEventRead s
  | .i3cPrivateRead => Sys2Proof.Machine.execI3cPrivateRead s
  | .triprecClear => Sys2Proof.Machine.execTriprecClear s
  | .fluidTableSubmit => Sys2Proof.Machine.execFluidTableSubmit s
  | .fluidTableWithdraw => Sys2Proof.Machine.execFluidTableWithdraw s
  | .ringPoll => Sys2Proof.Machine.execRingPoll s
  | .powerCapCompute => Sys2Proof.Machine.execPowerCapCompute s
  | .clockStep => Sys2Proof.Machine.execClockStep s
  | .persistentOvercap => Sys2Proof.Machine.execPersistentOvercap s

end Sys2Proof.Machine
end

