-- ==== Sys2Proof/Machine/Issue.lean ====
section
/-! DEFINITION. How a cord issues: its PC groups and rounds (R26, R27), the fetch of its instruction, marked pairs
(R59, R60), the scoreboard of interlocked mode (R61), and how parked strands look again at what they wait for. -/

namespace Sys2Proof.Machine
open Sys2Proof

/-! ### The state of an issue -/

/-- The cord as its issue begins: in its round (R27). -/
def startIssue (c : Cord) : Cord := { c with round := if c.slow.isSome then c.round else roundOf c }

/-! ### What holds a cord back -/

/-- A strand is parked at a BOWAIT, which parks the whole cord (R186). -/
def atBowait (c : Cord) : Bool :=
  c.liveLanes.any (fun l => match (c.lane l).park with
    | some (.bowait _) => true
    | _ => false)

/-- The context of a block has had a fatal error (R354). -/
def fatalBlock (s : State) (b : Nat) : Bool :=
  match gridOfBlock s b with
  | some g => (ctxOf s g.part g.ctx).fatal.isSome
  | none => true

/-- A cord may go on at all: nothing suspends or stops it (R317, R340, R349, R354). -/
def goesOn (s : State) (b : Nat) (c : Cord) : Bool :=
  !c.ended && c.suspend.isEmpty && !c.withdrawing && !doomed s b && !fatalBlock s b

/-- A record of the queue is to be delivered before any strand moves (R329). -/
def recordFirst (c : Cord) : Bool := !c.queue.isEmpty && !c.handler

/-- The region of a cord is ending, or has its 256 instructions (R336, R337). -/
def regionStops (c : Cord) : Bool := c.atLimit || ((c.region.map (fun g => g.ending.isSome)).getD false)

/-- A cord may issue an instruction. -/
def mayIssue (s : State) (b c core : Nat) (y : Cord) : Bool :=
  goesOn s b y && !recordFirst y && !regionStops y && !atBowait y && !fetchHeld s b c core

/-! ### Interlocked mode -/

/-- Strands that have come from interlocked into native code without a transfer wait there for the operations with
register destinations that they have left behind (R62). -/
def leftBehind (s : State) (u : Issue) : Bool :=
  !interlocked s u.b u.pc.toNat && u.cord.ops.any (fun o =>
    opWrites o && o.lanes.any (fun l => u.lanes.contains l) && interlocked s u.b o.pc.toNat)

/-- An instruction of some strands that issues anew is held back (R61, R62). -/
def held (s : State) (u : Issue) (i : Instr) : Bool := u.resume.isNone && (scoreboard s u i || leftBehind s u)

/-! ### Marked pairs -/

/-- The two words of a marked pair as short forms, if they are (Table 3-6 row 1). -/
def pairForms (pc : DWord) (w1 w2 : Word) : Option (Instr × Instr) :=
  if pc.toNat % 8 != 0 || (w2.extractLsb' 0 2) != 0 || shortOp w1 = 0 || shortOp w2 = 0 then none
  else
    match instrOf [w1], instrOf [w2] with
    | some i, some j => some (i, j)
    | _, _ => none

/-- Two instructions that may issue as a pair (R59), each with the registers it writes. -/
def pairWrites (i j : Instr) : Option (List Nat) :=
  match i.shape, j.shape with
  | .short op1 f1, .short op2 f2 => if pairOk op1 f1 op2 f2 then some ((shortUse op1 f1).2 ++ (shortUse op2 f2).2) else none
  | _, _ => none

/-- The first trap of a pair (R52): rows 2 to 5 of its words in turn, then row 6. -/
def pairTrap (x : DecodeCtx) (i j : Instr) : Option Cause :=
  match decodeTrap x i with
  | some k => some k
  | none =>
    match decodeTrap x j with
    | some k => some k
    | none => if (pairWrites i j).isSome then none else some .illegalPair

/-- The region of a cord, if one is open, has room for a pair. -/
def pairFits (c : Cord) (i j : Instr) : Bool :=
  (c.region.map (fun g => g.fits c ((pairWrites i j).getD []) [])).getD true

/-- The second word of a pair, after the first: its strands stand there. -/
def secondWord (j : Instr) (x : Sel) : Host.Outcome State Fault Refusal → Host.Outcome State Fault Refusal
  | .next s => exec j { s with sel := some { x with pc := x.pc + 4 } }
  | r => r

/-- A marked pair issues as one unit (R59, R60): since neither word writes what the other reads, the words take
effect one after the other. Where both write one register the second word's value stays (log 118, DESIGN CHOICE: R60 admits
such a pair and does not say which). -/
def runPair (x : Sel) (u : Issue) (w1 w2 : Word) (s : State) : Host.Outcome State Fault Refusal :=
  match pairForms x.pc w1 w2 with
  | none => .next (trapAt s u .illegalPair u.lanes 0 0)
  | some (i, j) =>
    match pairTrap (decodeCtx u) i j with
    | some k => .next (trapAt s u k u.lanes 0 0)
    | none =>
      if held s u i || held s u j then .next s
      else if !pairFits u.cord i j then .next (markEnding s u)
      else secondWord j x (exec i s)

/-! ### An issue -/

/-- The words of an instruction run for the strands that are selected: a pair, a header with length code 0b01, which
is no instruction (Table 3-6 row 1), or one instruction. -/
def runWords (x : Sel) (u : Issue) (ws : List Word) (s : State) : Host.Outcome State Fault Refusal :=
  match ws with
  | [] => .next s
  | w :: rest =>
    if lengthWords w == 1 && w.getLsbD 0 then runPair x u w (rest.headD 0) s
    else
      match instrOf ws with
      | some i => if held s u i then .next s else exec i s
      | none => .next (trapAt s u .illegalPair u.lanes 0 0)

/-- The strands that are selected fetch their instruction and run it: a fetch that has no translation asks for one
(R220), and a poisoned line kills the braid (R351). -/
def runSel (x : Sel) (s : State) : Host.Outcome State Fault Refusal :=
  match issueOf s 4 with
  | none => .next s
  | some u =>
    match fetchAt s x.b u.blk.core x.pc with
    | .miss va => .next (askFetch s x.b x.c u.blk.core x.lanes x.pc va)
    | .poison => .next (killBraid s x.b)
    | .words ws => runWords x u ws s

/-- The state in which some strands of a cord have been selected. -/
def select (s : State) (x : Sel) (start : Bool) : State :=
  { (if start then modCord s x.b x.c startIssue else s) with sel := some x }

/-! ### Looking again -/

/-- A park whose instruction is looked at again to see whether its strands pass it. -/
def Park.looks : Park → Bool
  | .hold _ _ | .barb _ _ _ | .gbar _ _ | .waitch _ _ | .bowait _ | .launch _ _ => true
  | _ => false

/-- Two strands wait at one instruction for one thing. -/
def sameWait (t u : Strand) : Bool := t.park == u.park && t.pc == u.pc && t.gbars == u.gbars

/-- The sets of parked strands of a cord that look again. -/
def waitSets (c : Cord) : List (List Nat) :=
  let ls := c.liveLanes.filter (fun l => (((c.lane l).park).map Park.looks).getD false)
  let first := ls.filter (fun l => ls.all (fun i => l ≤ i || !sameWait (c.lane i) (c.lane l)))
  first.map (fun l => ls.filter (fun i => sameWait (c.lane i) (c.lane l)))

/-- The selection of some strands of a cord, at the PC of the first. -/
def selOf (b c : Nat) (y : Cord) (lanes : List Nat) : Sel :=
  { b := b, c := c, lanes := lanes, pc := (y.lane (lanes.headD 0)).pc }

/-- The issue that a cord may make now, if any. -/
def issueSel (s : State) (b c core : Nat) (y : Cord) : Option Sel :=
  let g := nextGroup y
  if g.isEmpty || !mayIssue s b c core y then none else some (selOf b c y g)

/-- The parked strands of a cord that may look again. -/
def lookSels (s : State) (b c core : Nat) (y : Cord) : List Sel :=
  if goesOn s b y && !fetchHeld s b c core then (waitSets y).map (selOf b c y) else []

end Sys2Proof.Machine
end

