-- ==== Sys2Proof/Machine/Schedule.lean ====
section
/-! DEFINITION. What happens next: the moves between the active and the pending set and the end of a replay that has
diverged, which come first, then one of what may happen (log 3): the steps of the device that the state makes possible,
the issues of its sides, and what the outside world brings. -/

namespace Sys2Proof.Machine
open Sys2Proof

/-- A step that may be taken. -/
inductive Choice where
  /-- What the outside world has brought. -/
  | input
  /-- A step of the device that the opcode table names. -/
  | event (i : Instr)
  /-- The issue slot of a side of a core (R299). -/
  | issue (core side : Nat)
  /-- Parked strands look again at what they wait for. -/
  | look (x : Sel)
  /-- What can be performed of a plain store (R236, R267). -/
  | store (b c o : Nat)
  /-- The release of an ordered atomic begins (R234, R275). -/
  | begin (b c o i : Nat)
  /-- The results of an operation are to reach its registers one by one (R57). -/
  | piece (b c o : Nat)
  /-- One of them does. -/
  | writeOne (b c o i : Nat)
  /-- A register that a later instruction has written keeps that value (R57). -/
  | keep (b c o : Nat) (k : Nat × Nat)
  /-- A byte of an access of a load or a plain store is performed before its others (R229, R236). -/
  | byte (b c o i k : Nat)
  /-- A cached translation is no longer met by the next accesses, or is met again (R212). -/
  | toggleTlb (die i : Nat)
  deriving DecidableEq, Repr

/-- A list where a condition holds, else nothing. -/
def when_ {α : Type} (p : Bool) (l : List α) : List α := if p then l else []

/-! ### Operations -/

/-- The physical addresses of an operation's open accesses, each once. -/
def openPas (o : Op) : List Nat := ((o.accs.filter Acc.open_).map Acc.pa).eraseDups

/-- The doublewords of an operation's open accesses, each once. -/
def openDws (o : Op) : List Nat := ((o.accs.filter Acc.open_).map (fun a => dwOf a.pa)).eraseDups

/-- Every open access of an operation at a doubleword may step. -/
def dwReady (s : State) (b c core : Nat) (o : Op) (dw : Nat) : Bool :=
  let is := accsAtDw o dw
  !is.isEmpty && runGoes s b c core o is

/-- An access of an operation that can be read now. -/
def readReady (s : State) (b c : Nat) (o : Op) : Bool := o.accs.any (fun a => a.st == .ready && !blocked s b c o a)

/-- An access of a plain store that can be performed now (R267). -/
def storeReady (tent : Bool) (s : State) (b c core : Nat) (o : Op) (a : Acc) : Bool :=
  a.st == .ready && !blocked s b c o a
    && (if onWindow o.kind then winReady s b a
      else match storeReach s b o a with
        | .home => !(tent && (o.region || hasTicket s b)) && l1Room s core a.pa a.size
        | .mgmt _ | .far => hasTicket s b
        | .waits => false
        | .reject _ => true)

/-- An operation whose results may reach their registers one by one, or after those of a later instruction (R57): TST
writes its pF when its cell has been taken (R281). -/
def hasResults (o : Op) : Bool :=
  opWrites o || (match o.kind with
    | .tst _ => true
    | _ => false)

/-- What may happen to the results of an operation on their way to its registers (R57). In deterministic mode they
arrive together, and the latest to arrive stays (R309). Flags are no results: they wait for the completion (R79). -/
def resultChoices (s : State) (b c : Nat) (o : Op) : List Choice :=
  when_ (hasResults o && !detMode s b)
    (when_ (!o.piece) [Choice.piece b c o.id]
      ++ (o.late.filter (fun k => !o.keep.contains k)).map (Choice.keep b c o.id))
    ++ when_ o.piece (((List.range o.ws.length).filter (fun i => ((o.ws[i]?).map (fun w => !w.isFp)).getD false)).map
      (Choice.writeOne b c o.id))

/-- An operation whose accesses may be performed byte by byte (R229, R236): a load, or a store that is not tentative. -/
def byBytes : OpKind → Bool
  | .load _ | .loadC _ | .store _ false | .storeC _ => true
  | _ => false

/-- The bytes of an operation's accesses that may be performed on their own. In deterministic mode they are performed
together (R309). -/
def byteChoices (s : State) (b c : Nat) (o : Op) : List Choice :=
  when_ (byBytes o.kind && !detMode s b) (o.accs.zipIdx.flatMap (fun e =>
    when_ (e.1.st == .ready && 1 < e.1.size && !blocked s b c o e.1)
      (((List.range e.1.size).filter (fun k => (tabGet e.1.got k).isNone)).map (Choice.byte b c o.id e.2))))

/-- A plain store that can go on is performed. -/
def storeChoices (s : State) (b c core : Nat) (o : Op) : List Choice :=
  match storeTent o.kind with
  | some tent => when_ (o.accs.any (storeReady tent s b c core o)) [Choice.store b c o.id]
  | none => []

/-- The releases of an ordered atomic that may begin. -/
def beginChoices (s : State) (b c core : Nat) (o : Op) : List Choice :=
  when_ o.rel.isSome (((List.range o.accs.length).filter (fun i => (o.accs[i]?).any (releaseBegins s b c core o))).map
    (Choice.begin b c o.id))

/-- What may happen to an outstanding operation. -/
def opEvents (s : State) (b c core : Nat) (o : Op) : List Instr :=
  match o.kind with
  | .queued ws _ => when_ (!ws.isEmpty || o.ws.all RegW.isFp) [Instr.queuedResultWrite b c o.id]
  | .load _ | .loadC _ | .cvtsc _ _ _ _ => when_ (readReady s b c o) [Instr.loadDataReturn b c o.id]
  | .pref _ => when_ (o.accs.any (fun a => a.st == .ready)) [Instr.loadDataReturn b c o.id]
  | .store _ tent =>
    when_ (tent && hasTicket s b) (((openDws o).filter (fun dw => (accsAtDw o dw).any (tentativeReady s b c o))).map
      (fun dw => Instr.tentativeStoreArrival b c o.id dw))
  | .atom _ | .cas _ | .red _ =>
    let pas := (openPas o).filter (groupReady s b c core o)
    pas.map (fun pa => Instr.atomicStep b c o.id pa)
      ++ when_ ((mergeKey o.kind).isSome && !detMode s b)
        ((pas.filter (fun pa => placeOf pa == .homed && mergeable s b pa o (b, c, o))).map
          (fun pa => Instr.routerMergeWindow b c o.id pa))
  | .retract _ | .tcommit _ =>
    ((openDws o).filter (dwReady s b c core o)).map (fun dw => Instr.atomicStep b c o.id dw)
  | .tst _ =>
    let dws := (openDws o).filter (dwReady s b c core o)
    dws.map (fun dw => Instr.tstStep b c o.id dw)
      ++ ((openDws o).filter (fun dw => (accsAtDw o dw).any (fun i => (o.accs[i]?.map Acc.st) == some (.sent 0)))).map
        (fun dw => Instr.tstCellWaitTimeout b c o.id dw)
  | .atomr _ => when_ (o.accs.any (fun a => a.st == .ready && stepReady s b c core o a)) [Instr.atomicStep b c o.id 0]
  | .cqpop _ | .launch _ | .held | .storeC _ | .request | .drain _ _ _ => []

/-! ### Cords and blocks -/

/-- What may happen to the traps and the region of a cord. -/
def trapEvents (s : State) (b c core : Nat) (y : Cord) : List Instr :=
  when_ (mayDeliver y && !fatalBlock s b && !doomed s b
      && !((gridOfBlock s b).map (fun g => Cord.hoff y != 0 && deliveryWaits s b g y)).getD false) [Instr.trapDelivery b c]
    ++ ((List.range y.reports.length).filter (fun n => (y.reports[n]?).any (reportDue y))).map
      (fun n => Instr.impreciseFaultReport b c n)
    ++ (List.range y.lates.length).map (fun n => Instr.lateFaultRecord b c n)
    ++ (match y.region with
      | none => []
      | some g =>
        when_ (g.uncov && !g.told) [Instr.uncoveredStoreReport b c]
          ++ when_ (g.ending.isSome && !y.withdrawing && regionQuiet (viewCord s b y)) [Instr.regionEnd b c]
          ++ when_ y.atLimit [Instr.regionCountLimit b c]
          ++ when_ (y.withdrawing && resultsIn y && storesIn (viewCord s b y) && !doomed s b) [Instr.regionWithdrawal b c])
    ++ when_ (slowReady (viewCord s b y) && !fetchHeld s b c core && !recordFirst y) [Instr.slowGearStep b c]

/-- The hang clock of a cord has run out (R318 to R320). -/
def hung (s : State) (b c : Nat) (x : Block) (y : Cord) : Bool :=
  hangDue s b y && !clockStands s b c x y && !fatalBlock s b

/-- What may happen to a cord, but its issues. -/
def cordChoices (s : State) (b : Nat) (x : Block) (y : Cord) (c : Nat) : List Choice :=
  ((y.ops.flatMap (opEvents s b c x.core)) ++ when_ (!y.ended) (trapEvents s b c x.core y
      ++ when_ (hung s b c x y) [Instr.hangDeadlineExpiry b c])).map .event
    ++ y.ops.flatMap (fun o => storeChoices s b c x.core o ++ beginChoices s b c x.core o ++ byteChoices s b c o ++ resultChoices s b c o)
    ++ (lookSels s b c x.core y).map .look

/-- A leader that holds a record finds room for it (R127). -/
def roomFor (s : State) (b : Nat) (x : Block) : Bool :=
  match x.cords.head?.bind launchOp, gridOfBlock s b with
  | some (o, _), some g =>
    ((x.cords.head?.map (fun c => (c.lane 0).park)) == some (some .launchRoom))
      && queueRoom s g.part (recordQueue (leNat ((o.accs.head?.map Acc.data).getD [])))
  | _, _ => false

/-- A block or its braid may retire (R23). -/
def mayRetire (s : State) (b : Nat) (x : Block) : Bool :=
  (!x.retired && x.cords.all (fun c => c.ended) && childrenOver s b) || braidDone s (x.grid, x.braid)

/-- What may happen to a block. -/
def blockChoices (s : State) (b : Nat) (x : Block) : List Choice :=
  (x.cords.zipIdx.flatMap (fun e => cordChoices s b x e.1 e.2))
    ++ (when_ (roomFor s b x) [Instr.launchQueueRoom b] ++ when_ (mayRetire s b x) [Instr.blockRetire b]).map .event

/-! ### Cores -/

/-- The lines of which a core holds bytes. -/
def heldLines (k : CoreSt) : List Nat := ((k.dirty.map Prod.fst ++ k.clean.map Prod.fst).map (fun a => a / 256)).eraseDups

/-- A line of a core has unpublished bytes that may be written back. -/
def canWriteBack (s : State) (k : CoreSt) (line : Nat) : Bool :=
  k.dirty.any (fun e => e.1 / 256 == line && hasTicket s e.2.block)

/-- A collective can go on at a rank of this device with what the device knows: it reads its source, the values of
every rank are here, it writes its result, or it has failed. -/
def collGoes (s : State) (r : Request) : Bool :=
  let here := collLocal s r
  let w : CollWorld := { vals := [], err := 0 }
  r.source.isNone || r.result.isSome || (reqRank s r).isNone || collError s r here w != 0
    || collWhole here w (reqComm s r).length

/-- What may happen to a request. -/
def requestEvents (s : State) (core : Nat) (r : Request) : List Instr :=
  when_ (r.emulated && r.accepted && (r.engine != .coll || r.finished)) [Instr.firmwareEmulation r.block r.cord r.n]
    ++ when_ (!r.accepted) (match r.engine with
      | .copy => [Instr.copyRequestAccept core]
      | .gse => [Instr.gseRequestAccept core]
      | .coll => [Instr.collRequestAccept core])
    ++ when_ (r.accepted && !r.finished) (match r.engine with
      | .copy => when_ (!r.emulated) [Instr.copyDelivery core r.n]
      | .gse => when_ (!r.emulated) (((List.range r.gcount).filter (fun k => (tabGet r.moved k).isNone)).map
          (fun k => Instr.gseElementMove core r.n k))
      | .coll => when_ (collGoes s r) [Instr.collectivePerform core r.n { vals := [], err := 0 }])

/-- What may happen to the operation at the head of an array. -/
def arrayEvents (core : Nat) (k : CoreSt) : List Instr :=
  match k.array with
  | [] => []
  | o :: _ =>
    if o.emulated then [Instr.firmwareEmulation o.block o.cord o.n]
    else
      match o.kind with
      | .mma | .mmas => [Instr.arrayMmaPerform core]
      | .mzero | .maccld => [Instr.arrayZeroLoadPerform core]
      | .mdrain => [Instr.arrayDrainPerform core]

/-- What may happen to a core. -/
def coreEvents (s : State) (core : Nat) (k : CoreSt) : List Instr :=
  ((k.outbound.filter (fun o => !outboundBehind k o)).map (fun o => Instr.storeArrivalAtHome core o.n))
    ++ (((heldLines k).filter (canWriteBack s k)).map (fun l => Instr.l1Writeback core l))
    ++ ((heldLines k).map (fun l => Instr.l1LineEviction core l))
    ++ ((k.commands.filter (fun d => !d.perf && !commandWaits s core d)).map
      (fun d => Instr.delegatedAtomicPerform core d.n))
    ++ ((k.commands.filter (fun d => d.perf && !overRecovery s d)).map (fun d => Instr.cqReplyArrival core d.n))
    ++ (k.requests.flatMap (requestEvents s core))
    ++ arrayEvents core k
    ++ when_ (!hasResident s core) (k.fuses.map (fun e => Instr.fieldFuseApply core e.1 e.2))

/-! ### Grids, contexts, partitions, dies -/

/-- A grid has a braid to place, or to place again. -/
def wantsPlace (s : State) (g : Nat) (x : Grid) : Bool :=
  if (duePending s x).isSome then !x.over else placing s g

/-- What may happen to a grid. -/
def gridEvents (s : State) (x : Grid) (g : Nat) : List Instr :=
  when_ (x.stage == .accepted) ((List.range x.waits.length).filterMap (fun k =>
      if x.waits.getD k true then none else some (.launchWaitSatisfied g k)))
    ++ when_ (wantsPlace s g x) (if (chooseSeat s x false).isSome then [Instr.blockPlacement g]
      else when_ (chooseSeat s x true).isSome [Instr.avoidedPlacementTimeout g])
    ++ when_ ((x.stage == .placing || x.stage == .running) && !ticketStands s x
        && ((holder s g x).map (fun i => (ctxBit s x 3 || keptBraid x i) && braidStages s (g, i))).getD false)
      [Instr.stagedStepRelease g]
    ++ when_ (gridDone x || x.owed.isSome) [Instr.gridComplete g]
    ++ ((x.braids.filter (fun r => r.2.toKill)).map (fun r => Instr.braidKill g r.1))

/-- What may happen to a context. -/
def ctxEvents (s : State) (key : Nat) (x : Ctx) : List Instr :=
  let part := key / 65536
  let ctx := key % 65536
  when_ (x.fatal.isSome && allSuspended s part ctx) [Instr.fatalErrorDump part ctx]
    ++ when_ (x.life == .draining && !hasBlocks s part ctx) [Instr.contextSave part ctx]
    ++ ((x.versions.filter (fun v => v.2.superseded && !versionUsed s part ctx v.1 v.2)).map
      (fun v => Instr.codeVersionRemove part ctx v.1))

/-- What may happen to a partition. -/
def partEvents (s : State) (p : Nat) (x : Part) : List Instr :=
  ((List.range x.queues.length).filterMap (fun q =>
      match (headOf s p q).bind (gridOf s) with
      | some g => if g.stage == .queued then some (.launchRecordAccept p q) else none
      | none => none))
    ++ ((x.rings.filter (fun r => r.2.rung)).map (fun r => Instr.ringDoorbell p r.1))

/-- A cached translation is no longer what its tables give, or they are to be marked anew (R211, R212). -/
def staleCached (s : State) (d : Die) (e : TlbEntry) : Bool :=
  match tabGet d.slots e.slot with
  | none => true
  | some t =>
    if !t.valid then true
    else
      match walk s.mem t.root e.base .read with
      | .page _ base size pa x => base != e.base || size != e.size || pa != e.pa || bit x 3 != e.wr || bit x 4 != e.ex
          || !bit x 5 || (e.dirty && !bit x 6)
      | .fault _ => true

/-- Another cached translation of the slot covers addresses of an entry: the former one and the new one (R212). -/
def doubled (d : Die) (e : TlbEntry) : Bool :=
  d.tlb.any (fun x => x.slot == e.slot && x.base < e.base + e.size && e.base < x.base + x.size
    && { x with hidden := false } != { e with hidden := false })

/-- The cached translations that the next accesses may meet no longer, or meet again (R212). -/
def tlbChoices (s : State) : List Choice :=
  s.dies.flatMap (fun d => (d.2.tlb.zipIdx.filter (fun e => e.1.hidden || staleCached s d.2 e.1 || doubled d.2 e.1)).map
    (fun e => .toggleTlb d.1 e.2))

/-- The steps that concern all dies together. -/
def dieEvents (s : State) : List Instr :=
  (s.dies.flatMap (fun d => d.2.walks.map (fun w => Instr.pageWalk w.src)))
    ++ when_ (s.dies.any (fun d => !d.2.reports.isEmpty && d.2.fqProd - d.2.fqCons < 2 ^ d.2.fqSize)) [Instr.faultReportWrite]
    ++ when_ (s.dies.any (fun d => d.2.invCmd == 1)) [Instr.tlbInvalidate]
    ++ when_ (s.dies.any (fun d => d.2.atMin == 100)) [Instr.persistentOvercap]

/-- The mailbox commands with their opcodes (R364). -/
def mailboxOps : List (Nat × Instr) :=
  [(0x0001, .version), (0x0010, .fwUpload), (0x0011, .fwCommit), (0x0020, .partSet), (0x0021, .partReset),
   (0x0030, .devSet), (0x0040, .commSet), (0x0050, .ringSet), (0x0060, .attest), (0x0070, .eventRead)]

/-- The mailbox command that is under way. -/
def mailEvents (s : State) : List Instr :=
  (mailboxOps.filter (fun e => started s e.1 && !(e.1 == 0x0021 && resetHeld s))).map Prod.snd

/-! ### The issue slots (R298 to R301) -/

/-- The cords of a side of a core that have not ended, each with its block. -/
def sideCords (s : State) (core side : Nat) : List (Nat × Nat × Cord) :=
  s.blocks.zipIdx.flatMap (fun e => if e.1.core = core ∧ e.1.side = side then
      (e.1.cords.zipIdx.filter (fun y => !y.1.ended)).map (fun y => (e.2, y.2, y.1))
    else [])

/-- The sides of the cores that hold blocks. -/
def sides (s : State) : List (Nat × Nat) := (s.blocks.map (fun x => (x.core, x.side))).eraseDups

/-- The active slot of a side that issued last. -/
def lastSlot (s : State) (core side : Nat) : Nat :=
  let k := coreOf s core
  if side = 0 then k.lastA else k.lastB

/-- The active cords of a side in the order in which its issue slot is offered to them (R299, R301): in slot order after
the one that issued last, wrapping round. -/
def turnOrder (s : State) (core side : Nat) : List (Nat × Nat) :=
  let ys := sideCords s core side
  (List.range 8).filterMap (fun i =>
    (ys.find? (fun e => e.2.2.active == some ((lastSlot s core side + 1 + i) % 8))).map (fun e => (e.1, e.2.1)))

/-- The issue that a cord may make now. -/
def issueAt (s : State) (b c core : Nat) : Option Sel := (cordOf s b c).bind (issueSel s b c core)

/-- The sides one of whose active cords may issue. -/
def issueChoices (s : State) : List Choice :=
  ((sides s).filter (fun e => (turnOrder s e.1 e.2).any (fun y => (issueAt s y.1 y.2 e.1).isSome))).map
    (fun e => .issue e.1 e.2)

/-- A cord has issued: it has retired an instruction, its strands have moved or parked, or it has a trap. -/
def hasIssued (x y : Cord) : Bool :=
  x.retired != y.retired || x.queue.length != y.queue.length
    || (x.strands.zip y.strands).any (fun t => t.1.pc != t.2.pc || t.1.park != t.2.park)

/-- Cord c of block b has issued between two states. -/
def issuedIn (s t : State) (b c : Nat) : Bool :=
  match cordOf s b c, cordOf t b c with
  | some x, some y => hasIssued x y
  | _, _ => false

/-- A cord that moved took the issue slot (R56): a clause header takes none, but one that another header follows. -/
def tookSlot (s t : State) (b c core : Nat) (pc : DWord) : Bool :=
  match cordOf s b c, cordOf t b c with
  | some x, some y =>
    x.retired != y.retired || x.queue.length != y.queue.length
      || (match instrAt s b core pc, instrAt t b core (pc + 4) with
        | some (.clauseHeader _), some (.clauseHeader _) => true
        | some (.clauseHeader _), _ => false
        | _, _ => true)
  | _, _ => true

/-- The side's issue slot has gone to an active cord (R299). -/
def tookTurn (s : State) (core side slot : Nat) : State :=
  modCore s core (fun k => if side = 0 then { k with lastA := slot } else { k with lastB := slot })

/-- The cord that has issued: its hang clock starts anew, with no extension (R318, R319), it waits for no line, and where
its strands parked it leaves its active slot (R300). -/
def afterIssue (s : State) (b c : Nat) (lanes : List Nat) : State :=
  let s := modCord s b c (fun y => { y with idle := 0, ext := 0, stall := [] })
  if ((cordOf s b c).map (fun y => lanes.any (fun l => (y.lane l).park.isSome))).getD false then swapOut s b c else s

/-- An issue of a cord is over: `s` before it, `t` after its instruction. -/
def endTurn (s t : State) (b c core : Nat) (x : Sel) : State :=
  let u := afterIssue t b c x.lanes
  match s.blocks[b]?, (cordOf s b c).bind Cord.active with
  | some blk, some slot => if tookSlot s t b c core x.pc then tookTurn u core blk.side slot else u
  | _, _ => u

/-- The issue slot of a side is offered to some cords in turn: the first that issues takes it. What a cord that cannot
issue has asked for, a translation or its place in the pending set, stands. -/
def turn (core : Nat) : List (Nat × Nat) → State → Host.Outcome State Fault Refusal
  | [], s => .next s
  | (b, c) :: rest, s =>
    match issueAt s b c core with
    | none => turn core rest s
    | some x =>
      match runSel x (select s x true) with
      | .next t => if issuedIn s t b c then .next (endTurn s t b c core x) else turn core rest t
      | r => r

/-! ### Active and pending cords (R298, R300, R301) -/

/-- An active cord that leaves its slot: none of its strands is ready, or it is suspended (R300). -/
def leavesSlot (y : Cord) : Bool :=
  y.active.isSome && !y.ended && (!y.suspend.isEmpty || !y.liveLanes.any y.ready)

/-- The first active cord that leaves its slot. -/
def leaver (s : State) : Option (Nat × Nat) :=
  ((s.blocks.zipIdx.flatMap (fun e => (e.1.cords.zipIdx.filter (fun y => leavesSlot y.1)).map (fun y => (e.2, y.2))))).head?

/-- The region of a cord has come to its end between two states: what ends it waits for its drain, and issues then (R337). -/
def endsMeanwhile (s t : State) (b c : Nat) : Bool :=
  let ending (s : State) := ((cordOf s b c).bind Cord.region).bind Region.ending
  (ending s).isNone && (ending t).isSome

/-- A cord is ready (R298): its chosen PC group can issue, or comes to the end of a region. A fetch that has no translation
asks for one, and so does a transfer to such a target. -/
def cordReady (s : State) (b c core : Nat) (y : Cord) : Bool :=
  y.stall.all (fun e => othersPresence s [] e.1 e.2 == 0)
    && (match issueSel s b c core y with
      | none => false
      | some x =>
        match fetchAt s b core x.pc, runSel x (select s x true) with
        | .words _, .next t => issuedIn s t b c || endsMeanwhile s t b c || s.dies != t.dies
        | _, _ => true)

/-- The key by which a pending cord takes a freed slot: how long it has waited, or in deterministic mode its cord id,
which is its block's linear index and its number (R300, R301). -/
def pendingKey (s : State) (b c : Nat) (y : Cord) : Nat :=
  if detMode s b then ((s.blocks[b]?).map (fun x => x.index * 16 + c)).getD 0 else y.since

/-- The ready pending cord of a side that takes a free active slot, with the slot. -/
def comer (s : State) (core side : Nat) : Option (Nat × Nat × Nat) :=
  match (sideCords s core side).filter (fun e => e.2.2.active.isNone), freeActive s core side with
  | [], _ | _, [] => none
  | ys, slot :: _ =>
    ((sortByKey (fun e => pendingKey s e.1 e.2.1 e.2.2)
        (ys.filter (fun e => cordReady s e.1 e.2.1 core e.2.2))).head?).map (fun e => (e.1, e.2.1, slot))

/-- The first side at which a pending cord takes an active slot. -/
def nextComer (s : State) : Option (Nat × Nat × Nat) := (sides s).findSome? (fun e => comer s e.1 e.2)

/-- A cord of a context that replays whose retired count has passed an entry (R312), with its block. -/
def passed (s : State) : Option Nat :=
  if s.ctxs.any (fun x => ctxLog x.2 == 2) then
    ((s.blocks.zipIdx.filter (fun e => match gridOf s e.1.grid with
      | some g =>
        let x := ctxOf s g.part g.ctx
        ctxLog x == 2 && x.fatal.isNone && e.1.cords.any (fun y => !y.ended && passedEntry s x e.1.core y)
      | none => false)).map Prod.snd).head?
  else none

/-- What comes before anything else: a replay that has diverged ends its context, and cords change between the active
and the pending set of their side, which takes no choice (log 68). -/
def dueNext (s : State) : Option State :=
  match passed s, leaver s, nextComer s with
  | some b, _, _ => some (diverged s b 0)
  | none, some (b, c), _ => some (swapOut s b c)
  | none, none, some (b, c, slot) => some (modCord s b c (fun y => { y with active := some slot, stall := [] }))
  | none, none, none => none

/-! ### The choice -/

/-- Every step of the device that the state makes possible but those of its blocks. -/
def deviceEvents (s : State) : List Instr :=
  (s.cores.flatMap (fun e => coreEvents s e.1 e.2)) ++ (s.grids.zipIdx.flatMap (fun e => gridEvents s e.1 e.2))
    ++ (s.ctxs.flatMap (fun e => ctxEvents s e.1 e.2)) ++ (s.parts.flatMap (fun e => partEvents s e.1 e.2))
    ++ dieEvents s ++ mailEvents s

/-- A value of a collective comes over a port in recovery: it waits there (R379). -/
def collHeld (s : State) (core r : Nat) (w : CollWorld) : Bool :=
  ((reqOf s core r).map (fun q => w.vals.any (fun x => ((reqComm s q)[x.1]?.map (fun m =>
    m.dev != s.mgmt.devid.toNat && reachPeer s m.dev 0 == .waits)).getD false))).getD false

/-- A step from outside at a word that a replay holds until what was recorded before it has been performed (R311), or what
a recovering port holds (R379), or a suspension or a reset that waits (R317, R354). -/
def inputHeld (s : State) (x : Input) : Bool :=
  match x.i with
  | .hostMemoryAccess pa (.step _ _ _ _) | .peerAccessArrival _ pa (.step _ _ _ _) => foreignHeld s (2 ^ 64) pa
  | .collectivePerform core r w => collHeld s core r w
  | .cordSuspend b c _ => suspendWaits s b c
  | .functionLevelReset n => resetWaits s n
  | _ => false

/-- Everything that may happen next. -/
def choices (s : State) : List Choice :=
  when_ (s.inputs.any (fun x => !inputHeld s x)) [.input] ++ (deviceEvents s).map .event ++ tlbChoices s
    ++ (s.blocks.zipIdx.flatMap (fun e => blockChoices s e.2 e.1)) ++ issueChoices s

/-- A form that a control core injects into a suspended cord (R353). -/
def injected (i : Instr) : Bool :=
  match i.shape with
  | .long op _ => firmwareOp op
  | .unassigned _ => true
  | _ => false

/-- What the outside world has brought is taken: a step of the device, or an instruction that a control core injects
into a cord that is there; one that is no firmware form is refused (R353). -/
def runInput (x : Input) (s : State) : Host.Outcome State Fault Refusal :=
  match x.i.shape, x.cord with
  | .event, _ => exec x.i { s with sel := none }
  | _, some (b, c) =>
    if injected x.i && (cordOf s b c).isSome then exec x.i { s with sel := some { b := b, c := c, lanes := [], pc := 0, injected := true } }
    else .next (send s .fwRefused)
  | _, none => .next s

/-- The first input that nothing holds, taken from those that wait. -/
def takeInput (s : State) : Host.Outcome State Fault Refusal :=
  match s.inputs.find? (fun x => !inputHeld s x) with
  | none => .next s
  | some x => runInput x { s with inputs := s.inputs.erase x }

/-- A chosen step taken. -/
def takeChoice (c : Choice) (s : State) : Host.Outcome State Fault Refusal :=
  match c with
  | .input => takeInput s
  | .event i => exec i { s with sel := none }
  | .issue core side => turn core (turnOrder s core side) s
  | .look x => runSel x (select s x false)
  | .store b c o => .next (match s.blocks[b]? with
    | some x => settleAll (performStore s b c x.core o) b
    | none => s)
  | .begin b c o i => .next (match s.blocks[b]? with
    | some x => beginStep s b c x.core o i
    | none => s)
  | .piece b c o => .next (setPiece s b c o)
  | .writeOne b c o i => .next (writePiece s b c o i)
  | .keep b c o k => .next (keepLater s b c o k)
  | .byte b c o i k => .next (match s.blocks[b]? with
    | some x => settleAll (byteAlone s b c x.core o i k) b
    | none => s)
  | .toggleTlb die i => .next (toggleCached s die i)

/-- Without power only POWER_ON happens; what else the outside world brings is lost (R385, R394). -/
def stepDark (s : State) : Host.Outcome State Fault Refusal :=
  match s.inputs with
  | [] => .next s
  | x :: rest =>
    match x.i with
    | .powerOn ok => exec (.powerOn ok) { s with inputs := rest, sel := none }
    | _ => .next { s with inputs := rest }

/-- One of the steps that may happen: the only one, or the one that a free value picks. -/
def pickNext (s : State) : Host.Outcome State Fault Refusal :=
  match choices s with
  | [] => .next s
  | [c] => takeChoice c s
  | c :: cs => takeChoice ((c :: cs).getD (Config.pick s.free % (c :: cs).length) c) { s with free := s.free + 1 }

/-- A step with power: what is due, or one of what may happen. -/
def stepLit (s : State) : Host.Outcome State Fault Refusal :=
  match dueNext s with
  | some t => .next t
  | none => pickNext s

end Sys2Proof.Machine
end

