-- ==== Sys2Proof/Machine/Step.lean ====
section
/-! DEFINITION. One step of the machine, and the state in which a given instruction is the next. -/

namespace Sys2Proof.Machine
open Sys2Proof

/-- One step of the device (log 3): with power, one of the things that may happen next. -/
def step (s : State) : Host.Outcome State Fault Refusal := if s.power then stepLit s else stepDark s

/-- Where the instruction that withFetchWord places stands: virtual and physical address. -/
def fetchHome : Nat := 0x10000

/-- The launch record behind the instruction that withFetchWord places (log 6): entry 0x10000, one block of one
strand, W = 16, V = 256, four scratchpad lines, braids of one block, `.gbar`, SCOPE 5. -/
def fetchRecord : Nat :=
  0x500004204100010001000100010001000000010000000000000000000000000000000000000000000000000000000000000000000000000000000000000000000000000000000000010000

/-- The clause of that strand: flag A is f0 and flag B is f1, so that the instruction may carry a flag. -/
def fetchClause : Header :=
  { rgn := false, yield := false, bval := true, flagB := 1, aval := true, flagA := 0, wait := 0 }

/-- The strand that fetches it. -/
def fetchStrand : Strand :=
  { present := true, pc := BitVec.ofNat 64 fetchHome, v := List.replicate 256 0, clause := some fetchClause }

/-- A lane without a strand. -/
def noStrand : Strand := { v := List.replicate 256 0 }

/-- The cord that fetches it. -/
def fetchCord : Cord :=
  { strands := fetchStrand :: List.replicate 15 noStrand, s := List.replicate 64 0, k := List.replicate 12 0,
    f := List.replicate 12 0, round := [(0, false)], lastEnd := BitVec.ofNat 64 fetchHome }

/-- Its block. -/
def fetchBlock : Block :=
  { grid := 0, index := 0, braid := 0, pos := 0, core := 0, side := 0, lines := 4, width := 16, vregs := 256,
    cords := [fetchCord], presence := List.replicate 4 0, tags := List.replicate 4 {} }

/-- Its grid. -/
def fetchGrid : Grid :=
  { part := 0, ctx := 0, record := fetchRecord, depth := 0, parent := none, stage := .running, next := 1,
    braids := [(0, { relaunchable := false })], cores := [0], order := 1 }

/-- The tables of that context, which map its first 2 MiB to the physical addresses of the same numbers (Table 11-3):
the root at 0x1000 and a table of each level below it, each with its entry 0. -/
def fetchTables (m : Mem) : Mem :=
  memWrite (memWrite (memWrite (memWrite m 0x1000 (leBytes 8 0x2001)) 0x2000 (leBytes 8 0x3001)) 0x3000
    (leBytes 8 0x4001)) 0x4000 (leBytes 8 0x7B)

/-- Its die: the context has slot 0, and the page of the instruction is translated. -/
def fetchDie : Die :=
  { slots := [(0, { valid := true, root := 0x1000 })],
    tlb := [{ slot := 0, base := 0, size := 2 ^ 21, pa := 0, wr := true, ex := true, dirty := true }] }

/-- Its context. -/
def fetchCtx : Ctx :=
  { life := .running, accepted := 1, versions := [(0, { base := fetchHome, len := 0x1000, step := 1, intlk := false })] }

/-- Its partition: one cluster. -/
def fetchPart : Part := { record := [BitVec.ofNat 64 (0x100 + 2 ^ 48)], enabled := true, running := true }

/-- The state with the instruction whose bits are `w` stored where the next step fetches, and everything that makes a
cord fetch there (log 6): start-up is over, and one grid with one block of one strand has been placed. -/
def State.withFetchWord (s : State) (nbits w : Nat) : State :=
  { s with
    power := true,
    mem := memWrite (fetchTables s.mem) fetchHome ((tableWords nbits w).flatMap bytesOfWord),
    poison := [], cells := [], last := [], cores := [], dies := [(0, fetchDie)], blocks := [fetchBlock],
    grids := [fetchGrid], ctxs := [(0, fetchCtx)], parts := [(0, fetchPart)], ports := [],
    mgmt := { s.mgmt with bootstat := 3, mbcmd := 0 }, inputs := [],
    sel := some { b := 0, c := 0, lanes := [0], pc := BitVec.ofNat 64 fetchHome } }

end Sys2Proof.Machine
end

