-- ==== Sys2Proof/Safety.lean ====
section
/-! DEFINITION. What claims about runs are stated in: states that keep the canonical form of every byte store, and a
machine that goes on. -/

namespace Sys2Proof.Safety
open Sys2Proof Sys2Proof.Machine

/-- Device memory keeps its canonical form: addresses strictly rising, no cell that reads as an unlisted one. -/
def MemOk (s : State) : Prop := Memory.wf s.mem = true

/-- The scratchpad windows of the blocks keep it. -/
def WindowsOk (s : State) : Prop := ∀ b ∈ s.blocks, Memory.wf b.window = true

/-- The mailbox buffer and the firmware staging area keep it. -/
def MgmtOk (s : State) : Prop := Memory.wf s.mgmt.mbbuf = true ∧ Memory.wf s.mgmt.staging = true

/-- Every byte store of the machine is in canonical form, so that equal contents are equal data. -/
def BytesOk (s : State) : Prop := MemOk s ∧ WindowsOk s ∧ MgmtOk s

/-- The machine answers a next state here: it neither faults nor refuses. -/
def GoesOn (s : State) : Prop := ∃ t, step s = .next t

/-- A safe state: the machine goes on and its byte stores are canonical. -/
def Safe (s : State) : Prop := GoesOn s ∧ BytesOk s

end Sys2Proof.Safety
end

