-- ==== Sys2Proof/WellFormed.lean ====
section
/-! DEFINITION. Well-formed instructions: those that the decoder reads from their own words, and that pass the checks
of Table 3-6 in a cord with given numbers of vector registers and lanes. -/

namespace Sys2Proof

/-- The words of an instruction are what the decoder reads it from. A step of the device has no words, and an
unassigned opcode is one that no row of the opcode table has (R45, R64). -/
def Instr.canonical (i : Instr) : Bool :=
  match i.shape with
  | .header _ | .short _ _ | .long _ _ => true
  | .unassigned (.short w) => lengthWords w == 1 && shortOp w != 0 && (ofShort (shortOp w) (shortFields w)).isNone
  | .unassigned (.long lo hi) => lengthWords lo == 2 && (ofLong (longOp lo) (longFields lo hi none)).isNone
  | .unassigned (.lit lo hi l) => lengthWords lo == 3 && (ofLong (longOp lo) (longFields lo hi (some l))).isNone
  | .event => false

/-- An instruction that rows 2 to 5 of Table 3-6 let pass in a cord of V vector registers and W lanes, in a clause
with both flags. -/
def Instr.wf (V W : Nat) (i : Instr) : Bool :=
  i.canonical
    && (Machine.decodeTrap { V := V, W := W, aval := true, bval := true, injected := false } i).isNone

/-- An instruction that some cord can execute: the widest register file and the widest cord admit it. -/
def Instr.wellFormed (i : Instr) : Bool := i.wf 256 64 || i.wf 256 32

end Sys2Proof
end

