-- ==== Sys2Proof/Certificates/Slice0/Obligations.lean ====
section
/-! DEFINITION. The statements for the provers, and what they are stated in. -/

namespace Sys2Proof.Claims
open Sys2Proof Sys2Proof.Machine

/-! ### What the statements are stated in -/

/-- A long form whose every field is 0. -/
def blank : LForm :=
  { d := 0, a := 0, b := 0, c := 0, pred := 0, pneg := false, ty := 0, mod := 0, fsel := false, setf := false,
    asc := false, bsc := false, mod2 := 0, lit := none }

/-- A short form whose every field is 0. -/
def blankS : SForm := { ty := 0, pneg := false, pred := 0, a := 0, d := 0, m := false }

/-- The bytes of an instruction, lowest address first (R4). -/
def bytesOf (i : Instr) : List Byte := (encode i).flatMap bytesOfWord

/-- An instruction issues in a state as `u`: a cord is selected, the word passes Table 3-6, its strands do not stand
parked at it, it ends no open region, and the open region has room for the registers and doublewords it writes. -/
abbrev Issues (i : Instr) (s : State) (u : Issue) (regs dws : List Nat) : Prop :=
  issueOf s i.length = some u ∧ decodeTrap (decodeCtx u) i = none ∧ u.resume = none
    ∧ (u.cord.region.isSome = true → endsRegion i = false)
    ∧ (u.cord.region.map (fun g => g.fits u.cord regs dws)).getD true = true

/-- An instruction that issues or stops at issue: as `Issues`, without the room. -/
abbrev Reaches (i : Instr) (s : State) (u : Issue) : Prop :=
  issueOf s i.length = some u ∧ decodeTrap (decodeCtx u) i = none ∧ u.resume = none
    ∧ (u.cord.region.isSome = true → endsRegion i = false)

/-- Strands that stand parked at an instruction look at it again. -/
abbrev LooksAgain (i : Instr) (s : State) (u : Issue) (p : Park) : Prop :=
  issueOf s i.length = some u ∧ decodeTrap (decodeCtx u) i = none ∧ u.resume = some p

/-- The state in which an instruction has retired and had no other effect yet. -/
def moved (s : State) (u : Issue) (regs dws : List Nat) : State := modCord s u.b u.c (retire u regs dws)

/-- One thing an instruction does: under which further condition, which vector registers and doublewords it must find
room for, and its effect once it has retired. -/
structure Case where
  i : Instr
  holds : Bool := true
  regs : List Nat := []
  dws : List Nat := []
  eff : State → State := id

/-- Where the instruction issues and the condition holds, exec answers the next state with that effect. -/
abbrev Case.Completes (e : Case) (s : State) (u : Issue) : Prop :=
  Issues e.i s u e.regs e.dws → e.holds = true → exec e.i s = .next (e.eff (moved s u e.regs e.dws))

/-- An instruction whose effect is some register writes of its cord. -/
def writes (i : Instr) (u : Issue) (ws : List RegW) : Case :=
  { i := i, regs := vregsOf ws, eff := fun t => modCord t u.b u.c (writeRegs ws) }

/-- An instruction whose effect is a change of its cord. -/
def changes (i : Instr) (u : Issue) (k : Cord → Cord) : Case := { i := i, eff := fun t => modCord t u.b u.c k }

/-- Words that the spec works out bit by bit, with what they stand for: "Encodings worked out" of files 03, 09 and 13, and the
instruction entries of files 05 and 17. -/
def wordTable : List (List Word × Instr) :=
  [([0x01100000], .clauseHeader { rgn := false, yield := false, bval := false, flagB := 0, aval := true, flagA := 1, wait := 0 }),
   ([0x80000A00], .clauseHeader { rgn := true, yield := false, bval := false, flagB := 0, aval := false, flagA := 0, wait := 0x00A }),
   ([0x20000A08], .addShort { blankS with ty := 2, d := 10 }),
   ([0x00090528], .xorShort { blankS with d := 5, a := 9 }),
   ([0xD0B0A01E, 0x00020000], .mul { blank with d := 10, a := 11, b := 13, ty := 2 }),
   ([0x00D0C013, 0x00020000, 1], .sub { blank with d := 12, a := 13, ty := 2, lit := some 1 }),
   ([0x00000803, 0x00004000, 0xFFFFFFB8], .bra { blank with pred := 4, lit := some 0xFFFFFFB8 }),
   ([0x00305A02, 0x00100000], .vote { blank with d := 5, a := 3, mod := 1 }),
   ([0x00106A16, 0x00200000], .matchLanes { blank with d := 6, a := 1, mod := 2 }),
   ([0x00001C02, 0x060000A0], .ld { blank with d := 1, c := 10, setf := true, asc := true }),
   ([0x10000C06, 0x040000A0], .st { blank with b := 1, c := 10, asc := true }),
   ([0xE0800C16, 0x040020F0], .stc { blank with a := 8, b := 14, c := 15, pred := 2, asc := true }),
   ([0x00003E03, 0x06020080, 0], .atom { blank with d := 3, c := 8, ty := 2, setf := true, asc := true, lit := some 0 }),
   ([0x00000E0B, 0x84420090, 1], .red { blank with c := 9, ty := 2, mod := 4, mod2 := 8, asc := true, lit := some 1 }),
   ([0x00000C22, 0x20500000], .phase { blank with mod := 5, mod2 := 2 }),
   ([0x00008E07, 0x04020140, 7], .cas { blank with d := 8, c := 20, ty := 2, asc := true, lit := some 7 }),
   ([0x50006E22, 0x04000140], .tst { blank with d := 6, b := 5, c := 20, asc := true }),
   ([0x00000E27, 0x04000140, 0x18], .retract { blank with c := 20, asc := true, lit := some 0x18 }),
   ([0x21000F46, 0x0E000141], .mma { blank with a := 16, b := 18, c := 20, asc := true, bsc := true, setf := true }),
   ([0x61816F4E, 0x0E530000], .mdrain { blank with d := 22, a := 24, b := 6, ty := 3, mod := 5, asc := true, bsc := true, setf := true }),
   ([0xB1A00F26, 0x0C000001], .boinit { blank with a := 26, b := 27, asc := true, bsc := true }),
   ([0x01C00F22, 0x06000000], .kick { blank with a := 28, asc := true, setf := true }),
   ([0x00000B43, 0, 7], .trap { blank with lit := some 7 }),
   ([0x00000B4A, 0x00100000], .tret { blank with mod := 1 }),
   ([0x0002CB4E, 0], .tqpeek { blank with d := 44 }),
   ([0x02831B26, 0x04000000], .mts { blank with d := 0x31, a := 40, asc := true })]

/-- The words of a marked pair (Table 3-1). -/
def marked : List Word → Bool
  | w :: _ => lengthWords w == 1 && w.getLsbD 0
  | [] => false

/-- The length code of a word (Table 3-1). -/
def lengthCode (w : Word) : BitVec 2 := w.extractLsb' 0 2

/-- The opcode bits of a short form (Table 3-2). -/
def shortCode (w : Word) : Nat := w.toNat / 4 % 64

/-- The registers that a register field of a short form names: a pair for types 4 and 5 (R48). -/
def shortRegs (f : SForm) (r : BitVec 8) : List Nat := if f.ty = 4 ∨ f.ty = 5 then [r.toNat, r.toNat + 1] else [r.toNat]

/-- The registers that a short form reads (R45): D too, but for MOV, NOT, NEG, ABS, POPC, CLZ, BREV and FSAT. -/
def shortReads (op : Nat) (f : SForm) : List Nat :=
  shortRegs f f.a ++ (if op ∈ [0x01, 0x0B, 0x0C, 0x0D, 0x12, 0x13, 0x14, 0x1A] then [] else shortRegs f f.d)

/-- Two short forms that break R59 together: their D or their A lie in one bank, or one writes a register that the other
reads. A short NOP goes with every other word. -/
def Clash (op1 : Nat) (f1 : SForm) (op2 : Nat) (f2 : SForm) : Prop :=
  op1 ≠ 0x1B ∧ op2 ≠ 0x1B ∧ (f1.d.toNat % 4 = f2.d.toNat % 4 ∨ f1.a.toNat % 4 = f2.a.toNat % 4
    ∨ (∃ r ∈ shortRegs f1 f1.d, r ∈ shortReads op2 f2) ∨ ∃ r ∈ shortRegs f2 f2.d, r ∈ shortReads op1 f1)

end Sys2Proof.Claims

section
open Sys2Proof Sys2Proof.Machine Sys2Proof.Claims

/-! ### Encoding -/

/-- The worked words of the spec decode to the instructions they stand for, and encode from them. -/
def Obligations.WordsDecode : Prop :=
  ∀ e ∈ wordTable, decodeWords e.1 = .ok (e.2, e.1.length) ∧ encode e.2 = e.1

/-- Decoding the bytes of an instruction gives the instruction and leaves the bytes after it (R43, R44, R47, R53): no
bit of an encoding is dropped. -/
def Obligations.DecodeOfEncode : Prop :=
  ∀ (i : Instr) (rest : List Byte), i.canonical = true → decodeBytes (bytesOf i ++ rest) = .ok (i, rest)

/-- What the decoder reads from some bytes encodes to those bytes: each word has one meaning (R43, R64). -/
def Obligations.EncodeOfDecode : Prop :=
  ∀ (bs rest : List Byte) (i : Instr), decodeBytes bs = .ok (i, rest) → i.canonical = true ∧ bytesOf i ++ rest = bs

/-! ### The step -/

/-- Where nothing is due and the only thing that may happen is the issue slot of a side, step offers it to the active
cords in slot order (R299, R301). The first cord that may issue runs the instruction that stands at the program counter
of its group, a marked pair as its first word and then its second (R26, R59, R60). Where it has issued, the step is over:
around the instruction its hang clock restarts (R318, as the model counts it: log 92), the slot counts as the one that issued
last, and a cord whose strands have parked leaves its active slot. Where it has not, the next cord has its turn. That the leaving
takes place in this step, where R300 says within two cycles, and that what a cord has asked for in its turn stands, is the
model's choice (log 68). -/
def Obligations.StepRunsDecoded : Prop :=
  ∀ (s : State) (core side b c : Nat) (rest : List (Nat × Nat)) (x : Sel) (u : Issue) (ws : List Word),
    s.power = true → dueNext s = none → choices s = [.issue core side] → turnOrder s core side = (b, c) :: rest →
    issueAt s b c core = some x → issueOf (select s x true) 4 = some u →
    fetchAt (select s x true) x.b u.blk.core x.pc = .words ws →
    (∀ i t, marked ws = false → instrOf ws = some i → held (select s x true) u i = false →
      exec i (select s x true) = .next t →
      (issuedIn s t b c = true → step s = .next (endTurn s t b c core x))
      ∧ (issuedIn s t b c = false → step s = turn core rest t))
    ∧ (∀ i j t, ws.length = 2 → marked ws = true → pairForms x.pc (ws.getD 0 0) (ws.getD 1 0) = some (i, j) →
      pairTrap (decodeCtx u) i j = none → held (select s x true) u i = false → held (select s x true) u j = false →
      pairFits u.cord i j = true → secondWord j x (exec i (select s x true)) = .next t →
      (issuedIn s t b c = true → step s = .next (endTurn s t b c core x))
      ∧ (issuedIn s t b c = false → step s = turn core rest t))

/-- The words that a fetch gives are those that memory holds at the translated addresses of the program counter, as many
as the length code of the first asks for (R43, Table 3-1). -/
def Obligations.FetchReadsMemory : Prop :=
  ∀ (s : State) (b core : Nat) (pc : DWord) (ws : List Word), fetchAt s b core pc = .words ws →
    ws ≠ [] ∧ ws.length = (if marked ws then 2 else lengthWords (ws.getD 0 0))
    ∧ ∀ n, n < ws.length → ∃ pa, translate s b core (pc + BitVec.ofNat 64 (4 * n)).toNat .fetch = some pa
      ∧ ws[n]? = some (codeWord s pa)

/-- What step takes: what is due, the moves between the active and the pending set and the end of a replay that has
diverged, before anything else (the model's choice, log 68: R300 and R312 say that they happen, not that they come first); else
nothing where nothing may happen, the one thing that may happen, or one of several (log 3).
A step of the device runs as its instruction, and so does what the outside world brings. -/
def Obligations.StepTakesAChoice : Prop :=
  ∀ s : State, s.power = true →
    (∀ t, dueNext s = some t → step s = .next t)
    ∧ (dueNext s = none →
      (choices s = [] → step s = .next s)
      ∧ (∀ i, choices s = [.event i] → step s = exec i { s with sel := none })
      ∧ (∀ x, choices s = [.input] → s.inputs.find? (fun x => !inputHeld s x) = some x → x.i.shape = .event →
          step s = exec x.i { s with inputs := s.inputs.erase x, sel := none })
      ∧ (2 ≤ (choices s).length → ∃ c ∈ choices s, step s = takeChoice c { s with free := s.free + 1 }))

/-- Every step of every state answers a next state: the machine neither faults nor refuses. -/
def Obligations.NeverStops : Prop := ∀ s : State, Safety.GoesOn s

/-- Every step keeps the canonical form of every byte store: device memory, the scratchpad windows, the mailbox buffer and
the firmware staging area. -/
def Obligations.MemoryStaysCanonical : Prop :=
  ∀ s t : State, Safety.BytesOk s → step s = .next t → Safety.BytesOk t

/-- After reset the byte stores are canonical, start-up is at stage 0 with no error (R385), nothing is placed, submitted
or mapped, every core has its 256 credits and an empty completion queue (R227), and no context exists (R356). -/
def Obligations.ResetLeaves : Prop :=
  Safety.BytesOk State.reset ∧ stageOf State.reset = 0 ∧ errOf State.reset = 0 ∧ State.reset.blocks = []
    ∧ State.reset.grids = [] ∧ State.reset.cells = [] ∧ State.reset.mgmt.triprec = 0
    ∧ (∀ core, (coreOf State.reset core).credits = 256 ∧ (coreOf State.reset core).cq = []
      ∧ (coreOf State.reset core).dirty = [] ∧ (coreOf State.reset core).phase = 0)
    ∧ (∀ d, (dieOf State.reset d).capeff = 5200 ∧ (dieOf State.reset d).fclk = 24 ∧ (dieOf State.reset d).faults = [])
    ∧ (∀ p c, (ctxOf State.reset p c).life = .absent) ∧ ∀ p, (partOf State.reset p).enabled = false

/-- A core reads what it has stored before any home has seen it, but where its braid without the ticket has staged a store
that comes after it (R302, R345), and a store changes no other byte of its own (R207, R267): outside deterministic mode none at all, and in deterministic mode, where it makes place among what other braids
have staged (R302), none of another line, and the last byte stored reads back. -/
def Obligations.StoreThenRead : Prop :=
  ∀ (s : State) (core block seq b pa : Nat) (bs : List Byte) (n : Nat),
    (∀ x, bs[n]? = some x → (detMode s block = false ∨ n + 1 = bs.length) →
      (coreRead (mergeStore s core block seq pa bs false) core b (pa + n)).1
        = (stagedOpByte (mergeStore s core block seq pa bs false) core b (pa + n)).getD x)
    ∧ (∀ a, (a < pa ∨ pa + bs.length ≤ a) →
        (detMode s block = false ∨ ∀ i, i < bs.length → (pa + i) / 256 ≠ a / 256) →
        ownByte (coreOf (mergeStore s core block seq pa bs false) core) a = ownByte (coreOf s core) a)
    ∧ ∀ a, memGet (mergeStore s core block seq pa bs false).mem a = memGet s.mem a

/-! ### Traps -/

/-- A word that breaks a row of Table 3-6 raises that row's trap for the issuing set, and does nothing else (R52). The
first condition of Table 3-6 that holds gives the trap, in a long form and in a short form: opcode, type, fields,
registers, in that order; an opcode that is not assigned breaks row 2 whatever else its word holds. The traps of a
marked pair (Table 3-6, R52, R59), of the issuing set and with no other effect: a pair off an 8-byte boundary, one
whose second word has another length code than 0b00, and one with a clause header in it break row 1; then rows 2 to 5
are applied to the first word and after it to the second; a pair whose words both pass and break R59 together breaks
row 6. -/
def Obligations.DecodeTraps : Prop :=
  (∀ (i : Instr) (s : State) (u : Issue) (k : Cause), issueOf s i.length = some u → u.injected = false →
      decodeTrap (decodeCtx u) i = some k → exec i s = .next (trapAt s u k u.lanes 0 0))
  ∧ (∀ (x : DecodeCtx) (i : Instr) (op : Nat),
      (∀ f : LForm, i.shape = .long op f → decodeTrap x i =
        if firmwareOp op = true ∧ x.injected = false then some .illegalOpcode
        else if (admits x.W i).typeOk = false then some .illegalType
        else if (admits x.W i).fieldsOk = false ∨ predBitsOk f.pred f.pneg (admits x.W i).predOk = false
            ∨ flagBitsOk x f = false then some .illegalOpcode
        else if ∃ r ∈ (admits x.W i).regs, RegUse.ok x.V r = false then some .illegalReg
        else none)
      ∧ (∀ f : SForm, i.shape = .short op f → decodeTrap x i =
        if (admits x.W i).typeOk = false then some .illegalType
        else if (admits x.W i).fieldsOk = false ∨ predBitsOk f.pred f.pneg (admits x.W i).predOk = false then
          some .illegalOpcode
        else if ∃ r ∈ (admits x.W i).regs, RegUse.ok x.V r = false then some .illegalReg
        else none)
      ∧ ∀ w : UWord, decodeTrap x (.unassignedOpcode w) = some .illegalOpcode)
  ∧ (∀ (x : Sel) (u : Issue) (w1 w2 : Word) (s : State), marked [w1] = true →
      ((x.pc.toNat % 8 ≠ 0 ∨ lengthCode w2 ≠ 0 ∨ shortCode w1 = 0 ∨ shortCode w2 = 0) →
        runWords x u [w1, w2] s = .next (trapAt s u .illegalPair u.lanes 0 0))
      ∧ (x.pc.toNat % 8 = 0 → lengthCode w2 = 0 → shortCode w1 ≠ 0 → shortCode w2 ≠ 0 →
        ∃ i j, instrOf [w1] = some i ∧ instrOf [w2] = some j
          ∧ (∀ k, decodeTrap (decodeCtx u) i = some k → runWords x u [w1, w2] s = .next (trapAt s u k u.lanes 0 0))
          ∧ (∀ k, decodeTrap (decodeCtx u) i = none → decodeTrap (decodeCtx u) j = some k →
              runWords x u [w1, w2] s = .next (trapAt s u k u.lanes 0 0))
          ∧ (∀ op1 f1 op2 f2, decodeTrap (decodeCtx u) i = none → decodeTrap (decodeCtx u) j = none →
              i.shape = .short op1 f1 → j.shape = .short op2 f2 → Clash op1 f1 op2 f2 →
              runWords x u [w1, w2] s = .next (trapAt s u .illegalPair u.lanes 0 0))))

/-- What a retiring instruction moves: its strands stand at the next instruction, %retired is one more, and no register,
flag, mask or trap register changes (R26, R46). -/
def Obligations.RetireMoves : Prop :=
  ∀ (u : Issue) (regs dws : List Nat) (c : Cord), u.injected = false → c.slow = none →
    (∀ l, (retire u regs dws c).lane l
      = if u.lanes.contains l ∧ l < c.strands.length then
          { c.lane l with pc := (c.lane l).pc + BitVec.ofNat 64 u.len } else c.lane l)
    ∧ (retire u regs dws c).retired = c.retired + 1 ∧ (retire u regs dws c).s = c.s ∧ (retire u regs dws c).k = c.k
    ∧ (retire u regs dws c).f = c.f ∧ (retire u regs dws c).queue = c.queue
    ∧ (retire u regs dws c).fpflags = c.fpflags ∧ (retire u regs dws c).trapctl = c.trapctl
    ∧ (retire u regs dws c).ops = c.ops

/-- A precise trap outside a region and outside the handler puts its record into the queue, after every record whose
RET is not larger (behind the head where that has gone to a debugger, R330), and moves nothing else (R324 to R326);
where eight records stand there it kills the braid. Where a record goes: the records before it have no larger RET, the
one after it a larger one, and no record is lost (R326). A record that finds eight records in the queue: a fault kills
the braid, an informational one is dropped and DROP is set (R326). A precise cause other than TRAP and BKPT in the
handler is a double fault, fatal to the context (R330), where no region is open; in an open region a precise trap ends
the region and is queued when it has drained (R337), also in the handler, where it is judged only then (log 59). -/
def Obligations.TrapsAreQueued : Prop :=
  (∀ (s : State) (b c : Nat) (x : Cord) (k : Cause) (pc : DWord) (ret : Nat) (lanes : List Nat) (d a : Nat),
      cordOf s b c = some x → x.handler = false → x.region = none → x.ended = false →
      (x.queue.length < 8 →
        takeTrap s b c k pc ret lanes d a
          = modCord s b c (fun y => { y with queue := (if y.given then
              y.queue.take 1 ++ insertRec (y.queue.drop 1) (preciseRec k pc ret lanes d a)
            else insertRec y.queue (preciseRec k pc ret lanes d a)) }))
      ∧ (x.queue.length = 8 → k.informational = false → takeTrap s b c k pc ret lanes d a = killBraid s b))
  ∧ (∀ (q : List TrapRec) (r : TrapRec), ∃ l1 l2, q = l1 ++ l2 ∧ insertRec q r = l1 ++ r :: l2
      ∧ (∀ h ∈ l1, h.ret.toNat ≤ r.ret.toNat) ∧ ∀ h ∈ l2.head?, r.ret.toNat < h.ret.toNat)
  ∧ (∀ (s : State) (b c : Nat) (x : Cord) (r : TrapRec), cordOf s b c = some x → x.ended = false → 8 ≤ x.queue.length →
      (informationalCode r.cause = true → queueRec s b c r = modCord s b c (fun y => { y with drop := true }))
      ∧ (informationalCode r.cause = false → queueRec s b c r = killBraid s b))
  ∧ (∀ (s : State) (b c : Nat) (x : Cord) (k : Cause) (pc : DWord) (ret : Nat) (lanes : List Nat) (d a : Nat),
      cordOf s b c = some x →
      (x.handler = true → x.region = none → k ≠ .trap → k ≠ .bkpt → ∀ g, gridOfBlock s b = some g → (ctxOf s g.part g.ctx).fatal = none →
        (ctxOf (takeTrap s b c k pc ret lanes d a) g.part g.ctx).fatal = some (0x0201, k.code, pc.toNat)
        ∧ (takeTrap s b c k pc ret lanes d a).blocks = s.blocks)
      ∧ (∀ g, x.region = some g →
        ∃ y h, cordOf (takeTrap s b c k pc ret lanes d a) b c = some y ∧ y.region = some h
          ∧ h.ending = some (.trap (preciseRec k pc ret lanes d a)) ∧ y.queue = x.queue ∧ y.strands = x.strands))

/-- Delivery (R329): with a handler, every live strand that is not parked saves its PC and goes to the kernel's entry
plus 4 HOFF, with no clause in force there (the model's choice, log 7), the parked ones stay, whichever they are (the model's
reading, log 52), and the record stays at the head of the queue; from interlocked into native code that waits for the operations
with register destinations (the model's reading, log 10: R62 speaks of a cord that transfers control); a debugger takes the record where there is no handler;
without either an informational record is discarded and any other is fatal (R330). -/
def Obligations.TrapDelivered : Prop :=
  ∀ (s : State) (b c : Nat) (x : Cord) (g : Grid) (r : TrapRec) (rest : List TrapRec),
    cordOf s b c = some x → gridOfBlock s b = some g → mayDeliver x = true → x.queue = r :: rest →
    (Cord.hoff x ≠ 0 → deliveryWaits s b g x = true → exec (.trapDelivery b c) s = .next s)
    ∧ (Cord.hoff x ≠ 0 → deliveryWaits s b g x = false → ∃ t y, exec (.trapDelivery b c) s = .next t ∧ cordOf t b c = some y
      ∧ y.handler = true ∧ y.queue = x.queue ∧ y.s = x.s ∧ y.k = x.k ∧ y.retired = x.retired
      ∧ ∀ l, y.lane l = if (x.lane l).live ∧ (x.lane l).park = none then
          { x.lane l with tret := (x.lane l).pc, tclause := (x.lane l).clause, clause := none, entered := true,
                          pc := BitVec.ofNat 64 (g.entry + 4 * Cord.hoff x) }
        else x.lane l)
    ∧ (Cord.hoff x = 0 → x.debugger = true →
        exec (.trapDelivery b c) s = .next (modCord s b c (fun y => { Cord.hold y .trap with given := true })))
    ∧ (Cord.hoff x = 0 → x.debugger = false → informationalCode r.cause = true →
        exec (.trapDelivery b c) s = .next (modCord s b c (fun y => { Cord.unhold y .trap with queue := rest })))
    ∧ (Cord.hoff x = 0 → x.debugger = false → informationalCode r.cause = false →
        exec (.trapDelivery b c) s = .next (fatal s b 0x0201 r.cause.toNat r.pc.toNat))

/-- TRET (R333): in the handler the record at the head is removed and every strand that entered returns to its saved PC;
.skip returns a strand that a KIND 0 record names, and that stands at its PC, past that instruction; outside the handler
it is an illegal opcode. That a return from interlocked into native code waits for the operations with register destinations is
the model's reading (log 10, from R62), and that the clause of the strand is in force again its choice (log 7). -/
def Obligations.TrapReturn : Prop :=
  ∀ (f : LForm) (s : State) (u : Issue), Issues (.tret f) s u [] [] →
    let plain : Nat → DWord → Option DWord := fun _ _ => none
    let waits (skip : Nat → DWord → Option DWord) : Bool := nativeWait s u (tretTargets u.cord skip)
    (u.cord.handler = false → exec (.tret f) s = .next (trapAt s u .illegalOpcode u.lanes 0 0))
    ∧ (u.cord.handler = true → f.mod = 0 → waits plain = false →
        exec (.tret f) s = .next (modCord (moved s u [] []) u.b u.c (returnFromTrap plain)))
    ∧ (u.cord.handler = true → f.mod = 0 → waits plain = true → exec (.tret f) s = .next s)
    ∧ (∀ r rest n, u.cord.handler = true → f.mod = 1 → u.cord.queue = r :: rest → r.kind = 0 →
        nextAfter s u.b u.blk.core (r.pc.setWidth 64) = some n → waits (skipTo r n) = false →
        exec (.tret f) s = .next (modCord (moved s u [] []) u.b u.c (returnFromTrap (skipTo r n))))
    ∧ (∀ r rest, u.cord.handler = true → f.mod = 1 → u.cord.queue = r :: rest → r.kind ≠ 0 → waits plain = false →
        exec (.tret f) s = .next (modCord (moved s u [] []) u.b u.c (returnFromTrap plain)))
    ∧ (∀ (r : TrapRec) (n pc : DWord) (l : Nat), skipTo r n l pc
        = if r.kind = 0 ∧ r.smask.getLsbD l = true ∧ pc = r.pc.setWidth 64 then some n else none)
    ∧ (∀ (b core : Nat) (pc : DWord) (pa : Nat), translate s b core pc.toNat .fetch = some pa →
        nextAfter s b core pc = some (pc + BitVec.ofNat 64 (4 * lengthWords (codeWord s pa))))
    ∧ (∀ (skip : Nat → DWord → Option DWord) (y : Cord) (l : Nat), l < y.strands.length →
        (returnFromTrap skip y).queue = y.queue.tail ∧ (returnFromTrap skip y).handler = false
        ∧ (returnFromTrap skip y).lane l = if (y.lane l).entered then
            { y.lane l with pc := (skip l (y.lane l).tret).getD (y.lane l).tret, clause := (y.lane l).tclause,
                            entered := false, park := none }
          else y.lane l)

end

namespace Sys2Proof.Claims
open Sys2Proof Sys2Proof.Machine

/-! ### What the arithmetic statements are stated in -/

/-- The integer that w bits stand for, as a type's sign says (R83). -/
def readInt (sg : Bool) (w x : Nat) : Int := if sg then (BitVec.ofNat w x).toInt else ((BitVec.ofNat w x).toNat : Int)

/-- The element that an exact result is written as (R83): limited to the type's range with .sat, else its low bits. -/
def writeInt (sg sat : Bool) (w : Nat) (r : Int) : Nat :=
  let lo : Int := if sg then -(2 ^ (w - 1) : Int) else 0
  let hi : Int := if sg then 2 ^ (w - 1) - 1 else 2 ^ w - 1
  (BitVec.ofInt w (if sat then max lo (min hi r) else r)).toNat

/-- Table 4-2: the exact result of each integer instruction, of elements w bits wide. -/
def arithTable : List ((LForm → Instr) × (Nat → Int → Int → Int → Int)) :=
  [(Instr.add, fun _ x y _ => x + y), (Instr.sub, fun _ x y _ => x - y), (Instr.mul, fun _ x y _ => x * y),
   (Instr.mulh, fun w x y _ => (x * y) / 2 ^ w), (Instr.mad, fun _ x y z => x * y + z), (Instr.neg, fun _ x _ _ => -x),
   (Instr.abs, fun _ x _ _ => |x|), (Instr.min, fun _ x y _ => min x y), (Instr.max, fun _ x y _ => max x y)]

/-- One element's result in an integer instruction of a form. -/
def arithElt (f : LForm) (r : Nat → Int → Int → Int → Int) (x y z : Nat) : Nat :=
  let w := eltBits f.ty.toNat
  let sg := signedTy f.ty.toNat
  writeInt sg (f.mod == 1) w (r w (readInt sg w x) (readInt sg w y) (readInt sg w z))

/-- An operation on each element of a type, element 0 lowest (R51). -/
def onElts (ty : Nat) (g : Nat → Nat → Nat → Nat) (x y z : Nat) : Nat :=
  let w := eltBits ty
  packElts w ((List.range (eltCount ty)).map (fun i => g (elt x w i) (elt y w i) (elt z w i)))

/-- The writes of a result to D in each target, with the flags it raises. -/
def resultWrites (f : LForm) (u : Issue) (g : Nat → Nat × FpFlags) : List RegW :=
  (targets u f).flatMap (fun l => putD f f.ty.toNat l (g l).1 ++ (if (g l).2 = 0 then [] else [.fp (g l).2]))

/-- The writes of an integer instruction of Table 4-2. -/
def arithWrites (f : LForm) (u : Issue) (r : Nat → Int → Int → Int → Int) : List RegW :=
  let ty := f.ty.toNat
  resultWrites f u (fun l => (onElts ty (arithElt f r) (valA u.cord f ty l) (valB u.cord f ty l) (valC u.cord f ty l), 0))

/-- Table 4-3 on bit vectors of the width of the type: a, b, the amount n that b gives, and MOD. -/
def bitTable : List ((LForm → Instr) × ((w : Nat) → BitVec w → BitVec w → Nat → BitVec 4 → BitVec w)) :=
  [(Instr.and, fun _ x y _ _ => x &&& y), (Instr.or, fun _ x y _ _ => x ||| y), (Instr.xor, fun _ x y _ _ => x ^^^ y),
   (Instr.not, fun _ x _ _ _ => ~~~x), (Instr.shl, fun _ x _ n _ => x <<< n), (Instr.shr, fun _ x _ n _ => x >>> n),
   (Instr.sar, fun _ x _ n _ => x.sshiftRight n),
   (Instr.rot, fun _ x _ n m => if m = 1 then x.rotateRight n else x.rotateLeft n)]

/-- The writes of an instruction of Table 4-3 that acts on all bits. -/
def bitWrites (f : LForm) (u : Issue) (r : (w : Nat) → BitVec w → BitVec w → Nat → BitVec 4 → BitVec w) : List RegW :=
  let ty := f.ty.toNat
  let w := if wideNat ty then 64 else 32
  resultWrites f u (fun l =>
    ((r w (BitVec.ofNat w (valA u.cord f ty l)) (BitVec.ofNat w (valB u.cord f ty l))
      (BitVec.ofNat 32 (valB u.cord f ty l)).toNat f.mod).toNat, 0))

/-- The counts and the reversal of R85. -/
def countTable : List ((LForm → Instr) × (Word → Nat)) :=
  [(Instr.popc, fun x => ((List.range 32).filter (fun i => x.getLsbD i)).length),
   (Instr.clz, fun x => ((List.range 33).find? (fun n => n == 32 || x.getMsbD n)).getD 32),
   (Instr.brev, fun x => x.reverse.toNat)]

/-- The writes of POPC, CLZ or BREV. -/
def countWrites (f : LForm) (u : Issue) (r : Word → Nat) : List RegW :=
  resultWrites f u (fun l => (r (BitVec.ofNat 32 (valA u.cord f f.ty.toNat l)), 0))

/-- The field that BFE takes (R87): bits above 31 read as 0, or as bit 31 for s32. -/
def bfeField (sg : Bool) (x : Word) (y : Nat) : Word :=
  let pos := y % 256
  let len := min (y / 256 % 256) 32
  let field : BitVec len := (if sg then x.signExtend 320 else x.setWidth 320).extractLsb' pos len
  if sg then field.signExtend 32 else field.setWidth 32

/-- What BFI writes (R87): bits pos to pos + len - 1 of z replaced by the low bits of x. -/
def bfiField (x z : Word) (y : Nat) : Word :=
  let pos := y % 256
  let len := min (y / 256 % 256) 32
  let m : Word := (BitVec.ofNat 32 (2 ^ len - 1)) <<< pos
  (z &&& ~~~m) ||| ((x <<< pos) &&& m)

/-- Moves, selection, bit fields and addresses (R81, R82, R87, R88). -/
def moveCases (f : LForm) (u : Issue) : List Case :=
  let ty := f.ty.toNat
  let c := u.cord
  [writes (.mov f) u (resultWrites f u (fun l => (valA c f ty l, 0))),
   writes (.movi f) u (resultWrites f u (fun l => (valB c f ty l, 0))),
   writes (.sel f) u (resultWrites f u (fun l =>
     (if (c.lane l).pred f.c.toNat then valA c f ty l else valB c f ty l, 0))),
   writes (.bfe f) u (resultWrites f u (fun l =>
     ((bfeField (f.ty == 1) (BitVec.ofNat 32 (valA c f ty l)) (valB c f ty l)).toNat, 0))),
   writes (.bfi f) u (resultWrites f u (fun l =>
     ((bfiField (BitVec.ofNat 32 (valA c f ty l)) (BitVec.ofNat 32 (valC c f ty l)) (valB c f ty l)).toNat, 0))),
   writes (.lea f) u ((targets u f).flatMap (fun l =>
     let b : Word := match f.lit with
       | some w => w
       | none => BitVec.ofNat 32 (regVal c l f.bsc false f.b.toNat)
     putD f 5 l (BitVec.ofNat 64 (valA c f 5 l)
       + (if f.mod2 = 1 then b.signExtend 64 else b.setWidth 64) <<< f.mod.toNat).toNat))]

/-- The add and subtract with carry (R84): the sum of 33 bits, its top bit the carry. -/
def carryCases (f : LForm) (u : Issue) : List Case :=
  let x (l : Nat) : Nat := valA u.cord f 2 l
  let y (l : Nat) : Nat := valB u.cord f 2 l
  let ci (l : Nat) : Nat := ((u.cord.lane l).pred f.c.toNat).toNat
  [writes (.addc f) u ((participants u f).flatMap (fun l =>
     putD f 2 l ((x l + y l + ci l) % 2 ^ 32) ++ [.p l f.c.toNat (decide (2 ^ 32 ≤ x l + y l + ci l))])),
   writes (.subb f) u ((participants u f).flatMap (fun l =>
     putD f 2 l ((x l + 2 ^ 32 + (2 ^ 32 - y l - ci l)) % 2 ^ 32)
       ++ [.p l f.c.toNat (decide (x l < y l + ci l))]))]

/-- A test written to predicate D of each participant, with the flags it raises. -/
def testWrites (f : LForm) (u : Issue) (g : Nat → Bool × FpFlags) : List RegW :=
  (participants u f).flatMap (fun l => .p l f.d.toNat (g l).1 :: (if (g l).2 = 0 then [] else [.fp (g l).2]))

/-- A test combined with predicate C (R89). -/
def combined (f : LForm) (u : Issue) (l : Nat) (t : Bool) : Bool :=
  let p := (u.cord.lane l).pred f.c.toNat
  if f.mod2.toNat % 4 = 1 then t && p else if f.mod2.toNat % 4 = 2 then t || p
  else if f.mod2.toNat % 4 = 3 then xor t p else t

/-- A condition of ICMP (R89). -/
def icmpHolds (mod : Nat) (x y : Int) : Bool :=
  match mod with
  | 0 => decide (x = y)
  | 1 => decide (x ≠ y)
  | 2 => decide (x < y)
  | 3 => decide (x ≤ y)
  | 4 => decide (x > y)
  | _ => decide (x ≥ y)

/-- Where a value that is no NaN stands among them: the infinities outside every real, -0 at +0. -/
def placeOfVal (v : FVal) : Option (Int × Rat) :=
  match v with
  | .nan => none
  | .inf s => some (if s then -1 else 1, 0)
  | .fin s n d => some (0, (if s then -1 else 1) * (n : Rat) / d)

/-- A place before another. -/
def before (a b : Int × Rat) : Bool := decide (a.1 < b.1 ∨ a.1 = b.1 ∧ a.2 < b.2)

/-- A condition of FCMP (R93): .eq, .ne, .lt, .le, .gt, .ge, .un, .ord; with a NaN only .ne and .un are true. -/
def fcmpHolds (mod : Nat) (x y : FVal) : Bool :=
  match placeOfVal x, placeOfVal y with
  | some a, some b =>
    (match mod with
    | 0 => decide (a = b)
    | 1 => decide (a ≠ b)
    | 2 => before a b
    | 3 => !before b a
    | 4 => before b a
    | 5 => !before a b
    | 6 => false
    | _ => true)
  | _, _ => mod == 1 || mod == 6

/-- The flags of FCMP (R93): an ordering condition raises invalid where an operand is NaN. -/
def fcmpRaises (mod : Nat) (x y : FVal) : FpFlags :=
  if (x = .nan ∨ y = .nan) ∧ 2 ≤ mod ∧ mod ≤ 5 then fNV else 0

/-- The instructions that write predicates (R89, R90, R93, R94). -/
def predicateCases (f : LForm) (u : Issue) : List Case :=
  let ty := f.ty.toNat
  let c := u.cord
  let p (l : Nat) (n : BitVec 8) : Bool := (c.lane l).pred n.toNat
  let sg := signedTy ty
  let w := eltBits ty
  [writes (.icmp f) u (testWrites f u (fun l =>
     (combined f u l (icmpHolds f.mod.toNat (readInt sg w (valA c f ty l)) (readInt sg w (valB c f ty l))), 0))),
   writes (.pset f) u (testWrites f u (fun l =>
     (if f.mod = 1 then (valA c f 5 l).testBit l
      else match f.lit with
        | some x => x != 0
        | none => valA c f 0 l != 0, 0))),
   writes (.pand f) u (testWrites f u (fun l => (p l f.a && p l f.b, 0))),
   writes (.por f) u (testWrites f u (fun l => (p l f.a || p l f.b, 0))),
   writes (.pxor f) u (testWrites f u (fun l => (xor (p l f.a) (p l f.b), 0))),
   writes (.pnot f) u (testWrites f u (fun l => (!(p l f.a), 0))),
   writes (.fcmp f) u (testWrites f u (fun l =>
     let x := (fmtOf ty).decode (chosenElt f (valA c f ty l))
     let y := (fmtOf ty).decode (chosenElt f (valB c f ty l))
     (combined f u l (fcmpHolds f.mod.toNat x y), fcmpRaises f.mod.toNat x y))),
   writes (.fclass f) u (testWrites f u (fun l =>
     (combined f u l ((valB c f 0 l).testBit ((fmtOf ty).classBit (chosenElt f (valA c f ty l)))), 0)))]

/-- Table 4-5: the result of one element of each float instruction in a format and rounding mode, with its flags. -/
def floatTable : List ((LForm → Instr) × (Fmt → Nat → Nat → Nat → Nat → Nat × FpFlags)) :=
  [(Instr.fadd, fun F m x y _ => F.add m x y), (Instr.fsub, fun F m x y _ => F.sub m x y),
   (Instr.fmul, fun F m x y _ => F.mul m x y), (Instr.ffma, fun F m x y z => F.fma m x y z),
   (Instr.fmin, fun F _ x y _ => (F.min x y, 0)), (Instr.fmax, fun F _ x y _ => (F.max x y, 0)),
   (Instr.fsat, fun F _ x _ _ => (F.sat x, 0))]

/-- The writes of a float instruction: each element of a packed type on its own, flags ORed (R79, R91). -/
def floatWrites (f : LForm) (u : Issue) (r : Fmt → Nat → Nat → Nat → Nat → Nat × FpFlags) : List RegW :=
  let ty := f.ty.toNat
  resultWrites f u (fun l => eachElt ty (r (fmtOf ty) f.mod.toNat) (valA u.cord f ty l) (valB u.cord f ty l) (valC u.cord f ty l))

/-- Table 3-3: each short form with the instruction it performs, and whether D is its first operand. -/
def shortTable : List ((SForm → Instr) × (LForm → Instr) × Bool) :=
  [(Instr.movShort, Instr.mov, false), (Instr.addShort, Instr.add, true), (Instr.subShort, Instr.sub, true),
   (Instr.mulShort, Instr.mul, true), (Instr.mulhShort, Instr.mulh, true), (Instr.minShort, Instr.min, true),
   (Instr.maxShort, Instr.max, true), (Instr.andShort, Instr.and, true), (Instr.orShort, Instr.or, true),
   (Instr.xorShort, Instr.xor, true), (Instr.notShort, Instr.not, false), (Instr.negShort, Instr.neg, false),
   (Instr.absShort, Instr.abs, false), (Instr.shlShort, Instr.shl, true), (Instr.shrShort, Instr.shr, true),
   (Instr.sarShort, Instr.sar, true), (Instr.rotShort, Instr.rot, true), (Instr.popcShort, Instr.popc, false),
   (Instr.clzShort, Instr.clz, false), (Instr.brevShort, Instr.brev, false), (Instr.faddShort, Instr.fadd, true),
   (Instr.fsubShort, Instr.fsub, true), (Instr.fmulShort, Instr.fmul, true), (Instr.fminShort, Instr.fmin, true),
   (Instr.fmaxShort, Instr.fmax, true), (Instr.fsatShort, Instr.fsat, false)]

/-- The long form that a short form performs (R45): b is its a and, for two operands, a its d; MOD and MOD2 are 0. -/
def longOf (f : SForm) (two : Bool) : LForm :=
  { blank with d := f.d, a := if two then f.d else f.a, b := if two then f.a else 0, pred := f.pred, pneg := f.pneg, ty := f.ty }

/-- What a long instruction of Tables 4-2, 4-3 and 4-5, or MOV, writes. -/
def longWrites (f : LForm) (u : Issue) : List ((LForm → Instr) × List RegW) :=
  (Instr.mov, resultWrites f u (fun l => (valA u.cord f f.ty.toNat l, 0)))
    :: (arithTable.map (fun e => (e.1, arithWrites f u e.2)) ++ bitTable.map (fun e => (e.1, bitWrites f u e.2))
      ++ countTable.map (fun e => (e.1, countWrites f u e.2)) ++ floatTable.map (fun e => (e.1, floatWrites f u e.2)))

end Sys2Proof.Claims

section
open Sys2Proof Sys2Proof.Machine Sys2Proof.Claims

/-! ### Integer, bit and float instructions -/

/-- Bitwise operations, shifts and rotation (R85, R86), as operations on bit vectors of the type's width. POPC, CLZ
and BREV (R85). -/
def Obligations.BitOperations : Prop :=
  (∀ e ∈ bitTable, ∀ (f : LForm) (s : State) (u : Issue), (writes (e.1 f) u (bitWrites f u e.2)).Completes s u)
  ∧ (∀ e ∈ countTable, ∀ (f : LForm) (s : State) (u : Issue), (writes (e.1 f) u (countWrites f u e.2)).Completes s u)

/-- MOV, MOVI, SEL, BFE, BFI and LEA (R81, R82, R87, R88). -/
def Obligations.MovesAndFields : Prop :=
  ∀ (f : LForm) (s : State) (u : Issue), ∀ e ∈ moveCases f u, e.Completes s u

/-- Integer arithmetic (Table 4-2, R83): every element receives the exact result, wrapped, or limited with .sat;
nothing else is written. ADDC and SUBB (R84): D receives the sum or difference mod 2^32, pC the carry or borrow. -/
def Obligations.IntegerArithmetic : Prop :=
  (∀ e ∈ arithTable, ∀ (f : LForm) (s : State) (u : Issue), (writes (e.1 f) u (arithWrites f u e.2)).Completes s u)
  ∧ (∀ (f : LForm) (s : State) (u : Issue), ∀ e ∈ carryCases f u, e.Completes s u)

/-- The comparisons and predicate instructions (R89, R90, R93, R94): only predicate D of the participants is written. FCMP
compares the reals that its operands stand for, with the infinities outside them and -0 equal to +0. -/
def Obligations.PredicateWrites : Prop :=
  ∀ (f : LForm) (s : State) (u : Issue), ∀ e ∈ predicateCases f u, e.Completes s u

/-- Float arithmetic (R91, R92): each element's result, with its flags ORed into %fpflags. Special values of float
arithmetic (R91, R92), in FP32, FP16 and BF16: a NaN operand gives the default NaN and no flag; infinity minus
infinity and zero times infinity give it with invalid, in FFMA whatever the addend; FMIN and FMAX give way to the
operand that is no NaN and put -0 below +0; FSAT limits to +0 and 1: NaN and every value with a sign give +0. -/
def Obligations.FloatArithmetic : Prop :=
  (∀ e ∈ floatTable, ∀ (f : LForm) (s : State) (u : Issue), (writes (e.1 f) u (floatWrites f u e.2)).Completes s u)
  ∧ (fp32.defaultNaN = 0x7FC00000 ∧ fp16.defaultNaN = 0x7E00 ∧ bf16.defaultNaN = 0x7FC0
    ∧ ∀ F ∈ [fp32, fp16, bf16], ∀ m x y z : Nat,
      (F.decode x = .nan ∨ F.decode y = .nan → F.add m x y = (F.defaultNaN, 0) ∧ F.sub m x y = (F.defaultNaN, 0)
        ∧ F.mul m x y = (F.defaultNaN, 0))
      ∧ (∀ s, F.decode x = .inf s → F.decode y = .inf (!s) → F.add m x y = (F.defaultNaN, fNV))
      ∧ (∀ s a d, F.decode x = .fin s 0 d → F.decode y = .inf a →
          F.mul m x y = (F.defaultNaN, fNV) ∧ F.mul m y x = (F.defaultNaN, fNV) ∧ F.fma m x y z = (F.defaultNaN, fNV))
      ∧ (F.decode x = .nan → F.decode y = .nan → F.min x y = F.defaultNaN ∧ F.max x y = F.defaultNaN)
      ∧ (F.decode x = .nan → F.decode y ≠ .nan → F.min x y = y ∧ F.max x y = y ∧ F.min y x = y ∧ F.max y x = y)
      ∧ (∀ d e, F.decode x = .fin true 0 d → F.decode y = .fin false 0 e →
          F.min x y = x ∧ F.min y x = x ∧ F.max x y = y ∧ F.max y x = y)
      ∧ (F.decode x = .nan → F.sat x = 0) ∧ (∀ n d, F.decode x = .fin true n d → F.sat x = 0)
      ∧ (F.decode x = .inf true → F.sat x = 0)
      ∧ (∀ n d, F.decode x = .fin false n d → F.sat x = if n = 0 then 0 else if n < d then x else F.bias * 2 ^ F.m)
      ∧ (F.decode x = .inf false → F.sat x = F.bias * 2 ^ F.m)
      ∧ ∃ k, 0 < k ∧ F.decode (F.bias * 2 ^ F.m) = .fin false k k)

/-- The short forms (R45): each does to vector registers what its long instruction does with b its a, and a its d for two
operands, and with MOD and MOD2 zero. -/
def Obligations.ShortForms : Prop :=
  ∀ e ∈ shortTable, ∀ (f : SForm) (s : State) (u : Issue), ∀ g ∈ longWrites (longOf f e.2.2) u,
    (∀ h, g.1 h = e.2.1 h) → (writes (e.1 f) u g.2).Completes s u

end

namespace Sys2Proof.Claims
open Sys2Proof Sys2Proof.Machine

/-! ### What the frames are stated in -/

/-- Everything outside one cord that a register instruction leaves alone: every byte of memory and of every window,
the homes' cells, the cores, dies, partitions and ports, the management block, and every other cord. -/
structure KeepsDevice (s t : State) (b c : Nat) : Prop where
  mem : ∀ a, memGet t.mem a = memGet s.mem a
  windows : ∀ i : Nat, (t.blocks[i]?).map Block.window = (s.blocks[i]?).map Block.window
  presence : ∀ i : Nat, (t.blocks[i]?).map Block.presence = (s.blocks[i]?).map Block.presence
  tags : ∀ i : Nat, (t.blocks[i]?).map Block.tags = (s.blocks[i]?).map Block.tags
  cells : t.cells = s.cells
  cores : t.cores = s.cores
  dies : t.dies = s.dies
  parts : t.parts = s.parts
  ports : t.ports = s.ports
  mgmt : t.mgmt = s.mgmt
  out : t.out = s.out
  cords : ∀ i j, (i, j) ≠ (b, c) → cordOf t i j = cordOf s i j

/-- What an instruction leaves alone in its cord but the vector registers `vs`, the scalars `ss` and the predicates `ps`:
the other registers and predicates, the masks, the completion flags and outstanding operations (which may note that one
of their destinations has been written, R57), %trapctl, the handler mode and the trap-return registers; a flag of %fpflags
that is set stays set. -/
structure KeepsCord (x y : Cord) (vs ss ps : List Nat) : Prop where
  v : ∀ l r, r ∉ vs → (y.lane l).reg r = (x.lane l).reg r
  s : ∀ r, r ∉ ss → y.scal r = x.scal r
  p : ∀ l n, n ∉ ps → (y.lane l).pred n = (x.lane l).pred n
  k : y.k = x.k
  f : y.f = x.f
  ops : y.ops.map (fun o => { o with late := [] }) = x.ops.map (fun o => { o with late := [] })
  trapctl : y.trapctl = x.trapctl
  handler : y.handler = x.handler
  ended : ∀ l, (y.lane l).ended = (x.lane l).ended
  tret : ∀ l, (y.lane l).tret = (x.lane l).tret
  sticky : ∀ n, x.fpflags.getLsbD n = true → y.fpflags.getLsbD n = true

/-- An instruction that writes registers, with the vector registers, scalars and predicates it may write. -/
structure Dest where
  i : Instr
  vs : List Nat := []
  ss : List Nat := []
  ps : List Nat := []

/-- D of an instruction that names a register or pair: a scalar in scalar form. -/
def destOf (i : Instr) (f : LForm) (wide : Bool) : Dest :=
  let rs := if wide then [f.d.toNat, f.d.toNat + 1] else [f.d.toNat]
  if LForm.scalar f then { i := i, ss := rs } else { i := i, vs := rs }

/-- Every instruction whose whole effect is to write registers at issue, with its destinations. -/
def destTable (f : LForm) (g : SForm) : List Dest :=
  let w := wideNat f.ty.toNat
  let pair := [f.d.toNat, f.d.toNat + 1]
  (arithTable.map (fun e => destOf (e.1 f) f w) ++ bitTable.map (fun e => destOf (e.1 f) f w)
    ++ countTable.map (fun e => destOf (e.1 f) f w) ++ floatTable.map (fun e => destOf (e.1 f) f w)
    ++ [Instr.mov, Instr.movi, Instr.sel, Instr.bfe, Instr.bfi].map (fun e => destOf (e f) f w)
    ++ [destOf (.lea f) f true])
  ++ [Instr.addc, Instr.subb].map (fun e => { destOf (e f) f false with ps := [f.c.toNat] })
  ++ [Instr.icmp, Instr.pset, Instr.pand, Instr.por, Instr.pxor, Instr.pnot, Instr.fcmp, Instr.fclass].map
      (fun e => { i := e f, ps := [f.d.toNat] })
  ++ shortTable.map (fun e => { i := e.1 g, vs := if wideNat g.ty.toNat then [g.d.toNat, g.d.toNat + 1] else [g.d.toNat] })
  ++ [{ i := .nop g }, { i := .nopLong f },
      { i := .shfl f, vs := if w then pair else [f.d.toNat] },
      { i := .shflp f, vs := if w then pair else [f.d.toNat], ps := if f.mod2 = 1 then [f.c.toNat] else [] },
      { i := .reduce f, vs := if f.mod2 = 1 then [] else if w then pair else [f.d.toNat],
        ss := if f.mod2 = 1 then (if w then pair else [f.d.toNat]) else [], ps := [f.c.toNat] },
      { i := .scan f, vs := if w then pair else [f.d.toNat] },
      { i := .vote f, ss := if f.mod = 2 then pair else [], ps := if f.mod = 2 then [] else [f.d.toNat] },
      { i := .matchLanes f, vs := if f.mod = 2 then pair else if f.mod.toNat < 2 then [f.d.toNat] else [],
        ps := if f.mod.toNat < 3 then [] else [f.d.toNat] },
      { i := .kpop f, ss := [f.d.toNat] }, { i := .chkpt f, ss := pair },
      { i := .tqpeek f, ss := (List.range 12).map (fun n => f.d.toNat + n) },
      { i := .lookup f, vs := if f.asc then [] else [f.d.toNat], ss := if f.asc then [f.d.toNat] else [] }]

/-! ### What the queued and transfer statements are stated in -/

/-- An instruction of a special-function or conversion queue (R78): while the queue has room it goes there with the
results of its participants, which are written when it completes. -/
def queuedCase (q : Nat) (i : Instr) (f : LForm) (s : State) (u : Issue) (cause : Cause) (g : Nat → Queued) : Case :=
  let lanes := participants u f
  let rs := lanes.map (fun l => (l, g l))
  { i := i, holds := !queueFull s u q && !lanes.isEmpty, regs := destRegs f.d.toNat f.ty.toNat,
    eff := fun t => addOp t u
      { newOp s u f lanes (.queued (queuedWs f.d.toNat f.ty.toNat rs) (queuedCause cause rs)) [] with stream := q } }

/-- Integer division truncated toward zero; by 0 it gives all ones (R97). -/
def divWord (sg : Bool) (x y : Word) : Word := if y = 0 then BitVec.allOnes 32 else if sg then x.sdiv y else x / y

/-- The remainder with the sign of x; by 0 it gives x (R97). -/
def remWord (sg : Bool) (x y : Word) : Word := if y = 0 then x else if sg then x.srem y else x % y

/-- The special functions of one element (Table 4-6). -/
def sfuTable : List ((LForm → Instr) × (LForm → Fmt → Nat → Nat × FpFlags)) :=
  [(Instr.rcp, fun f F x => F.rcp f.mod.toNat x), (Instr.rsq, fun _ F x => F.rsq x),
   (Instr.sqrt, fun f F x => F.sqrt f.mod.toNat x), (Instr.exp2, fun _ F x => F.exp2 x),
   (Instr.log2, fun _ F x => F.log2 x), (Instr.sin, fun _ F x => F.sin x), (Instr.cos, fun _ F x => F.cos x),
   (Instr.tanh, fun _ F x => F.tanh x)]

/-- A float format with the encodings of +∞, 1.0, the default NaN, the largest finite value, and the sign bit, and the
first power of 2 beyond the largest finite value (Table 7-1). -/
structure Special where
  F : Fmt
  inf : Nat
  one : Nat
  nan : Nat
  big : Nat
  sign : Nat
  top : Nat

/-- The formats of the special functions. -/
def specials : List Special :=
  [{ F := fp32, inf := 0x7F800000, one := 0x3F800000, nan := 0x7FC00000, big := 0x7F7FFFFF, sign := 0x80000000, top := 2 ^ 128 },
   { F := fp16, inf := 0x7C00, one := 0x3C00, nan := 0x7E00, big := 0x7BFF, sign := 0x8000, top := 2 ^ 16 },
   { F := bf16, inf := 0x7F80, one := 0x3F80, nan := 0x7FC0, big := 0x7F7F, sign := 0x8000, top := 2 ^ 128 }]

/-- The formats that conversions write; E4M3 has its NaN, of a sign, in the place of an infinity (Table 4-8). -/
def narrowFormats : List Special :=
  specials ++ [{ F := e5m2, inf := 0x7C, one := 0x3C, nan := 0x7E, big := 0x7B, sign := 0x80, top := 2 ^ 16 },
    { F := e4m3, inf := 0x7F, one := 0x38, nan := 0x7F, big := 0x7E, sign := 0x80, top := 2 ^ 9 }]

/-- A real rounded to an integer: mode 0 to the nearest with ties to the even one, 1 toward zero, 2 up, 3 down (R91). -/
def roundedTo (mode : Nat) (v : Rat) : Int :=
  match mode with
  | 0 => if v - v.floor < 1 / 2 then v.floor else if 1 / 2 < v - v.floor then v.floor + 1
      else if v.floor % 2 = 0 then v.floor else v.floor + 1
  | 1 => if v < 0 then v.ceil else v.floor
  | 2 => v.ceil
  | _ => v.floor

/-- A real converted to an integer type of w bits (Table 4-8): rounded once, then limited or its low bits, inexact where
the rounded value differs, invalid where it is out of range. -/
def toIntType (sg : Bool) (w mode : Nat) (wrap : Bool) (v : Rat) : Nat × FpFlags :=
  let i := roundedTo mode v
  (writeInt sg (!wrap) w i,
    (if (i : Rat) ≠ v then fNX else 0) ||| (if readInt sg w (BitVec.ofInt w i).toNat ≠ i then fNV else 0))

/-- The instructions of the two queues. -/
def queuedCases (f : LForm) (s : State) (u : Issue) : List Case :=
  let ty := f.ty.toNat
  let c := u.cord
  let x (l : Nat) : Nat := valA c f ty l
  let y (l : Nat) : Nat := valB c f ty l
  [queuedCase 0 (.div f) f s u .intDivz (fun l =>
     if ty = 3 then { x := (fdiv32 f.mod.toNat (x l) (y l)).1, fl := (fdiv32 f.mod.toNat (x l) (y l)).2 }
     else { x := (divWord (ty == 1) (BitVec.ofNat 32 (x l)) (BitVec.ofNat 32 (y l))).toNat, bad := y l == 0 }),
   queuedCase 0 (.rem f) f s u .intDivz (fun l =>
     { x := (remWord (ty == 1) (BitVec.ofNat 32 (x l)) (BitVec.ofNat 32 (y l))).toNat, bad := y l == 0 }),
   queuedCase 1 (.cvt f) f s u .fmtIll (fun l =>
     let r := cvtVal ty f.mod2.toNat (f.mod.toNat % 4) (f.mod.getLsbD 2) (regVal c l f.asc (wideNat f.mod2.toNat) f.a.toNat)
     { x := r.1, fl := r.2 }),
   queuedCase 1 (.pack f) f s u .fmtIll (fun l =>
     let r := packVal ty f.mod2.toNat (f.mod.toNat % 4) (f.mod.getLsbD 2) (regVal c l false false f.d.toNat) (valA c f 0 l) (valB c f 0 l)
     { x := r.1, fl := r.2 }),
   queuedCase 1 (.unpack f) f s u .fmtIll (fun l =>
     let r := unpackVal ty f.mod.toNat f.mod2.toNat (valA c f 0 l)
     { x := r.1, bad := r.2 })]
  ++ sfuTable.map (fun e => queuedCase 0 (e.1 f) f s u .intDivz (fun l =>
     let r := eachElt ty (fun a _ _ => e.2 f (fmtOf ty) a) (x l) 0 0
     { x := r.1, fl := r.2 }))

/-- The transfers (R108): the instruction and the target of a strand. -/
def transferTable (f : LForm) (u : Issue) : List (Instr × (Nat → DWord)) :=
  let rel (_ : Nat) : DWord := u.pc + (f.lit.getD 0).signExtend 64
  let reg (l : Nat) : DWord := BitVec.ofNat 64 (regVal u.cord l f.asc true f.a.toNat)
  [(.bra f, rel), (.brx f, reg), (.call f, rel), (.callx f, reg), (.ret f, reg)]

/-- The targets of the participants. -/
def targetsOf (f : LForm) (u : Issue) (target : Nat → DWord) : List (Nat × DWord) :=
  (participants u f).map (fun l => (l, target l))

/-- The checks of R109 pass: every target is on a word, translated for fetch, and a clause header; and no transfer into
native code has to wait (R62). -/
def targetsGood (s : State) (u : Issue) (ts : List (Nat × DWord)) : Bool :=
  ts.all (fun t => t.2.toNat % 4 == 0) && (untranslated s u ts).isEmpty && (notHeaders s u ts).isEmpty && !nativeWait s u ts

/-- What a transfer does to its cord beside moving the strands: a call leaves the link and a reference, a return drops
one (R108, R110). -/
def linked (i : Instr) (f : LForm) (s : State) (u : Issue) (c : Cord) : Cord :=
  let back := (u.pc + BitVec.ofNat 64 u.len).toNat
  match i with
  | .call _ | .callx _ =>
    (writeRegs ((participants u f).flatMap (fun l => putReg false true f.d.toNat l back)) c).modLanes (participants u f)
      (linkLane s u)
  | .ret _ => c.modLanes (participants u f) dropRef
  | _ => c

/-- The registers that a transfer writes: the link pair of a call. -/
def linkRegs (i : Instr) (f : LForm) : List Nat :=
  match i with
  | .call _ | .callx _ => [f.d.toNat, f.d.toNat + 1]
  | _ => []

end Sys2Proof.Claims

section
open Sys2Proof Sys2Proof.Machine Sys2Proof.Claims

/-- The frame of every instruction that writes registers at issue, and of the NOPs: where exec answers a next state, a
trap or a wait included, nothing but its destination registers, the program counters and counters of its cord, and what
taking a trap changes, is other than before; %fpflags only gains flags. -/
def Obligations.RegisterFrames : Prop :=
  ∀ (f : LForm) (g : SForm), ∀ e ∈ destTable f g, ∀ (s t : State) (u : Issue),
    issueOf s e.i.length = some u → exec e.i s = .next t →
    KeepsDevice s t u.b u.c ∧ ∃ y, cordOf t u.b u.c = some y ∧ KeepsCord u.cord y e.vs e.ss e.ps

/-- The instructions of the special-function and conversion queues (R78, R95 to R102): DIV, REM, RCP, RSQ, SQRT, EXP2,
LOG2, SIN, COS, TANH, CVT, PACK and UNPACK go to their queue with the results of Table 4-6 and R97 to R102. While its
queue holds eight instructions a queued instruction, CVTSC among them, waits at issue and changes nothing, whoever
takes part (R78). The special inputs of the float functions (Table 4-7, R96), in FP32, FP16 and BF16: the zeros, the
infinities, NaN and negative numbers; and of DIV.f32: a finite number by a zero, 0/0 and infinity by infinity. The
conversions (R98 to R102, Table 4-8): to an integer type, a real rounded once and limited or wrapped; between integer
types; to a float format, the infinities, NaN and what lies beyond the largest finite value, which saturates unless
.wrap is written; to the Q4O grid, NaN, the infinities, the grid itself and what lies beyond 1,024; the elements that
UNPACK sign-extends and zero-extends, and an ill-formed Q4O byte. -/
def Obligations.QueuedIssue : Prop :=
  (∀ (f : LForm) (s : State) (u : Issue), ∀ e ∈ queuedCases f s u, e.Completes s u)
  ∧ (∀ (f : LForm) (s : State) (u : Issue),
      (∀ i ∈ [Instr.div f, .rem f, .rcp f, .rsq f, .sqrt f, .exp2 f, .log2 f, .sin f, .cos f, .tanh f],
        Reaches i s u → queueFull s u 0 = true → exec i s = .next s)
      ∧ ∀ i ∈ [Instr.cvt f, .pack f, .unpack f, .cvtsc f], Reaches i s u → queueFull s u 1 = true → exec i s = .next s)
  ∧ ((∀ e ∈ specials, ∀ m : Nat,
      e.F.rcp m 0 = (e.inf, fDZ) ∧ e.F.rcp m e.sign = (e.sign + e.inf, fDZ) ∧ e.F.rcp m e.inf = (0, 0)
      ∧ e.F.rcp m (e.sign + e.inf) = (e.sign, 0)
      ∧ e.F.rsq 0 = (e.inf, fDZ) ∧ e.F.rsq e.sign = (e.sign + e.inf, fDZ) ∧ e.F.rsq e.inf = (0, 0)
      ∧ e.F.rsq (e.sign + e.inf) = (e.nan, fNV)
      ∧ e.F.sqrt m 0 = (0, 0) ∧ e.F.sqrt m e.sign = (e.sign, 0) ∧ e.F.sqrt m e.inf = (e.inf, 0)
      ∧ e.F.sqrt m (e.sign + e.inf) = (e.nan, fNV)
      ∧ e.F.exp2 0 = (e.one, 0) ∧ e.F.exp2 e.sign = (e.one, 0) ∧ e.F.exp2 e.inf = (e.inf, 0)
      ∧ e.F.exp2 (e.sign + e.inf) = (0, 0)
      ∧ e.F.log2 0 = (e.sign + e.inf, fDZ) ∧ e.F.log2 e.sign = (e.sign + e.inf, fDZ) ∧ e.F.log2 e.inf = (e.inf, 0)
      ∧ e.F.log2 (e.sign + e.inf) = (e.nan, fNV)
      ∧ e.F.sin 0 = (0, 0) ∧ e.F.sin e.sign = (e.sign, 0) ∧ e.F.cos 0 = (e.one, 0) ∧ e.F.cos e.sign = (e.one, 0)
      ∧ (∀ x ∈ [e.inf, e.sign + e.inf], e.F.sin x = (e.nan, fNV) ∧ e.F.cos x = (e.nan, fNV))
      ∧ e.F.tanh 0 = (0, 0) ∧ e.F.tanh e.sign = (e.sign, 0) ∧ e.F.tanh e.inf = (e.one, 0)
      ∧ e.F.tanh (e.sign + e.inf) = (e.sign + e.one, 0)
      ∧ (∀ x, e.F.decode x = .nan → e.F.rcp m x = (e.nan, 0) ∧ e.F.rsq x = (e.nan, 0) ∧ e.F.sqrt m x = (e.nan, 0)
          ∧ e.F.exp2 x = (e.nan, 0) ∧ e.F.log2 x = (e.nan, 0) ∧ e.F.sin x = (e.nan, 0) ∧ e.F.cos x = (e.nan, 0)
          ∧ e.F.tanh x = (e.nan, 0))
      ∧ ∀ x n d, e.F.decode x = .fin true n d → n ≠ 0 →
          e.F.rsq x = (e.nan, fNV) ∧ e.F.sqrt m x = (e.nan, fNV) ∧ e.F.log2 x = (e.nan, fNV))
    ∧ ∀ m x y : Nat,
      (∀ s n d t e, fp32.decode x = .fin s n d → n ≠ 0 → fp32.decode y = .fin t 0 e →
        fdiv32 m x y = ((if s = t then 0 else 0x80000000) + 0x7F800000, fDZ))
      ∧ (∀ s d t e, fp32.decode x = .fin s 0 d → fp32.decode y = .fin t 0 e → fdiv32 m x y = (0x7FC00000, fNV))
      ∧ (∀ s t, fp32.decode x = .inf s → fp32.decode y = .inf t → fdiv32 m x y = (0x7FC00000, fNV))
      ∧ (fp32.decode x = .nan ∨ fp32.decode y = .nan → fdiv32 m x y = (0x7FC00000, 0)))
  ∧ ((∀ (sg wrap : Bool) (w m : Nat), w ∈ [8, 16, 32, 64] →
      intFromVal sg w m wrap .nan = (0, fNV)
      ∧ (∀ s, intFromVal sg w m true (.inf s) = (0, fNV))
      ∧ (∀ s, intFromVal sg w m false (.inf s) = (if s then (if sg then 2 ^ (w - 1) else 0)
          else if sg then 2 ^ (w - 1) - 1 else 2 ^ w - 1, fNV))
      ∧ (∀ s n d, 0 < d → m < 4 → intFromVal sg w m wrap (.fin s n d)
          = toIntType sg w m wrap ((if s then -1 else 1) * (n : Rat) / d))
      ∧ ∀ i : Int, intFromInt sg w wrap i = writeInt sg (!wrap) w i)
    ∧ (∀ e ∈ narrowFormats, ∀ (m : Nat) (s : Bool),
      let sign := if s then e.sign else 0
      fmtFromVal e.F m true .nan = (e.nan, 0) ∧ fmtFromVal e.F m false .nan = (e.nan, 0)
      ∧ fmtFromVal e.F m false (.inf s) = (sign + e.big, 0) ∧ fmtFromVal e.F m true (.inf s) = (sign + e.inf, 0)
      ∧ ∀ n d, 0 < d → e.top * d ≤ n → fmtFromVal e.F m false (.fin s n d) = (sign + e.big, fOF ||| fNX)
          ∧ fmtFromVal e.F m true (.fin s n d) = (sign + e.inf, fOF ||| fNX))
    ∧ (∀ (m : Nat) (s : Bool), m < 4 →
      let sign (q : Int) : Int := if s then -q else q
      q4FromVal m .nan = (0, fNV) ∧ q4FromVal m (.inf s) = (sign 1024, fNV)
      ∧ (∀ n ∈ [0, 1, 2, 3, 4, 5, 6, 7, 16, 32, 64, 128, 256, 512, 1024], q4FromVal m (.fin s n 1) = (sign n, 0))
      ∧ q4FromVal m (.fin false 8 1) = (8, 0)
      ∧ (∀ n d, 0 < d → 1024 * d < n → n < 1536 * d → q4FromVal 0 (.fin s n d) = (sign 1024, fNX))
      ∧ (∀ n d, 0 < d → 1536 * d ≤ n → q4FromVal 0 (.fin s n d) = (sign 1024, fOF ||| fNX))
      ∧ (∀ n d, 0 < d → 1024 * d < n → m ≠ 0 → q4FromVal m (.fin s n d)
          = (sign 1024, if m = 1 ∨ (m = 2 ∧ s = true) ∨ (m = 3 ∧ s = false) then fNX else fOF ||| fNX)))
    ∧ q4FromVal 0 (.fin false 15 2) = (8, fNX) ∧ q4FromVal 0 (.fin false 12 1) = (8, fNX)
    ∧ (∀ old : Nat, old < 2 ^ 32 → packVal 10 1 0 false old 0x40266666 0x41F00000
        = (old % 256 + 0x82 * 256 + old / 65536 * 65536, fNX))
    ∧ ∀ (x : Word) (n : Nat),
      (n < 4 → unpackVal 1 11 n x.toNat = (((x.extractLsb' (8 * n) 8).signExtend 32).toNat, false)
        ∧ unpackVal 2 13 n x.toNat = ((x.extractLsb' (8 * n) 8).toNat, false))
      ∧ (n < 2 → unpackVal 1 12 n x.toNat = (((x.extractLsb' (16 * n) 16).signExtend 32).toNat, false)
        ∧ unpackVal 2 14 n x.toNat = ((x.extractLsb' (16 * n) 16).toNat, false))
      ∧ (n < 8 → x.extractLsb' (8 * (n / 2)) 8 = 0x88 → unpackVal 3 10 n x.toNat = (0, true) ∧ unpackVal 1 10 n x.toNat = (0, true))
      ∧ (n < 4 → x.extractLsb' (8 * n) 8 = 0x82 → unpackVal 1 10 (2 * n) x.toNat = (0, false)
        ∧ unpackVal 1 10 (2 * n + 1) x.toNat = (32, false) ∧ unpackVal 3 10 (2 * n + 1) x.toNat = (0x42000000, false)))

/-- A queued instruction completes (R78, R79, R80): its registers are written in the strands that have not ended, its
flags join %fpflags, its flag falls, it is no longer outstanding, and a cause is reported. Where its results are to reach
the registers one by one, they wait for that (R57), and the flags and the cause for the last of them. -/
def Obligations.QueuedResults : Prop :=
  ∀ (s : State) (b c o : Nat) (x : Cord) (op : Op) (ws : List RegW) (cause : Option (Cause × Mask)),
    cordOf s b c = some x → opOf x o = some op → op.kind = .queued ws cause →
    (op.piece = false → op.ws = [] → cause = none →
      exec (.queuedResultWrite b c o) s = .next (modCord s b c (fun _ => completeOp x op ws)))
    ∧ (∀ k m, op.piece = false → op.ws = [] → cause = some (k, m) → exec (.queuedResultWrite b c o) s
        = .next (modCord s b c (fun _ => addReport (completeOp x op ws) (reportOf op k (lanesOf m) 0 0))))
    ∧ (op.piece = true → ws ≠ [] → exec (.queuedResultWrite b c o) s
        = .next (modCord s b c (fun _ => modOp x o (fun p => { p with kind := .queued [] cause, ws := p.ws ++ op.kept ws }))))
    ∧ (op.piece = true → ws = [] → op.ws.all RegW.isFp = true → cause = none →
      exec (.queuedResultWrite b c o) s = .next (modCord s b c (fun _ => completeOp x op op.ws)))
    ∧ (∀ k m, op.piece = true → ws = [] → op.ws.all RegW.isFp = true → cause = some (k, m) →
      exec (.queuedResultWrite b c o) s
        = .next (modCord s b c (fun _ => addReport (completeOp x op op.ws) (reportOf op k (lanesOf m) 0 0))))
    ∧ (op.piece = true → ws = [] → op.ws.all RegW.isFp = false → exec (.queuedResultWrite b c o) s = .next s)
    ∧ (completeOp x op ws).ops.map Op.id = (x.ops.map Op.id).filter (fun n => n != op.id)

/-- Transfers (R108, R110): where every target passes the checks of R109, each participant goes to its target, the
others to the next instruction; a call leaves the return address in the link pair. Without participants a transfer
only moves on (R109). A transfer into native code waits as R62 has it, and changes nothing meanwhile. The checks of
R109 in their order: a target off a word boundary traps with the strands concerned, then targets without a translation
are fetched and the instruction waits, then a target that is no clause header traps; no strand moves in any of these
cases. That SMASK names only the strands whose own target is bad is the model's choice (log 85). -/
def Obligations.Transfers : Prop :=
  (∀ (f : LForm) (s : State) (u : Issue), ∀ e ∈ transferTable f u,
      (Issues e.1 s u (linkRegs e.1 f) [] → participants u f ≠ [] → targetsGood s u (targetsOf f u e.2) = true →
        exec e.1 s = .next (modCord (moved s u (linkRegs e.1 f) []) u.b u.c (fun c =>
          goTo (targetsOf f u e.2) (linked e.1 f (moved s u (linkRegs e.1 f) []) u c))))
      ∧ (Issues e.1 s u [] [] → participants u f = [] → exec e.1 s = .next (moved s u [] []))
      ∧ (Reaches e.1 s u → (targetsOf f u e.2).all (fun t => t.2.toNat % 4 == 0) = true →
        untranslated s u (targetsOf f u e.2) = [] → notHeaders s u (targetsOf f u e.2) = [] →
        nativeWait s u (targetsOf f u e.2) = true → exec e.1 s = .next s))
  ∧ (∀ (f : LForm) (s : State) (u : Issue), ∀ e ∈ transferTable f u, Reaches e.1 s u → participants u f ≠ [] →
      let ts := targetsOf f u e.2
      let odd := ts.filter (fun t => t.2.toNat % 4 != 0)
      (odd ≠ [] → exec e.1 s = .next (trapAt s u .illegalTarget (odd.map Prod.fst) 0 0))
      ∧ (odd = [] → untranslated s u ts ≠ [] → exec e.1 s = .next (askFetches u (untranslated s u ts) s))
      ∧ (odd = [] → untranslated s u ts = [] → notHeaders s u ts ≠ [] →
          exec e.1 s = .next (trapAt s u .illegalTarget ((notHeaders s u ts).map Prod.fst) 0 0)))

end

namespace Sys2Proof.Claims
open Sys2Proof Sys2Proof.Machine

/-! ### Masks, ends and cross-lane work -/

/-- The instructions of R115 and R117 with what they do to their cord; a mask that is written is checked for release. -/
def maskCases (f : LForm) (u : Issue) : List Case :=
  let a := f.a.toNat
  let ls := participants u f
  let m (n : BitVec 8) : Mask := u.cord.mask n.toNat
  [changes (.join f) u (fun c => writeMask c a (c.mask a ||| maskOf ls)),
   changes (.leave f) u (fun c => writeMask c a (c.mask a &&& ~~~(maskOf ls))),
   changes (.waitm f) u (fun c => checkWaitm (parkLanes u (flagOf u f.setf f.fsel) u.cord.retired.toNat
     (ls.filter (fun l => (c.mask a).getLsbD l)) (.waitm a) c) a),
   changes (.kset f) u (fun c => writeMask c f.d.toNat (match f.lit with
     | some w => w.setWidth 64
     | none => pair64 (u.cord.scal a) (u.cord.scal (a + 1)))),
   { changes (.kmov f) u (fun c => writeMask c f.d.toNat (m f.a)) with holds := f.mod != 1 },
   { writes (.kmov f) u [.s f.d.toNat (lo32 (m f.a)), .s (f.d.toNat + 1) (hi32 (m f.a))] with holds := f.mod == 1 },
   changes (.kand f) u (fun c => writeMask c f.d.toNat (m f.a &&& (if f.mod = 1 then ~~~(m f.b) else m f.b))),
   changes (.kor f) u (fun c => writeMask c f.d.toNat (m f.a ||| m f.b)),
   { writes (.kpop f) u [.s f.d.toNat (BitVec.ofNat 32 ((List.range 64).filter (fun i => (m f.a).getLsbD i)).length)]
     with holds := f.mod != 1 },
   { writes (.kpop f) u [.s f.d.toNat (match (List.range 64).find? (fun i => (m f.a).getLsbD i) with
       | some i => BitVec.ofNat 32 i
       | none => 0xFFFFFFFF)] with holds := f.mod == 1 }]

/-- The ends, YIELD, and the NOP-like RGNEND (R112, R113, R335). -/
def endCases (f : LForm) (u : Issue) : List Case :=
  [{ i := .exit f, eff := fun t => endStrands t u.b u.c (participants u f) },
   { i := .yield f, eff := fun t => swapOut t u.b u.c },
   { i := .rgnend f }]

/-- A value of each of some lanes, written to D. -/
def laneWrites (f : LForm) (wide : Bool) (rs : List (Nat × Nat)) : List RegW :=
  rs.flatMap (fun r => putReg false wide f.d.toNat r.1 r.2)

/-- The lane from which lane l pulls (R119): its own where the named one does not take part. -/
def pullFrom (f : LForm) (u : Issue) (l : Nat) : Nat :=
  let n := valB u.cord f 0 l
  let q : Int := if f.mod = 0 then n else if f.mod = 1 then (l : Int) - n else if f.mod = 2 then l + n else (l ^^^ n : Nat)
  if 0 ≤ q ∧ q.toNat ∈ participants u f then q.toNat else l

/-- The lane to which lane l pushes (R120). -/
def pushTo (f : LForm) (u : Issue) (l : Nat) : Int :=
  let n := valB u.cord f 0 l
  if f.mod = 0 then n else if f.mod = 1 then (l : Int) + n else if f.mod = 2 then (l : Int) - n else (l ^^^ n : Nat)

/-- The participants that push to lane t, ascending; the last of them wins (R120). -/
def pushersOf (f : LForm) (u : Issue) (t : Nat) : List Nat := (participants u f).filter (fun l => pushTo f u l == (t : Int))

/-- The node over 2^k leaves from the one at `i` on (R121): its lower half combined with its upper half, with the flags of
all its nodes. -/
def nodeOver (g : Nat → Nat → Nat × FpFlags) (x : Nat → Nat) : Nat → Nat → Nat × FpFlags
  | 0, i => (x i, 0)
  | k + 1, i =>
    let a := nodeOver g x k i
    let b := nodeOver g x k (i + 2 ^ k)
    ((g a.1 b.1).1, a.2 ||| b.2 ||| (g a.1 b.1).2)

/-- The prefix over the first n leaves (R122): the nodes of the sizes whose sum n is, the largest first, combined from left
to right, with the flags of those combinations. -/
def prefixOver (g : Nat → Nat → Nat × FpFlags) (x : Nat → Nat) (ident n : Nat) : Nat × FpFlags :=
  match (([6, 5, 4, 3, 2, 1, 0] : List Nat).filter (fun k => n.testBit k)).map
      (fun k => (nodeOver g x k (n / 2 ^ (k + 1) * 2 ^ (k + 1))).1) with
  | [] => (ident, 0)
  | v :: vs => vs.foldl (fun a v => ((g a.1 v).1, a.2 ||| (g a.1 v).2)) (v, 0)

/-- The cross-lane instructions (R118 to R123). -/
def laneCases (f : LForm) (u : Issue) : List Case :=
  let ls := participants u f
  let ty := f.ty.toNat
  let x (l : Nat) : Nat := valA u.cord f ty l
  let w := wideNat ty
  let yes := ls.filter (fun l => (u.cord.lane l).pred f.a.toNat)
  let tree := treeRoot (nodeOp f.mod.toNat ty) (treeLeaves u f)
  let levels := treeLevels (nodeOp f.mod.toNat ty) (Nat.log2 u.blk.width) (treeLeaves u f)
  let scans := ls.map (fun l => (l, scanPrefix (nodeOp f.mod.toNat ty) levels.1 (nodeId f.mod.toNat ty) (if f.mod2 = 1 then l else l + 1)))
  let flags := scans.foldl (fun a r => a ||| r.2.2) levels.2
  let peers (l : Nat) : List Nat := ls.filter (fun t => x t == x l)
  [{ writes (.vote f) u (u.lanes.map (fun l => .p l f.d.toNat (maskOf yes != 0))) with holds := f.mod == 0 },
   { writes (.vote f) u (u.lanes.map (fun l => .p l f.d.toNat (maskOf yes == maskOf ls))) with holds := f.mod == 1 },
   { writes (.vote f) u [.s f.d.toNat (lo32 (maskOf yes)), .s (f.d.toNat + 1) (hi32 (maskOf yes))] with holds := f.mod == 2 },
   writes (.shfl f) u (laneWrites f w (ls.map (fun l => (l, x (pullFrom f u l))))),
   writes (.shflp f) u (laneWrites f w (ls.filterMap (fun t => (pushersOf f u t).getLast?.map (fun l => (t, x l))))
     ++ (if f.mod2 = 1 then ls.map (fun t => .p t f.c.toNat (decide (pushersOf f u t ≠ []))) else [])),
   writes (.reduce f) u ((if f.mod2 = 1 then putReg true w f.d.toNat 0 tree.1 else laneWrites f w (u.lanes.map (fun l => (l, tree.1))))
     ++ u.lanes.map (fun l => .p l f.c.toNat ls.isEmpty) ++ (if tree.2 = 0 then [] else [.fp tree.2])),
   { writes (.scan f) u (laneWrites f w (scans.map (fun r => (r.1, r.2.1))) ++ (if flags = 0 then [] else [.fp flags]))
     with holds := (treeLeaves u f).length == u.blk.width },
   { writes (.matchLanes f) u (laneWrites f false (ls.map (fun l => (l, (peers l).headD 0)))) with holds := f.mod == 0 },
   { writes (.matchLanes f) u (laneWrites f false (ls.map (fun l =>
       (l, ((peers l).filter (fun t => t < l)).length + (peers l).length * 65536)))) with holds := f.mod == 1 },
   { writes (.matchLanes f) u (laneWrites f true (ls.map (fun l => (l, (maskOf (peers l)).toNat)))) with holds := f.mod == 2 },
   { writes (.matchLanes f) u (u.lanes.map (fun l => .p l f.d.toNat (ls.all (fun t => (peers t).length == ls.length))))
     with holds := f.mod == 3 }]

/-! ### Barriers, child grids, special registers, traps -/

/-- What barriers do as their strands arrive (R124, R126): they park; BAR's last arrival releases all; at BARB and GBAR they wait
for what comes before their release (log 109). -/
def barrierCases (f : LForm) (s : State) (u : Issue) : List Case :=
  let park (t : State) (p : Park) : State :=
    modCord t u.b u.c (parkLanes u (flagOf u f.setf f.fsel) u.cord.retired.toNat u.lanes p)
  let wide (t : State) (p : Nat → Bool → Park) : State := park t (p (cutOf t u.blk.core) false)
  [{ i := .bar f, eff := fun t => checkBar (park t (.bar f.mod.toNat)) u.b },
   { i := .barb f, eff := fun t => wide t (.barb f.mod.toNat) },
   { i := .gbar f, holds := ((gridOf s u.blk.grid).map Grid.isGbar).getD false,
     eff := fun t => wide (modCord t u.b u.c (fun c => c.modLanes u.lanes (fun y => { y with gbars := y.gbars + 1 }))) .gbar }]

/-- LAUNCH as it issues in the block leader (R127): it ends what made the braid relaunchable, takes a boundary, and parks the
leader, whose release at device scope comes before the read of its record (log 109). -/
def launchCase (f : LForm) (s : State) (u : Issue) : Case :=
  let va := regVal u.cord 0 true true f.a.toNat
  { i := .launch f,
    holds := participants u f == [0] && u.c == 0 && (gridOf s u.blk.grid).any (fun g => g.depth != 10) && va % 128 == 0
      && u.blk.handles.length < 64,
    eff := fun t =>
      let core := u.blk.core
      let t := coreBoundary
        (modCord (countPhase (unrelaunch t (braidOf t u.b)) core) u.b u.c (boundary [0])) core
      let cut := cutOf t core
      let t := addAccOp t u (newOp t u f [0] (.launch f)
        [{ newAcc u 0 va 128 [] [] with epoch := (u.cord.lane 0).epoch + 1 }])
      modCord t u.b u.c (fun c => c.modLanes [0] (fun y => { y with park := some (.launch cut false), pc := u.pc })) }

/-- The handle that WAITCH names. -/
def waitHandle (f : LForm) (u : Issue) : Nat :=
  match f.lit with
  | some w => w.toNat
  | none => (u.cord.scal f.a.toNat).toNat

/-- WAITCH in the block leader (R128): it takes the answer that stands, once an acquire that comes with it may follow,
or parks. -/
def waitchCases (f : LForm) (s : State) (u : Issue) : List Case :=
  let here := participants u f == [0] && u.c == 0
  match waitchAnswer s u.blk (waitHandle f u) with
  | some r => [{ i := .waitch f, holds := here && answerDue u (cutOf s u.blk.core) [0] r, eff := fun t => takeAnswer t u f [0] r }]
  | none => [{ changes (.waitch f) u (parkLanes u (flagOf u f.setf f.fsel) u.cord.retired.toNat [0]
        (.waitch (waitHandle f u) (cutOf s u.blk.core)))
      with holds := here }]

/-- The special registers that hold a fixed value while a cord runs (Table 2-2, Table 3-12). -/
def specialVal (s : State) (u : Issue) (g : Grid) (r : SReg) (l : Nat) : Option Nat :=
  match r with
  | .lane => some l
  | .strand => some (u.c * u.blk.width + l)
  | .cord => some u.c
  | .width => some u.blk.width
  | .passes => some u.cord.passes
  | .side => some u.blk.side
  | .blkx => some (u.blk.index % g.nbx)
  | .blky => some (u.blk.index / g.nbx % g.nby)
  | .blkz => some (u.blk.index / g.nbx / g.nby)
  | .nblkx => some g.nbx
  | .nblky => some g.nby
  | .nblkz => some g.nbz
  | .core => some u.blk.core
  | .cluster => some (u.blk.core / 4)
  | .depth => some g.depth
  | .gooda => some (Config.goodLanes (coreOf s u.blk.core).mapA)
  | .goodb => some (Config.goodLanes (coreOf s u.blk.core).mapB)
  | .lmapa => some (coreOf s u.blk.core).mapA.toNat
  | .lmapb => some (coreOf s u.blk.core).mapB.toNat
  | .phase => some (coreOf s u.blk.core).phase.toNat
  | .det => some (ctxBit s g 3).toNat
  | .retired => some u.cord.retired.toNat
  | .cycle => if ctxBit s g 3 then some u.cord.retired.toNat else none
  | .fpflags => some u.cord.fpflags.toNat
  | .trapctl => some u.cord.trapctl.toNat
  | .trapstat => some (u.cord.region.isSome.toNat + 2 * u.cord.handler.toNat + 4 * u.cord.lout.toNat
      + 2 ^ 8 * u.cord.lcause.toNat + 2 ^ 19 * u.cord.drop.toNat + 2 ^ 20 * u.cord.queue.length + 2 ^ 24 * u.cord.ncorr.toNat)

/-- MFS of such a register (R129): each target's D receives it; a 32-bit D its low word (R21). -/
def mfsCases (f : LForm) (s : State) (u : Issue) : List Case :=
  match SReg.ofNum f.a.toNat, gridOf s u.blk.grid with
  | some r, some g =>
    if (specialVal s u g r 0).isSome then
      let ws := (targets u f).flatMap (fun l => putD f f.ty.toNat l ((specialVal s u g r l).getD 0))
      [{ i := .mfs f, regs := if LForm.scalar f then [] else vregsOf ws, eff := fun t => modCord t u.b u.c (writeRegs ws) }]
    else []
  | _, _ => []

/-- MFS of %cycle in free mode (R129, R393): a free value for each lane, ascending. -/
def cycleCase (f : LForm) (u : Issue) (g : Grid) : Case :=
  { i := .mfs f, regs := if LForm.scalar f then [] else vregsOf ((targets u f).flatMap (fun l => putD f f.ty.toNat l 0)),
    eff := fun t =>
      let x := cycleLanes u g (targets u f) t
      modCord x.2 u.b u.c (writeRegs (x.1.flatMap (fun e => putD f f.ty.toNat e.1 e.2))) }

/-- What MTS moves: a scalar or the literal (R130). -/
def mtsSource (f : LForm) (u : Issue) : Word :=
  match f.lit with
  | some w => w
  | none => u.cord.scal f.a.toNat

/-- The trap queue without its oldest record that is not under delivery, or without all of those (R334). -/
def afterDrop (c : Cord) (all : Bool) : List TrapRec :=
  if c.handler || c.given then c.queue.take 1 ++ (if all then [] else c.queue.drop 2) else if all then [] else c.queue.drop 1

/-- TQPEEK, TQDROP, CHKPT and MTS (R130, R334, R335). -/
def systemCases (f : LForm) (s : State) (u : Issue) : List Case :=
  let head := (u.cord.queue.head?.map TrapRec.bits).getD 0
  [writes (.tqpeek f) u ((List.range 12).map (fun k => .s (f.d.toNat + k) (BitVec.ofNat 32 (head / 2 ^ (32 * k))))),
   { i := .tqdrop f, eff := fun t => modCord t u.b u.c (fun c =>
       commit { c with queue := afterDrop c (f.mod == 1) }
         [.s f.d.toNat (BitVec.ofNat 32 (c.queue.length - (afterDrop c (f.mod == 1)).length))]) },
   writes (.chkpt f) u [.s f.d.toNat (lo32 (BitVec.ofNat 64 (chkptVal s u.b u.cord))),
     .s (f.d.toNat + 1) (hi32 (BitVec.ofNat 64 (chkptVal s u.b u.cord)))],
   { changes (.mts f) u (fun c => { c with fpflags := (mtsSource f u).setWidth 5 }) with holds := f.d == 0x28 },
   { changes (.mts f) u (fun c => { c with trapctl := mtsSource f u &&& 0xFFFFF007 }) with holds := f.d == 0x31 }]

/-- The strands of the issuing set moved past the instruction. -/
def past (s : State) (u : Issue) : State :=
  modCord s u.b u.c (fun c => c.modLanes u.lanes (fun t => { t with pc := u.pc + BitVec.ofNat 64 u.len }))

/-! ### Firmware forms -/

/-- A control core injects an instruction into a suspended cord (R353). -/
abbrev Injects (i : Instr) (s : State) (u : Issue) : Prop :=
  issueOf s i.length = some u ∧ u.injected = true ∧ decodeTrap (decodeCtx u) i = none ∧ u.cord.suspend ≠ []

end Sys2Proof.Claims

section
open Sys2Proof Sys2Proof.Machine Sys2Proof.Claims

/-! ### Masks, ends, cross-lane work -/

/-- JOIN, LEAVE, WAITM, KSET, KMOV, KAND, KOR and KPOP (R29, R115 to R117). A mask write is ANDed with the strands
that have not ended (R29), that of FWREST too, and the check of R30: once every strand of km is parked at a WAITM on
km, every strand parked there goes on to the next instruction; else nothing changes. EXIT ends its participants, YIELD
swaps its cord to the pending set and changes nothing else of it, RGNEND outside a region does nothing (R112, R113,
R335). What the end of some strands does (R23, R112): they have ended and are parked nowhere, drop their references
and leave every mask; no register or predicate of any strand changes, and no other strand ends. A cord whose last
strand ends has ended, with an empty trap queue, and its core's completion queue holds no reply of it (R228, R326). A
cord that has ended holds its place no longer (R20, R23): it counts in no side's residents. The NOPs retire with no
effect (R46, R114). -/
def Obligations.MasksAndEnds : Prop :=
  (∀ (f : LForm) (s : State) (u : Issue), ∀ e ∈ maskCases f u, e.Completes s u)
  ∧ (∀ (c : Cord) (k : Nat) (x : Mask), k < c.k.length →
      (applyW c (.k k x)).mask k = x &&& maskOf c.liveLanes
      ∧ (∀ n, n ≠ k → (applyW c (.k k x)).mask n = c.mask n)
      ∧ ((∃ l ∈ c.liveLanes, (c.mask k).getLsbD l = true ∧ (c.lane l).park ≠ some (.waitm k)) → checkWaitm c k = c)
      ∧ ((∀ l ∈ c.liveLanes, (c.mask k).getLsbD l = true → (c.lane l).park = some (.waitm k)) →
          ∀ l, (checkWaitm c k).lane l = if l ∈ c.liveLanes ∧ (c.lane l).park = some (.waitm k) then
              { c.lane l with park := none, pc := (c.lane l).pc + 8 } else c.lane l)
      ∧ ∀ (b : Block) (img : List Byte) (y : Cord) (n : Nat), n < 12 → (cordFrom b img y).mask n
          = BitVec.ofNat 64 (imgNat img (272 + 8 * n) 8) &&& maskOf (cordFrom b img y).liveLanes)
  ∧ ((∀ (f : LForm) (s : State) (u : Issue), ∀ e ∈ endCases f u, e.Completes s u)
    ∧ ∀ (s : State) (b c : Nat) (y : Cord), cordOf s b c = some y →
      ∃ n, cordOf (swapOut s b c) b c = some { y with active := none, since := n })
  ∧ (∀ (s : State) (b c : Nat) (x : Cord) (lanes : List Nat), cordOf s b c = some x →
      ∃ y, cordOf (endStrands s b c lanes) b c = some y
        ∧ (∀ l, l < x.strands.length → (y.lane l).v = (x.lane l).v ∧ (y.lane l).p = (x.lane l).p
          ∧ (l ∈ lanes → (y.lane l).ended = true ∧ (y.lane l).park = none ∧ (y.lane l).refs = [])
          ∧ (l ∉ lanes → (y.lane l).ended = (x.lane l).ended ∧ (y.lane l).refs = (x.lane l).refs))
        ∧ (∀ n, y.mask n = x.mask n &&& maskOf y.liveLanes)
        ∧ (∀ l, l ∈ y.liveLanes ↔ l ∈ x.liveLanes ∧ l ∉ lanes)
        ∧ y.s = x.s ∧ y.retired = x.retired
        ∧ (y.liveLanes = [] → y.ended = true ∧ y.queue = []
          ∧ ∀ k, s.blocks[b]? = some k → ∀ r ∈ (coreOf (endStrands s b c lanes) k.core).cq, ¬(r.block = b ∧ r.cord = c)))
  ∧ (∀ (s : State) (core side : Nat), (residents s core side).length
      = (s.blocks.map (fun x => if x.core = core ∧ x.side = side then (x.cords.filter (fun y => !y.ended)).length else 0)).sum)
  ∧ (∀ (f : LForm) (g : SForm) (s : State) (u : Issue),
      (Issues (.nop g) s u [] [] → exec (.nop g) s = .next (moved s u [] []))
      ∧ (Issues (.nopLong f) s u [] [] → exec (.nopLong f) s = .next (moved s u [] [])))

/-- VOTE, SHFL, SHFLP, REDUCE, SCAN and MATCH (R118 to R123): every source is read before any destination is written.
REDUCE.add of 32-bit integers gives the sum of the participants' values mod 2^32, whatever the tree (R121). The tree
of R121 and the prefixes of R122, of every operation and type, FP32 among them: the root is the node over all leaves,
each node combines its lower half with its upper half, and a prefix over n leaves combines from left to right the
nodes whose sizes are the powers of 2 in n, the largest first. An FP32 node is the sum rounded to nearest even, FMIN
or FMAX, with identities -0, +∞ and -∞ (Table 5-6). REDUCE and SCAN of the integer operations whatever the tree (R121,
R122): the minimum or maximum of the participants' values and the end of the type's range, and the bitwise combination
of them; a prefix that of its first leaves. -/
def Obligations.CrossLane : Prop :=
  (∀ (f : LForm) (s : State) (u : Issue), ∀ e ∈ laneCases f u, e.Completes s u)
  ∧ (∀ (f : LForm) (u : Issue), f.ty = 1 ∨ f.ty = 2 → f.mod = 0 → u.blk.width ∈ [16, 32, 64] →
      BitVec.ofNat 32 (treeRoot (nodeOp f.mod.toNat f.ty.toNat) (treeLeaves u f)).1
        = BitVec.ofNat 32 ((List.range u.blk.width).map (fun l =>
            if l ∈ participants u f then valA u.cord f f.ty.toNat l else 0)).sum)
  ∧ ((∀ (f : LForm) (u : Issue), u.blk.width ∈ [16, 32, 64] →
      let g := nodeOp f.mod.toNat f.ty.toNat
      let x (i : Nat) : Nat := (treeLeaves u f).getD i 0
      let levels := treeLevels g (Nat.log2 u.blk.width) (treeLeaves u f)
      treeRoot g (treeLeaves u f) = nodeOver g x (Nat.log2 u.blk.width) 0
      ∧ ∀ n ident, n ≤ u.blk.width → scanPrefix g levels.1 ident n = prefixOver g x ident n)
    ∧ (∀ x y : Nat, nodeOp 0 3 x y = fp32.add 0 x y ∧ nodeOp 1 3 x y = (fp32.min x y, 0) ∧ nodeOp 2 3 x y = (fp32.max x y, 0))
    ∧ nodeId 0 3 = 0x80000000 ∧ nodeId 1 3 = 0x7F800000 ∧ nodeId 2 3 = 0xFF800000)
  ∧ (∀ (f : LForm) (u : Issue), u.blk.width ∈ [16, 32, 64] →
      let ty := f.ty.toNat
      let w := eltBits ty
      let sg := signedTy ty
      let hi : Int := if sg then 2 ^ (w - 1) - 1 else 2 ^ w - 1
      let lo : Int := if sg then -(2 ^ (w - 1) : Int) else 0
      let taken (n : Nat) : List Nat := ((List.range n).filter (fun l => (participants u f).contains l)).map (valA u.cord f ty)
      let at_ (n : Nat) : List Int := (taken n).map (readInt sg w)
      let bits_ (n : Nat) : List Word := (taken n).map (BitVec.ofNat 32)
      let g := nodeOp f.mod.toNat ty
      let levels := treeLevels g (Nat.log2 u.blk.width) (treeLeaves u f)
      ∀ n r, (n = u.blk.width ∧ r = (treeRoot g (treeLeaves u f)).1
          ∨ n ≤ u.blk.width ∧ r = (scanPrefix g levels.1 (nodeId f.mod.toNat ty) n).1) →
        (f.ty ∈ [1, 2, 4, 5] → f.mod = 1 → readInt sg w r = (at_ n).foldl min hi)
        ∧ (f.ty ∈ [1, 2, 4, 5] → f.mod = 2 → readInt sg w r = (at_ n).foldl max lo)
        ∧ (f.ty ∈ [1, 2, 4, 5] → f.mod = 0 → BitVec.ofNat w r = BitVec.ofNat w (taken n).sum)
        ∧ (f.ty = 0 → f.mod = 3 → BitVec.ofNat 32 r = (bits_ n).foldl (· &&& ·) 0xFFFFFFFF)
        ∧ (f.ty = 0 → f.mod = 4 → BitVec.ofNat 32 r = (bits_ n).foldl (· ||| ·) 0)
        ∧ (f.ty = 0 → f.mod = 5 → BitVec.ofNat 32 r = (bits_ n).foldl (· ^^^ ·) 0))

/-! ### Barriers and child grids -/

/-- BAR, BARB and GBAR as their strands arrive (R124, R126); GBAR in a grid without `.gbar` traps and does not arrive. -/
def Obligations.BarriersArrive : Prop :=
  ∀ (f : LForm) (s : State) (u : Issue),
    (∀ e ∈ barrierCases f s u, e.Completes s u)
    ∧ (∀ g, gridOf s u.blk.grid = some g → g.isGbar = false → Reaches (.gbar f) s u →
        exec (.gbar f) s = .next (trapAt s u .gbarUndeclared u.lanes 0 0))

/-- Strands that wait at a barrier, PHASE, a fence, WAITCH or BOWAIT pass it once what they wait for has come (R124,
R126, R128, R186, R271 to R273), and stay where they are until then. Where they take a release, or a fence, their core
sends what it holds unpublished once what comes before is performed, and they wait for that (R217, R230, R234; log
109). What passing is (R26, R124): a strand that passes is no longer parked and stands at the next instruction; of the
others and of the cord's registers, masks and traps nothing changes. Where strands are released from a barrier they
take a phase boundary as well (R233). The release of a block barrier (R124, R232): once every strand of the block that
has not ended is parked at BAR of one id, all of them stand unparked at the next instruction, past a boundary, and
%phase counts it; before that nothing changes. The departures from a wide barrier (R124, R126, R232): of the blocks
concerned every live strand that is parked there stands unparked at the next instruction, past a boundary, and no
other strand changes; the snapshot of a core one of whose strands departs keeps no clean byte, and its %phase counts
the release. A release of GBAR raises the grid's count by one as well. -/
def Obligations.WaitersPass : Prop :=
  (∀ (f : LForm) (s : State) (u : Issue),
      let ready (cut : Nat) : Bool := releaseReady s u.b u.c u.blk.core cut u.lanes
      (∀ id cut, LooksAgain (.barb f) s u (.barb id cut false) →
        exec (.barb f) s = .next (if ready cut then beginRelease s u 3 (fun n => .barb id n true) else s))
      ∧ (∀ id cut, LooksAgain (.barb f) s u (.barb id cut true) →
        exec (.barb f) s = .next (if allArrived s (braidBlocks s u.b) (atBarb id)
          then departAll s (braidBlocks s u.b) (fun p => (atBarb id p).isSome) else s))
      ∧ (∀ g cut, gridOf s u.blk.grid = some g → LooksAgain (.gbar f) s u (.gbar cut false) →
        exec (.gbar f) s = .next (if ready cut then beginRelease s u 5 (fun n => .gbar n true) else s))
      ∧ (∀ g cut, gridOf s u.blk.grid = some g → LooksAgain (.gbar f) s u (.gbar cut true) →
        exec (.gbar f) s = .next (if u.lanes.all (fun l => (u.cord.lane l).gbars ≤ g.barrier) then
            (if releaseDone s u.b u.blk.core 5 cut then
              passBoundary (modCord s u.b u.c (passLanes 8 u.lanes)) u.b u.c u.blk.core 5 true u.lanes else s)
          else if gbarDone s u.b u.blk.grid g then releaseGbar s u.blk.grid else s))
      ∧ (∀ h cut, LooksAgain (.waitch f) s u (.waitch h cut) →
        exec (.waitch f) s = .next (match waitchAnswer s u.blk h with
          | some r => if answerDue u cut u.lanes r then
              takeAnswer (modCord s u.b u.c (passLanes u.len u.lanes)) u f u.lanes r else s
          | none => s))
      ∧ (∀ off, LooksAgain (.bowait f) s u (.bowait off) →
        exec (.bowait f) s = .next (if present s u.b off 16 && objectZero s u.b off then
            bowaitReturn (modCord s u.b u.c (passLanes u.len u.lanes)) u f off else s))
      ∧ (∀ cut, f.mod2 ≠ 2 → LooksAgain (.phase f) s u (.hold cut false) →
        exec (.phase f) s = .next (if ready cut then beginRelease s u f.mod.toNat (fun n => .hold n true) else s))
      ∧ (∀ cut, f.mod2 = 2 → LooksAgain (.phase f) s u (.hold cut false) →
        exec (.phase f) s = .next (if strandsBefore s u.b u.c cut u.lanes then passPhase s u f else s))
      ∧ (∀ cut, LooksAgain (.phase f) s u (.hold cut true) →
        exec (.phase f) s = .next (if releaseDone s u.b u.blk.core f.mod.toNat cut then passPhase s u f else s))
      ∧ (∀ cut sent, LooksAgain (.fenceX f) s u (.hold cut sent) →
        exec (.fenceX f) s = .next (if strandsQuiet (viewCord s u.b u.cord) u.lanes (fun o => o.seq < cut && (o.stream == f.mod.toNat || o.stream == f.mod2.toNat))
          then modCord s u.b u.c (passLanes u.len u.lanes) else s))
      ∧ (∀ cut, LooksAgain (.fenceP f) s u (.hold cut false) →
        exec (.fenceP f) s = .next (if classQuiet s u u.lanes cut f.mod.toNat && classQuiet s u u.lanes cut f.mod2.toNat
            && beforeQuiet s u u.lanes then beginFence s u (f.mod == 0 || f.mod2 == 0) else s))
      ∧ (∀ cut, LooksAgain (.fenceP f) s u (.hold cut true) →
        exec (.fenceP f) s = .next (if fenceDone s u.blk.core cut then
            (if f.mod = 0 ∨ f.mod2 = 0 then dropClean (modCord s u.b u.c (passLanes u.len u.lanes)) u.blk.core
            else modCore (modCord s u.b u.c (passLanes u.len u.lanes)) u.blk.core (fun k => { k with fenced := true })) else s))
      ∧ (∀ cut, LooksAgain (.launch f) s u (.launch cut false) →
        ∀ g, gridOf s u.blk.grid = some g →
        exec (.launch f) s = .next (if ready cut then beginRelease s u 5 (fun n => .launch n true) else s)))
  ∧ (∀ (len : Nat) (lanes : List Nat) (c : Cord) (l : Nat), l < c.strands.length →
      ((passLanes len lanes c).lane l = if l ∈ lanes then
          { c.lane l with park := none, pc := (c.lane l).pc + BitVec.ofNat 64 len } else c.lane l)
      ∧ ((boundary lanes c).lane l = if l ∈ lanes then { c.lane l with epoch := (c.lane l).epoch + 1 } else c.lane l)
      ∧ ∀ d ∈ [passLanes len lanes c, boundary lanes c], d.strands.length = c.strands.length ∧ d.s = c.s ∧ d.k = c.k
          ∧ d.queue = c.queue ∧ d.retired = c.retired ∧ d.handler = c.handler ∧ d.region = c.region)
  ∧ (∀ (s : State) (b : Nat) (x : Block), s.blocks[b]? = some x →
      let live : List (Nat × Nat) := x.cords.zipIdx.flatMap (fun e => e.1.liveLanes.map (fun l => (e.2, l)))
      let at_ (n : Nat) (e : Nat × Nat) : Prop := (x.cords[e.1]?.map (fun c => (c.lane e.2).park)) = some (some (.bar n))
      (∀ n, live ≠ [] → (∀ e ∈ live, at_ n e) →
        (coreOf (checkBar s b) x.core).phase = (coreOf s x.core).phase + 1
        ∧ ∃ y, (checkBar s b).blocks[b]? = some y ∧ y.epoch = x.epoch + 1 ∧ y.cords.length = x.cords.length
          ∧ ∀ (i l : Nat) (c : Cord), x.cords[i]? = some c → l < c.strands.length → ∃ d, y.cords[i]? = some d
            ∧ d.lane l = if (c.lane l).live = true then
                { c.lane l with park := none, pc := (c.lane l).pc + 8, epoch := (c.lane l).epoch + 1 } else c.lane l)
      ∧ ((∀ n, ∃ e ∈ live, ¬ at_ n e) → checkBar s b = s))
  ∧ (∀ (s : State) (bs : List Nat) (at_ : Park → Bool) (i c l : Nat) (x : Block) (y : Cord),
      s.blocks[i]? = some x → x.cords[c]? = some y → l < y.strands.length → bs.Nodup →
      let goes : Bool := (y.lane l).live && ((y.lane l).park.map at_).getD false
      (∃ z, cordOf (departAll s bs at_) i c = some z ∧ z.lane l = if i ∈ bs ∧ goes = true then
          { y.lane l with park := none, pc := (y.lane l).pc + 8, epoch := (y.lane l).epoch + 1 } else y.lane l)
      ∧ (i ∈ bs → goes = true → (coreOf (departAll s bs at_) x.core).clean = []
        ∧ (coreOf (departAll s bs at_) x.core).phase = (coreOf s x.core).phase + 1)
      ∧ ∀ (g : Nat) (w : Grid), gridOf s g = some w → ∃ v, gridOf (releaseGbar s g) g = some v ∧ v.barrier = w.barrier + 1)

/-- LAUNCH (R24, R127): the checks in their order, what it does in the block leader, and LAUNCH_QUEUE_ROOM. WAITCH in
the block leader (R128). -/
def Obligations.LaunchAndWaitch : Prop :=
  (∀ (f : LForm) (s : State) (u : Issue),
      (launchCase f s u).Completes s u
      ∧ (∀ g, gridOf s u.blk.grid = some g → Reaches (.launch f) s u →
        (participants u f ≠ [] → ¬(participants u f = [0] ∧ u.c = 0) →
          exec (.launch f) s = .next (trapAt s u .launchLeader (participants u f) 0 0))
        ∧ (participants u f = [0] → u.c = 0 → g.depth = 10 →
          exec (.launch f) s = .next (trapAt s u .launchDepth [0] 0 0))
        ∧ (participants u f = [0] → u.c = 0 → g.depth ≠ 10 → regVal u.cord 0 true true f.a.toNat % 128 ≠ 0 →
          exec (.launch f) s = .next (trapAt s u .launchRecord [0] 0 0))
        ∧ (participants u f = [0] → u.c = 0 → g.depth ≠ 10 → regVal u.cord 0 true true f.a.toNat % 128 = 0 →
          64 ≤ u.blk.handles.length → exec (.launch f) s = .next (trapAt s u .launchHandles [0] 0 0)))
      ∧ ∀ (b : Nat) (x : Cord) (g : Grid) (o : Op) (k : LForm) (a : Acc) (rest : List Acc), cordOf s b 0 = some x →
        gridOfBlock s b = some g → launchOp x = some (o, k) → o.accs = a :: rest → (x.lane 0).park = some .launchRoom →
        queueRoom s g.part (recordQueue (leNat a.data)) = true →
        exec (.launchQueueRoom b) s = .next (endLaunch (launchRecord s b 0 k g (leNat a.data)) b 0 o))
  ∧ (∀ (f : LForm) (s : State) (u : Issue),
      (∀ e ∈ waitchCases f s u, e.Completes s u)
      ∧ ∀ r, Reaches (.waitch f) s u → participants u f = [0] → u.c = 0 → waitchAnswer s u.blk (waitHandle f u) = some r →
        answerDue u (cutOf s u.blk.core) [0] r = false → exec (.waitch f) s = .next s)

/-! ### Special registers, trap instructions, firmware forms -/

/-- MFS (R21, R129): every special register of Table 3-12; %cycle in free mode is a free value for each lane. MTS,
TQPEEK, TQDROP and CHKPT (R130, R143, R327, R334, R335): the reserved bits of %fpflags and %trapctl stay 0. -/
def Obligations.SpecialRegisters : Prop :=
  (∀ (f : LForm) (s : State) (u : Issue),
      (∀ e ∈ mfsCases f s u, e.Completes s u)
      ∧ (∀ g, gridOf s u.blk.grid = some g → SReg.ofNum f.a.toNat = some .cycle → ctxBit s g 3 = false →
          (cycleCase f u g).Completes s u))
  ∧ (∀ (f : LForm) (s : State) (u : Issue), ∀ e ∈ systemCases f s u, e.Completes s u)

/-- TRAP and BKPT (R332): the record names the instruction and its participants, the strands stand at the next
instruction, and TRAP's DETAIL is its operand; a BKPT suspends a cord that a debugger holds once its queued results are
written (R317), and without a debugger, BK and a handler it does nothing. That the two are not counted in %retired, and
that the whole issuing set moves past them, is the model's reading (logs 13 and 53). -/
def Obligations.TrapInstructions : Prop :=
  ∀ (f : LForm) (s : State) (u : Issue),
    (Issues (.trap f) s u [] [] → participants u f ≠ [] →
      exec (.trap f) s = .next (trapAt (past s u) u .trap (participants u f) (mtsSource f u).toNat 0))
    ∧ (Issues (.trap f) s u [] [] → participants u f = [] → exec (.trap f) s = .next (moved s u [] []))
    ∧ (Issues (.bkpt f) s u [] [] → u.cord.debugger = false → u.cord.bk = true → u.cord.hoff ≠ 0 → participants u f ≠ [] →
      exec (.bkpt f) s = .next (trapAt (past s u) u .bkpt (participants u f) 0 0))
    ∧ (Issues (.bkpt f) s u [] [] → u.cord.debugger = true → resultsIn u.cord = false → exec (.bkpt f) s = .next s)
    ∧ (Issues (.bkpt f) s u [] [] → u.cord.debugger = true → resultsIn u.cord = true → .debugger ∉ u.cord.suspend →
      exec (.bkpt f) s = .next (modCord (moved s u [] []) u.b u.c (fun c =>
        { c with suspend := if c.suspend.contains .debugger then c.suspend else c.suspend ++ [.debugger] })))
    ∧ (Issues (.bkpt f) s u [] [] → u.cord.debugger = false → (u.cord.bk = false ∨ u.cord.hoff = 0 ∨ participants u f = []) →
      exec (.bkpt f) s = .next (moved s u [] []))

/-- The firmware forms (R353): injected into a suspended cord they save its image, load it, move its array or end the
sequence; in a cord that fetches them they are illegal opcodes (R67), and injected into a cord that is not suspended
they are refused. FWREST loads an image whose header is the cord's own, and is refused with another header. The layout
of FWARR and its length (log 18), the refusal (log 75), that FWREST replaces the cord and does nothing besides (log
97), and what a strand of an image whose state says parked waits at (log 31) are the model's choices. An opcode that
is not assigned is an illegal opcode of the strands that fetch it (R45, R64). -/
def Obligations.FirmwareAndUnassigned : Prop :=
  (∀ (f : LForm) (s : State) (u : Issue),
      (Injects (.fwsave f) s u → exec (.fwsave f) s = .next (physWrite s (physA u f) (cordImage u.blk u.c u.cord)))
      ∧ (Injects (.fwrest f) s u →
          (physRead s (physA u f) (imageLen u.blk)).1.take 8 = imageHead u.blk u.c u.cord →
          exec (.fwrest f) s = .next (modCord (physRead s (physA u f) (imageLen u.blk)).2 u.b u.c
            (cordFrom u.blk (physRead s (physA u f) (imageLen u.blk)).1)))
      ∧ (Injects (.fwrest f) s u →
          (physRead s (physA u f) (imageLen u.blk)).1.take 8 ≠ imageHead u.blk u.c u.cord → exec (.fwrest f) s = .next (send s .fwRefused))
      ∧ (Injects (.fwarr f) s u → f.mod = 0 →
          exec (.fwarr f) s = .next (physWrite s (physA u f) (arrayBytes (coreOf s u.blk.core))))
      ∧ (Injects (.fwarr f) s u → f.mod = 1 → exec (.fwarr f) s = .next (modCore (physRead s (physA u f) 8449).2 u.blk.core
          (arrayFrom (physRead s (physA u f) 8449).1)))
      ∧ (Injects (.fwend f) s u → exec (.fwend f) s = .next s)
      ∧ ∀ i ∈ [Instr.fwsave f, .fwrest f, .fwarr f, .fwend f], issueOf s i.length = some u →
          (u.injected = false → exec i s = .next (trapAt s u .illegalOpcode u.lanes 0 0))
          ∧ (u.injected = true → u.cord.suspend = [] → exec i s = .next (send s .fwRefused)))
  ∧ (∀ (w : UWord) (s : State) (u : Issue), issueOf s (Instr.unassignedOpcode w).length = some u → u.injected = false →
      exec (.unassignedOpcode w) s = .next (trapAt s u .illegalOpcode u.lanes 0 0))

/-- A clause header (R53, R54, R56, R58, R336): once the flags it names are clear its strands stand at the clause's first
instruction with the header in force, nothing retires, and with RGN a region starts; while a flag is busy it waits, and
its cord leaves the active set where the header carries YIELD or the flag is held by an operation of a long-latency class
(R58, R300); a header that breaks R53 is an illegal opcode; with RGN an open region ends first. -/
def Obligations.ClauseHeaders : Prop :=
  ∀ (h : Header) (s : State) (u : Issue), issueOf s 4 = some u →
    (Header.ok h = false → exec (.clauseHeader h) s = .next (trapAt s u .illegalOpcode u.lanes 0 0))
    ∧ (Header.ok h = true → waitClear (waitCount s u) h.wait = false →
        exec (.clauseHeader h) s = .next (stallAtHeader s u h))
    ∧ ((h.yield = true ∨ longWait s u h.wait = true) → stallAtHeader s u h = swapOut s u.b u.c)
    ∧ (h.yield = false → longWait s u h.wait = false → queuedWait u h.wait = false → stallAtHeader s u h = s)
    ∧ (Header.ok h = true → waitClear (waitCount s u) h.wait = true → h.rgn = true → u.cord.region.isSome = true →
        exec (.clauseHeader h) s = .next (markEnding s u))
    ∧ (Header.ok h = true → waitClear (waitCount s u) h.wait = true → (h.rgn = false ∨ u.cord.region = none) →
        exec (.clauseHeader h) s = .next (modCord s u.b u.c (enterClause h u.lanes u.pc)))
    ∧ (∀ (c : Cord) (l : Nat), l < c.strands.length → u.lanes.contains l = true →
        ((enterClause h u.lanes u.pc c).lane l).pc = u.pc + 4 ∧ ((enterClause h u.lanes u.pc c).lane l).clause = some h
        ∧ (enterClause h u.lanes u.pc c).retired = c.retired)

end
namespace Sys2Proof.Claims
open Sys2Proof Sys2Proof.Machine

/-! ### Memory instructions -/

/-- The participants of an access with their addresses (R260). -/
def globals (f : LForm) (u : Issue) : List (Nat × Nat) := (participants u f).map (fun l => (l, eaGlobal u f l))

/-- The instructions that access global memory, whether their addresses must lie below 2^57, and their alignment
(Table 13-2, R270, R274, R283). -/
def globalTable (f : LForm) : List (Instr × Bool × Nat) :=
  [(.ld f, true, accSize f), (.st f, true, accSize f), (.ldx f, false, accSize f), (.stx f, false, accSize f),
   (.pref f, true, 1), (.atom f, true, stepSize f), (.red f, true, stepSize f), (.cas f, true, stepSize f),
   (.atomr f, true, stepSize f), (.tst f, true, stepSize f), (.retract f, true, 4), (.tcommit f, true, 4)]

/-- Rows 2 and 3 of Table 13-2 pass. -/
def globalGood (eas : List (Nat × Nat)) (canon : Bool) (align : Nat) : Bool :=
  eas.all (fun e => (!canon || e.2 < 2 ^ 57) && e.2 % align == 0)

/-- An instruction that takes an operation with an access in each participant. -/
def takes (i : Instr) (canon : Bool) (align : Nat) (f : LForm) (s : State) (u : Issue) (regs : List Nat) (kind : OpKind)
    (accs : List Acc) : Case :=
  { i := i, holds := globalGood (globals f u) canon align && !(participants u f).isEmpty, regs := regs,
    eff := fun t => addAccOp t u { newOp s u f (participants u f) kind accs with stream := f.mod.toNat } }

/-- The place of a scratchpad access: its block and offset (R133, R260). -/
def placeOfLocal (s : State) (u : Issue) (f : LForm) (l : Nat) : Option (Nat × Nat) :=
  placeLocal s u.b (bits (baseLocal u f l) 25 24) (offLocal u f l) (accSize f)

/-- The checks of Table 13-2 on a scratchpad access pass. -/
def localGood (s : State) (u : Issue) (f : LForm) : Bool :=
  (participants u f).all (fun l => bits (baseLocal u f l) 31 26 == 0 && offLocal u f l % accSize f == 0
    && (placeOfLocal s u f l).isSome)

/-- The scratchpad places of some lanes. -/
def placesOf (s : State) (u : Issue) (f : LForm) : List (Nat × Nat × Nat) :=
  (participants u f).filterMap (fun l => (placeOfLocal s u f l).map (fun p => (l, p.1, p.2)))

/-- The scratchpad accesses of LDC and STC, as lane, position and offset. -/
def localAt (s : State) (u : Issue) (f : LForm) : List (Nat × Nat × Nat) :=
  (placesOf s u f).map (fun p => (p.1, bits (baseLocal u f p.1) 25 24, p.2.2))

/-- The operation that stores the values of strands into windows, which the device performs later (R236, R267); in
deterministic mode what can be performed is at once. -/
def storesTo (s : State) (u : Issue) (f : LForm) (ps : List (Nat × Nat × Nat)) (t : State) : State :=
  settle (addAccOp t u { newOp s u f (ps.map Prod.fst) (.storeC f)
      (ps.map (fun p => { winAcc u f p.1 p.2.1 p.2.2 with data := dataBytes u f (accSize f) p.1 })) with
    stream := f.mod.toNat }) u.b

/-- The tag hits of an LDX may be read: their lines are present, and nothing earlier holds them back. -/
def hitsFree (s : State) (u : Issue) (f : LForm) : Bool :=
  allPresent s (tagHits u (globals f u)) (accSize f)
    && !winBlocked s u f f.mod.toNat ((tagHits u (globals f u)).map (fun p => winAcc u f p.1 u.blk.pos p.2.2))

/-- What LDX writes (R269): pH and the registers of each participant, 0 where it misses. -/
def ldxWrites (s : State) (u : Issue) (f : LForm) : List RegW :=
  (globals f u).flatMap (fun e => match slotMatch u.blk e.2 with
    | some n => .p e.1 f.b.toNat true :: loadWs f e.1 (winRead s u.b (256 * n + e.2 % 256) (accSize f))
    | none => .p e.1 f.b.toNat false :: loadWs f e.1 (List.replicate (accSize f) 0))

/-- CVTSC without a row scale: the conversion of each participant (R103). -/
def cvtscRows (f : LForm) (s : State) (u : Issue) : List (Nat × Queued) :=
  (participants u f).map (fun l => (l, cvtscLane f (dScale (blockDesc s u.b (cvtscId u.cord f))) (.fin false 1 1)
    (valA u.cord f 0 l) ((u.cord.lane l).reg f.d.toNat).toNat))

/-- The row-scale addresses of CVTSC (R104). -/
def cvtscAddrs (f : LForm) (s : State) (u : Issue) : List (Nat × Nat) :=
  (participants u f).map (fun l => (l, dRsAddr (blockDesc s u.b (cvtscId u.cord f))
    + 4 * ((u.cord.lane l).reg f.c.toNat).toNat))

/-- Loads, stores, prefetch and CVTSC as they issue (R103, R265 to R270, R338, R350). -/
def accessCases (f : LForm) (s : State) (u : Issue) : List Case :=
  let ls := participants u f
  let tent := u.cord.region.isSome || relaunchable s (braidOf s u.b)
  let sts := (globals f u).flatMap (storeAccs u f tent)
  let e := blockDesc s u.b (cvtscId u.cord f)
  [takes (.ld f) true (accSize f) f s u (destSpan f) (.load f) ((globals f u).map (fun x => newAcc u x.1 x.2 (accSize f) [] [])),
   { i := .st f, holds := globalGood (globals f u) true (accSize f) && !ls.isEmpty && !stagingFull s u (sts.map accDws).sum,
     dws := if u.cord.region.isSome then (sts.map (fun a => dwOf a.va)).eraseDups else [],
     eff := fun t => settle (addAccOp t u { newOp s u f ls (.store f tent) sts with stream := f.mod.toNat }) u.b },
   takes (.pref f) true 1 f s u [] (.pref f) ((globals f u).map (fun x => newAcc u x.1 x.2 1 [] [])),
   { i := .ldc f, holds := localGood s u f && !ls.isEmpty && allPresent s (placesOf s u f) (accSize f), regs := destSpan f,
     eff := fun t => addAccOp t u { newOp s u f ls (.loadC f) ((localAt s u f).map (fun p => winAcc u f p.1 p.2.1 p.2.2))
       with stream := f.mod.toNat } },
   { i := .stc f, holds := localGood s u f && !ls.isEmpty && allPresent s (placesOf s u f) (accSize f),
     eff := storesTo s u f (localAt s u f) },
   { i := .ldx f, holds := globalGood (globals f u) false (accSize f) && hitsFree s u f
       && !(tagHits u (globals f u)).any (fun h => winPoison s h.2.1 h.2.2 (accSize f)),
     regs := vregsOf (ldxWrites s u f), eff := fun t => modCord t u.b u.c (writeRegs (ldxWrites s u f)) },
   { i := .stx f, holds := globalGood (globals f u) false (accSize f) && (tagHits u (globals f u)).isEmpty },
   { i := .stx f, holds := globalGood (globals f u) false (accSize f) && !(tagHits u (globals f u)).isEmpty
       && allPresent s (tagHits u (globals f u)) (accSize f),
     eff := storesTo s u f ((tagHits u (globals f u)).map (fun p => (p.1, u.blk.pos, p.2.2))) },
   { i := .cvtsc f, holds := !ls.isEmpty && dValid e && !queueFull s u 1 && !dRs e, regs := [f.d.toNat],
     eff := fun t => addOp t u
       { newOp s u f ls (.queued (queuedWs f.d.toNat 0 (cvtscRows f s u)) (queuedCause .fmtIll (cvtscRows f s u))) []
         with stream := 1 } },
   { i := .cvtsc f, holds := !ls.isEmpty && dValid e && !queueFull s u 1 && dRs e && globalGood (cvtscAddrs f s u) true 1,
     regs := [f.d.toNat],
     eff := fun t => addAccOp t u (newOp s u f ls
       (.cvtsc f (dScale e) (ls.map (fun l => (l, BitVec.ofNat 32 (valA u.cord f 0 l))))
         (ls.map (fun l => (l, (u.cord.lane l).reg f.d.toNat))))
       ((cvtscAddrs f s u).map (fun x => newAcc u x.1 x.2 4 [] []))) }]

/-- The instructions that do nothing, but for moving on, where no strand takes part (R49; R174 and R261 say so of their
chapters, R77 and R105 of CVTSC and of who takes part). -/
def idleTable (f : LForm) : List Instr :=
  [.ld f, .st f, .pref f, .ldc f, .stc f, .ldx f, .stx f, .cvtsc f, .phase f, .fenceX f, .fenceP f, .atom f, .red f,
   .cas f, .atomr f, .cqpop f, .tst f, .retract f, .tcommit f, .tdset f, .tdget f, .tdinv f, .lookup f, .tagset f,
   .tagclr f, .pres f, .boinit f, .boarrive f, .bowait f, .kick f, .gse f, .coll f, .mzero f, .maccld f, .mma f, .mmas f,
   .mdrain f]

/-- PHASE, FENCE.X and FENCE.P as they issue (R232 to R234, R271 to R273): what has to hold parks its strands, and sends
nothing before what comes before it is performed (log 109). -/
def fenceCases (f : LForm) (s : State) (u : Issue) : List Case :=
  let ls := participants u f
  let sc := f.mod.toNat
  let core := u.blk.core
  let park (cut : Nat) (t : State) : State :=
    modCord t u.b u.c (parkLanes u (flagOf u f.setf f.fsel) u.cord.retired.toNat ls (.hold cut false))
  let count (t : State) : State := if 2 ≤ sc then countPhase t core else t
  let quiet := strandsQuiet (viewCord s u.b u.cord) ls (fun o => o.seq < cutOf s core && (o.stream == sc || o.stream == f.mod2.toNat))
  [{ i := .phase f, holds := !ls.isEmpty && sc < 3,
     eff := fun t => passBoundary (count t) u.b u.c core sc (f.mod2 != 1) ls },
   { i := .phase f, holds := !ls.isEmpty && 3 ≤ sc,
     eff := fun t => park (cutOf (count t) core) (count t) },
   { i := .fenceX f, holds := !ls.isEmpty && quiet },
   { i := .fenceX f, holds := !ls.isEmpty && !quiet, eff := park (cutOf s core) },
   { i := .fenceP f, holds := !ls.isEmpty,
     eff := fun t => park (cutOf t core) t }]

/-! ### Atomics -/

/-- ATOM, RED and CAS as they issue (R274 to R277): in a stream, or ordered, which is a boundary before and after the
step and, where it releases, publishes what its core had issued once what comes before it is performed (log 109). -/
def atomicCase (i : Instr) (f : LForm) (s : State) (u : Issue) (regs : List Nat) (kind : OpKind) (accs : List Acc) : Case :=
  let ls := participants u f
  let n := if f.mod2.toNat < 8 then 0 else f.mod.toNat
  let core := u.blk.core
  let begun (t : State) : State := if n = 0 then t else countPhase t core
  { i := i, holds := globalGood (globals f u) true (stepSize f) && !ls.isEmpty && !stagingFull s u ls.length, regs := regs,
    eff := fun t =>
      let t := begun t
      let t := addAccOp t u { newOp t u f ls kind (if n = 0 then accs else accs.map (fun a => { a with epoch := a.epoch + 1 }))
        with
        stream := if f.mod2.toNat < 8 then f.mod.toNat else 0, released := !detMode t u.b,
        rel := if n ≠ 0 ∧ (n ≤ 5 ∨ 11 ≤ n) then some (cutOf t core) else none }
      if n = 0 then t else coreBoundary (modCord t u.b u.c (fun c => boundary ls (boundary ls c))) core }

/-- The atomics, delegated atomics and tentative stores as they issue (R226, R227, R274 to R284, R306, R350). -/
def atomicCases (f : LForm) (s : State) (u : Issue) : List Case :=
  let ls := participants u f
  let core := u.blk.core
  let eas := globals f u
  let det (t : State) : Bool := detMode t u.b
  let plain := eas.map (fun e => newAcc u e.1 e.2 4 [] [])
  let ready (align : Nat) : Bool := globalGood eas true align && !ls.isEmpty && !stagingFull s u ls.length
  [atomicCase (.atom f) f s u (stepSpan f) (.atom f) (stepAccs f u eas),
   atomicCase (.red f) f s u [] (.red f) (stepAccs f u eas),
   atomicCase (.cas f) f s u (stepSpan f) (.cas f) (casAccs f u eas),
   { i := .atomr f, holds := ready (stepSize f) && ls.length ≤ 256 && ls.length ≤ (coreOf s core).credits,
     eff := fun t =>
       let t := modCore (unrelaunch t (braidOf t u.b)) core (fun k => { k with credits := k.credits - ls.length })
       settleAll (addAccOp t u { newOp t u f ls (.atomr f) (atomrAccs f u eas) with
         stream := f.mod.toNat, released := !det t }) u.b },
   { i := .cqpop f, holds := !ls.isEmpty, regs := [f.d.toNat, f.d.toNat + 1, f.d.toNat + 2],
     eff := fun t =>
       if det t || inReplay t u.b then settleAll (addOp t u (newOp t u f ls (.cqpop f) [])) u.b
       else
         let r := takeReplies t u.b u.c core f u.cord.retired.toNat ls
         addOp r.2 u { newOp t u f ls (.queued r.1 none) [] with stream := 2 } },
   { i := .tst f, holds := ready (stepSize f),
     eff := fun t => addAccOp t u { newOp t u f ls (.tst f) (stepAccs f u eas) with
       stream := f.mod.toNat, released := !det t } },
   { i := .retract f,
     holds := ready 4 && targetsGood s u (targetsOf f u (fun _ => u.pc + (f.lit.getD 0).signExtend 64)),
     eff := fun t =>
       let t := addAccOp t u { newOp t u f ls (.retract f) plain with stream := f.mod.toNat, released := !det t }
       modCord t u.b u.c (fun c => parkLanes u none 0 ls (.op (c.nextOp - 1)) c) },
   { i := .tcommit f, holds := ready 4,
     eff := fun t => addAccOp t u { newOp t u f ls (.tcommit f) plain with stream := f.mod.toNat, released := !det t } }]

/-- What a step writes at a word of a type that holds x, its operand being y (Table 13-6). -/
def stepWord (op ty : Nat) (x y : Word) : Word :=
  match op with
  | 0 => x + y
  | 1 => if ty = 1 then (if x.toInt ≤ y.toInt then x else y) else if x.toNat ≤ y.toNat then x else y
  | 2 => if ty = 1 then (if x.toInt ≤ y.toInt then y else x) else if x.toNat ≤ y.toNat then y else x
  | 3 => x &&& y
  | 4 => x ||| y
  | 5 => x ^^^ y
  | _ => y

end Sys2Proof.Claims

section
open Sys2Proof Sys2Proof.Machine Sys2Proof.Claims

/-- Where a store goes, and what else it leaves. At issue ST, STC and STX write no byte of memory, and outside
deterministic mode no byte of a window and no unpublished byte of a core: the device performs them later (R207, R236).
Performing one writes no memory, of the windows only the bytes that its accesses name, and of the core's own bytes, where
the ticket unit stages nothing of its braid, only those; where a release has begun since it issued, the line goes home with it (R217). -/
def Obligations.StoreFrames : Prop :=
  (∀ (f : LForm) (s t : State) (u : Issue), ∀ i ∈ [Instr.st f, .stc f, .stx f],
    issueOf s i.length = some u → exec i s = .next t →
      (∀ a, memGet t.mem a = memGet s.mem a)
      ∧ (∀ k, k ≠ u.blk.core → ∀ a, ownByte (coreOf t k) a = ownByte (coreOf s k) a)
      ∧ (detMode s u.b = false →
        (∀ j : Nat, (t.blocks[j]?).map Block.window = (s.blocks[j]?).map Block.window)
        ∧ ∀ a, ownByte (coreOf t u.blk.core) a = ownByte (coreOf s u.blk.core) a))
  ∧ ∀ (s : State) (b c core n : Nat) (o : Op), opIn s b c n = some o →
      (∀ a, memGet (performStore s b c core n).mem a = memGet s.mem a)
      ∧ (∀ j a : Nat, (∀ e ∈ o.accs, ∀ k, k < e.data.length → onWindow o.kind = true →
            ¬(mateAt s b ((e.va + k) / 2 ^ 24) = some j ∧ (e.va + k) % 2 ^ 24 = a)) →
          ((performStore s b c core n).blocks[j]?).map (fun x => memGet x.window a)
            = (s.blocks[j]?).map (fun x => memGet x.window a))
      ∧ (inTicketUnit s b = false → ∀ a, (∀ e ∈ o.accs, ¬(e.pa ≤ a ∧ a < e.pa + e.data.length)
            ∧ ((coreOf s core).relCut ≤ o.seq ∨ ∀ k, k < e.data.length → (e.pa + k) / 256 ≠ a / 256)) →
          ownByte (coreOf (performStore s b c core n) core) a = ownByte (coreOf s core) a)

/-- What an access that stores nothing leaves at issue: every byte of memory and of every window, and every register,
scalar, predicate and mask of its cord but those that LDX writes: in its participants the registers of its destination and
pH. ATOMR, CQPOP, PRES and TDGET leave memory and the registers alone too, but for the destination of PRES; of the windows
ATOMR and CQPOP write no byte outside deterministic mode, where they let no waiting store go, PRES none, and TDGET only
the 64 bytes of its image. -/
def Obligations.AccessFrames : Prop :=
  (∀ (f : LForm) (s t : State) (u : Issue),
    ∀ i ∈ [Instr.ld f, .pref f, .ldc f, .ldx f, .cvtsc f, .atom f, .red f, .cas f, .tst f, .retract f, .tcommit f,
      .phase f, .fenceX f, .fenceP f, .tdset f, .tdinv f, .tagset f, .tagclr f, .kick f, .gse f, .coll f, .mzero f,
      .maccld f, .mma f, .mmas f, .mdrain f],
    issueOf s i.length = some u → exec i s = .next t →
      (∀ a, memGet t.mem a = memGet s.mem a)
      ∧ (∀ j : Nat, (t.blocks[j]?).map Block.window = (s.blocks[j]?).map Block.window)
      ∧ ∃ y, cordOf t u.b u.c = some y ∧ y.s = u.cord.s ∧ y.k = u.cord.k ∧ y.fpflags = u.cord.fpflags
        ∧ y.trapctl = u.cord.trapctl
        ∧ (∀ l, (i ≠ .ldx f ∨ l ∉ participants u f) →
            (y.lane l).v = (u.cord.lane l).v ∧ (y.lane l).p = (u.cord.lane l).p)
        ∧ ∀ l, (∀ r, r ∉ destSpan f → (y.lane l).reg r = (u.cord.lane l).reg r)
            ∧ ∀ n, n ≠ f.b.toNat → (y.lane l).pred n = (u.cord.lane l).pred n)
  ∧ ∀ (f : LForm) (s t : State) (u : Issue), ∀ i ∈ [Instr.atomr f, .cqpop f, .pres f, .tdget f],
    issueOf s i.length = some u → exec i s = .next t →
      (∀ a, memGet t.mem a = memGet s.mem a)
      ∧ (∀ j a : Nat, (i ∈ [Instr.atomr f, .cqpop f] → detMode s u.b = false) →
          ¬(i = .tdget f ∧ j = u.b ∧ scalA u f.a ≤ a ∧ a < scalA u f.a + 64) →
          (t.blocks[j]?).map (fun x => memGet x.window a) = (s.blocks[j]?).map (fun x => memGet x.window a))
      ∧ ∃ y, cordOf t u.b u.c = some y ∧ y.k = u.cord.k ∧ y.fpflags = u.cord.fpflags ∧ y.trapctl = u.cord.trapctl
        ∧ (∀ r, (i ≠ .pres f ∨ f.asc = false ∨ r ≠ f.d.toNat) → y.scal r = u.cord.scal r)
        ∧ ∀ l, (y.lane l).p = (u.cord.lane l).p
          ∧ ∀ r, (i ≠ .pres f ∨ f.asc = true ∨ r ≠ f.d.toNat) → (y.lane l).reg r = (u.cord.lane l).reg r

/-- An instruction of these families in which no strand takes part only moves on (R49, R174, R261; R77 for CVTSC, which
first waits for room in its queue, R78). -/
def Obligations.NoParticipants : Prop :=
  ∀ (f : LForm) (s : State) (u : Issue), ∀ i ∈ idleTable f, (i = .cvtsc f → queueFull s u 1 = false) →
    Issues i s u [] [] → participants u f = [] → exec i s = .next (moved s u [] [])

/-- LD, ST, LDC, STC, LDX, STX, PREF and CVTSC as they issue (R103, R265 to R270). PHASE, FENCE.X and FENCE.P as they
issue (R232 to R234, R271 to R273); that a wide PHASE and FENCE.P send nothing yet is the model's way to the order of
R230 (log 109). -/
def Obligations.AccessesIssue : Prop :=
  (∀ (f : LForm) (s : State) (u : Issue), ∀ e ∈ accessCases f s u, e.Completes s u)
  ∧ (∀ (f : LForm) (s : State) (u : Issue), ∀ e ∈ fenceCases f s u, e.Completes s u)

/-- ATOM, RED, CAS, ATOMR, CQPOP, TST, RETRACT and TCOMMIT as they issue (R226, R227, R274 to R284). What a step
leaves at its word (R276, R277, Table 13-6): the integer operations on 32-bit words; CAS writes its new value where
the word holds the expected one and nothing elsewhere; ATOM and CAS return the former word, RED none. -/
def Obligations.AtomicsIssue : Prop :=
  (∀ (f : LForm) (s : State) (u : Issue), ∀ e ∈ atomicCases f s u, e.Completes s u)
  ∧ (∀ (f : LForm) (a : Acc) (x y : Word), leNat a.data = y.toNat →
      (∀ k ∈ [OpKind.atom f, .red f], f.mod2.toNat % 8 ≠ 7 → f.ty ∈ [0, 1, 2] → (f.ty = 0 → 3 ≤ f.mod2.toNat % 8) →
        stepNew k a x.toNat = some (stepWord (f.mod2.toNat % 8) f.ty.toNat x y).toNat)
      ∧ (x ≠ y → stepNew (.cas f) a x.toNat = none)
      ∧ (x = y → stepNew (.cas f) a x.toNat = some (leNat a.data2))
      ∧ stepWs (.red f) a.lane x.toNat = []
      ∧ (wideTy f.ty = false → stepWs (.atom f) a.lane x.toNat = [.v a.lane f.d.toNat x]
        ∧ stepWs (.cas f) a.lane x.toNat = [.v a.lane f.d.toNat x]))

end

namespace Sys2Proof.Claims
open Sys2Proof Sys2Proof.Machine

/-! ### Descriptors, tags, barrier objects, requests, arrays -/

/-- An aligned object of a block's own window that the elected strand may access now (R158, R175, R235). -/
def ownGood (s : State) (u : Issue) (f : LForm) (off align size : Nat) : Bool :=
  bits off 31 20 == 0 && off % align == 0 && inWindow u.blk off size && !(participants u f).isEmpty
    && present s u.b off size
    && !winBlocked s u f 0 (((participants u f).take 1).map (fun l => newAcc u l (packPos u.blk.pos off) size [] []))

/-- The context of a block neither records nor replays (R310, R311). -/
def unlogged (s : State) (b : Nat) : Bool :=
  match gridOfBlock s b with
  | some g => ctxLog (ctxOf s g.part g.ctx) == 0
  | none => true

/-- The slots that PRES reads: of the participants, or in scalar form of the elected strand (R183). -/
def presSlots (f : LForm) (u : Issue) : List (Nat × Nat) :=
  (if f.asc then (participants u f).take 1 else participants u f).map (fun l => (l, regVal u.cord l f.asc false f.a.toNat))

/-- The writes of PRES where neither a log nor a replay is on. -/
def presWrites (f : LForm) (u : Issue) : List RegW :=
  (presSlots f u).map (fun e =>
    let x : Word := if e.2 = 0xFFFFFFFF then 0 else if u.blk.presence.getD e.2 0 = 0 then 1 else 0
    if f.asc then .s f.d.toNat x else .v e.1 f.d.toNat x)

/-- Descriptor, tag and object instructions (R146, R156, R165, R166, R178 to R183, R185, R186). -/
def scratchCases (f : LForm) (s : State) (u : Issue) : List Case :=
  let ls := participants u f
  let off := scalA u f.a
  let e := BitVec.ofNat 512 (leNat (winRead s u.b off 64))
  let d := blockDesc s u.b (tdId u f)
  let va := regVal u.cord 0 true true f.b.toNat
  let modTags (t : State) (g : List TagSlot → List TagSlot) : State := modBlock t u.b (fun x => { x with tags := g x.tags })
  let slot (l : Nat) (scalar : Bool) : Word :=
    match slotMatch u.blk (regVal u.cord l scalar true f.a.toNat) with
    | some n => BitVec.ofNat 32 n
    | none => 0xFFFFFFFF
  let clear (n : Nat) (ts : List TagSlot) : List TagSlot := ts.modify n (fun y => { y with valid := false })
  [{ i := .tdset f, holds := ownGood s u f off 64 64 && !cordStores u off 64 && (if dValid e then dAccepted e else dReservedOk e),
     eff := fun t => setDesc t u.b (tdId u f) e },
   { i := .tdget f, holds := ownGood s u f off 64 64,
     eff := fun t => winWrite t u.b off (leBytes 64 d.toNat) [] },
   { i := .tdinv f, holds := !ls.isEmpty,
     eff := fun t => setDesc t u.b (tdId u f) (d &&& ~~~(BitVec.twoPow 512 7)) },
   { writes (.lookup f) u [.s f.d.toNat (slot 0 true)] with holds := !ls.isEmpty && f.asc },
   { writes (.lookup f) u (ls.map (fun l => .v l f.d.toNat (slot l false))) with holds := !ls.isEmpty && !f.asc },
   { i := .tagset f, holds := !ls.isEmpty && off < u.blk.lines && va < 2 ^ 57,
     eff := fun t => modBlock t u.b (fun x =>
       { x with tags := (match slotMatch x va with
           | some n => clear n x.tags
           | none => x.tags).set off { valid := true, tag := BitVec.ofNat 49 (bits va 56 8) } }) },
   { i := .tagclr f, holds := !ls.isEmpty && f.mod == 1,
     eff := fun t => modTags t (fun ts => ts.map (fun y => { y with valid := false })) },
   { i := .tagclr f, holds := !ls.isEmpty && f.mod != 1 && off < u.blk.lines, eff := fun t => modTags t (clear off) },
   { i := .pres f, holds := !ls.isEmpty && (presSlots f u).all (fun x => x.2 == 0xFFFFFFFF || x.2 < u.blk.lines)
       && unlogged s u.b
       && !(detMode s u.b && (presSlots f u).any (fun x => x.2 != 0xFFFFFFFF && u.blk.presence.getD x.2 0 != 0)),
     regs := if f.asc then [] else [f.d.toNat], eff := fun t => modCord t u.b u.c (writeRegs (presWrites f u)) },
   { i := .boinit f, holds := ownGood s u f off 16 16,
     eff := fun t => winWrite t u.b off (leBytes 4 (match f.lit with
         | some w => w.toNat
         | none => scalA u f.b) ++ leBytes 4 (if f.mod = 1 then scalA u f.c else 0) ++ leBytes 4 0) [] },
   { i := .boarrive f, holds := ownGood s u f off 16 16, eff := fun t => objectUpdate t u.b off 0 1 0 },
   { i := .bowait f, holds := ownGood s u f off 16 16 && (winRead s u.b off 8).all (fun x => x == 0),
     eff := fun t => bowaitReturn t u f off },
   { i := .bowait f, holds := ownGood s u f off 16 16 && !(winRead s u.b off 8).all (fun x => x == 0),
     eff := fun t => modCord t u.b u.c
       (parkLanes u (flagOf u f.setf f.fsel) u.cord.retired.toNat u.lanes (.bowait off)) }]

/-- KICK, GSE and COLL as they hand over a request (R163, R177, R184, R193, R194, R197). -/
def requestCases (f : LForm) (s : State) (u : Issue) : List Case :=
  let ls := participants u f
  let off := scalA u f.a
  let ready (e : Engine) (slots : Nat) : Bool := ownGood s u f off 32 32 && decide (engineLoad s u.blk.core e < slots)
  [{ i := .kick f, holds := ready .copy 32, eff := fun t => handOver t u f .copy (ls.headD 0) off },
   { i := .gse f, holds := ready .gse 16, eff := fun t => handOver t u f .gse (ls.headD 0) off },
   { i := .coll f, holds := ready .coll 8,
     eff := fun t => handOver (unrelaunch t (braidOf t u.b)) u f .coll (ls.headD 0) off }]

/-- The follower's core that an array instruction takes in (R167): none where it is not paired. -/
def folOf (s : State) (u : Issue) (paired : Bool) : Option Nat := if paired then followerOf s u else none

/-- The role checks of Table 9-5 pass. -/
def roleGood (s : State) (u : Issue) (paired : Bool) : Bool :=
  !slaved s u.blk.core && (!paired || (!isFollower u.blk.core && (followerOf s u).isSome))

/-- MZERO, MACCLD, MMA, MMAS and MDRAIN as they enter their array's queue (R167 to R170, R187 to R192). -/
def arrayCases (f : LForm) (s : State) (u : Issue) : List Case :=
  let ls := participants u f
  let leads := !isFollower u.blk.core
  let x := padOpnd u f.a
  let halves (p : Bool) : Nat := if (folOf s u p).isSome then 2 else 1
  let enters (paired : Bool) : Bool := !ls.isEmpty && roleGood s u paired && arrayRoom s u (folOf s u paired)
  let mm (i : Instr) (kind : ArrKind) (paired : Bool) : Case :=
    let w := scalA u f.c
    let xb := padOpnd u f.b
    let da := blockDesc s u.b (bits w 9 0)
    let db := blockDesc s u.b (bits w 25 16)
    let em := fmtEmulated (dFmt da)
    { i := i,
      holds := !ls.isEmpty && roleGood s u paired && (if em then followerIdle s (folOf s u paired) else arrayRoom s u (folOf s u paired))
        && bits w 15 10 == 0 && bits w 31 26 == 0 && !(f.asc && opndBad x) && !(f.bsc && opndBad xb)
        && dValid da && dValid db && fmtPairOk (dFmt da) (dFmt db)
        && (!f.asc || rowsFit s u.b x 64 (opndRows (halves paired) 32)) && (!f.bsc || rowsFit s u.b xb 64 (opndRows (halves paired) 64)),
      eff := fun t => queueArr t u { newArr t u f kind (folOf s u paired) with
        a := x, b := xb, aDesc := da, bDesc := db, emulated := em,
        aRegs := if f.asc then none else some (regOpnd u ls f.a (32 * halves paired)),
        bRegs := if f.bsc then none else some (regOpnd u ls f.b 64) } }
  let drain : Case :=
    let paired := !f.mod2.getLsbD 3 && leads
    let reg := f.mod2.getLsbD 2
    let res := f.mod.toNat % 4 != 0
    let band := f.mod2.toNat % 4
    let y := padOpnd u f.d
    let rows := drainRows u.blk.width (halves paired) reg band
    let lines := if reg then [] else rowLines s u.b y (tileRow f.ty.toNat) rows
    { i := .mdrain f,
      holds := enters paired && (reg || !opndBad y) && !(res && opndBad x)
        && !(f.mod.getLsbD 2 && bits (scalA u f.b) 31 24 != 0)
        && (!reg || band < (32 * halves paired + u.blk.width - 1) / u.blk.width)
        && (reg || rowsFit s u.b y (tileRow f.ty.toNat) rows) && (!res || rowsFit s u.b x (resRow f.mod.toNat) rows),
      regs := if reg then (List.range (tileRow f.ty.toNat / 4)).map (fun w => f.d.toNat + w) else [],
      eff := fun t =>
        let o : ArrOp := { newArr t u f .mdrain (folOf s u paired) with
          dst := if reg then f.d.toNat else y, a := x, drop := scalA u f.b }
        if reg then queueDrain t u f o
        else queueArr t u (if canRaise t lines then { o with lines := lines } else { o with due := lines }) }
  let one := f.mod2 != 8 && leads
  [{ i := .mzero f, holds := enters one, eff := fun t => queueArr t u (newArr t u f .mzero (folOf s u one)) },
   { i := .maccld f,
     holds := enters one && !opndBad x && rowsFit s u.b x (tileRow f.ty.toNat) (opndRows (halves one) 32),
     eff := fun t => queueArr t u { newArr t u f .maccld (folOf s u one) with a := x } },
   mm (.mma f) .mma true, mm (.mmas f) .mmas false, drain]

/-- What the checks of Table 9-5 find in an array instruction: whether it is a paired one, whether an operand's field is
bad, a descriptor id that is invalid, whether the formats break R148, and whether an operand row passes its window. -/
structure ArrayCheck where
  i : Instr
  paired : Bool
  field : Bool := false
  invalid : Option Nat := none
  formats : Bool := false
  outside : Bool := false

/-- The array instructions with what the checks of Table 9-5 find (R169 to R171, R187 to R191). -/
def arrayChecks (f : LForm) (s : State) (u : Issue) : List ArrayCheck :=
  let leads := !isFollower u.blk.core
  let x := padOpnd u f.a
  let xb := padOpnd u f.b
  let y := padOpnd u f.d
  let halves (p : Bool) : Nat := if (folOf s u p).isSome then 2 else 1
  let w := scalA u f.c
  let da := blockDesc s u.b (bits w 9 0)
  let db := blockDesc s u.b (bits w 25 16)
  let mm (i : Instr) (p : Bool) : ArrayCheck :=
    { i := i, paired := p,
      field := bits w 15 10 != 0 || bits w 31 26 != 0 || (f.asc && opndBad x) || (f.bsc && opndBad xb),
      invalid := if dValid da = false then some (bits w 9 0) else if dValid db = false then some (bits w 25 16) else none,
      formats := !fmtPairOk (dFmt da) (dFmt db),
      outside := (f.asc && !rowsFit s u.b x 64 (opndRows (halves p) 32))
        || (f.bsc && !rowsFit s u.b xb 64 (opndRows (halves p) 64)) }
  let one := f.mod2 != 8 && leads
  let all := !f.mod2.getLsbD 3 && leads
  let reg := f.mod2.getLsbD 2
  let res := f.mod.toNat % 4 != 0
  let rows := drainRows u.blk.width (halves all) reg (f.mod2.toNat % 4)
  [{ i := .mzero f, paired := one },
   { i := .maccld f, paired := one, field := opndBad x,
     outside := !rowsFit s u.b x (tileRow f.ty.toNat) (opndRows (halves one) 32) },
   mm (.mma f) true, mm (.mmas f) false,
   { i := .mdrain f, paired := all,
     field := (!reg && opndBad y) || (res && opndBad x) || (f.mod.getLsbD 2 && bits (scalA u f.b) 31 24 != 0)
       || (reg && decide ((32 * halves all + u.blk.width - 1) / u.blk.width ≤ f.mod2.toNat % 4)),
     outside := (!reg && !rowsFit s u.b y (tileRow f.ty.toNat) rows) || (res && !rowsFit s u.b x (resRow f.mod.toNat) rows) }]

end Sys2Proof.Claims

section
open Sys2Proof Sys2Proof.Machine Sys2Proof.Claims

/-- TDSET, TDGET, TDINV, LOOKUP, TAGSET, TAGCLR, PRES, BOINIT, BOARRIVE and BOWAIT (R146, R156, R165, R166, R178 to R186). -/
def Obligations.ScratchInstructions : Prop :=
  ∀ (f : LForm) (s : State) (u : Issue), ∀ e ∈ scratchCases f s u, e.Completes s u

/-- KICK, GSE and COLL hand their request over (R163, R177, R184, R193, R194, R197): it is the last of its engine's core,
its flag is busy, the cord holds the read of its 32 bytes, an access of the vector path in stream 0, until the engine
reads them, it takes the descriptor table as it stands (R147), and of the core's arrays, credits and memory nothing
changes. Where its bytes name a format that firmware emulates the cord is suspended and leaves its active slot, and in no
other case (R152). -/
def Obligations.RequestsHandOver : Prop :=
  ∀ (f : LForm) (s : State) (u : Issue),
    (∀ e ∈ requestCases f s u, e.Completes s u)
    ∧ ∀ (e : Engine) (l off : Nat), ∃ r, (coreOf (handOver s u f e l off) u.blk.core).requests
        = (coreOf s u.blk.core).requests ++ [r]
      ∧ r.engine = e ∧ r.off = off ∧ r.lane = l ∧ r.accepted = false ∧ r.finished = false
      ∧ r.flag = flagOf u f.setf f.fsel ∧ r.table = blockTable s u.b
      ∧ r.emulated = requestEmulated (blockTable s u.b) e (leNat (winRead s u.b off 32))
      ∧ (coreOf (handOver s u f e l off) u.blk.core).array = (coreOf s u.blk.core).array
      ∧ (coreOf (handOver s u f e l off) u.blk.core).credits = (coreOf s u.blk.core).credits
      ∧ (∀ c, cordOf s u.b u.c = some c → ∃ c' o, cordOf (handOver s u f e l off) u.b u.c = some c'
          ∧ (r.emulated = true → .emulation ∈ c'.suspend ∧ c'.active = none)
          ∧ (r.emulated = false → c'.suspend = c.suspend ∧ c'.active = c.active)
          ∧ c'.ops = c.ops ++ [o] ∧ o.kind = .request ∧ o.id = r.op ∧ o.flag = none
          ∧ o.accs.map (fun a => (a.lane, a.va, a.size)) = [(l, packPos u.blk.pos off, 32)])
      ∧ ∀ a, memGet (handOver s u f e l off).mem a = memGet s.mem a

/-- The checks of Table 13-2 in their order. Global accesses: an address at or above 2^57, then one that is not
aligned, traps in the strands concerned with the address of the lowest (LDX and STX check no canonical form). LDC and
STC: bits 31..26 of the base, then alignment, then the range of the window. No access is made in any of these cases.
The checks of R175 on a local offset, in their order: bits 31..20 and the alignment, then the range of the window; the
elected strand traps, and nothing is accessed. -/
def Obligations.AddressChecks : Prop :=
  (∀ (f : LForm) (s : State) (u : Issue),
      (∀ e ∈ globalTable f, Reaches e.1 s u →
        let far := (globals f u).filter (fun x => decide (2 ^ 57 ≤ x.2))
        let odd := (globals f u).filter (fun x => x.2 % e.2.2 != 0)
        (e.2.1 = true → far ≠ [] →
          exec e.1 s = .next (trapAt s u .addrCanon (far.map Prod.fst) 0 ((far.map Prod.snd).headD 0)))
        ∧ ((e.2.1 = true → far = []) → odd ≠ [] →
          exec e.1 s = .next (trapAt s u .alignFault (odd.map Prod.fst) 0 ((odd.map Prod.snd).headD 0))))
      ∧ ∀ i ∈ [Instr.ldc f, .stc f], Reaches i s u →
        let ls := participants u f
        let field := ls.filter (fun l => bits (baseLocal u f l) 31 26 != 0)
        let odd := ls.filter (fun l => offLocal u f l % accSize f != 0)
        let out := ls.filter (fun l => (placeOfLocal s u f l).isNone)
        (field ≠ [] → exec i s = .next (trapAt s u .opndField field 0 0))
        ∧ (field = [] → odd ≠ [] → exec i s = .next (trapAt s u .alignFault odd 0 0))
        ∧ (field = [] → odd = [] → out ≠ [] → exec i s = .next (trapAt s u .scratchRange out 0 0)))
  ∧ (∀ (f : LForm) (s : State) (u : Issue), participants u f ≠ [] →
      ∀ e ∈ [(Instr.tdset f, 64), (.tdget f, 64), (.boinit f, 16), (.boarrive f, 16), (.bowait f, 16), (.kick f, 32),
          (.gse f, 32), (.coll f, 32)],
        Reaches e.1 s u →
        let off := scalA u f.a
        ((bits off 31 20 ≠ 0 ∨ off % e.2 ≠ 0) → exec e.1 s = .next (trapAt s u .opndField ((participants u f).take 1) 0 0))
        ∧ (bits off 31 20 = 0 → off % e.2 = 0 → 256 * u.blk.lines < off + e.2 →
          exec e.1 s = .next (trapAt s u .scratchRange ((participants u f).take 1) 0 0)))

/-- MZERO, MACCLD, MMA, MMAS and MDRAIN (R167 to R170, R187 to R192): where the role checks and those of their operands
pass and the queues have room they enter the queue. Else the first check of Table 9-5 that fails traps in the elected
strand: a follower's array that its leader slaves; a paired one, as MZERO, MACCLD and MDRAIN without `.one` on a leader are,
on a follower or where the braid holds no block at the follower's position; a field of an operand or of the descriptor word;
an invalid descriptor, with its id; formats that break R148; a row that passes its window. That each half of a paired MMA
reads its own rows of B from the scratchpad is the model's reading of R169 and R190 (log 112). -/
def Obligations.ArrayInstructions : Prop :=
  ∀ (f : LForm) (s : State) (u : Issue),
    (∀ e ∈ arrayCases f s u, e.Completes s u)
    ∧ ∀ e ∈ arrayChecks f s u, participants u f ≠ [] → Reaches e.i s u →
      let traps (k : Cause) (detail : Nat) : Prop := exec e.i s = .next (trapAt s u k ((participants u f).take 1) detail 0)
      (slaved s u.blk.core = true → traps .arrayBusy 0)
      ∧ (slaved s u.blk.core = false → e.paired = true → (isFollower u.blk.core = true ∨ followerOf s u = none) →
        traps .arrayRole 0)
      ∧ (roleGood s u e.paired = true →
        (e.field = true → traps .opndField 0)
        ∧ (∀ id, e.field = false → e.invalid = some id → traps .descInvalid id)
        ∧ (e.field = false → e.invalid = none → e.formats = true → traps .fmtPair 0)
        ∧ (e.field = false → e.invalid = none → e.formats = false → e.outside = true → traps .scratchRange 0))

end

namespace Sys2Proof.Claims
open Sys2Proof Sys2Proof.Machine

/-! ### Steps of the device -/

/-- No context records an order log (R310). -/
def NoLog (s : State) : Prop := ∀ p k, ctxLog (ctxOf s p k) ≠ 1

/-- The bytes that leave a core's snapshot before an operation that bypasses it (R208, R281): its word, or the whole
doubleword where its braid may take a cell. -/
def bypassed (s : State) (b : Nat) (a : Acc) : Nat × Nat :=
  if relaunchable s (braidOf s b) then (dwOf a.pa, 8) else (a.pa, a.size)

/-- The accesses of the device forwarded to a word as one group, with their source keys. -/
def sentTo (s : State) (pa g : Nat) : List (Nat × Member) :=
  (allOps s).flatMap (fun e => e.2.2.accs.zipIdx.filterMap (fun x =>
    if x.1.pa == pa && x.1.st == .sent g then
      some (sourceKey s e.1 e.2.1 x.1.lane, { b := e.1, c := e.2.1, o := e.2.2.id, i := x.2 })
    else none))

/-- Some accesses of an operation in order, each as the operation then stands. -/
def inTurn (s : State) (b c o : Nat) (is : List Nat) (k : State → Op → Nat → State) : State :=
  is.foldl (fun s i => match opIn s b c o with
    | some p => k s p i
    | none => s) s

end Sys2Proof.Claims

section
open Sys2Proof Sys2Proof.Machine Sys2Proof.Claims

/-- A read at its home or in its core's snapshot (R207, R266): a ready access that nothing holds back writes its
registers with the bytes the core sees, and is done (it waits only where its line would be the 1,025th of L1); a
scratchpad access reads its window. A byte that the access has read on its own stays what it was, and so does one that was
noted before a cell came to live at its doubleword (log 111, the model's choice). A loaded byte or halfword is extended as
its type says (Table 13-4). -/
def Obligations.LoadsRead : Prop :=
  ∀ (s : State) (b c core : Nat) (o : Op) (i : Nat) (a : Acc) (ws : Nat → List Byte → List RegW),
    o.accs[i]? = some a → a.st = .ready → blocked s b c o a = false →
    let got := readRest core b a 0 a.size s
    (onWindow o.kind = false → reachOf s b a.pa a.size true = .home → got.2.1 = false → l1Room s core a.pa a.size = true →
      loadOne s b c core o i ws = modCord got.2.2 b c (fun x =>
        modOp (writeOp x o (ws a.lane got.1)) o.id (fun p => setAcc p i .done)))
    ∧ (a.got = [] → a.early = [] → got = coreReads core b a.pa a.size s)
    ∧ (∀ k x, tabGet a.got k = some x → k < a.size → got.1[k]? = some x.1)
    ∧ (∀ x, tabGet a.got 0 = none → tabGet a.early 0 = some x → underCell s core b a.pa = true → 0 < a.size →
      got.1[0]? = some x.1)
    ∧ (onWindow o.kind = true → a.got = [] → ∀ j, mateAt s b (a.va / 2 ^ 24) = some j → present s j (a.va % 2 ^ 24) a.size = true →
      winPoison s j (a.va % 2 ^ 24) a.size = false →
      loadOne s b c core o i ws = modCord s b c (fun x =>
        modOp (writeOp x o (ws a.lane (winRead s j (a.va % 2 ^ 24) a.size))) o.id (fun p => setAcc p i .done)))
    ∧ (∀ (f : LForm) (x : Byte), f.mod2.toNat % 4 = 1 →
      loadWords f [x] = [if f.ty = 1 then (x.signExtend 32).toNat else x.toNat])
    ∧ ∀ (f : LForm) (x y : Byte), f.mod2.toNat % 4 = 2 →
      loadWords f [x, y] = [if f.ty = 1 then ((y ++ x).signExtend 32).toNat else (y ++ x).toNat]

/-- A step at its home (R208, R221, R276, R277): the core's own bytes of the word go first (of its doubleword, where the
braid may take a cell), the word then holds what the operation makes of it, no other byte changes, and ATOM and CAS
bring the former word to D. -/
def Obligations.StepsAtHome : Prop :=
  ∀ (merged : Bool) (s : State) (b c core : Nat) (o : Op) (i : Nat) (a : Acc),
    Safety.MemOk s → NoLog s → o.accs[i]? = some a →
    let w := bypassed s b a
    let s0 := bypassL1 s core w.1 w.2
    let old := leNat (memRead s0.mem a.pa a.size)
    let t := performStep merged s b c core o i
    (∀ y, stepNew o.kind a old = some y → memRead t.mem a.pa a.size = leBytes a.size y)
    ∧ (stepNew o.kind a old = none → memRead t.mem a.pa a.size = memRead s0.mem a.pa a.size)
    ∧ (∀ ad, ad < a.pa ∨ a.pa + a.size ≤ ad → memGet t.mem ad = memGet s0.mem ad)
    ∧ (∀ ad, ad < w.1 ∨ w.1 + w.2 ≤ ad → memGet s0.mem ad = memGet s.mem ad)
    ∧ ∀ x, cordOf s b c = some x → ∃ y, cordOf t b c = some y
      ∧ ∀ l r, (y.lane l).reg r = ((writeOp x o (stepWs o.kind a.lane old)).lane l).reg r

/-- The steps of outstanding operations (R221 to R228, R266, R281 to R284, R338): LOAD_DATA_RETURN, ATOMIC_STEP,
TST_STEP, TST_CELL_WAIT_TIMEOUT, ROUTER_MERGE_WINDOW, TENTATIVE_STORE_ARRIVAL. A group's members step in the order of
their source keys. Delegated atomics (R226 to R228): a command is performed at its owner and keeps the value and
status it answers; one to host memory is written to its owner's queue; the reply joins the completion queue, or
returns its credit where its cord has ended; over a port in recovery it waits, and over one that is lost it comes with
STATUS 2 (R379). -/
def Obligations.OperationSteps : Prop :=
  (∀ (s : State) (b c o pa : Nat) (x : Block) (op : Op), s.blocks[b]? = some x → opIn s b c o = some op →
      (∀ f, op.kind = .load f ∨ op.kind = .loadC f → exec (.loadDataReturn b c o) s = .next
        (settle (finishOp (eachAcc s b c o (fun s op i => loadOne s b c x.core op i (loadWs f))) b c o) b))
      ∧ (∀ f, op.kind = .pref f → exec (.loadDataReturn b c o) s = .next
        (settle (finishOp (eachAcc s b c o (fun s op i => prefOne f s b c x.core op i)) b c o) b))
      ∧ (∀ f e src old, op.kind = .cvtsc f e src old → exec (.loadDataReturn b c o) s = .next
        (settle (cvtscReady (eachAcc s b c o (fun s op i => scaleOne s b c x.core op i)) b c o) b))
      ∧ (∀ f, op.kind ∈ [.atom f, .cas f, .red f] → groupReady s b c x.core op pa = true →
        (∀ g, ((accsAt op pa).head?.bind (fun i => (op.accs[i]?).map Acc.st)) = some (.sent g) →
          exec (.atomicStep b c o pa) s = .next (settleAll (runMembers s (groupMembers s pa g)) b))
        ∧ ((accsAt op pa).head?.bind (fun i => (op.accs[i]?).map Acc.st) = some .ready →
          exec (.atomicStep b c o pa) s = .next (settleAll (runGroup s b c o pa) b)))
      ∧ (∀ f, op.kind = .retract f → runGoes s b c x.core op (accsAtDw op (dwOf pa)) = true →
        exec (.atomicStep b c o pa) s = .next (settleAll (finishOp
          (inTurn s b c o (accsAtDw op (dwOf pa)) (fun s p i => retractStep s b c x.core p i)) b c o) b))
      ∧ (∀ f, op.kind = .tcommit f → runGoes s b c x.core op (accsAtDw op (dwOf pa)) = true →
        exec (.atomicStep b c o pa) s = .next (settleAll (finishOp
          (inTurn s b c o (accsAtDw op (dwOf pa)) (fun s p i => tcommitStep s b c x.core p i)) b c o) b))
      ∧ (∀ f, op.kind = .tst f →
        (runGoes s b c x.core op (accsAtDw op pa) = true →
          exec (.tstStep b c o pa) s = .next (settleAll (finishTst
            (inTurn s b c o (accsAtDw op pa) (fun s p i => tstOne f s b c x.core p i)) b c o) b))
        ∧ exec (.tstCellWaitTimeout b c o pa) s = .next (settleAll (finishTst
          (inTurn s b c o (accsAtDw op pa) (fun s p i =>
            if (p.accs[i]?.map Acc.st) = some (.sent 0) then tstWaited s b c x.core p i f else s)) b c o) b))
      ∧ (∀ f, op.kind = .store f true → hasTicket s b = true → exec (.tentativeStoreArrival b c o pa) s = .next
        (settleAll (finishOp (inTurn s b c o (accsAtDw op pa) (fun s p i =>
          if tentativeReady s b c p i then tentativeOne s b c x.core p i else s)) b c o) b))
      ∧ (∀ g, ∃ l : List (Nat × Member), l.Perm (sentTo s pa g) ∧ l.Pairwise (fun x y => x.1 ≤ y.1) ∧ groupMembers s pa g = l.map Prod.snd)
      ∧ (mergeKey op.kind ≠ none → placeOf pa = .homed → detMode s b = false → inReplay s b = false →
        mergeable s b pa op (b, c, op) = true →
        ∃ met : List (Nat × Nat × Op), exec (.routerMergeWindow b c o pa) s = .next (met.foldl (fun t e => sendGroup t e.1 e.2.1 e.2.2.id pa (s.free + 1))
            (sendGroup { s with free := s.free + 1 } b c o pa (s.free + 1)))
          ∧ (∀ e ∈ met, mergeable s b pa op e = true ∧ ¬(e.1 = b ∧ e.2.1 = c ∧ e.2.2.id = o))
          ∧ (accsAt op pa).length + (met.map (fun e => (accsAt e.2.2 pa).length)).sum ≤ max 64 (accsAt op pa).length))
  ∧ (∀ (s : State) (core n : Nat) (d : Delegated),
      ((coreOf s core).commands.find? (fun e => e.n == n && !e.perf) = some d →
        commandWaits s core d = false →
        (commandReplay s core d = .diverge → exec (.delegatedAtomicPerform core n) s
          = .next (settleAll (diverged s d.block 0) d.block))
        ∧ ∀ used, commandReplay s core d = .go used →
          let r := serveCommand (meetEntry s d.block used) core d
          exec (.delegatedAtomicPerform core n) s = .next (settleAll
            (commandDone (modCore r.after core (fun k => { k with commands := k.commands.map (fun e =>
              if e.n = n then { e with perf := true, value := r.value, status := r.status, poison := r.poison }
              else e) })) d) d.block))
      ∧ (placeOf d.pa = .homed → NoLog s → Safety.MemOk s →
          let size := if d.ty = 4 ∨ d.ty = 5 then 8 else 4
          let old := leNat (memRead (bypassL1 s core d.pa size).mem d.pa size)
          (serveCommand s core d).value = BitVec.ofNat 64 old ∧ (serveCommand s core d).status = 0
          ∧ (d.op ≠ 7 → memRead (serveCommand s core d).after.mem d.pa size
              = leBytes size (newWord d.op d.ty old d.val.toNat))
          ∧ (d.op = 7 → memRead (serveCommand s core d).after.mem d.pa size
              = if old = d.cmp.toNat % 2 ^ (8 * size) then leBytes size d.val.toNat
                else memRead (bypassL1 s core d.pa size).mem d.pa size))
      ∧ (placeOf d.pa = .host → (serveCommand s core d).after.out = s.out ++ [.command d.pa d.op d.ty d.val d.cmp d.tag]
          ∧ (hostServes d.op d.ty = false → (serveCommand s core d).status = 3 ∧ (serveCommand s core d).value = 0))
      ∧ ((∀ i, placeOf d.pa = .peer i → reachPeer s i (d.pa % 2 ^ 44) = .reject 8 → (arrived s d).status = 2)
        ∧ (placeOf d.pa = .homed ∨ placeOf d.pa = .host → arrived s d = d))
      ∧ ((coreOf s core).commands.find? (fun e => e.n == n && e.perf) = some d →
        (overRecovery s d = true → exec (.cqReplyArrival core n) s = .next s)
        ∧ (overRecovery s d = false → replyDropped s d = true → exec (.cqReplyArrival core n) s = .next (settleAll
          (modCore s core (fun k => { k with commands := k.commands.filter (fun e => e.n != d.n), credits := k.credits + 1 }))
          d.block))
        ∧ (overRecovery s d = false → replyDropped s d = false → let r := arrived s d
          exec (.cqReplyArrival core n) s = .next (settleAll
          (modCore s core (fun k => { k with
            commands := k.commands.filter (fun e => e.n != d.n),
            cq := k.cq ++ [{ block := d.block, cord := d.cord, n := d.seq * 64 + d.lane, value := r.value, tag := d.tag,
                             status := r.status, slot := d.slot, poison := r.poison }] }))
          d.block))))

/-- What the homes and snapshots do (R206, R207, R234; STORE_ARRIVAL_AT_HOME, L1_WRITEBACK, L1_LINE_EVICTION): published bytes arrive and stand in memory, where no other byte
changes; a write back sends a line's unpublished bytes to their home; an eviction drops its clean bytes too. -/
def Obligations.HomesAndSnapshots : Prop :=
  ∀ (s : State) (core n line : Nat),
    (∀ o, (coreOf s core).outbound.find? (fun e => e.n == n) = some o → outboundBehind (coreOf s core) o = false →
      Safety.MemOk s → (o.bytes.map Prod.fst).Nodup →
      ∃ t, exec (.storeArrivalAtHome core n) s = .next t
        ∧ (∀ x ∈ o.bytes, memGet t.mem x.1 = x.2)
        ∧ (∀ a, a ∉ o.bytes.map Prod.fst → memGet t.mem a = memGet s.mem a)
        ∧ (coreOf t core).outbound = (coreOf s core).outbound.filter (fun e => e.n != n)
        ∧ t.blocks = s.blocks)
    ∧ (∃ t, exec (.l1Writeback core line) s = .next t ∧ t.mem = s.mem ∧ t.blocks = s.blocks
      ∧ (((coreOf s core).dirty.map Prod.fst).Nodup → ∀ e ∈ (coreOf s core).dirty, e.1 / 256 = line →
          inTicketUnit s e.2.block = false →
          tabGet (coreOf t core).dirty e.1 = none
          ∧ ∃ o ∈ (coreOf t core).outbound, o.block = e.2.block ∧ (e.1, e.2.byte) ∈ o.bytes))
    ∧ (∃ t, exec (.l1LineEviction core line) s = .next t ∧ t.mem = s.mem ∧ t.blocks = s.blocks
      ∧ ∀ a, a / 256 = line → tabGet (coreOf t core).clean a = none)

/-- Translation and its faults (R209 to R220, R357, R358, R374 to R377): HOST_SUBMIT, PAGE_WALK, FAULT_SERVICE,
FAULT_REJECT, FAULT_REPORT_WRITE, TLB_INVALIDATE and CONTEXT_SLOT_WRITE. That a changed context slot drops its cached
translations is the model's reading (log 94, DEDUCED). What a walk reads at a level (R209, R210, R211, Table 11-4): an
entry that is not present is fault 0, one with a reserved bit set fault 3; a leaf without the right is fault 1 for a
write and 2 for a fetch, else it gives its page. -/
def Obligations.TranslationSteps : Prop :=
  (∀ (s : State),
      (∀ part ctx (v : DWord),
        ((ctxOf s part ctx).life = .absent → exec (.hostSubmit part ctx v) s = .next (refuseSubmit s part ctx 3))
        ∧ ((ctxOf s part ctx).life ≠ .absent → (v.toNat % 128 ≠ 0 ∨ 2 ^ 57 ≤ v.toNat) →
          exec (.hostSubmit part ctx v) s = .next (refuseSubmit s part ctx 2))
        ∧ ((ctxOf s part ctx).life ≠ .absent → v.toNat % 128 = 0 → v.toNat < 2 ^ 57 → exec (.hostSubmit part ctx v) s
          = .next (goSubmit (modPart s part (fun p => { p with submits := p.submits ++ [(ctx, v.toNat)] })) part ctx v.toNat)))
      ∧ (∀ w q, (dieOf s (dieOfCore (srcCore s w))).walks.find? (fun e => e.src == w) = some q →
        let s0 := dropWalk s (srcCore s w) q
        (srcLive s0 w = true → ∀ ea base size pa e, walkOf s0 w = .page ea base size pa e →
          exec (.pageWalk w) s = .next (resumeSubmit (afterWalk (walkFound s0 w ea base size pa e) w none) w))
        ∧ (srcLive s0 w = true → ∀ k, walkOf s0 w = .fault k → exec (.pageWalk w) s = .next (walkFault s0 q k)))
      ∧ (∀ die i e, tabGet (dieOf s die).faults i = some e → e.state = 0 →
        (srcLive s e.src = true → ∀ ea base size pa x, walkOf s e.src = .page ea base size pa x →
          exec (.faultService die i) s
            = .next (resumeSubmit (afterWalk (freeFault (walkFound s e.src ea base size pa x) die i) e.src (some i)) e.src))
        ∧ (srcLive s e.src = true → ∀ k, walkOf s e.src = .fault k → exec (.faultService die i) s
            = .next (modDie s die (fun d => { d with
                faults := tabPut d.faults i { e with cause := k, base := (faultPage s e.src).1, size := (faultPage s e.src).2 }
                reports := d.reports ++ [(i, e.ctx, e.va / 2 ^ 16 % 2 ^ 41)] })))
        ∧ (∀ b c va x, e.src = .fetch b c va → cordOf s b c = some x → exec (.faultReject die i) s = .next
            (takeTrap (dropFetches (freeFault s die i) e.core b c) b c .fetchFault (BitVec.ofNat 64 e.pc) (x.retBefore (BitVec.ofNat 64 e.pc)) (lanesOf e.smask) e.cause 0))
        ∧ (∀ b c o va, e.src = .op b c o va → exec (.faultReject die i) s = .next (rejectOp (freeFault s die i) b c o i e))
        ∧ ((dieOf (freeFault s die i) die).faults = tabDel (dieOf s die).faults i
          ∧ (dieOf (freeFault s die i) die).waiting = []
          ∧ ∀ w ∈ (dieOf s die).waiting, w ∈ (dieOf (freeFault s die i) die).walks))
      ∧ exec .faultReportWrite s = .next ((List.range 4).foldl writeReport s)
      ∧ (∀ die i slot vpage rest, (dieOf s die).reports = (i, slot, vpage) :: rest →
          (dieOf s die).fqProd - (dieOf s die).fqCons < 2 ^ (dieOf s die).fqSize →
          writeReport s die = send (modDie
            (foreignWrite s ((dieOf s die).fqBase + 8 * ((dieOf s die).fqProd % 2 ^ (dieOf s die).fqSize))
              (leBytes 8 (i + slot * 2 ^ 16 + vpage * 2 ^ 23)))
            die (fun d => { d with reports := rest, fqProd := d.fqProd + 1 })) (.signal die))
      ∧ (∃ t, exec .tlbInvalidate s = .next t ∧ t.mem = s.mem
        ∧ ∀ d, (dieOf t d).invCmd ≠ 1 ∧ ∀ e ∈ (dieOf t d).tlb, e ∈ (dieOf s d).tlb ∧
            ((dieOf s d).invCmd = 1 → ¬(e.slot = (dieOf s d).invCtx ∧ ((dieOf s d).invLen = 0 ∧ e.base < 2 ^ 57 ∧ 0 < e.base + e.size
              ∨ (dieOf s d).invLen ≠ 0 ∧ e.base < (dieOf s d).invVa + 65536 * (dieOf s d).invLen
                ∧ (dieOf s d).invVa < e.base + e.size))))
      ∧ (∀ die k (d0 d1 : DWord), k < 128 →
        residentOn s die (((tabGet (dieOf s die).slots k).getD {}).part) (((tabGet (dieOf s die).slots k).getD {}).ctx) = false →
        ∃ t, exec (.contextSlotWrite die k d0 d1) s = .next t
          ∧ tabGet (dieOf t die).slots k = some
              { valid := d0.getLsbD 0, root := d0.toNat / 4096 % 2 ^ 40 * 4096, part := d1.toNat / 64 % 8, ctx := d1.toNat % 64 }
          ∧ (∀ j, j ≠ k → tabGet (dieOf t die).slots j = tabGet (dieOf s die).slots j)
          ∧ ∀ e ∈ (dieOf t die).tlb, e ∈ (dieOf s die).tlb
            ∧ (tabGet (dieOf t die).slots k ≠ some ((tabGet (dieOf s die).slots k).getD {}) → e.slot ≠ k)))
  ∧ (∀ (m : Mem) (va sh w table : Nat) (n : Need) (leafOk : Bool) (below : List (Nat × Nat × Bool)),
      let ea := table + 8 * (va / 2 ^ sh % 2 ^ w)
      let e := leNat (memRead m ea 8)
      (e.testBit 0 = false → walkFrom m va n ((sh, w, leafOk) :: below) table = .fault 0)
      ∧ (e.testBit 0 = true → (e.testBit 7 = true ∨ e.testBit 2 = true ∨ 2 ^ 52 ≤ e) →
          walkFrom m va n ((sh, w, leafOk) :: below) table = .fault 3)
      ∧ (e.testBit 0 = true → e.testBit 7 = false → e.testBit 2 = false → e < 2 ^ 52 → e.testBit 1 = true →
          leafOk = true → e / 256 * 256 % 2 ^ sh = 0 →
          (n = .write → e.testBit 3 = false → walkFrom m va n ((sh, w, leafOk) :: below) table = .fault 1)
          ∧ (n = .fetch → e.testBit 4 = false → walkFrom m va n ((sh, w, leafOk) :: below) table = .fault 2)
          ∧ (n = .read ∨ (n = .write ∧ e.testBit 3 = true) ∨ (n = .fetch ∧ e.testBit 4 = true) →
              walkFrom m va n ((sh, w, leafOk) :: below) table
                = .page ea (va / 2 ^ sh * 2 ^ sh) (2 ^ sh) (e / 256 * 256) e)))

end

namespace Sys2Proof.Claims
open Sys2Proof Sys2Proof.Machine

/-! ### Engines, arrays, grids, contexts -/

/-- A request that a check stops: firmware has nothing to carry out (R152, R164). -/
def native (r : Request) : Request := { r with emulated := false }

/-- The destination lines of a gather (R157, R197). -/
def gseLines (s : State) (r : Request) : List (Nat × Nat × Nat) :=
  match sideOf (r.field 127 64) with
  | some l => if r.field 211 208 = 0 then lineBytes s r.block l (gseElt r * r.gcount) else []
  | none => []

/-- The destination lines of a collective (R157, R195). -/
def collLines (s : State) (r : Request) : List (Nat × Nat × Nat) :=
  match sideOf (r.field 127 64) with
  | some d => lineBytes s r.block d (eltsLen (collDst r) (collWrites r (reqComm s r).length ((reqRank s r).getD 0)))
  | none => []

/-- Lines that may take one more count (R157). -/
def room (s : State) (ls : List (Nat × Nat × Nat)) : Bool := canRaise s (ls.map (fun e => (e.1, e.2.1)))

/-- The number in some bytes of a run. -/
def numAt (bs : List Byte) (off n : Nat) : Nat := leNat ((bs.drop off).take n)

/-- A run of bytes with the next multiple of 256 reached by zeros. -/
def Padded (bs part : List Byte) : Prop :=
  bs.take part.length = part ∧ bs.length % 256 = 0 ∧ bs.length < part.length + 256 ∧ ∀ x ∈ bs.drop part.length, x = 0

/-- The dump of a context (R354, Table 17-12): the header's fields, then the control words, the pending
fault-buffer entries, the images of the cords that have not ended and the descriptor table, each padded to a multiple of 256
bytes, and what Config holds of the state that the spec does not lay out. -/
def DumpOf (s : State) (part ctx time status cause pc : Nat) (bs : List Byte) : Prop :=
  let images := ctxImages s part ctx
  let entries := ctxEntries s part ctx
  ∃ head control faults cords desc rest,
    bs = head ++ control ++ faults ++ cords ++ desc ++ rest
    ∧ head.length = 256 ∧ (∀ x ∈ head.drop 64, x = 0)
    ∧ numAt bs 0 4 = 1 ∧ numAt bs 4 4 = cause ∧ numAt bs 8 8 = pc % 2 ^ 57 ∧ numAt bs 16 2 = ctx ∧ numAt bs 18 2 = status
    ∧ numAt bs 20 2 = entries.length % 2 ^ 16 ∧ numAt bs 22 2 = images.length % 2 ^ 16
    ∧ numAt bs 24 8 = time % 2 ^ 64 ∧ numAt bs 32 8 = bs.length % 2 ^ 64
    ∧ (bs.length < 2 ^ 64 → numAt bs 40 8 = (ctxOf s part ctx).logPos % 2 ^ 64)
    ∧ Padded control (leBytes 16 (ctxOf s part ctx).control.toNat)
    ∧ Padded faults entries.flatten ∧ Padded cords images.flatten ∧ Padded desc (descBytes (ctxOf s part ctx))

/-- A unit of a copy, counted over all its rows, that has not been delivered (R162). -/
def undelivered (q : Request) (u : Nat) : Prop := ∀ e ∈ q.moved, ¬(e.1 ≤ u ∧ u < e.1 + e.2)

end Sys2Proof.Claims

section
open Sys2Proof Sys2Proof.Machine Sys2Proof.Claims

/-- The engines accept (R147, R163, R193, R195, R197, Tables 8-4 and 9-9): the oldest request, once its line is present
and its read is not held back, is read and checked, with the descriptor entries that it names as they stood at its issue;
poison in it kills the braid (R348); one that a check
refuses fails with its code, and one that passes is taken with its destination lines raised; a copy of no bytes is over.
A collective of a member of its communicator takes the next count there (R194). -/
def Obligations.RequestsAccepted : Prop :=
  ∀ (s : State) (core : Nat) (q : Request),
    ((readRequest s q).image = leNat (winRead s q.block q.off 32)
      ∧ (readRequest s q).da = tableDesc q.table (descIds q.engine (readRequest s q).image).1
      ∧ (readRequest s q).db = tableDesc q.table (descIds q.engine (readRequest s q).image).2)
    ∧ (∀ e i, (e = .copy ∧ i = Instr.copyRequestAccept core ∨ e = .gse ∧ i = Instr.gseRequestAccept core
        ∨ e = .coll ∧ i = Instr.collRequestAccept core) → nextRequest s core e = some q → requestDue s q = true →
      winPoison s q.block q.off 32 = true → exec i s = .next (killBraid s q.block))
    ∧ (winPoison s q.block q.off 32 = false →
    (nextRequest s core .copy = some q → requestDue s q = true →
      let r := readRequest s q
      (copyCheck s r ≠ 0 → exec (.copyRequestAccept core) s = .next
        (failReq (takeRequest s core (native r) []) core (native r) (copyTotal r) (copyCheck s r)))
      ∧ (copyCheck s r = 0 → room s (copyLines s r) = true →
        exec (.copyRequestAccept core) s = .next (if copyTotal r = 0
          then finishReq (takeRequest s core r (copyLines s r)) core r else takeRequest s core r (copyLines s r))))
    ∧ (nextRequest s core .gse = some q → requestDue s q = true →
      let r := readRequest s q
      (gseCheck s r ≠ 0 → exec (.gseRequestAccept core) s = .next
        (failReq (takeRequest (gseTotal s r).2 core (native r) []) core (native r) (gseTotal s r).1 (gseCheck s r)))
      ∧ (gseCheck s r = 0 → room s (gseLines s r) = true →
        exec (.gseRequestAccept core) s = .next (takeRequest s core r (gseLines s r))))
    ∧ (nextRequest s core .coll = some q → requestDue s q = true →
      let k := countColl s (readRequest s q)
      let r : Request := { readRequest s q with ordinal := k.1 }
      let reads := collReads r (reqComm s r).length ((reqRank s r).getD 0)
      (collCheck s r ≠ 0 → exec (.collRequestAccept core) s = .next
        (failReq (takeRequest (collTotal k.2 r).2 core (native r) []) core (native r) (collTotal k.2 r).1 (collCheck s r)))
      ∧ (collCheck s r = 0 → room s (collLines s r) = true →
        exec (.collRequestAccept core) s = .next (if reads = 0 then reqObject (takeRequest k.2 core r (collLines s r)) r 0 1 0
          else takeRequest k.2 core r (collLines s r)))))
      ∧ ∀ x ms k, s.blocks[q.block]? = some x → tabGet x.colls (q.field 199 192) = some k → reqRank s q = ms →
        (ms = none → countColl s q = (0, s))
        ∧ (ms ≠ none → countColl s q = (k, modBlock s q.block (fun y =>
          { y with colls := tabPut y.colls (q.field 199 192) (k + 1) })))

/-- That a run that is delivered at once has at most 64 units is the model's own bound (log 3), and that
FIRMWARE_EMULATION carries out its whole request in one step its choice (log 95).
The engines work (R152, R162, R163, R194 to R198; COPY_DELIVERY, GSE_ELEMENT_MOVE, COLLECTIVE_PERFORM,
FIRMWARE_EMULATION): while a unit of a copy has not been delivered, a run of such units
of one row is moved; an element of a gather or scatter moves once; a rank of a collective reads its source, the ranks
whose values are all known are combined, and a rank writes its result; and firmware carries on what the formats of R152
need. -/
def Obligations.EnginesWork : Prop :=
  ∀ (s : State) (core n : Nat) (q : Request), reqOf s core n = some q → q.accepted = true → q.finished = false →
    (q.engine = .copy → (∃ u, u < copyUnits q * q.rows ∧ undelivered q u) → ∃ row i k, row < q.rows ∧ 0 < k ∧ k ≤ 64
      ∧ i + k ≤ copyUnits q ∧ (∀ j, j < k → undelivered q (row * copyUnits q + i + j))
      ∧ exec (.copyDelivery core n) s = .next (moveRun { s with free := s.free + 1 } core q row i k))
    ∧ (∀ k, q.engine = .gse → k < q.gcount → tabGet q.moved k = none →
      exec (.gseElementMove core n k) s = .next (gseMove s core q k))
    ∧ (∀ w, q.engine = .coll →
      (∀ res, q.result = some res → exec (.collectivePerform core n w) s = .next (writeResult s core q res.1 res.2))
      ∧ (q.result = none → reqRank s q = none → exec (.collectivePerform core n w) s = .next (failColl s core q 6))
      ∧ (∀ rank, q.result = none → reqRank s q = some rank →
        let v : CollWorld := { w with vals := w.vals.filter (fun x => ((reqComm s q)[x.1]?.map (peerHeard s)).getD true) }
        (collError s q (collLocal s q) v ≠ 0 → exec (.collectivePerform core n w) s
          = .next (failRanks s q (collLocal s q) (reqComm s q).length (collError s q (collLocal s q) v)))
        ∧ (collError s q (collLocal s q) v = 0 → q.source = none → exec (.collectivePerform core n w) s
          = .next (readSource s core q (reqComm s q).length rank))
        ∧ (collError s q (collLocal s q) v = 0 → q.source.isSome = true →
          collWhole (collLocal s q) v (reqComm s q).length = true → exec (.collectivePerform core n w) s
          = .next (combineRanks s (collLocal s q) v (reqComm s q).length))))
    ∧ (∀ b c x, s.blocks[b]? = some x → x.core = core → q.n = n → q.emulated = true → q.block = b → q.cord = c →
      (coreOf s core).requests.find? (fun r => r.n == n && r.emulated && r.accepted && (r.block == b && r.cord == c)) = some q →
      exec (.firmwareEmulation b c n) s = .next (resumeRequest (emulateRest s core q) core n))

/-- The arrays work (R148, R149, R171, R189 to R192; ARRAY_ZERO_LOAD_PERFORM, ARRAY_MMA_PERFORM, ARRAY_DRAIN_PERFORM,
FIRMWARE_EMULATION): the operation at the head of the queue is performed once its lines
are present; MZERO leaves +0 and clean bits in the arrays it uses; MACCLD widens or copies its rows; a drain raises its lines
first where they had no room (R157), and clears the sticky bits; the operation has then left its queue. That a drain does
not wait for the counts that the queued drains of its own array raised is the model's reading (log 21, DEDUCED), and so is
that an emulated operation is performed at the head of its array (log 56). -/
def Obligations.ArraysWork : Prop :=
  ∀ (s : State) (core : Nat) (o : ArrOp),
    (headOp s core [.mzero, .maccld] = some o → o.kind = .mzero → ∃ t, exec (.arrayZeroLoadPerform core) s = .next t
      ∧ (∀ k, k = core ∨ o.fol = some k → (coreOf t k).acc = [] ∧ (coreOf t k).apoison = [] ∧ (coreOf t k).asticky = 0)
      ∧ (coreOf t core).array = (coreOf s core).array.filter (fun p => p.n != o.n)
      ∧ t.mem = s.mem ∧ (∀ i : Nat, (t.blocks[i]?).map Block.window = (s.blocks[i]?).map Block.window))
    ∧ (headOp s core [.mzero, .maccld] = some o → o.kind = .maccld →
      linesPresent s [] (rowLines s o.block o.a (tileRow o.ty) (opndRows (halvesOf o.fol) 32)) = true →
      exec (.arrayZeroLoadPerform core) s = .next (poisonKill
        (retireArr (((arrCores core o).zipIdx).foldl (fun t e => modCore t e.1 (loadTile s o e.2)) s) core o) o
        ((opndRows (halvesOf o.fol) 32).any (fun e => padRowPoison s o.block o.a (tileRow o.ty) e.1 e.2))))
    ∧ (headOp s core [.mma, .mmas] = some o → exec (.arrayMmaPerform core) s = .next (performMma s core o))
    ∧ (headOp s core [.mdrain] = some o →
      (o.due = [] → exec (.arrayDrainPerform core) s = .next (performDrain s core o))
      ∧ (o.due ≠ [] → canRaise s o.due = true → exec (.arrayDrainPerform core) s = .next (raiseDue s core o))
      ∧ (o.due ≠ [] → canRaise s o.due = false → exec (.arrayDrainPerform core) s = .next s))
    ∧ (linesPresent s o.lines (if o.mod % 4 = 0 then [] else rowLines s o.block o.a (resRow o.mod)
          (drainRows (((s.blocks[o.block]?).map (fun x => x.width)).getD 64) (halvesOf o.fol) o.reg o.band)) = true →
      linesPresent s (ownRaised (coreOf s core)) o.lines = true →
      (∀ k, k = core ∨ o.fol = some k → (coreOf (performDrain s core o) k).asticky = 0
        ∧ (coreOf (performDrain s core o) k).acc = (coreOf s k).acc)
      ∧ (performDrain s core o).mem = s.mem)
    ∧ ∀ b c x rest, s.blocks[b]? = some x → x.core = core → (coreOf s core).requests = [] → (coreOf s core).array = o :: rest →
      o.emulated = true → o.block = b → o.cord = c → exec (.firmwareEmulation b c o.n) s = .next (performMma s core o)

/-- From a launch record to its completion word (R23, R291 to R297, R302 to R305): LAUNCH_RECORD_ACCEPT,
LAUNCH_WAIT_SATISFIED, BLOCK_PLACEMENT, AVOIDED_PLACEMENT_TIMEOUT, BLOCK_RETIRE, STAGED_STEP_RELEASE, GRID_COMPLETE. A
braid to be placed anew goes before the grid's next blocks, the model's choice (log 113), where its context may relaunch it
(R313), and the ticket unit stands while a context is saved (R315). -/
def Obligations.GridSteps : Prop :=
  ∀ (s : State) (g : Nat) (x : Grid), gridOf s g = some x →
    (∀ part q, headOf s part q = some g → x.stage = .queued →
      (acceptCheck s x ≠ 0 → exec (.launchRecordAccept part q) s = .next (failGrid s g (acceptCheck s x)))
      ∧ (acceptCheck s x = 0 → ∃ t y, exec (.launchRecordAccept part q) s = .next t ∧ gridOf t g = some y
        ∧ y.stage = (if recordWaits x.record = [] then .ready else .accepted)
        ∧ y.order = (ctxOf s x.part x.ctx).accepted + 1 ∧ (ctxOf t x.part x.ctx).accepted = (ctxOf s x.part x.ctx).accepted + 1
        ∧ y.waits.length = (recordWaits x.record).length ∧ y.waits.all (fun b => !b) = true
        ∧ t.mem = s.mem ∧ t.blocks = s.blocks))
    ∧ (∀ k va v w t, x.stage = .accepted → (recordWaits x.record)[k]? = some (va, v) → waitWord s x va = some (w, t) →
      (bit w 63 = true → exec (.launchWaitSatisfied g k) s = .next (failGrid t g 0x0107))
      ∧ (bit w 63 = false → bits w 47 0 < bits v 47 0 → exec (.launchWaitSatisfied g k) s = .next t)
      ∧ (bit w 63 = false → bits v 47 0 ≤ bits w 47 0 → exec (.launchWaitSatisfied g k) s = .next (modGrid t g (fun y =>
          { y with waits := x.waits.set k true,
                   stage := if (x.waits.set k true).all (fun b => b) then .ready else .accepted }))))
    ∧ (∀ i any, (i = Instr.blockPlacement g ∧ any = false ∨ i = Instr.avoidedPlacementTimeout g ∧ any = true) →
      (∀ j cs, pendingBraid x = some j → mayPlace s x true = true → x.over = false → chooseSeat s x any = some cs →
        exec i s = .next (placeBraid s g x j cs))
      ∧ (∀ cs, (pendingBraid x = none ∨ mayPlace s x true = false) → placing s g = true → itsTurn s g x any = true → x.isGbar = false →
        chooseSeat s x any = some cs → exec i s = .next (leaveQueue
          (modGrid (placeBraid (serveQueue s x) g x (x.next / x.braidSize) cs) g (fun y =>
            { y with next := x.next + x.braidSize })) g))
      ∧ (∀ t, (pendingBraid x = none ∨ mayPlace s x true = false) → placing s g = true → itsTurn s g x any = true → x.isGbar = true →
        placeAll g x.blockCount s = some t → exec i s = .next (leaveQueue (serveQueue t x) g)))
    ∧ (∀ core side c slot act since l, l < x.width →
      ((firstCord s x core side c slot act since).lane l).pc = BitVec.ofNat 64 x.entry
      ∧ ((firstCord s x core side c slot act since).lane l).p = 1 ∧ ((firstCord s x core side c slot act since).lane l).ended = false
      ∧ (∀ r, ((firstCord s x core side c slot act since).lane l).reg r = 0)
      ∧ (((firstCord s x core side c slot act since).lane l).present = true ↔ c * x.width + l < x.strandCount))
    ∧ (∀ b y, s.blocks[b]? = some y → y.cords.all (fun c => c.ended) = true → childrenOver s b = true →
      let t := modBlock s b (fun y => { y with retired := true })
      exec (.blockRetire b) s = .next (if braidDone t (y.grid, y.braid) then retireBraid t (y.grid, y.braid) else t))
    ∧ ((ctxOf s x.part x.ctx).life = .saved → exec (.stagedStepRelease g) s = .next s)
    ∧ (∀ i, holder s g x = some i → (ctxBit s x 3 = true ∨ ((tabGet x.braids i).map Braid.kept).getD false = true) →
      (ctxOf s x.part x.ctx).life ≠ .saved → gridTurn 11 s g = true →
      exec (.stagedStepRelease g) s = .next (releaseStep (publishBraid (flushStaged s (g, i)) (g, i)) (g, i)))
    ∧ (x.over = true → exec (.gridComplete g) s = .next (payOwed s g))
    ∧ (gridDone x = true → complScope x < 3 → exec (.gridComplete g) s = .next (endGrid s g x))
    ∧ (gridDone x = true → 3 ≤ complScope x → coresQuiet (x.cores.foldl publishAll s) g x = true →
      exec (.gridComplete g) s = .next (endGrid (x.cores.foldl publishAll s) g x))

/-- The life of a context (R145, R288, R313 to R315, R318 to R320, R354, R356): its control words, creation and
destruction, pre-emption, save (which marks the braids that still stage operations, R315) and restore, and its fatal
errors, whose dump is stated byte for byte. When a context may be destroyed, and that a hang names no PC, is the
model's reading (logs 48 and 58); that the parts of a dump stand one after another, padded to 256 bytes, is its choice
(log 62), and so is the extension of a hang's deadline in samples, to 200,000 at most (log 92). Code objects and
versions (R352, R395, R396): an accepted object stands at addresses that no version holds, its data objects where the
loader may place them (R13); a portable one is translated into a native version first; a version that nothing refers
to is removed once it is superseded; a re-optimised translation becomes a version of its own. The form of a portable
program and its translation are the model's choice (log 107). -/
def Obligations.ContextsAndCode : Prop :=
  (∀ (s : State) (part ctx : Nat),
      let x := ctxOf s part ctx
      let lives (i : Instr) (a b : CtxLife) : Prop :=
        x.life = a → exec i s = .next (modCtx s part ctx (fun y => { y with life := b }))
      (∀ (d0 d1 : DWord), x.life = .saved → controlBad (d1 ++ d0) = false →
        exec (.controlWordsWrite part ctx d0 d1) s = .next (modCtx s part ctx (fun y => { y with control := d1 ++ d0 })))
      ∧ (∀ (d0 d1 : DWord), (x.life ≠ .saved ∨ controlBad (d1 ++ d0) = true) → ∃ t, exec (.controlWordsWrite part ctx d0 d1) s
          = .next t ∧ ∀ p c, ctxOf t p c = ctxOf s p c)
      ∧ (∀ (d0 d1 : DWord) k, part < 8 → ctx < 64 → x.life = .absent ∨ x.life = .reset →
        (diesOf s part).all (slotRoom s part ctx) = true → ∃ t, exec (.contextCreation part ctx d0 d1 k) s = .next t
          ∧ ctxOf t part ctx = { life := .running, control := if controlBad (d1 ++ d0) then 0 else d1 ++ d0, intlk := k, born := s.grids.length }
          ∧ t.mem = s.mem ∧ t.blocks = s.blocks)
      ∧ (x.life = .reset ∨ (hasBlocks s part ctx = false ∧ hasGrids s part ctx = false) →
        ∃ t, exec (.contextDestruction part ctx) s = .next t ∧ (ctxOf t part ctx).life = .absent ∧ t.mem = s.mem)
      ∧ lives (.preemptRequest part ctx) .running .draining
      ∧ (x.life = .draining → hasBlocks s part ctx = false → ∃ t, exec (.contextSave part ctx) s = .next t
        ∧ t = modCtx { s with grids := t.grids } part ctx (fun y => { y with life := .saved })
        ∧ t.grids.length = s.grids.length
        ∧ ∀ i g, s.grids[i]? = some g →
          (¬(g.part = part ∧ g.ctx = ctx ∧ ctxBit s g 3 = true) → t.grids[i]? = some g)
          ∧ (g.part = part → g.ctx = ctx → ctxBit s g 3 = true → ∃ h, t.grids[i]? = some h ∧ h = { g with braids := h.braids }
            ∧ h.braids = g.braids.map (fun r => (r.1, { r.2 with kept := r.2.kept || braidStages s (i, r.1) }))))
      ∧ ((x.life ≠ .draining ∨ hasBlocks s part ctx = true) → exec (.contextSave part ctx) s = .next s)
      ∧ lives (.contextRestore part ctx) .saved .running
      ∧ (x.life = .draining → x.fatal = none → exec (.preemptDeadlineExpiry part ctx) s = .next (forcedReset s part ctx 0x0202))
      ∧ (x.fatal ≠ none → exec (.preemptDeadlineExpiry part ctx) s = .next s)
      ∧ (∀ t status, t = forcedReset s part ctx status → (ctxOf t part ctx).life = .reset ∧ (ctxOf t part ctx).fatal = none)
      ∧ (∀ b c y z, s.blocks[b]? = some y → cordOf s b c = some z → clockStands s b c y z = false →
        hangDue s b z = true →
        let more := Nat.min (announced s b c y.core z) (200000 - z.ext)
        (more = 0 → exec (.hangDeadlineExpiry b c) s = .next (fatal s b 0x0204 0 0))
        ∧ (more ≠ 0 → exec (.hangDeadlineExpiry b c) s = .next (modCord s b c (fun v => { v with ext := v.ext + more }))))
      ∧ (ctxLog x = 2 → x.life ≠ .absent → (logLeft s x).any (fun e => e.1.kind == 1) = true → x.fatal = none →
        exec (.replayForeignTimeout part ctx) s = .next (modCtx s part ctx (fun y => { y with fatal := some (0x0205, 0, 0) })))
      ∧ (∀ status cause pc, x.fatal = some (status, cause, pc) →
        (allSuspended s part ctx = false → exec (.fatalErrorDump part ctx) s = .next s)
        ∧ (allSuspended s part ctx = true → cause < 2 ^ 32 → ctx < 2 ^ 16 → status < 2 ^ 16 → ∃ time bs t, exec (.fatalErrorDump part ctx) s = .next t
          ∧ DumpOf s part ctx time status cause pc bs
          ∧ (partOf t part).reserved = bs ∧ .dump part ctx bs ∈ t.out ∧ (ctxOf t part ctx).life = .reset
          ∧ (ctxOf t part ctx).fatal = none)))
  ∧ (∀ (s : State) (part ctx : Nat),
      (∀ o, (ctxOf s part ctx).life ≠ .absent → objectRefused o = false → o.head.toNat / 2 ^ 64 % 4 = 0 →
        versionAtAny (ctxOf s part ctx) o.base o.len = false → placedWell s part ctx o.data = true →
        exec (.codeObjectLoad part ctx o) s = .next (installObject s part ctx o))
      ∧ (∀ o, (objectRefused o = true ∨ placedWell s part ctx o.data = false
          ∨ (o.head.toNat / 2 ^ 64 % 4 = 0 ∧ versionAtAny (ctxOf s part ctx) o.base o.len = true)) →
        exec (.codeObjectLoad part ctx o) s = .next s)
      ∧ (∀ o p code, (ctxOf s part ctx).life ≠ .absent → objectRefused o = false → o.head.toNat / 2 ^ 64 % 4 = 1 →
        placedWell s part ctx o.data = true → o.portable = some p → portableOk p = true → o.base % 4 = 0 →
        let c := choicesOf p (freeFrom s)
        let v : Version := { base := o.base, len := 4 * (translateCode p c).length, step := Config.stepping, intlk := false,
                             consts := o.kernels, shape := some (translateShape p c) }
        versionAtAny (ctxOf s part ctx) v.base v.len = false → codeBytes s part ctx o.base (translateCode p c) = some code →
        exec (.codeObjectLoad part ctx o) s
          = .next (installWith { s with free := s.free + 1 + p.regions.length } part ctx o v code))
      ∧ (∀ o, objectRefused o = true ↔ ¬(o.head.toNat % 2 ^ 32 = 0x4C444E58 ∧ o.head.toNat / 2 ^ 32 % 2 ^ 16 ≤ 1
          ∧ o.head.toNat / 2 ^ 64 % 4 ≤ 1))
      ∧ (∀ v x, tabGet (ctxOf s part ctx).versions v = some x → x.superseded = true → versionUsed s part ctx v x = false →
        exec (.codeVersionRemove part ctx v) s
          = .next (modCtx s part ctx (fun c => { c with
              versions := c.versions.filter (fun e => e.1 != v)
              removed := (x.next.map (fun e => (x.base, x.len, e))).toList ++ c.removed })))
      ∧ (∀ old base len v, tabGet (ctxOf s part ctx).versions old = some v → v.superseded = false →
        versionAtAny (ctxOf s part ctx) base len = false →
        ∃ t, exec (.reOptimisedTranslationInstall part ctx old base len) s = .next t
          ∧ tabGet (ctxOf t part ctx).versions old = some { v with superseded := true, next := some base }
          ∧ t.mem = s.mem))

end

namespace Sys2Proof.Claims
open Sys2Proof Sys2Proof.Machine

/-! ### The mailbox -/

/-- GO of a command of an opcode and a length is set, and the command is accepted (R363, R364). -/
structure Command (s : State) (op len : Nat) : Prop where
  go : s.mgmt.mbcmd.getLsbD 63 = true
  opIs : bits s.mgmt.mbcmd.toNat 15 0 = op
  lenIs : bits s.mgmt.mbcmd.toNat 47 32 = len
  accepted : signatureStop s = true → alwaysTaken op = true

/-- A mailbox command whose work leaves `t` ends with a RESULT and a response (R363, Tables 18-8 and 18-9): the response
stands in the buffer from offset 0 where RESULT is 0, RLEN is its length, DONE is set and GO cleared. -/
def ends (i : Instr) (s t : State) (result : Nat) (resp : List Byte) : Prop :=
  let n := if result = 0 then resp.length else 0
  exec i s = .next { t with mgmt := { t.mgmt with
    mbbuf := if result = 0 then memWrite t.mgmt.mbbuf 0 resp else t.mgmt.mbbuf
    mbstat := BitVec.ofNat 64 (1 + 256 * result + 2 ^ 32 * n)
    mbcmd := BitVec.ofNat 64 (t.mgmt.mbcmd.toNat % 2 ^ 63) } }

/-- The request that stands in the buffer (R363). -/
def request (s : State) (n : Nat) : List Byte := memRead s.mgmt.mbbuf 0 n

/-- The commands with their opcodes and whether they take a length (Table 18-10). -/
def commandTable : List (Instr × Nat × (State → Nat → Bool)) :=
  [(.version, 0x0001, fun _ n => n == 0), (.fwUpload, 0x0010, fun _ n => 8 ≤ n), (.fwCommit, 0x0011, fun _ n => n == 8),
   (.partSet, 0x0020, fun _ n => n == 48), (.partReset, 0x0021, fun _ n => n == 1), (.devSet, 0x0030, fun _ n => n == 264),
   (.commSet, 0x0040, fun s n => n == 8 + 16 * leNat (memRead s.mgmt.mbbuf 2 2)), (.ringSet, 0x0050, fun _ n => n == 16),
   (.attest, 0x0060, fun _ n => n == 64), (.eventRead, 0x0070, fun _ n => n == 2)]

/-- P_fluid of a die at a critical heat flux q.1 / q.2: PMEAS · 0.8 q / QPEAK, in whole tenths of a watt (R392; log 50). -/
def fluidLimit (q : Nat × Nat) (d : Die) : Nat := 8 * q.1 * d.pmeas / (10 * q.2 * d.qpeak)

/-- The device's state but for one die. -/
structure KeepsButDie (s t : State) (d : Nat) : Prop where
  mem : t.mem = s.mem
  blocks : t.blocks = s.blocks
  cores : t.cores = s.cores
  dies : ∀ e, e ≠ d → dieOf t e = dieOf s e

end Sys2Proof.Claims

section
open Sys2Proof Sys2Proof.Machine Sys2Proof.Claims

/-- What a cord's events do to it (R164, R317, R330, R336 to R340, R343, R347, R348): CORD_SUSPEND, DEBUGGER_RELEASE,
IMPRECISE_FAULT_REPORT, LATE_FAULT_RECORD, UNCOVERED_STORE_REPORT, REGION_COUNT_LIMIT, REGION_END, and TWIN_MISMATCH on a
physical lane on which a pass of a ready strand or its twin runs (R36). A late fault of a cord that has ended fails its grid
(R164). That a suspended cord stays the debugger's until its release, and that a cause of a handler's instruction is fatal
when it is found late, is the model's choice and reading (logs 46 and 59). -/
def Obligations.CordEvents : Prop :=
  ∀ (s : State) (b c : Nat) (blk : Block) (x : Cord), s.blocks[b]? = some blk → cordOf s b c = some x →
    (x.ended = false → resultsIn x = true → ∃ t y, exec (.cordSuspend b c .debugger) s = .next t ∧ cordOf t b c = some y
      ∧ .debugger ∈ y.suspend ∧ y.debugger = true ∧ y.strands = x.strands ∧ y.s = x.s ∧ y.queue = x.queue)
    ∧ (x.ended = false → resultsIn x = false → ∀ why, exec (.cordSuspend b c why) s = .next s)
    ∧ (x.debugger = true → ∃ t y, exec (.debuggerRelease b c) s = .next t ∧ cordOf t b c = some y
      ∧ .debugger ∉ y.suspend ∧ .trap ∉ y.suspend ∧ y.strands = x.strands
      ∧ y.queue = (if x.given = true then x.queue.tail else x.queue) ∧ y.given = false ∧ y.round = x.round)
    ∧ (∀ n r, x.reports[n]? = some r → x.ended = false →
      let t := modCord s b c (fun y => { y with reports := y.reports.eraseIdx n })
      (r.region = true → x.region.isSome = true →
        exec (.impreciseFaultReport b c n) s = .next (modCord t b c (regionCause r)))
      ∧ (r.handler = true → (r.region = false ∨ x.region = none) →
        exec (.impreciseFaultReport b c n) s = .next (fatal t b 0x0201 r.cause.code r.pc.toNat))
      ∧ (r.handler = false → (r.region = false ∨ x.region = none) →
        exec (.impreciseFaultReport b c n) s = .next (queueRec t b c (reportRec r 2 2 x.lastEnd x.lastRet (lowestPc x)))))
    ∧ (∀ n r, x.lates[n]? = some r →
      let t := modCord s b c (fun y => { y with lates := y.lates.eraseIdx n })
      (x.ended = true → exec (.lateFaultRecord b c n) s = .next (modGrid t blk.grid (fun g => { g with
        fail := some (g.fail.getD (r.pc.toNat, blk.index, r.cause.code, r.detail))
        first := if g.first = 0 then 0x0206 else g.first })))
      ∧ (r.handler = false → x.ended = false →
        exec (.lateFaultRecord b c n) s = .next (queueRec t b c (reportRec r 3 0 r.pc r.ret 0)))
      ∧ (r.handler = true → x.ended = false →
        exec (.lateFaultRecord b c n) s = .next (fatal t b 0x0201 r.cause.code r.pc.toNat)))
    ∧ (∀ g, x.region = some g → g.uncov = true → g.told = false → ∃ t y h, exec (.uncoveredStoreReport b c) s = .next t
      ∧ cordOf t b c = some y ∧ y.region = some h ∧ h.told = true ∧ h.ending = some (g.ending.getD .uncovered)
      ∧ y.strands = x.strands)
    ∧ (∀ g, x.region = some g → 256 ≤ g.count → g.ending = none → ∃ t y h, exec (.regionCountLimit b c) s = .next t
      ∧ cordOf t b c = some y ∧ y.region = some h ∧ h.ending = some .limit ∧ y.strands = x.strands)
    ∧ (∀ g e, x.region = some g → g.ending = some e → x.withdrawing = false → regionQuiet (viewCord s b x) = true →
      let t := settle (modCord (closeCells s b c) b c (fun y =>
        keepRegionOps (uncover (endPoint x g e).1 (endPoint x g e).2 (outcome x e) y))) b
      exec (.regionEnd b c) s = .next (match endRecord x e with
        | some r => raiseEnd t b c x e r
        | none => t)
      ∧ ∀ r, (x.handler = false → raiseEnd t b c x e r = queueRec t b c r)
        ∧ (x.handler = true → e = .trap r → r.cause ≠ 0x30 → r.cause ≠ 0x31 →
            raiseEnd t b c x e r = fatal t b 0x0201 r.cause.toNat r.pc.toNat))
    ∧ (∀ g side lane, gridOfBlock s b = some g → ctxBit s g 0 = true → x.ended = false →
      (twinLane s blk x side lane = true ↔ side = blk.side ∧ ∃ l ∈ x.readyLanes, ∃ pass, pass < 2
        ∧ physLane (coreOf s blk.core) side l pass = some lane)
      ∧ (twinLane s blk x side lane = false → ∀ resolved, exec (.twinMismatch b c side lane resolved) s = .next s))
    ∧ (∀ g side lane, gridOfBlock s b = some g → ctxBit s g 0 = true → x.ended = false →
      twinLane s blk x side lane = true →
      exec (.twinMismatch b c side lane false) s = .next (killBraid s b)
      ∧ ∃ t y, exec (.twinMismatch b c side lane true) s = .next t ∧ cordOf t b c = some y
        ∧ y.ncorr = (if x.ncorr = 255 then 255 else x.ncorr + 1) ∧ y.strands = x.strands)

/-- Withdrawal, the slow gear and containment (R340 to R345, R348 to R350): a region whose stores are performed is withdrawn
or, where a cell was observed or missing, abandoned, and left to the kill of its braid where poison was consumed; the slow gear chooses the strand that steps; a braid that is to be
killed is killed. What a withdrawal restores is what the shadow holds, the vector registers that it copied among it, and it
is a boundary of the cord's strands (R233), which drops the clean bytes of its core; that it restores the handler state, the record that TRET took off the queue, and
the CALL references is the model's reading (log 45, DEDUCED); the bytes of a retracted cell come back with their poison. -/
def Obligations.RegionsAndBraids : Prop :=
  ∀ (s : State) (b c : Nat) (blk : Block) (x : Cord), s.blocks[b]? = some blk → cordOf s b c = some x →
    (∀ g r, x.region = some g → g.cause = some r → x.slow = none → resultsIn x = true → storesIn (viewCord s b x) = true →
      (doomed s b = true → exec (.regionWithdrawal b c) s = .next s)
      ∧ (doomed s b = false → unrecoverable s b c g = none → exec (.regionWithdrawal b c) s = .next (withdraw s b c blk.core g r))
      ∧ (∀ n, doomed s b = false → unrecoverable s b c g = some n → exec (.regionWithdrawal b c) s = .next (abandon s b c x g r n)))
    ∧ (∀ g r, ∃ y, cordOf (withdraw s b c blk.core g r) b c = some y ∧ y.s = g.s ∧ y.k = g.k ∧ y.fpflags = g.fp
      ∧ y.handler = g.handler ∧ (g.popped = [] → y.queue = x.queue) ∧ (∀ p, g.popped = [(p, true)] → y.queue = p :: x.queue)
      ∧ y.retired = BitVec.ofNat 64 g.ret ∧ (y.slow.map SlowGear.held) = some r
      ∧ ∀ (l : Nat) (h : Shadow), l < x.strands.length → g.lanes[l]? = some h →
          (y.lane l).pc = h.pc ∧ (y.lane l).p = h.p ∧ (y.lane l).tret = h.tret ∧ (y.lane l).park = h.park
          ∧ (y.lane l).refs = h.refs ∧ ((x.lane l).live = true → (y.lane l).epoch = (x.lane l).epoch + 1)
          ∧ (∀ n vals, (n, vals) ∈ g.vs → (g.vs.map Prod.fst).Nodup → n < (x.lane l).v.length → (y.lane l).reg n = vals.getD l 0)
          ∧ ∀ n, n ∉ g.vs.map Prod.fst → (y.lane l).reg n = (x.lane l).reg n)
    ∧ (∀ g r, let t := withdraw s b c blk.core g r
      (coreOf t blk.core).clean = [] ∧ (coreOf t blk.core).bcut = (coreOf t blk.core).seq
      ∧ (coreOf t blk.core).phase = (coreOf s blk.core).phase + 1)
    ∧ (∀ z, x.slow = some z → slowReady (viewCord s b x) = true → fetchHeld s b c blk.core = false →
      let next := (stepping x).find? (fun l => !z.served.contains l && !z.stopped.contains l && !z.waiting.contains l)
      (∀ l, next = some l → exec (.slowGearStep b c) s = .next (lookAt s b c blk.core l x z))
      ∧ (next = none → exec (.slowGearStep b c) s = .next (modCord s b c (fun y => endRound y z))))
    ∧ (∀ (dw : Nat) (p : Cell → Bool) (k : Cell), Safety.MemOk s → (cellsAt s dw).find? p = some k →
      memRead (retractCell s dw p).mem dw k.former.length = k.former
      ∧ (∀ i ∈ k.fpoison, dw + i ∈ (retractCell s dw p).poison)
      ∧ ∀ a, (a < dw ∨ dw + k.former.length ≤ a) → memGet (retractCell s dw p).mem a = memGet s.mem a)
    ∧ ∀ g i y r, gridOf s g = some y → braidRec s (g, i) = some r → r.toKill = true →
      (r.retired = false → r.pending = false → exec (.braidKill g i) s = .next (killNow s (g, i) y r))
      ∧ (r.retired = true ∨ r.pending = true →
        exec (.braidKill g i) s = .next (modBraid s (g, i) (fun r => { r with toKill := false })))

/-- The mailbox commands (R363 to R371, R398): after a failed signature all but four of them end with RESULT 4; a
command with a wrong length ends with RESULT 2, one with a field out of range with RESULT 3, one that the stage does not
accept with RESULT 4; each of the ten completes, under the conditions stated here on the state alone, with DONE, GO cleared,
RESULT, RLEN and its response in the buffer. The order of the checks is the model's reading (log 63, DEDUCED). -/
def Obligations.MailboxCommands : Prop :=
  ∀ (s : State),
    (∀ e ∈ commandTable, started s e.2.1 = true → signatureStop s = true → alwaysTaken e.2.1 = false → ends e.1 s s 4 [])
    ∧ (∀ e ∈ commandTable, ∀ n, Command s e.2.1 n → (32768 < n ∨ e.2.2 s n = false) → ends e.1 s s 2 [])
    ∧ (Command s 0x0001 0 → ends .version s s 0
      (leBytes 8 Config.firmwareVersion.toNat ++ leBytes 2 Config.stepping ++ leBytes 2 1 ++ leBytes 4 1))
    ∧ (∀ n, Command s 0x0010 n → 8 ≤ n → n ≤ 32768 → let off := leNat ((request s n).take 8)
      off % 8 = 0 → off + (n - 8) ≤ 2 ^ 26 →
      ends .fwUpload s (modMgmt s (fun m => { m with staging := memWrite m.staging off ((request s n).drop 8) })) 0 [])
    ∧ (∀ n, Command s 0x0010 n → 8 ≤ n → n ≤ 32768 → let off := leNat ((request s n).take 8)
      (off % 8 ≠ 0 ∨ 2 ^ 26 < off + (n - 8)) → ends .fwUpload s s 3 [])
    ∧ (Command s 0x0011 8 → (req (request s 8) 0 4 < 520 ∨ 2 ^ 26 < req (request s 8) 0 4 ∨ 3 < req (request s 8) 4 4) →
      ends .fwCommit s s 3 [])
    ∧ (Command s 0x0011 8 → let n := req (request s 8) 0 4
      let i := req (request s 8) 4 4
      520 ≤ n → n ≤ 2 ^ 26 → i ≤ 3 → let image := memRead s.mgmt.staging 0 n
      (Config.signatureOk image = false → ends .fwCommit s (modMgmt s (fun m => { m with staging := [] })) 5 [])
      ∧ (Config.signatureOk image = true → ends .fwCommit s
          (restart (modMgmt s (fun m => { m with images := tabPut m.images i image }))) 0 (digestOf image)))
    ∧ (Command s 0x0020 48 → let r := dwords (request s 48) 6
      let p := bits (recWord r 0) 7 0
      ((recordBad r = true ∨ recordClash s r = true) → ends .partSet s s 3 [])
      ∧ (recordBad r = false → recordClash s r = false → 2 ≤ stageOf s → (partOf s p).running = true → ends .partSet s s 4 [])
      ∧ (recordBad r = false → recordClash s r = false → (stageOf s < 2 ∨ (partOf s p).running = false) →
        ends .partSet s (modMgmt s (fun m => { m with
          configured := tabPut m.configured p r,
          stored := if bit (recWord r 0) 9 then tabPut m.stored p r else m.stored })) 0 []))
    ∧ (Command s 0x0021 1 → stageOf s = 3 → req (request s 1) 0 1 ≤ 7 →
      (resetWaits s (req (request s 1) 0 1) = false → ends .partReset s (partReset s (req (request s 1) 0 1) 0) 0 [])
      ∧ (resetWaits s (req (request s 1) 0 1) = true → exec .partReset s = .next s))
    ∧ (Command s 0x0021 1 → (7 < req (request s 1) 0 1 → ends .partReset s s 3 [])
      ∧ (req (request s 1) 0 1 ≤ 7 → stageOf s ≠ 3 → ends .partReset s s 4 []))
    ∧ (Command s 0x0030 264 → let q := request s 264
      req q 0 1 ≤ 127 → req q 1 7 = 0 → req q (8 + 2 * req q 0 1) 2 = 0 → stageOf s < 2 →
      ends .devSet s (modMgmt s (fun m => { m with
        devid := BitVec.ofNat 64 (req q 0 1),
        masks := (List.range 128).map (fun i => BitVec.ofNat 64 (req q (8 + 2 * i) 2)) })) 0 [])
    ∧ (Command s 0x0030 264 → let q := request s 264
      ((127 < req q 0 1 ∨ req q 1 7 ≠ 0 ∨ req q (8 + 2 * req q 0 1) 2 ≠ 0) → ends .devSet s s 3 [])
      ∧ (req q 0 1 ≤ 127 → req q 1 7 = 0 → req q (8 + 2 * req q 0 1) 2 = 0 → 2 ≤ stageOf s → ends .devSet s s 4 []))
    ∧ (∀ k, Command s 0x0040 (8 + 16 * k) → let q := request s (8 + 16 * k)
      k = req q 2 2 → req q 0 1 ≤ 7 → k ≤ 1024 → req q 4 4 = 0 → (List.range k).all (fun i => !memberBad q i) = true →
      (stageOf s ≠ 3 → ends .commSet s s 4 [])
      ∧ (stageOf s = 3 → ends .commSet s (modPart (restartColls s (req q 0 1) (req q 1 1)) (req q 0 1) (fun x =>
        let cs := if k = 0 then x.comms.filter (fun e => e.1 != req q 1 1)
          else tabPut x.comms (req q 1 1) { image := dwords q (1 + 2 * k), failed := [] }
        { x with comms := cs })) 0 []))
    ∧ (∀ k, Command s 0x0040 (8 + 16 * k) → 8 + 16 * k ≤ 32768 → let q := request s (8 + 16 * k)
      k = req q 2 2 → (7 < req q 0 1 ∨ 1024 < k ∨ req q 4 4 ≠ 0 ∨ (List.range k).any (memberBad q) = true) →
      ends .commSet s s 3 [])
    ∧ (∀ p c (b : Nat) x, s.blocks[b]? = some x → ∃ y, (restartColls s p c).blocks[b]? = some y
      ∧ y = { x with colls := y.colls } ∧ ∀ k, tabGet y.colls k
        = if partOfBlock s b = p ∧ k = c then none else tabGet x.colls k)
    ∧ (Command s 0x0050 16 → let q := request s 16
      req q 0 1 ≤ 7 → req q 1 1 ≤ 15 → req q 2 2 ≤ 63 → req q 4 4 = 0 → req q 8 8 % 64 = 0 → req q 8 8 < 2 ^ 57 →
      (stageOf s ≠ 3 → ends .ringSet s s 4 [])
      ∧ (stageOf s = 3 → ends .ringSet s (modPart s (req q 0 1) (fun x =>
        let rs := if req q 8 8 = 0 then x.rings.filter (fun e => e.1 != req q 1 1)
          else tabPut x.rings (req q 1 1) { ctx := req q 2 2, addr := req q 8 8, prod := 0, seen := false, rung := false, bad := false }
        { x with rings := rs })) 0 []))
    ∧ (Command s 0x0050 16 → let q := request s 16
      (7 < req q 0 1 ∨ 15 < req q 1 1 ∨ 63 < req q 2 2 ∨ req q 4 4 ≠ 0 ∨ req q 8 8 % 64 ≠ 0 ∨ 2 ^ 57 ≤ req q 8 8) →
      ends .ringSet s s 3 [])
    ∧ (Command s 0x0060 64 → 2 ≤ stageOf s → ends .attest s s 0 (reportBody s (request s 64)
      ++ (List.range 512).map (fun i => (Config.signReport (reportBody s (request s 64))).getD i 0)))
    ∧ (Command s 0x0060 64 → stageOf s < 2 → ends .attest s s 4 [])
    ∧ (Command s 0x0070 2 → let n := leNat (request s 2)
      1 ≤ n → n ≤ 1023 → ends .eventRead s (modMgmt s (fun m => { m with events := m.events.drop n, dropped := 0 })) 0
        (leBytes 4 (s.mgmt.events.take n).length ++ leBytes 4 s.mgmt.dropped ++ (s.mgmt.events.take n).flatMap Event.bytes))
    ∧ (Command s 0x0070 2 → (leNat (request s 2) = 0 ∨ 1023 < leNat (request s 2)) → ends .eventRead s s 3 [])
    ∧ ∀ op, started s op = true ↔ s.mgmt.mbcmd.toNat / 2 ^ 63 = 1 ∧ s.mgmt.mbcmd.toNat % 2 ^ 16 = op

/-- The management registers and what acts on them (R355, R357, R361 to R363, R372, R374 to R377): a
control core reaches every part (R362), and a doorbell page reads SUBSTAT, and 0 elsewhere (Table 18-1). That a control
core's write below 0x100000 acts as the host's is the model's reading (log 67, DEDUCED). A partition's reset (R387) ends its
contexts, takes its configuration, and leaves it running only in stage 3 (R386); it waits for the cords of a context that a
fatal error has stopped to be suspended (R354). -/
def Obligations.ManagementSteps : Prop :=
  ∀ (s : State) (v : DWord),
    (∀ n, n < 8 → (resetWaits s n = false → exec (.functionLevelReset n) s = .next (partReset s n 1))
      ∧ (resetWaits s n = true → exec (.functionLevelReset n) s = .next s))
    ∧ (∀ n, resetWaits s n = true ↔ ∃ c, c < 64 ∧ (ctxOf s n c).life ≠ .absent ∧ (ctxOf s n c).fatal ≠ none
      ∧ allSuspended s n c = false)
    ∧ (∀ n how, n < 8 → let t := partReset s n how
      (partOf t n).comms = [] ∧ ((partOf t n).running = true ↔ (partOf t n).enabled = true ∧ stageOf s = 3)
      ∧ (∀ q, nextRecord s n = some q → (partOf t n).record = q ∧ (partOf t n).enabled = recEnabled q)
      ∧ (∀ c, c < 64 → (ctxOf t n c).life = .absent ∨ (ctxOf t n c).life = .reset)
      ∧ ∃ e ∈ t.mgmt.events, e.kind = 0x0030 ∧ e.subject = n ∧ e.detail = how)
    ∧ (∀ die, die < 4 → exec (.managementRegisterWrite .host (0x1008 + 0x40 * die) v) s
        = .next (modDie s die (fun d => { d with hostcap := v.toNat % 65536 })))
    ∧ (∀ die, die < 4 → exec (.managementRegisterWrite .control (0x110000 + 0x100000 * die) v) s
        = .next (modDie s die (fun d => { d with fqBase := v.toNat / 4096 % 2 ^ 40 * 4096 })))
    ∧ (∀ die i, die < 4 → i < 1024 → v.toNat / 2 % 4 = 1 →
      exec (.managementRegisterWrite .control (0x100000 + 0x100000 * die + 32 * i) v) s = exec (.faultService die i) s)
    ∧ (∀ die i, die < 4 → i < 1024 → v.toNat / 2 % 4 = 2 →
      exec (.managementRegisterWrite .control (0x100000 + 0x100000 * die + 32 * i) v) s = exec (.faultReject die i) s)
    ∧ (∀ part ctx, ctx < 64 →
      exec (.managementRegisterWrite (.function part) (4096 * ctx) v) s = exec (.hostSubmit part ctx v) s)
    ∧ (∀ off, off < 0x100000 →
      exec (.managementRegisterWrite .control off v) s = exec (.managementRegisterWrite .host off v) s)
    ∧ (∀ part ctx off, off < 4096 → functionRead s part (4096 * ctx + off)
        = if ctx < 64 ∧ (ctxOf s part ctx).life ≠ .absent ∧ off = 8 then (tabGet (partOf s part).sub ctx).getD 0 else 0)
    ∧ (∀ who off, off % 8 ≠ 0 → exec (.managementRegisterWrite who off v) s = .next s)
    ∧ (∃ t, exec .triprecClear s = .next t ∧ t.mgmt.triprec = 0 ∧ t.mgmt = { s.mgmt with triprec := 0 } ∧ t.mem = s.mem)
    ∧ (∀ off, off < 2 ^ 24 → ∃ t, exec (.managementRegisterWrite .host off v)
        { s with mgmt := { s.mgmt with i3cOff := off } } = .next t ∧ exec (.i3cPrivateWrite off v) s = .next t)
    ∧ (∃ t, exec .i3cPrivateRead s = .next t ∧ t.out = s.out ++ [.i3c (mgmtRead s s.mgmt.i3cOff)]
      ∧ t.mgmt.i3cOff = (s.mgmt.i3cOff + 8) % 2 ^ 24)
    ∧ (ascending (fluidPoints s.mgmt) = true → (fluidPoints s.mgmt).all (fun p => p.2 != 0) = true →
      ∃ t, exec .fluidTableSubmit s = .next t ∧ t.mgmt.fluid = true ∧ t.mgmt.fluidctl = 1
        ∧ t.mgmt.inPoints = fluidPoints s.mgmt ∧ t.mgmt.inTsat = (s.mgmt.tsat.setWidth 16).toInt)
    ∧ ((ascending (fluidPoints s.mgmt) = false ∨ (fluidPoints s.mgmt).any (fun p => p.2 == 0) = true) →
      ∃ t, exec .fluidTableSubmit s = .next t ∧ t.mgmt.fluid = s.mgmt.fluid ∧ t.mgmt.fluidctl = 0
        ∧ ∃ e ∈ t.mgmt.events, e.kind = 0x0021)
    ∧ (∃ t, exec .fluidTableWithdraw s = .next t ∧ t.mgmt.fluid = false ∧ t.mgmt.fluidctl = 0)

/-- The ports, rings, and accesses from outside (R355, R359, R369, R378 to R380, R383, R384). -/
def Obligations.PortsAndOutside : Prop :=
  ∀ (s : State),
    (∀ pa n, pa + n ≤ 1024 * 10 ^ 9 → ∃ t, exec (.hostMemoryAccess pa (.read n)) s = .next t
      ∧ t.out = s.out ++ [.answer pa (memRead s.mem pa n)] ∧ t.mem = s.mem)
    ∧ (∀ pa bs, Safety.MemOk s → pa + bs.length ≤ 1024 * 10 ^ 9 →
      ∃ t, exec (.hostMemoryAccess pa (.write bs)) s = .next t ∧ memRead t.mem pa bs.length = bs
        ∧ ∀ a, (a < pa ∨ pa + bs.length ≤ a) → memGet t.mem a = memGet s.mem a)
    ∧ (∀ pa a, 1024 * 10 ^ 9 < pa + outSize a ∨ hostCompletes pa a = false → exec (.hostMemoryAccess pa a) s = .next (send s (.refused pa)))
    ∧ (∀ peer pa a, reachPeer s peer pa = .far → inHbm pa (outSize a) = true ∨ inTier2 pa (outSize a) = true →
      exec (.peerAccessArrival peer pa a) s = .next (outsideAccess s pa a))
    ∧ (∀ peer pa a, reachPeer s peer pa = .reject 7 → 0 < outSize a → exec (.peerAccessArrival peer pa a) s = .next (send s (.refused pa)))
    ∧ (∀ peer pa a, reachPeer s peer pa = .reject 8 → exec (.peerAccessArrival peer pa a) s = .next s)
    ∧ (∀ peer pa a, reachPeer s peer pa = .waits → exec (.peerAccessArrival peer pa a) s
        = .next { s with inputs := s.inputs ++ [{ i := .peerAccessArrival peer pa a }] })
    ∧ (∀ port window, port < 16 → (portOf s port).up = true → (portOf s port).window = none → 1 ≤ window → window ≤ 2000 →
      exec (.portRecoveryEnter port window) s = .next (send (modPort s port (fun p => { p with
        window := some window, recov := if p.recov.toNat < 65535 then p.recov + 1 else p.recov })) (.recovery port window)))
    ∧ (∀ port, (portOf s port).window.isSome = true →
      exec (.portRecovered port) s = .next (resumeTraffic (send
          (modPort s port (fun p => { p with window := none })) (.recovered port)))
      ∧ exec (.portRecoveryExpiry port) s = .next (resumeTraffic (logEvent (modPort s port (fun p => { p with
          window := none, up := false, lost := if p.lost.toNat < 65535 then p.lost + 1 else p.lost })) 0x0002 port
          (peerOf s port))))
    ∧ (∀ port, port < 16 → (portOf s port).up = false → exec (.portLinkUp port) s
        = .next (resumeTraffic (modPort s port (fun p => { p with up := true, window := none }))))
    ∧ (∀ port corrected flits, ∃ t, exec (.gradeRecompute port corrected flits) s = .next t ∧
      let p := portOf s port
      let q := portOf t port
      q.recent = ((flits, corrected) :: p.recent).take 60
      ∧ q.grade = gradeFor (q.recent.map Prod.snd).sum (q.recent.map Prod.fst).sum
      ∧ q.flits.toNat = Nat.min (2 ^ 64 - 1) (p.flits.toNat + flits)
      ∧ (∃ a e, a + e = corrected ∧ q.crccor = BitVec.ofNat 64 (Nat.min (2 ^ 32 - 1) (p.crccor.toNat + a))
        ∧ q.feccor = BitVec.ofNat 64 (Nat.min (2 ^ 32 - 1) (p.feccor.toNat + e)))
      ∧ (2 ≤ q.grade → p.grade < q.grade →
          ∃ e ∈ t.mgmt.events, e.kind = 0x0001 ∧ e.subject = port ∧ e.detail = q.grade))
    ∧ (∀ corrected flits g, g < 3 → (gradeFor corrected flits = g ↔
        (g = 0 ∧ corrected * 10 ^ 12 < flits ∨ g = 1 ∧ flits ≤ corrected * 10 ^ 12 ∧ corrected * 10 ^ 12 < 100 * flits
          ∨ g = 2 ∧ 100 * flits ≤ corrected * 10 ^ 12 ∧ corrected * 10 ^ 12 < 10000 * flits
          ∨ g = 0 ∧ corrected = 0 ∧ flits = 0)))
    ∧ (∀ part r, exec (.ringDoorbell part r) s = .next (lookRing (modRing s part r (fun x => { x with rung := true })) part r))
    ∧ exec .ringPoll s = .next ((s.parts.flatMap (fun p => p.2.rings.map (fun r => (p.1, r.1)))).foldl (fun s e =>
        lookRing (modRing s e.1 e.2 (fun x => { x with rung := true })) e.1 e.2) s)
    ∧ (∀ part r x w, tabGet (partOf s part).rings r = some x →
      ringMiss s part r [(x.addr, 64, .read), (x.addr + 40, 8, .write)] = none →
      ringWaits s part r [(x.addr, 64, .read)] = false → consHeld s part r x = false →
      ringReach s part r x.addr 64 .read = true →
      let y := ringRead s part r (addrs x.addr 64)
      let h := leNat y.1
      let a := headBase h + 32 * (headCons h % headSize h)
      headEn h = true → headErr h = 0 → x.seen = true → headCons h ≠ x.prod →
      ringMiss y.2 part r [(a, 32, .read), (a + 24, 8, .write)] = none →
      ringWaits y.2 part r [(a, 32, .read)] = false → ringReach y.2 part r a 32 .read = true →
      let z := ringRead y.2 part r (addrs a 32)
      (∀ t, serveDesc z.2 part r x h a (leNat z.1) w = .ok t → exec (.ringDescriptorFinish part r w) s = .next t)
      ∧ ∀ d, descReserved (headKind h) d = false → x.bad = false →
        (w.status ≠ 0 → w.status ≠ 4 →
          serveDesc s part r x h a d w = .ok (closeDesc s part r x h a 3 none))
        ∧ ((w.status = 0 ∨ w.status = 4) →
          let m := descMoves (headKind h) d w.len
          let b := d % 2 ^ 64
          ringMiss s part r [(b, m.1, .read), (b, m.2, .write)] = none → ringWaits s part r [(b, m.1, .read), (b, m.2, .write)] = false →
          ringReach s part r b m.1 .read = true → ringReach s part r b m.2 .write = true →
          ∃ u, serveDesc s part r x h a d w = .ok (closeDesc u part r x h a
            (if headKind h = 1 ∧ d / 2 ^ 192 % 2 ^ 32 < w.len then 4 else 0) (if headKind h = 1 then some w.len else none))))

/-- Power, start-up and what the sensors and tests bring (R1, R33, R34, R172, R295, R318, R348, R361, R371, R373, R385 to
R394): a warning lets start-up go on to stage 3 with ERRCODE still set; with a fluid table the cap is limited by P_fluid,
linear between its points; a die that stays above its cap raises event 0x0020 with PMEAS and CAPEFF. The model's choices in
it are that memory is empty after power-on (log 2, unsafe), that a map that R1 forbids is not taken (log 4), that P_fluid is
rounded down and, where no heat flux is read, free (log 50), that samples run to their limit (log 57), what the ECC log
keeps (log 89) and that the hang clock counts samples (log 92), DESIGN CHOICES all. -/
def Obligations.PowerAndTests : Prop :=
  ∀ (s : State),
    (∀ ok, ∃ t, exec (.powerOn ok) s = .next t ∧ t.power = true ∧ stageOf t = 0 ∧ errOf t = (if ok then 0 else 1)
      ∧ t.blocks = [] ∧ t.grids = [] ∧ t.mem = [] ∧ t.mgmt.triprec = s.mgmt.triprec ∧ t.mgmt.images = s.mgmt.images
      ∧ t.mgmt.stored = s.mgmt.stored ∧ t.mgmt.configured = [])
    ∧ (∀ w, errOf s = 0 → stageOf s = 0 → w.fault ≠ 1 → exec (.startupStageAdvance w) s = .next (setStage s 1 0))
    ∧ (∀ w, errOf s = 0 → stageOf s = 0 → w.fault = 1 → exec (.startupStageAdvance w) s = .next (setStage s 0 1))
    ∧ (∀ w, errOf s = 0 → stageOf s = 1 → let t := buildMap s w
      ((w.fault = 0x0101 ∨ w.fault ≠ 0x0101 ∧ fewClusters t = true) →
        exec (.startupStageAdvance w) s = .next (setStage t 1 (if w.fault = 0x0101 then 0x0101 else 0x0102)))
      ∧ (w.fault ≠ 0x0101 → fewClusters t = false → exec (.startupStageAdvance w) s
        = .next (setStage ((List.range 8).foldl configure t) 2 (if w.fault = 0x0103 then 0x0103 else 0))))
    ∧ (∀ w p, p ∈ w.failed → p < 168 → p ∈ (dieOf (buildMap s w) (p / 42)).bad)
    ∧ (∀ ms, (mapsOk s ms = false → takeMap s ms = s)
      ∧ (mapsOk s ms = true → ∀ e ∈ ms, ∀ i, i < 4 →
        coreOf (takeMap s ms) (4 * e.1 + i) = coreOn (takeMap s ms).mgmt (4 * e.2 + i)))
    ∧ (∀ c p, physCluster s c ∈ (dieOf s (c / 40)).bad → spareOf s (c / 40) = some p →
      avoidFailed s c = moveToSpare s c p ∧ p ∉ (dieOf s (c / 40)).bad ∧ ∀ i, i < 40 → physCluster s (40 * (c / 40) + i) ≠ p)
    ∧ (∀ m p, (coreOn m p).phys = p ∧ (coreOn m p).mapA = ((tabGet m.maps p).map Prod.fst).getD (Config.fuseMap p 0)
      ∧ (coreOn m p).mapB = ((tabGet m.maps p).map Prod.snd).getD (Config.fuseMap p 1))
    ∧ (∀ p q, nextRecord s p = some q → p < 8 →
      (partOf ((List.range 8).foldl configure s) p).record = q ∧ (partOf ((List.range 8).foldl configure s) p).enabled = recEnabled q)
    ∧ (∀ w, (errOf s = 0 ∨ errOf s = 0x0103) → stageOf s = 2 → ∃ t, exec (.startupStageAdvance w) s = .next t ∧ stageOf t = 3
      ∧ errOf t = errOf s ∧ ∀ e ∈ t.parts, e.2.running = e.2.enabled)
    ∧ (∀ cause die reading, s.power = true →
      (cause = 1 ∧ 1100 ≤ reading ∨ cause = 2 ∧ reading < 460 ∨ cause = 3 ∧ 600 < reading) →
      ∃ t, exec (.hardwareTrip cause die reading) s = .next t ∧ t.power = false
        ∧ t.mgmt.triprec = BitVec.ofNat 64 (cause + (if cause = 1 then die % 256 else 0xFF) * 256 + reading % 65536 * 65536))
    ∧ (∀ core tj p, ∃ t, exec (.sensorSample core tj p) s = .next t ∧ (coreOf t core).temp = tj
      ∧ ((coreOf s core).avoided = false → 950 ≤ tj → (coreOf t core).avoided = true)
      ∧ ((coreOf s core).avoided = true → 890 < tj → (coreOf t core).avoided = true)
      ∧ ((coreOf s core).avoided = true → tj ≤ 890 → (coreOf s core).dtimes = [] → (coreOf t core).avoided = false)
      ∧ (dieOf t (dieOfCore core)).pmeas = p.pmeas % 65536 ∧ t.mem = s.mem
      ∧ ∀ b c x y, s.blocks[b]? = some x → cordOf s b c = some y → cordOf t b c = some { y with
          idle := if x.core = core ∧ clockStands s b c x y = false then y.idle + 1 else y.idle })
    ∧ (∀ core, ∃ t, exec (.droopEvent core) s = .next t
      ∧ (coreOf t core).droops = Nat.min ((coreOf s core).droops + 1) 0xFFFFFFFF
      ∧ (2 ≤ ((coreOf s core).dtimes.filter (fun a => a ≤ 100)).length → (coreOf t core).avoided = true))
    ∧ (∃ t, exec .powerCapCompute s = .next t ∧ t.mem = s.mem ∧ ∀ d, d < 4 → let x := dieOf s d
        (s.mgmt.fluid = false → (dieOf t d).capeff = Nat.min 5200 x.hostcap)
        ∧ (s.mgmt.fluid = true → x.qpeak ≠ 0 →
          (dieOf t d).capeff = Nat.min (Nat.min 5200 x.hostcap) (fluidLimit (chfAt s.mgmt.inTsat s.mgmt.inPoints) x))
        ∧ (s.mgmt.fluid = true → x.qpeak = 0 → (dieOf t d).capeff ≤ Nat.min 5200 x.hostcap))
    ∧ (∀ (t : Int) (p q : Int × Nat) (rest : List (Int × Nat)), chfAt t [p] = (p.2, 1)
      ∧ (t ≤ p.1 → chfAt t (p :: q :: rest) = (p.2, 1))
      ∧ (p.1 < t → t ≤ q.1 → let v := chfAt t (p :: q :: rest)
          v.2 ≠ 0 ∧ (v.1 : Int) * (q.1 - p.1) = v.2 * (p.2 * (q.1 - t) + q.2 * (t - p.1)))
      ∧ (p.1 < t → q.1 < t → chfAt t (p :: q :: rest) = chfAt t (q :: rest)))
    ∧ (∃ t, exec .clockStep s = .next t ∧ t.mem = s.mem ∧ ∀ d, d < 4 →
        ((dieOf s d).capeff < (dieOf s d).pmeas → (dieOf t d).fclk = Nat.max 12 ((dieOf s d).fclk - 1))
        ∧ ((dieOf s d).pmeas ≤ (dieOf s d).capeff → 95 * (dieOf s d).capeff ≤ (dieOf s d).pmeas * 100 →
            (dieOf t d).fclk = (dieOf s d).fclk)
        ∧ ((dieOf s d).pmeas ≤ (dieOf s d).capeff → (dieOf s d).pmeas * 100 < 95 * (dieOf s d).capeff →
            9 ≤ (dieOf s d).underMs → (dieOf t d).fclk = Nat.min 24 ((dieOf s d).fclk + 1)))
    ∧ (∃ t, exec .persistentOvercap s = .next t ∧ t.mem = s.mem
      ∧ ∀ d, d < 4 → (dieOf s d).atMin = 100 → (dieOf t d).atMin = 101 ∧ ∃ e ∈ t.mgmt.events, e.kind = 0x0020
        ∧ e.subject = d ∧ e.detail = (dieOf s d).pmeas + 2 ^ 16 * (dieOf s d).capeff)
    ∧ (∀ core side lane, (side, lane) ∈ (coreOf s core).fuses → hasResident s core = false →
      exec (.fieldFuseApply core side lane) s = .next (takeFuse s core side lane))
    ∧ (∀ core, core < 640 → (coreOf s core).inService = true → hasResident s core = false →
      s.cores.all (fun e => !e.2.awl) = true →
      exec (.awlTestStart core) s = .next (modCore s core (fun k => { k with awl := true })))
    ∧ (∀ core, (coreOf s core).awl = true →
      exec (.awlTestComplete core .pass) s = .next (modCore s core (fun k => { k with awl := false, awlFails := 0 }))
      ∧ exec (.awlTestComplete core .aborted) s = .next (modCore s core (fun k => { k with awl := false }))
      ∧ ∀ side lane, ((coreOf s core).awlFails = 0 → exec (.awlTestComplete core (.lane side lane)) s
            = .next (modCore s core (fun k => { k with awlFails := 1 })))
        ∧ ((coreOf s core).awlFails ≠ 0 → ∃ t, exec (.awlTestComplete core (.lane side lane)) s = .next t
            ∧ (coreOf t core).fuses = (coreOf s core).fuses ++ [(side, lane)] ∧ (coreOf t core).awl = false))
    ∧ (∀ pa n, ∃ t, exec (.uncorrectableEccError (.memory pa n)) s = .next t ∧ t.mem = s.mem
      ∧ ∀ a, a ∈ t.poison ↔ a ∈ s.poison ∨ (pa ≤ a ∧ a < pa + n ∧ placeOf a = .homed))
    ∧ (∀ core i, i < 2048 → ∃ t, exec (.uncorrectableEccError (.array core i)) s = .next t ∧ i ∈ (coreOf t core).apoison
      ∧ (coreOf t core).acc = (coreOf s core).acc)
    ∧ (∀ w, (∃ core, w = .corrected core) ∨ (∃ line, w = .discarded line) → ∃ t, exec (.uncorrectableEccError w) s = .next t
      ∧ t.mgmt.eccLog = s.mgmt.eccLog ++ [w] ∧ t.poison = s.poison ∧ t.cores = s.cores ∧ t.mem = s.mem)

end

namespace Sys2Proof.Claims
open Sys2Proof Sys2Proof.Machine

/-! ### Device events that complete -/

/-- The state after `n` bytes of a request's element or run `at_` have been written in `u` (R157, R162, R197, R198): they
are counted on the barrier object and the lines, and with the last of them the request is over. -/
def counted (u : State) (core : Nat) (q : Request) (at_ k n : Nat) (dst : Side) (whole : Request → Bool) : State :=
  let v := countBytes (modReq u core q.n (fun r => { r with moved := tabPut r.moved at_ k })) core q dst n false
  match reqOf v core q.n with
  | some r => if whole r then finishReq v core r else v
  | none => v

/-- Every run of bytes of a row of a copy can be read and written now. -/
def runsGo (s : State) (core : Nat) (q : Request) : Prop :=
  ∀ row i k src dst, row < q.rows → 0 < k → i + k ≤ q.len → copySides q row = some (src, dst) →
    ∃ bs p t u, engRead s q.block core q.raised (src.at_ i) k = .ok bs p t
      ∧ engWrite t q.block core (dst.at_ i) bs p = .ok [] [] u

/-- The operand lines of a matrix operation are present and its row scales can be read, which gives `xs` (R158, R190). -/
def mmaReady (s : State) (core : Nat) (o : ArrOp) (xs : List FVal) : Prop :=
  o.bad = none
  ∧ (o.aRegs = none → linesPresent s [] (rowLines s o.block o.a 64 (opndRows (halvesOf o.fol) 32)) = true)
  ∧ (o.bRegs = none → linesPresent s [] (rowLines s o.block o.b 64 (opndRows (halvesOf o.fol) 64)) = true)
  ∧ ∃ p t, readScales s o.block core (scaleAddrs o.aDesc (32 * halvesOf o.fol) ++ scaleAddrs o.bDesc 64) = .ok xs p t

/-- The accumulators of half h of a matrix operation on a core's array (R149, R190): from the scratchpad each half reads its
own rows of B (log 112). -/
def mmaAcc (s : State) (o : ArrOp) (xs : List FVal) (h : Nat) (k : CoreSt) : List Word :=
  let na := (scaleAddrs o.aDesc (32 * halvesOf o.fol)).length
  let as := (opndRows (halvesOf o.fol) 32).map (fun e => opndRow s o.block o.a o.aRegs e.1 e.2)
  (addTile o (scaleOf o.aDesc (xs.take na)) (scaleOf o.bDesc (xs.drop na)) (fun r => as.getD (32 * h + r) 0)
    (fun j => opndRow s o.block o.b o.bRegs (if o.bRegs.isSome then 0 else h) j) h k).acc

/-- What a matrix operation leaves: the sums in the array of each of its cores, and its queue without it. -/
def mmaDone (s t : State) (core : Nat) (o : ArrOp) (xs : List FVal) : Prop :=
  (∀ k h, (k, h) ∈ (arrCores core o).zipIdx → (coreOf t k).acc = mmaAcc s o xs h (coreOf s k))
  ∧ (coreOf t core).array = (coreOf s core).array.filter (fun p => p.n != o.n) ∧ t.mem = s.mem

/-- The windows of the device after a drain to the scratchpad has written its rows (R171, R191). -/
def drainedTo (s : State) (core : Nat) (o : ArrOp) : State :=
  (drainRows (((s.blocks[o.block]?).map (fun x => x.width)).getD 64) (halvesOf o.fol) false o.band).foldl (fun t e =>
    padWrite t o.block o.dst (tileRow o.ty) e.1 e.2 (drainRow s o (coreOf s (core + e.1)) e.1 e.2).1
      (rowPoisons o (if o.mod % 4 = 0 then [] else padRowPoisons s o.block o.a (resRow o.mod) e.1 e.2))) s

end Sys2Proof.Claims

section
open Sys2Proof Sys2Proof.Machine Sys2Proof.Claims

/-- Each of eleven device events completes, under conditions on the state alone: QUEUED_RESULT_WRITE (queuedResultWrite,
R78), STORE_ARRIVAL_AT_HOME (storeArrivalAtHome, R206), L1_WRITEBACK (l1Writeback, R207), L1_LINE_EVICTION
(l1LineEviction, R207), COPY_DELIVERY (copyDelivery, R162), GSE_ELEMENT_MOVE (gseElementMove, R198), COLLECTIVE_PERFORM
(collectivePerform, R194), ARRAY_MMA_PERFORM (arrayMmaPerform, R149), ARRAY_ZERO_LOAD_PERFORM (arrayZeroLoadPerform,
R189), ARRAY_DRAIN_PERFORM (arrayDrainPerform, R171) and FIRMWARE_EMULATION (firmwareEmulation, R152). That a drain does not
wait for the counts of its own array's drains (log 21), that an emulated operation is performed at the head of its array
(log 56), and which rows of B a half of a paired MMA reads (log 112), is the model's reading. -/
def Obligations.EventsComplete : Prop :=
  ∀ (s : State) (core n : Nat),
    (∀ b c x op ws, cordOf s b c = some x → opOf x n = some op → op.kind = .queued ws none → op.piece = false →
      op.ws = [] → ∃ t y, exec (.queuedResultWrite b c n) s = .next t ∧ cordOf t b c = some y
        ∧ (∀ l r, (y.lane l).reg r = ((commit x (op.kept ws)).lane l).reg r)
        ∧ (∀ p ∈ y.ops, p.id ≠ n) ∧ y.f = (flagDown x op.flag).f)
    ∧ (∀ o, (coreOf s core).outbound.find? (fun e => e.n == n) = some o → outboundBehind (coreOf s core) o = false →
      exec (.storeArrivalAtHome core n) s = .next (homeBytes (modCore s core (fun k =>
        { k with outbound := k.outbound.filter (fun e => e.n != n) })) o.block o.poison o.bytes))
    ∧ (∀ line, exec (.l1Writeback core line) s
        = .next ((dirtyBlocks (coreOf s core) line).foldl (fun t b => publishLine t core line b) s)
      ∧ exec (.l1LineEviction core line) s = .next (modCore
          ((dirtyBlocks (coreOf s core) line).foldl (fun t b => publishLine t core line b) s) core (fun k =>
          { k with clean := k.clean.filter (fun e => e.1 / 256 != line),
                   cpoison := k.cpoison.filter (fun a => a / 256 != line) })))
    ∧ (∀ q, reqOf s core n = some q → q.accepted = true → q.finished = false →
      (q.engine = .copy → q.cv = false → (copySides q 0).isSome = true → runsGo { s with free := s.free + 1 } core q →
        (∃ u, u < q.len * q.rows ∧ undelivered q u) →
        ∃ row i k src dst bs p t u, row < q.rows ∧ 0 < k ∧ i + k ≤ q.len
          ∧ (∀ j, j < k → undelivered q (row * q.len + i + j)) ∧ copySides q row = some (src, dst)
          ∧ engRead { s with free := s.free + 1 } q.block core q.raised (src.at_ i) k = .ok bs p t
          ∧ engWrite t q.block core (dst.at_ i) bs p = .ok [] [] u
          ∧ exec (.copyDelivery core n) s = .next (counted u core q (row * q.len + i) k bs.length (dst.at_ i)
              (fun r => copyTotal r ≤ r.counted)))
      ∧ (∀ k ix idx pi t src dst bs p' t' u, q.engine = .gse → q.gcv = false → k < q.gcount → tabGet q.moved k = none →
        sideOf (q.field 191 128) = some ix →
        engRead s q.block core q.raised (ix.at_ (k * q.iw)) q.iw = .ok idx pi t → pi.any id = false →
        gseSides q k (leNat idx) = some (src, dst) → gseOutside t q src dst = false →
        engRead t q.block core q.raised src (gseElt q) = .ok bs p' t' →
        engWrite t' q.block core dst bs p' = .ok [] [] u →
        exec (.gseElementMove core n k) s
          = .next (counted u core q k 1 bs.length dst (fun r => q.gcount ≤ r.moved.length)))
      ∧ (∀ w rank vals ill p t, q.engine = .coll → q.result = none → q.source = none → reqRank s q = some rank →
        collError s q (collLocal s q) (heardWorld s q w) = 0 →
        collRead s core q (reqComm s q).length rank = .ok vals ill p t →
        exec (.collectivePerform core n w) s = .next (modReq
          (reqObject t q 0 (if collReads q (reqComm s q).length rank = 0 then 0 else 1) (if ill then 5 else 0)) core q.n
          (fun r => { r with source := some (vals, ill, p), ill := r.ill || ill })))
      ∧ (∀ w res p dst rs p' t u, q.engine = .coll → q.result = some (res, p) → sideOf (q.field 127 64) = some dst →
        resultScales s core q res = .ok rs p' t → collBytes q res rs ≠ [] →
        engWrite t q.block core dst (collBytes q res rs)
          (collBytePoisons q p p' (collBytes q res rs).length) = .ok [] [] u →
        exec (.collectivePerform core n w) s = .next (
          let v := countBytes u core q dst (collBytes q res rs).length false
          match reqOf v core q.n with
          | some r => finishReq v core r
          | none => v)))
    ∧ (∀ o xs, headOp s core [.mma, .mmas] = some o → o.fol ≠ some core → mmaReady s core o xs →
      ∃ t, exec (.arrayMmaPerform core) s = .next t ∧ mmaDone s t core o xs)
    ∧ (∀ o, headOp s core [.mzero, .maccld] = some o → o.fol ≠ some core →
      (o.kind = .mzero ∨ linesPresent s [] (rowLines s o.block o.a (tileRow o.ty) (opndRows (halvesOf o.fol) 32)) = true) →
      ∃ t, exec (.arrayZeroLoadPerform core) s = .next t
        ∧ (∀ k h, (k, h) ∈ (arrCores core o).zipIdx → (coreOf t k).apoison = [] ∧ (coreOf t k).acc
            = if o.kind = .mzero then [] else (loadTile s o h (coreOf s k)).acc)
        ∧ (coreOf t core).array = (coreOf s core).array.filter (fun p => p.n != o.n) ∧ t.mem = s.mem)
    ∧ (∀ o, headOp s core [.mdrain] = some o → o.due = [] → o.reg = false →
      (o.mod % 4 ≠ 0 → linesPresent s o.lines (rowLines s o.block o.a (resRow o.mod)
        (drainRows (((s.blocks[o.block]?).map (fun x => x.width)).getD 64) (halvesOf o.fol) false o.band)) = true) →
      linesPresent s (ownRaised (coreOf s core)) o.lines = true →
      ∃ t, exec (.arrayDrainPerform core) s = .next t
        ∧ (∀ b : Nat, (t.blocks[b]?).map Block.window = ((drainedTo s core o).blocks[b]?).map Block.window)
        ∧ (coreOf t core).asticky = 0 ∧ (coreOf t core).acc = (coreOf s core).acc
        ∧ (coreOf t core).array = (coreOf s core).array.filter (fun p => p.n != o.n) ∧ t.mem = s.mem)
    ∧ (∀ c blk o xs rest, s.blocks[o.block]? = some blk → blk.core = core →
      (coreOf s core).requests = [] → (coreOf s core).array = o :: rest → o.emulated = true → o.cord = c →
      o.fol ≠ some core → mmaReady s core o xs →
      ∃ t, exec (.firmwareEmulation o.block c o.n) s = .next t ∧ mmaDone s t core o xs)

end
end

