-- ==== Sys2Proof/Laws/Cords.lean ====
section
/-! SUPPORT. Cords, blocks and tables: what a named update leaves to be read, and that two updates that agree on what
stands there are one. -/

namespace Sys2Proof.Machine
open Sys2Proof

/-- Two changes of a list at a place that agree on what stands there. -/
theorem modify_congr {α : Type} {l : List α} {n : Nat} {f g : α → α} (h : ∀ x, l[n]? = some x → f x = g x) :
    l.modify n f = l.modify n g := by
  apply List.ext_getElem?
  intro i
  simp only [List.getElem?_modify]
  by_cases hi : n = i
  · subst hi
    cases hx : l[n]? with
    | none => simp
    | some x => simp [h x hx]
  · simp [hi]

/-- A block after a block is changed. -/
theorem modBlock_get (s : State) (b i : Nat) (f : Block → Block) :
    (modBlock s b f).blocks[i]? = if b = i then (s.blocks[i]?).map f else s.blocks[i]? := by
  simp only [modBlock, List.getElem?_modify]
  by_cases h : b = i <;> simp [h]

/-- The changed cord. -/
theorem cordOf_modCord_same (s : State) (b c : Nat) (f : Cord → Cord) :
    cordOf (modCord s b c f) b c = (cordOf s b c).map f := by
  simp only [cordOf, modCord, modBlock_get, if_true]
  cases s.blocks[b]? with
  | none => rfl
  | some x => simp [Block.modCord]

/-- Every other cord. -/
theorem cordOf_modCord_other (s : State) {b c i j : Nat} (f : Cord → Cord) (h : (i, j) ≠ (b, c)) :
    cordOf (modCord s b c f) i j = cordOf s i j := by
  simp only [cordOf, modCord, modBlock_get]
  by_cases hb : b = i
  · subst hb
    have hj : c ≠ j := fun e => h (by rw [e])
    cases s.blocks[b]? with
    | none => simp
    | some x => simp [Block.modCord, hj]
  · simp [hb]

/-- Two changes of a cord that agree on it are one. -/
theorem modCord_congr {s : State} {b c : Nat} {f g : Cord → Cord} (h : ∀ x, cordOf s b c = some x → f x = g x) :
    modCord s b c f = modCord s b c g := by
  unfold modCord modBlock
  congr 1
  apply modify_congr
  intro x hx
  simp only [Block.modCord]
  congr 1
  apply modify_congr
  intro y hy
  exact h y (by simp [cordOf, hx, hy])

/-- The grid of a block after a cord is changed. -/
theorem gridOfBlock_modCord (s : State) (b c i : Nat) (f : Cord → Cord) :
    gridOfBlock (modCord s b c f) i = gridOfBlock s i := by
  simp only [gridOfBlock, modCord, modBlock_get]
  by_cases hb : b = i
  · subst hb
    cases s.blocks[b]? with
    | none => simp
    | some x => simp [Block.modCord]; rfl
  · simp [hb]; rfl

/-- What a cord that issues is. -/
theorem issueOf_cord {s : State} {n : Nat} {u : Issue} (h : issueOf s n = some u) : cordOf s u.b u.c = some u.cord := by
  unfold issueOf at h
  split at h
  · cases h
  · split at h
    · cases h
    · split at h
      · cases h
      · cases h; simp_all [cordOf]

/-- What a block that issues is. -/
theorem issueOf_block {s : State} {n : Nat} {u : Issue} (h : issueOf s n = some u) : s.blocks[u.b]? = some u.blk := by
  unfold issueOf at h
  split at h
  · cases h
  · split at h
    · cases h
    · split at h
      · cases h
      · cases h; simp_all

/-- The length of an instruction that issues. -/
theorem issueOf_len {s : State} {n : Nat} {u : Issue} (h : issueOf s n = some u) : u.len = n := by
  unfold issueOf at h
  split at h
  · cases h
  · split at h
    · cases h
    · split at h
      · cases h
      · cases h; rfl

end Sys2Proof.Machine
end

