-- ==== Sys2Proof/Laws/Issue.lean ====
section
/-! SUPPORT. What the one way of issuing can do: each outcome of issue, once, so that no proof unfolds it again. -/

namespace Sys2Proof.Machine
open Sys2Proof

/-- With no cord selected an instruction has nowhere to issue. -/
theorem issue_none {i : Instr} {body : Issue → State → Act} {s : State} (h : issueOf s i.length = none) :
    issue i body s = .fault .noCord := by simp [issue, h]

/-- An instruction that a row of Table 3-6 stops takes that row's trap (R52). -/
theorem issue_decode {i : Instr} {body : Issue → State → Act} {s : State} {u : Issue} {k : Cause}
    (h : issueOf s i.length = some u) (d : decodeTrap (decodeCtx u) i = some k) :
    issue i body s = .next (trapAt s u k u.lanes 0 0) := by simp [issue, h, d]

/-- An instruction whose body traps takes that trap. -/
theorem issue_trap {i : Instr} {body : Issue → State → Act} {s : State} {u : Issue} {k : Cause} {ls : List Nat}
    {d a : Nat} (h : issueOf s i.length = some u) (hd : decodeTrap (decodeCtx u) i = none)
    (hr : u.resume = none) (he : u.cord.region.isSome → endsRegion i = false) (hb : body u s = .trap k ls d a) :
    issue i body s = .next (trapAt s u k ls d a) := by
  have : (endsRegion i && u.cord.region.isSome) = false := by
    cases hc : u.cord.region.isSome <;> simp_all
  simp [issue, h, hd, hr, hb, this]

/-- An instruction that waits at issue leaves everything as it is. -/
theorem issue_wait {i : Instr} {body : Issue → State → Act} {s : State} {u : Issue}
    (h : issueOf s i.length = some u) (hd : decodeTrap (decodeCtx u) i = none)
    (hr : u.resume = none) (he : u.cord.region.isSome → endsRegion i = false) (hb : body u s = .wait) :
    issue i body s = .next s := by
  have : (endsRegion i && u.cord.region.isSome) = false := by
    cases hc : u.cord.region.isSome <;> simp_all
  simp [issue, h, hd, hr, hb, this]

/-- An instruction that asks the device for something first. -/
theorem issue_ask {i : Instr} {body : Issue → State → Act} {s : State} {u : Issue} {k : State → State}
    (h : issueOf s i.length = some u) (hd : decodeTrap (decodeCtx u) i = none)
    (hr : u.resume = none) (he : u.cord.region.isSome → endsRegion i = false) (hb : body u s = .ask k) :
    issue i body s = .next (k s) := by
  have : (endsRegion i && u.cord.region.isSome) = false := by
    cases hc : u.cord.region.isSome <;> simp_all
  simp [issue, h, hd, hr, hb, this]

/-- An instruction that goes: it retires, and its effect is on the state after that. -/
theorem issue_go {i : Instr} {body : Issue → State → Act} {s : State} {u : Issue} {regs dws : List Nat}
    {k : State → State} (h : issueOf s i.length = some u) (hd : decodeTrap (decodeCtx u) i = none)
    (hr : u.resume = none) (he : u.cord.region.isSome → endsRegion i = false)
    (hf : (u.cord.region.map (fun g => g.fits u.cord regs dws)).getD true = true)
    (hb : body u s = .go regs dws k) :
    issue i body s = .next (k (modCord s u.b u.c (retire u regs dws))) := by
  have : (endsRegion i && u.cord.region.isSome) = false := by
    cases hc : u.cord.region.isSome <;> simp_all
  simp [issue, h, hd, hr, hb, this, hf]

/-- Strands that stand parked at an instruction pass it as its body says, and it does not retire again. -/
theorem issue_pass {i : Instr} {body : Issue → State → Act} {s : State} {u : Issue} {regs dws : List Nat}
    {k : State → State} (h : issueOf s i.length = some u) (hd : decodeTrap (decodeCtx u) i = none)
    (hr : u.resume.isSome = true) (hb : body u s = .go regs dws k) : issue i body s = .next (k s) := by
  simp [issue, h, hd, hr, hb]

/-- Strands that stand parked at an instruction and may not pass stay. -/
theorem issue_stay {i : Instr} {body : Issue → State → Act} {s : State} {u : Issue}
    (h : issueOf s i.length = some u) (hd : decodeTrap (decodeCtx u) i = none)
    (hr : u.resume.isSome = true) (hb : body u s = .wait) : issue i body s = .next s := by
  simp [issue, h, hd, hr, hb]

/-- An instruction that ends regions ends the open one first (R336). -/
theorem issue_ends {i : Instr} {body : Issue → State → Act} {s : State} {u : Issue}
    (h : issueOf s i.length = some u) (hd : decodeTrap (decodeCtx u) i = none) (hr : u.resume = none)
    (he : endsRegion i = true) (hg : u.cord.region.isSome = true) : issue i body s = .next (markEnding s u) := by
  simp [issue, h, hd, hr, he, hg]

/-- Where a cord is selected every issue answers a next state. -/
theorem issue_next {i : Instr} {body : Issue → State → Act} {s : State} {u : Issue}
    (h : issueOf s i.length = some u) : ∃ t, issue i body s = .next t := by
  unfold issue
  simp only [h]
  split
  · exact ⟨_, rfl⟩
  · split
    · split <;> exact ⟨_, rfl⟩
    · split
      · exact ⟨_, rfl⟩
      · split
        · exact ⟨_, rfl⟩
        · exact ⟨_, rfl⟩
        · exact ⟨_, rfl⟩
        · split <;> exact ⟨_, rfl⟩

/-- No issue is ever refused. -/
theorem issue_not_refused {i : Instr} {body : Issue → State → Act} {s : State} {r : Refusal} :
    issue i body s ≠ .refused r := by
  cases h : issueOf s i.length with
  | none => rw [issue_none h]; intro e; cases e
  | some u =>
    obtain ⟨t, ht⟩ := issue_next (body := body) h
    rw [ht]; intro e; cases e

/-- What the selection names does not depend on the length of the instruction. -/
theorem issueOf_isSome_length {s : State} {n m : Nat} : (issueOf s n).isSome = (issueOf s m).isSome := by
  unfold issueOf
  cases s.sel with
  | none => rfl
  | some x =>
    simp only
    cases s.blocks[x.b]? with
    | none => rfl
    | some blk =>
      simp only
      cases blk.cords[x.c]? <;> rfl

end Sys2Proof.Machine
end

