-- ==== Sys2Proof/Laws/Exec.lean ====
section
/-! SUPPORT. That every instruction a cord fetches issues in the one way, and that every step of the device answers a
next state. -/

namespace Sys2Proof.Machine
open Sys2Proof

/-- A short form issues. -/
theorem exec_short (i : Instr) (op : Nat) (f : SForm) (h : i.shape = .short op f) :
    ∃ body, ∀ s, exec i s = issue i body s := by
  cases i
  all_goals first
    | (exfalso; revert h; simp only [Instr.shape]; intro h; cases h; done)
    | exact ⟨_, fun s => by simp only [exec]; rfl⟩

/-- A long form other than the firmware forms issues (R353). -/
theorem exec_long (i : Instr) (op : Nat) (f : LForm) (h : i.shape = .long op f) (hf : firmwareOp op = false) :
    ∃ body, ∀ s, exec i s = issue i body s := by
  cases i
  all_goals first
    | (exfalso; revert h; simp only [Instr.shape]; intro h; cases h; done)
    | (exfalso; revert hf; cases h; decide)
    | exact ⟨_, fun s => by simp only [exec]; rfl⟩

/-- A firmware form that is not injected issues, and an opcode that is not assigned too (R64, R353). -/
theorem inject_issues {i : Instr} {body : Issue → State → Act} {s : State} {u : Issue}
    (h : issueOf s i.length = some u) (hi : u.injected = false) : inject i body s = issue i body s := by
  simp [inject, h, hi]

/-- A firmware form is an injection. -/
theorem exec_firmware (i : Instr) (op : Nat) (f : LForm) (h : i.shape = .long op f) (hf : firmwareOp op = true) :
    ∃ body, ∀ s, exec i s = inject i body s := by
  cases i
  all_goals first
    | (exfalso; revert h; simp only [Instr.shape]; intro h; cases h; done)
    | (exfalso; revert hf; cases h; decide)
    | exact ⟨_, fun s => by simp only [exec]; rfl⟩

/-- A step of the device answers a next state, whatever the state. -/
theorem exec_event (i : Instr) (s : State) (h : i.shape = .event) : ∃ t, exec i s = .next t := by
  cases i
  all_goals first
    | (exfalso; revert h; simp only [Instr.shape]; intro h; cases h; done)
    | exact ⟨_, rfl⟩
    | (simp only [exec, execPartReset]; split <;> exact ⟨_, rfl⟩)

end Sys2Proof.Machine
end

