-- ==== Sys2Proof/Laws/Memory.lean ====
section
/-! SUPPORT. Bytes: what a read after a write gives, and that every write keeps the canonical form. -/

namespace Sys2Proof.Machine
open Sys2Proof

/-- A bound on the addresses of canonical memory may be lowered. -/
theorem memWfFrom_mono {lo lo' : Nat} (h : lo' ≤ lo) : ∀ {m : Mem}, memWfFrom lo m = true → memWfFrom lo' m = true
  | [], _ => rfl
  | (k, b) :: t, w => by
    simp only [memWfFrom, Bool.and_eq_true, decide_eq_true_eq] at w ⊢
    exact ⟨⟨by omega, w.1.2⟩, w.2⟩

/-- A byte below every listed address reads as an unlisted one. -/
theorem memGet_below {a : Nat} : ∀ {m : Mem} {lo : Nat}, memWfFrom lo m = true → a < lo → memGet m a = unlisted
  | [], _, _, _ => rfl
  | (k, b) :: t, lo, w, h => by
    simp only [memWfFrom, Bool.and_eq_true, decide_eq_true_eq] at w
    rw [memGet, if_neg (by omega)]
    exact memGet_below w.2 (by omega)

/-- Writing a byte keeps the canonical form. -/
theorem memWfFrom_memPut {a : Nat} {x : Byte} :
    ∀ {m : Mem} {lo : Nat}, memWfFrom lo m = true → lo ≤ a → memWfFrom lo (memPut m a x) = true
  | [], lo, _, h => by
    unfold memPut
    split
    · rfl
    · rename_i hx
      simp [memWfFrom, h, hx]
  | (k, b) :: t, lo, w, h => by
    have w' := w
    simp only [memWfFrom, Bool.and_eq_true, decide_eq_true_eq, bne_iff_ne] at w'
    obtain ⟨⟨hk, hb⟩, ht⟩ := w'
    unfold memPut
    split
    · split
      · exact w
      · rename_i hak hx
        simp only [memWfFrom, Bool.and_eq_true, decide_eq_true_eq, bne_iff_ne]
        exact ⟨⟨h, hx⟩, ⟨by omega, hb⟩, ht⟩
    · split
      · split
        · exact memWfFrom_mono (by omega) ht
        · rename_i hak hx
          simp only [memWfFrom, Bool.and_eq_true, decide_eq_true_eq, bne_iff_ne]
          exact ⟨⟨h, hx⟩, by subst hak; exact ht⟩
      · simp only [memWfFrom, Bool.and_eq_true, decide_eq_true_eq, bne_iff_ne]
        exact ⟨⟨hk, hb⟩, memWfFrom_memPut ht (by omega)⟩

/-- Writing a byte keeps the canonical form. -/
theorem wf_memPut {m : Mem} (h : Memory.wf m = true) (a : Nat) (x : Byte) : Memory.wf (memPut m a x) = true :=
  memWfFrom_memPut h (Nat.zero_le a)

/-- Writing bytes keeps the canonical form. -/
theorem wf_memWrite : ∀ (bs : List Byte) (m : Mem) (a : Nat), Memory.wf m = true → Memory.wf (memWrite m a bs) = true
  | [], _, _, h => h
  | b :: bs, _, a, h => wf_memWrite bs _ _ (wf_memPut h a b)

/-- The empty memory is canonical. -/
theorem wf_nil : Memory.wf [] = true := rfl

/-- A written byte reads back. -/
theorem memGet_memPut_same {a : Nat} {x : Byte} :
    ∀ {m : Mem} {lo : Nat}, memWfFrom lo m = true → memGet (memPut m a x) a = x
  | [], _, _ => by
    unfold memPut
    split
    · rename_i h; rw [memGet, h]
    · rw [memGet, if_pos rfl]
  | (k, b) :: t, lo, w => by
    simp only [memWfFrom, Bool.and_eq_true, decide_eq_true_eq] at w
    unfold memPut
    split
    · rename_i hak
      split
      · rename_i hx
        rw [memGet, if_neg (by omega), memGet_below w.2 (by omega), hx]
      · rw [memGet, if_pos rfl]
    · split
      · rename_i hak
        split
        · rename_i hx; rw [memGet_below w.2 (by omega), hx]
        · rw [memGet, if_pos rfl]
      · rename_i h1 h2
        rw [memGet, if_neg (fun h => h2 h.symm)]
        exact memGet_memPut_same w.2

/-- Another byte is not changed. -/
theorem memGet_memPut_other {a c : Nat} {x : Byte} (h : c ≠ a) : ∀ {m : Mem}, memGet (memPut m a x) c = memGet m c
  | [] => by
    unfold memPut
    split
    · rfl
    · simp [memGet, Ne.symm h]
  | (k, b) :: t => by
    unfold memPut
    split
    · split
      · rfl
      · rw [memGet, if_neg (Ne.symm h)]
    · split
      · rename_i hak
        subst hak
        split
        · simp [memGet, Ne.symm h]
        · simp [memGet, Ne.symm h]
      · simp only [memGet]
        rw [memGet_memPut_other h]

/-- Bytes outside a write are not changed. -/
theorem memGet_memWrite_other {c : Nat} :
    ∀ (bs : List Byte) (m : Mem) (a : Nat), c < a ∨ a + bs.length ≤ c → memGet (memWrite m a bs) c = memGet m c
  | [], _, _, _ => rfl
  | b :: bs, m, a, h => by
    rw [memWrite, memGet_memWrite_other bs _ _ (by simp only [List.length_cons] at h; omega)]
    exact memGet_memPut_other (by simp only [List.length_cons] at h; omega)

/-- A byte of a write reads back. -/
theorem memGet_memWrite_same :
    ∀ (bs : List Byte) (m : Mem) (a i : Nat), Memory.wf m = true → (h : i < bs.length) →
      memGet (memWrite m a bs) (a + i) = bs[i]
  | [], _, _, _, _, h => absurd h (Nat.not_lt_zero _)
  | b :: bs, m, a, 0, w, _ => by
    rw [memWrite, memGet_memWrite_other bs _ _ (by omega)]
    exact memGet_memPut_same (lo := 0) w
  | b :: bs, m, a, i + 1, w, h => by
    have := memGet_memWrite_same bs (memPut m a b) (a + 1) i (wf_memPut w a b) (by simpa using h)
    simpa [memWrite, Nat.add_assoc, Nat.add_comm 1 i] using this

/-- Some bytes of a number, with what they stand for. -/
theorem leBytes_length (n x : Nat) : (leBytes n x).length = n := by
  induction n generalizing x with
  | zero => rfl
  | succ n ih => simp [leBytes, ih]

/-- The bytes of a number read as that number, cut to their width (R4). -/
theorem leNat_leBytes (n x : Nat) : leNat (leBytes n x) = x % 256 ^ n := by
  induction n generalizing x with
  | zero => simp [leBytes, leNat, Nat.mod_one]
  | succ n ih =>
    simp only [leBytes, leNat, ih, BitVec.toNat_ofNat]
    have h : x % 256 ^ (n + 1) = x % 256 + 256 * (x / 256 % 256 ^ n) := by
      rw [show (256 : Nat) ^ (n + 1) = 256 * 256 ^ n by rw [Nat.pow_succ, Nat.mul_comm], Nat.mod_mul]
    exact h.symm

/-- What a table holds at a number that was just set. -/
theorem tabGet_tabPut_same {α : Type} (t : Tab α) (a : Nat) (x : α) : tabGet (tabPut t a x) a = some x := by
  induction t with
  | nil => simp [tabPut, tabGet]
  | cons e t ih =>
    obtain ⟨k, v⟩ := e
    unfold tabPut
    split
    · simp [tabGet]
    · split
      · simp [tabGet]
      · rename_i h1 h2
        rw [tabGet, if_neg (fun h => h2 h.symm), ih]

/-- A table at another number is not changed. -/
theorem tabGet_tabPut_other {α : Type} (t : Tab α) {a b : Nat} (x : α) (h : b ≠ a) :
    tabGet (tabPut t a x) b = tabGet t b := by
  induction t with
  | nil => simp [tabPut, tabGet, Ne.symm h]
  | cons e t ih =>
    obtain ⟨k, v⟩ := e
    unfold tabPut
    split
    · rw [tabGet, if_neg (Ne.symm h)]
    · split
      · rename_i hak; subst hak; simp [tabGet, Ne.symm h]
      · simp only [tabGet, ih]

end Sys2Proof.Machine
end

