-- ==== Sys2Proof/Laws/State.lean ====
section
/-! SUPPORT. One lemma for each field of State under each named update, so that no proof unfolds a record update. -/

namespace Sys2Proof.Machine
open Sys2Proof

/-! ### setCore -/

@[simp] theorem setCore_power (s : State) (core : Nat) (x : CoreSt) : (setCore s core x).power = s.power := rfl
@[simp] theorem setCore_mem (s : State) (core : Nat) (x : CoreSt) : (setCore s core x).mem = s.mem := rfl
@[simp] theorem setCore_poison (s : State) (core : Nat) (x : CoreSt) : (setCore s core x).poison = s.poison := rfl
@[simp] theorem setCore_cells (s : State) (core : Nat) (x : CoreSt) : (setCore s core x).cells = s.cells := rfl
@[simp] theorem setCore_last (s : State) (core : Nat) (x : CoreSt) : (setCore s core x).last = s.last := rfl
@[simp] theorem setCore_cores (s : State) (core : Nat) (x : CoreSt) : (setCore s core x).cores = tabPut s.cores core x := rfl
@[simp] theorem setCore_dies (s : State) (core : Nat) (x : CoreSt) : (setCore s core x).dies = s.dies := rfl
@[simp] theorem setCore_blocks (s : State) (core : Nat) (x : CoreSt) : (setCore s core x).blocks = s.blocks := rfl
@[simp] theorem setCore_grids (s : State) (core : Nat) (x : CoreSt) : (setCore s core x).grids = s.grids := rfl
@[simp] theorem setCore_ctxs (s : State) (core : Nat) (x : CoreSt) : (setCore s core x).ctxs = s.ctxs := rfl
@[simp] theorem setCore_parts (s : State) (core : Nat) (x : CoreSt) : (setCore s core x).parts = s.parts := rfl
@[simp] theorem setCore_ports (s : State) (core : Nat) (x : CoreSt) : (setCore s core x).ports = s.ports := rfl
@[simp] theorem setCore_mgmt (s : State) (core : Nat) (x : CoreSt) : (setCore s core x).mgmt = s.mgmt := rfl
@[simp] theorem setCore_out (s : State) (core : Nat) (x : CoreSt) : (setCore s core x).out = s.out := rfl
@[simp] theorem setCore_inputs (s : State) (core : Nat) (x : CoreSt) : (setCore s core x).inputs = s.inputs := rfl
@[simp] theorem setCore_sel (s : State) (core : Nat) (x : CoreSt) : (setCore s core x).sel = s.sel := rfl
@[simp] theorem setCore_free (s : State) (core : Nat) (x : CoreSt) : (setCore s core x).free = s.free := rfl

/-! ### modCore -/

@[simp] theorem modCore_power (s : State) (core : Nat) (f : CoreSt → CoreSt) : (modCore s core f).power = s.power := rfl
@[simp] theorem modCore_mem (s : State) (core : Nat) (f : CoreSt → CoreSt) : (modCore s core f).mem = s.mem := rfl
@[simp] theorem modCore_poison (s : State) (core : Nat) (f : CoreSt → CoreSt) : (modCore s core f).poison = s.poison := rfl
@[simp] theorem modCore_cells (s : State) (core : Nat) (f : CoreSt → CoreSt) : (modCore s core f).cells = s.cells := rfl
@[simp] theorem modCore_last (s : State) (core : Nat) (f : CoreSt → CoreSt) : (modCore s core f).last = s.last := rfl
@[simp] theorem modCore_cores (s : State) (core : Nat) (f : CoreSt → CoreSt) : (modCore s core f).cores = tabPut s.cores core (f (coreOf s core)) := rfl
@[simp] theorem modCore_dies (s : State) (core : Nat) (f : CoreSt → CoreSt) : (modCore s core f).dies = s.dies := rfl
@[simp] theorem modCore_blocks (s : State) (core : Nat) (f : CoreSt → CoreSt) : (modCore s core f).blocks = s.blocks := rfl
@[simp] theorem modCore_grids (s : State) (core : Nat) (f : CoreSt → CoreSt) : (modCore s core f).grids = s.grids := rfl
@[simp] theorem modCore_ctxs (s : State) (core : Nat) (f : CoreSt → CoreSt) : (modCore s core f).ctxs = s.ctxs := rfl
@[simp] theorem modCore_parts (s : State) (core : Nat) (f : CoreSt → CoreSt) : (modCore s core f).parts = s.parts := rfl
@[simp] theorem modCore_ports (s : State) (core : Nat) (f : CoreSt → CoreSt) : (modCore s core f).ports = s.ports := rfl
@[simp] theorem modCore_mgmt (s : State) (core : Nat) (f : CoreSt → CoreSt) : (modCore s core f).mgmt = s.mgmt := rfl
@[simp] theorem modCore_out (s : State) (core : Nat) (f : CoreSt → CoreSt) : (modCore s core f).out = s.out := rfl
@[simp] theorem modCore_inputs (s : State) (core : Nat) (f : CoreSt → CoreSt) : (modCore s core f).inputs = s.inputs := rfl
@[simp] theorem modCore_sel (s : State) (core : Nat) (f : CoreSt → CoreSt) : (modCore s core f).sel = s.sel := rfl
@[simp] theorem modCore_free (s : State) (core : Nat) (f : CoreSt → CoreSt) : (modCore s core f).free = s.free := rfl

/-! ### modDie -/

@[simp] theorem modDie_power (s : State) (d : Nat) (f : Die → Die) : (modDie s d f).power = s.power := rfl
@[simp] theorem modDie_mem (s : State) (d : Nat) (f : Die → Die) : (modDie s d f).mem = s.mem := rfl
@[simp] theorem modDie_poison (s : State) (d : Nat) (f : Die → Die) : (modDie s d f).poison = s.poison := rfl
@[simp] theorem modDie_cells (s : State) (d : Nat) (f : Die → Die) : (modDie s d f).cells = s.cells := rfl
@[simp] theorem modDie_last (s : State) (d : Nat) (f : Die → Die) : (modDie s d f).last = s.last := rfl
@[simp] theorem modDie_cores (s : State) (d : Nat) (f : Die → Die) : (modDie s d f).cores = s.cores := rfl
@[simp] theorem modDie_dies (s : State) (d : Nat) (f : Die → Die) : (modDie s d f).dies = tabPut s.dies d (f (dieOf s d)) := rfl
@[simp] theorem modDie_blocks (s : State) (d : Nat) (f : Die → Die) : (modDie s d f).blocks = s.blocks := rfl
@[simp] theorem modDie_grids (s : State) (d : Nat) (f : Die → Die) : (modDie s d f).grids = s.grids := rfl
@[simp] theorem modDie_ctxs (s : State) (d : Nat) (f : Die → Die) : (modDie s d f).ctxs = s.ctxs := rfl
@[simp] theorem modDie_parts (s : State) (d : Nat) (f : Die → Die) : (modDie s d f).parts = s.parts := rfl
@[simp] theorem modDie_ports (s : State) (d : Nat) (f : Die → Die) : (modDie s d f).ports = s.ports := rfl
@[simp] theorem modDie_mgmt (s : State) (d : Nat) (f : Die → Die) : (modDie s d f).mgmt = s.mgmt := rfl
@[simp] theorem modDie_out (s : State) (d : Nat) (f : Die → Die) : (modDie s d f).out = s.out := rfl
@[simp] theorem modDie_inputs (s : State) (d : Nat) (f : Die → Die) : (modDie s d f).inputs = s.inputs := rfl
@[simp] theorem modDie_sel (s : State) (d : Nat) (f : Die → Die) : (modDie s d f).sel = s.sel := rfl
@[simp] theorem modDie_free (s : State) (d : Nat) (f : Die → Die) : (modDie s d f).free = s.free := rfl

/-! ### modCtx -/

@[simp] theorem modCtx_power (s : State) (p c : Nat) (f : Ctx → Ctx) : (modCtx s p c f).power = s.power := rfl
@[simp] theorem modCtx_mem (s : State) (p c : Nat) (f : Ctx → Ctx) : (modCtx s p c f).mem = s.mem := rfl
@[simp] theorem modCtx_poison (s : State) (p c : Nat) (f : Ctx → Ctx) : (modCtx s p c f).poison = s.poison := rfl
@[simp] theorem modCtx_cells (s : State) (p c : Nat) (f : Ctx → Ctx) : (modCtx s p c f).cells = s.cells := rfl
@[simp] theorem modCtx_last (s : State) (p c : Nat) (f : Ctx → Ctx) : (modCtx s p c f).last = s.last := rfl
@[simp] theorem modCtx_cores (s : State) (p c : Nat) (f : Ctx → Ctx) : (modCtx s p c f).cores = s.cores := rfl
@[simp] theorem modCtx_dies (s : State) (p c : Nat) (f : Ctx → Ctx) : (modCtx s p c f).dies = s.dies := rfl
@[simp] theorem modCtx_blocks (s : State) (p c : Nat) (f : Ctx → Ctx) : (modCtx s p c f).blocks = s.blocks := rfl
@[simp] theorem modCtx_grids (s : State) (p c : Nat) (f : Ctx → Ctx) : (modCtx s p c f).grids = s.grids := rfl
@[simp] theorem modCtx_ctxs (s : State) (p c : Nat) (f : Ctx → Ctx) : (modCtx s p c f).ctxs = tabPut s.ctxs (ctxKey p c) (f (ctxOf s p c)) := rfl
@[simp] theorem modCtx_parts (s : State) (p c : Nat) (f : Ctx → Ctx) : (modCtx s p c f).parts = s.parts := rfl
@[simp] theorem modCtx_ports (s : State) (p c : Nat) (f : Ctx → Ctx) : (modCtx s p c f).ports = s.ports := rfl
@[simp] theorem modCtx_mgmt (s : State) (p c : Nat) (f : Ctx → Ctx) : (modCtx s p c f).mgmt = s.mgmt := rfl
@[simp] theorem modCtx_out (s : State) (p c : Nat) (f : Ctx → Ctx) : (modCtx s p c f).out = s.out := rfl
@[simp] theorem modCtx_inputs (s : State) (p c : Nat) (f : Ctx → Ctx) : (modCtx s p c f).inputs = s.inputs := rfl
@[simp] theorem modCtx_sel (s : State) (p c : Nat) (f : Ctx → Ctx) : (modCtx s p c f).sel = s.sel := rfl
@[simp] theorem modCtx_free (s : State) (p c : Nat) (f : Ctx → Ctx) : (modCtx s p c f).free = s.free := rfl

/-! ### modPart -/

@[simp] theorem modPart_power (s : State) (p : Nat) (f : Part → Part) : (modPart s p f).power = s.power := rfl
@[simp] theorem modPart_mem (s : State) (p : Nat) (f : Part → Part) : (modPart s p f).mem = s.mem := rfl
@[simp] theorem modPart_poison (s : State) (p : Nat) (f : Part → Part) : (modPart s p f).poison = s.poison := rfl
@[simp] theorem modPart_cells (s : State) (p : Nat) (f : Part → Part) : (modPart s p f).cells = s.cells := rfl
@[simp] theorem modPart_last (s : State) (p : Nat) (f : Part → Part) : (modPart s p f).last = s.last := rfl
@[simp] theorem modPart_cores (s : State) (p : Nat) (f : Part → Part) : (modPart s p f).cores = s.cores := rfl
@[simp] theorem modPart_dies (s : State) (p : Nat) (f : Part → Part) : (modPart s p f).dies = s.dies := rfl
@[simp] theorem modPart_blocks (s : State) (p : Nat) (f : Part → Part) : (modPart s p f).blocks = s.blocks := rfl
@[simp] theorem modPart_grids (s : State) (p : Nat) (f : Part → Part) : (modPart s p f).grids = s.grids := rfl
@[simp] theorem modPart_ctxs (s : State) (p : Nat) (f : Part → Part) : (modPart s p f).ctxs = s.ctxs := rfl
@[simp] theorem modPart_parts (s : State) (p : Nat) (f : Part → Part) : (modPart s p f).parts = tabPut s.parts p (f (partOf s p)) := rfl
@[simp] theorem modPart_ports (s : State) (p : Nat) (f : Part → Part) : (modPart s p f).ports = s.ports := rfl
@[simp] theorem modPart_mgmt (s : State) (p : Nat) (f : Part → Part) : (modPart s p f).mgmt = s.mgmt := rfl
@[simp] theorem modPart_out (s : State) (p : Nat) (f : Part → Part) : (modPart s p f).out = s.out := rfl
@[simp] theorem modPart_inputs (s : State) (p : Nat) (f : Part → Part) : (modPart s p f).inputs = s.inputs := rfl
@[simp] theorem modPart_sel (s : State) (p : Nat) (f : Part → Part) : (modPart s p f).sel = s.sel := rfl
@[simp] theorem modPart_free (s : State) (p : Nat) (f : Part → Part) : (modPart s p f).free = s.free := rfl

/-! ### modGrid -/

@[simp] theorem modGrid_power (s : State) (g : Nat) (f : Grid → Grid) : (modGrid s g f).power = s.power := rfl
@[simp] theorem modGrid_mem (s : State) (g : Nat) (f : Grid → Grid) : (modGrid s g f).mem = s.mem := rfl
@[simp] theorem modGrid_poison (s : State) (g : Nat) (f : Grid → Grid) : (modGrid s g f).poison = s.poison := rfl
@[simp] theorem modGrid_cells (s : State) (g : Nat) (f : Grid → Grid) : (modGrid s g f).cells = s.cells := rfl
@[simp] theorem modGrid_last (s : State) (g : Nat) (f : Grid → Grid) : (modGrid s g f).last = s.last := rfl
@[simp] theorem modGrid_cores (s : State) (g : Nat) (f : Grid → Grid) : (modGrid s g f).cores = s.cores := rfl
@[simp] theorem modGrid_dies (s : State) (g : Nat) (f : Grid → Grid) : (modGrid s g f).dies = s.dies := rfl
@[simp] theorem modGrid_blocks (s : State) (g : Nat) (f : Grid → Grid) : (modGrid s g f).blocks = s.blocks := rfl
@[simp] theorem modGrid_grids (s : State) (g : Nat) (f : Grid → Grid) : (modGrid s g f).grids = s.grids.modify g f := rfl
@[simp] theorem modGrid_ctxs (s : State) (g : Nat) (f : Grid → Grid) : (modGrid s g f).ctxs = s.ctxs := rfl
@[simp] theorem modGrid_parts (s : State) (g : Nat) (f : Grid → Grid) : (modGrid s g f).parts = s.parts := rfl
@[simp] theorem modGrid_ports (s : State) (g : Nat) (f : Grid → Grid) : (modGrid s g f).ports = s.ports := rfl
@[simp] theorem modGrid_mgmt (s : State) (g : Nat) (f : Grid → Grid) : (modGrid s g f).mgmt = s.mgmt := rfl
@[simp] theorem modGrid_out (s : State) (g : Nat) (f : Grid → Grid) : (modGrid s g f).out = s.out := rfl
@[simp] theorem modGrid_inputs (s : State) (g : Nat) (f : Grid → Grid) : (modGrid s g f).inputs = s.inputs := rfl
@[simp] theorem modGrid_sel (s : State) (g : Nat) (f : Grid → Grid) : (modGrid s g f).sel = s.sel := rfl
@[simp] theorem modGrid_free (s : State) (g : Nat) (f : Grid → Grid) : (modGrid s g f).free = s.free := rfl

/-! ### modBlock -/

@[simp] theorem modBlock_power (s : State) (b : Nat) (f : Block → Block) : (modBlock s b f).power = s.power := rfl
@[simp] theorem modBlock_mem (s : State) (b : Nat) (f : Block → Block) : (modBlock s b f).mem = s.mem := rfl
@[simp] theorem modBlock_poison (s : State) (b : Nat) (f : Block → Block) : (modBlock s b f).poison = s.poison := rfl
@[simp] theorem modBlock_cells (s : State) (b : Nat) (f : Block → Block) : (modBlock s b f).cells = s.cells := rfl
@[simp] theorem modBlock_last (s : State) (b : Nat) (f : Block → Block) : (modBlock s b f).last = s.last := rfl
@[simp] theorem modBlock_cores (s : State) (b : Nat) (f : Block → Block) : (modBlock s b f).cores = s.cores := rfl
@[simp] theorem modBlock_dies (s : State) (b : Nat) (f : Block → Block) : (modBlock s b f).dies = s.dies := rfl
@[simp] theorem modBlock_blocks (s : State) (b : Nat) (f : Block → Block) : (modBlock s b f).blocks = s.blocks.modify b f := rfl
@[simp] theorem modBlock_grids (s : State) (b : Nat) (f : Block → Block) : (modBlock s b f).grids = s.grids := rfl
@[simp] theorem modBlock_ctxs (s : State) (b : Nat) (f : Block → Block) : (modBlock s b f).ctxs = s.ctxs := rfl
@[simp] theorem modBlock_parts (s : State) (b : Nat) (f : Block → Block) : (modBlock s b f).parts = s.parts := rfl
@[simp] theorem modBlock_ports (s : State) (b : Nat) (f : Block → Block) : (modBlock s b f).ports = s.ports := rfl
@[simp] theorem modBlock_mgmt (s : State) (b : Nat) (f : Block → Block) : (modBlock s b f).mgmt = s.mgmt := rfl
@[simp] theorem modBlock_out (s : State) (b : Nat) (f : Block → Block) : (modBlock s b f).out = s.out := rfl
@[simp] theorem modBlock_inputs (s : State) (b : Nat) (f : Block → Block) : (modBlock s b f).inputs = s.inputs := rfl
@[simp] theorem modBlock_sel (s : State) (b : Nat) (f : Block → Block) : (modBlock s b f).sel = s.sel := rfl
@[simp] theorem modBlock_free (s : State) (b : Nat) (f : Block → Block) : (modBlock s b f).free = s.free := rfl

/-! ### modCord -/

@[simp] theorem modCord_power (s : State) (b c : Nat) (f : Cord → Cord) : (modCord s b c f).power = s.power := rfl
@[simp] theorem modCord_mem (s : State) (b c : Nat) (f : Cord → Cord) : (modCord s b c f).mem = s.mem := rfl
@[simp] theorem modCord_poison (s : State) (b c : Nat) (f : Cord → Cord) : (modCord s b c f).poison = s.poison := rfl
@[simp] theorem modCord_cells (s : State) (b c : Nat) (f : Cord → Cord) : (modCord s b c f).cells = s.cells := rfl
@[simp] theorem modCord_last (s : State) (b c : Nat) (f : Cord → Cord) : (modCord s b c f).last = s.last := rfl
@[simp] theorem modCord_cores (s : State) (b c : Nat) (f : Cord → Cord) : (modCord s b c f).cores = s.cores := rfl
@[simp] theorem modCord_dies (s : State) (b c : Nat) (f : Cord → Cord) : (modCord s b c f).dies = s.dies := rfl
@[simp] theorem modCord_blocks (s : State) (b c : Nat) (f : Cord → Cord) : (modCord s b c f).blocks = s.blocks.modify b (fun x => x.modCord c f) := rfl
@[simp] theorem modCord_grids (s : State) (b c : Nat) (f : Cord → Cord) : (modCord s b c f).grids = s.grids := rfl
@[simp] theorem modCord_ctxs (s : State) (b c : Nat) (f : Cord → Cord) : (modCord s b c f).ctxs = s.ctxs := rfl
@[simp] theorem modCord_parts (s : State) (b c : Nat) (f : Cord → Cord) : (modCord s b c f).parts = s.parts := rfl
@[simp] theorem modCord_ports (s : State) (b c : Nat) (f : Cord → Cord) : (modCord s b c f).ports = s.ports := rfl
@[simp] theorem modCord_mgmt (s : State) (b c : Nat) (f : Cord → Cord) : (modCord s b c f).mgmt = s.mgmt := rfl
@[simp] theorem modCord_out (s : State) (b c : Nat) (f : Cord → Cord) : (modCord s b c f).out = s.out := rfl
@[simp] theorem modCord_inputs (s : State) (b c : Nat) (f : Cord → Cord) : (modCord s b c f).inputs = s.inputs := rfl
@[simp] theorem modCord_sel (s : State) (b c : Nat) (f : Cord → Cord) : (modCord s b c f).sel = s.sel := rfl
@[simp] theorem modCord_free (s : State) (b c : Nat) (f : Cord → Cord) : (modCord s b c f).free = s.free := rfl

/-! ### takeFree -/

@[simp] theorem takeFree_power (s : State) : (takeFree s).2.power = s.power := rfl
@[simp] theorem takeFree_mem (s : State) : (takeFree s).2.mem = s.mem := rfl
@[simp] theorem takeFree_poison (s : State) : (takeFree s).2.poison = s.poison := rfl
@[simp] theorem takeFree_cells (s : State) : (takeFree s).2.cells = s.cells := rfl
@[simp] theorem takeFree_last (s : State) : (takeFree s).2.last = s.last := rfl
@[simp] theorem takeFree_cores (s : State) : (takeFree s).2.cores = s.cores := rfl
@[simp] theorem takeFree_dies (s : State) : (takeFree s).2.dies = s.dies := rfl
@[simp] theorem takeFree_blocks (s : State) : (takeFree s).2.blocks = s.blocks := rfl
@[simp] theorem takeFree_grids (s : State) : (takeFree s).2.grids = s.grids := rfl
@[simp] theorem takeFree_ctxs (s : State) : (takeFree s).2.ctxs = s.ctxs := rfl
@[simp] theorem takeFree_parts (s : State) : (takeFree s).2.parts = s.parts := rfl
@[simp] theorem takeFree_ports (s : State) : (takeFree s).2.ports = s.ports := rfl
@[simp] theorem takeFree_mgmt (s : State) : (takeFree s).2.mgmt = s.mgmt := rfl
@[simp] theorem takeFree_out (s : State) : (takeFree s).2.out = s.out := rfl
@[simp] theorem takeFree_inputs (s : State) : (takeFree s).2.inputs = s.inputs := rfl
@[simp] theorem takeFree_sel (s : State) : (takeFree s).2.sel = s.sel := rfl
@[simp] theorem takeFree_free (s : State) : (takeFree s).2.free = s.free + 1 := rfl

/-! ### A cord and its strands -/

@[simp] theorem Cord.modLane_s (c : Cord) (l : Nat) (g : Strand → Strand) : (c.modLane l g).s = c.s := rfl
@[simp] theorem Cord.modLane_k (c : Cord) (l : Nat) (g : Strand → Strand) : (c.modLane l g).k = c.k := rfl
@[simp] theorem Cord.modLane_f (c : Cord) (l : Nat) (g : Strand → Strand) : (c.modLane l g).f = c.f := rfl
@[simp] theorem Cord.modLane_queue (c : Cord) (l : Nat) (g : Strand → Strand) : (c.modLane l g).queue = c.queue := rfl
@[simp] theorem Cord.modLane_fpflags (c : Cord) (l : Nat) (g : Strand → Strand) : (c.modLane l g).fpflags = c.fpflags := rfl
@[simp] theorem Cord.modLane_trapctl (c : Cord) (l : Nat) (g : Strand → Strand) : (c.modLane l g).trapctl = c.trapctl := rfl
@[simp] theorem Cord.modLane_ncorr (c : Cord) (l : Nat) (g : Strand → Strand) : (c.modLane l g).ncorr = c.ncorr := rfl
@[simp] theorem Cord.modLane_drop (c : Cord) (l : Nat) (g : Strand → Strand) : (c.modLane l g).drop = c.drop := rfl
@[simp] theorem Cord.modLane_lcause (c : Cord) (l : Nat) (g : Strand → Strand) : (c.modLane l g).lcause = c.lcause := rfl
@[simp] theorem Cord.modLane_lout (c : Cord) (l : Nat) (g : Strand → Strand) : (c.modLane l g).lout = c.lout := rfl
@[simp] theorem Cord.modLane_handler (c : Cord) (l : Nat) (g : Strand → Strand) : (c.modLane l g).handler = c.handler := rfl
@[simp] theorem Cord.modLane_retired (c : Cord) (l : Nat) (g : Strand → Strand) : (c.modLane l g).retired = c.retired := rfl
@[simp] theorem Cord.modLane_cycle (c : Cord) (l : Nat) (g : Strand → Strand) : (c.modLane l g).cycle = c.cycle := rfl
@[simp] theorem Cord.modLane_slot (c : Cord) (l : Nat) (g : Strand → Strand) : (c.modLane l g).slot = c.slot := rfl
@[simp] theorem Cord.modLane_passes (c : Cord) (l : Nat) (g : Strand → Strand) : (c.modLane l g).passes = c.passes := rfl
@[simp] theorem Cord.modLane_active (c : Cord) (l : Nat) (g : Strand → Strand) : (c.modLane l g).active = c.active := rfl
@[simp] theorem Cord.modLane_round (c : Cord) (l : Nat) (g : Strand → Strand) : (c.modLane l g).round = c.round := rfl
@[simp] theorem Cord.modLane_ops (c : Cord) (l : Nat) (g : Strand → Strand) : (c.modLane l g).ops = c.ops := rfl
@[simp] theorem Cord.modLane_nextOp (c : Cord) (l : Nat) (g : Strand → Strand) : (c.modLane l g).nextOp = c.nextOp := rfl
@[simp] theorem Cord.modLane_reports (c : Cord) (l : Nat) (g : Strand → Strand) : (c.modLane l g).reports = c.reports := rfl
@[simp] theorem Cord.modLane_lates (c : Cord) (l : Nat) (g : Strand → Strand) : (c.modLane l g).lates = c.lates := rfl
@[simp] theorem Cord.modLane_region (c : Cord) (l : Nat) (g : Strand → Strand) : (c.modLane l g).region = c.region := rfl
@[simp] theorem Cord.modLane_slow (c : Cord) (l : Nat) (g : Strand → Strand) : (c.modLane l g).slow = c.slow := rfl
@[simp] theorem Cord.modLane_suspend (c : Cord) (l : Nat) (g : Strand → Strand) : (c.modLane l g).suspend = c.suspend := rfl
@[simp] theorem Cord.modLane_debugger (c : Cord) (l : Nat) (g : Strand → Strand) : (c.modLane l g).debugger = c.debugger := rfl
@[simp] theorem Cord.modLane_lastEnd (c : Cord) (l : Nat) (g : Strand → Strand) : (c.modLane l g).lastEnd = c.lastEnd := rfl
@[simp] theorem Cord.modLane_lastRet (c : Cord) (l : Nat) (g : Strand → Strand) : (c.modLane l g).lastRet = c.lastRet := rfl
@[simp] theorem Cord.modLane_killed (c : Cord) (l : Nat) (g : Strand → Strand) : (c.modLane l g).killed = c.killed := rfl
@[simp] theorem Cord.modLane_ended (c : Cord) (l : Nat) (g : Strand → Strand) : (c.modLane l g).ended = c.ended := rfl
@[simp] theorem Cord.modLanes_s (c : Cord) (ls : List Nat) (g : Strand → Strand) : (c.modLanes ls g).s = c.s := rfl
@[simp] theorem Cord.modLanes_k (c : Cord) (ls : List Nat) (g : Strand → Strand) : (c.modLanes ls g).k = c.k := rfl
@[simp] theorem Cord.modLanes_f (c : Cord) (ls : List Nat) (g : Strand → Strand) : (c.modLanes ls g).f = c.f := rfl
@[simp] theorem Cord.modLanes_queue (c : Cord) (ls : List Nat) (g : Strand → Strand) : (c.modLanes ls g).queue = c.queue := rfl
@[simp] theorem Cord.modLanes_fpflags (c : Cord) (ls : List Nat) (g : Strand → Strand) : (c.modLanes ls g).fpflags = c.fpflags := rfl
@[simp] theorem Cord.modLanes_trapctl (c : Cord) (ls : List Nat) (g : Strand → Strand) : (c.modLanes ls g).trapctl = c.trapctl := rfl
@[simp] theorem Cord.modLanes_ncorr (c : Cord) (ls : List Nat) (g : Strand → Strand) : (c.modLanes ls g).ncorr = c.ncorr := rfl
@[simp] theorem Cord.modLanes_drop (c : Cord) (ls : List Nat) (g : Strand → Strand) : (c.modLanes ls g).drop = c.drop := rfl
@[simp] theorem Cord.modLanes_lcause (c : Cord) (ls : List Nat) (g : Strand → Strand) : (c.modLanes ls g).lcause = c.lcause := rfl
@[simp] theorem Cord.modLanes_lout (c : Cord) (ls : List Nat) (g : Strand → Strand) : (c.modLanes ls g).lout = c.lout := rfl
@[simp] theorem Cord.modLanes_handler (c : Cord) (ls : List Nat) (g : Strand → Strand) : (c.modLanes ls g).handler = c.handler := rfl
@[simp] theorem Cord.modLanes_retired (c : Cord) (ls : List Nat) (g : Strand → Strand) : (c.modLanes ls g).retired = c.retired := rfl
@[simp] theorem Cord.modLanes_cycle (c : Cord) (ls : List Nat) (g : Strand → Strand) : (c.modLanes ls g).cycle = c.cycle := rfl
@[simp] theorem Cord.modLanes_slot (c : Cord) (ls : List Nat) (g : Strand → Strand) : (c.modLanes ls g).slot = c.slot := rfl
@[simp] theorem Cord.modLanes_passes (c : Cord) (ls : List Nat) (g : Strand → Strand) : (c.modLanes ls g).passes = c.passes := rfl
@[simp] theorem Cord.modLanes_active (c : Cord) (ls : List Nat) (g : Strand → Strand) : (c.modLanes ls g).active = c.active := rfl
@[simp] theorem Cord.modLanes_round (c : Cord) (ls : List Nat) (g : Strand → Strand) : (c.modLanes ls g).round = c.round := rfl
@[simp] theorem Cord.modLanes_ops (c : Cord) (ls : List Nat) (g : Strand → Strand) : (c.modLanes ls g).ops = c.ops := rfl
@[simp] theorem Cord.modLanes_nextOp (c : Cord) (ls : List Nat) (g : Strand → Strand) : (c.modLanes ls g).nextOp = c.nextOp := rfl
@[simp] theorem Cord.modLanes_reports (c : Cord) (ls : List Nat) (g : Strand → Strand) : (c.modLanes ls g).reports = c.reports := rfl
@[simp] theorem Cord.modLanes_lates (c : Cord) (ls : List Nat) (g : Strand → Strand) : (c.modLanes ls g).lates = c.lates := rfl
@[simp] theorem Cord.modLanes_region (c : Cord) (ls : List Nat) (g : Strand → Strand) : (c.modLanes ls g).region = c.region := rfl
@[simp] theorem Cord.modLanes_slow (c : Cord) (ls : List Nat) (g : Strand → Strand) : (c.modLanes ls g).slow = c.slow := rfl
@[simp] theorem Cord.modLanes_suspend (c : Cord) (ls : List Nat) (g : Strand → Strand) : (c.modLanes ls g).suspend = c.suspend := rfl
@[simp] theorem Cord.modLanes_debugger (c : Cord) (ls : List Nat) (g : Strand → Strand) : (c.modLanes ls g).debugger = c.debugger := rfl
@[simp] theorem Cord.modLanes_lastEnd (c : Cord) (ls : List Nat) (g : Strand → Strand) : (c.modLanes ls g).lastEnd = c.lastEnd := rfl
@[simp] theorem Cord.modLanes_lastRet (c : Cord) (ls : List Nat) (g : Strand → Strand) : (c.modLanes ls g).lastRet = c.lastRet := rfl
@[simp] theorem Cord.modLanes_killed (c : Cord) (ls : List Nat) (g : Strand → Strand) : (c.modLanes ls g).killed = c.killed := rfl
@[simp] theorem Cord.modLanes_ended (c : Cord) (ls : List Nat) (g : Strand → Strand) : (c.modLanes ls g).ended = c.ended := rfl

/-! ### coreBoundary -/

@[simp] theorem coreBoundary_power (s : State) (core : Nat) : (coreBoundary s core).power = s.power := rfl
@[simp] theorem coreBoundary_mem (s : State) (core : Nat) : (coreBoundary s core).mem = s.mem := rfl
@[simp] theorem coreBoundary_poison (s : State) (core : Nat) : (coreBoundary s core).poison = s.poison := rfl
@[simp] theorem coreBoundary_cells (s : State) (core : Nat) : (coreBoundary s core).cells = s.cells := rfl
@[simp] theorem coreBoundary_last (s : State) (core : Nat) : (coreBoundary s core).last = s.last := rfl
@[simp] theorem coreBoundary_dies (s : State) (core : Nat) : (coreBoundary s core).dies = s.dies := rfl
@[simp] theorem coreBoundary_blocks (s : State) (core : Nat) : (coreBoundary s core).blocks = s.blocks := rfl
@[simp] theorem coreBoundary_grids (s : State) (core : Nat) : (coreBoundary s core).grids = s.grids := rfl
@[simp] theorem coreBoundary_ctxs (s : State) (core : Nat) : (coreBoundary s core).ctxs = s.ctxs := rfl
@[simp] theorem coreBoundary_parts (s : State) (core : Nat) : (coreBoundary s core).parts = s.parts := rfl
@[simp] theorem coreBoundary_ports (s : State) (core : Nat) : (coreBoundary s core).ports = s.ports := rfl
@[simp] theorem coreBoundary_mgmt (s : State) (core : Nat) : (coreBoundary s core).mgmt = s.mgmt := rfl
@[simp] theorem coreBoundary_out (s : State) (core : Nat) : (coreBoundary s core).out = s.out := rfl
@[simp] theorem coreBoundary_inputs (s : State) (core : Nat) : (coreBoundary s core).inputs = s.inputs := rfl
@[simp] theorem coreBoundary_sel (s : State) (core : Nat) : (coreBoundary s core).sel = s.sel := rfl
@[simp] theorem coreBoundary_free (s : State) (core : Nat) : (coreBoundary s core).free = s.free := rfl

end Sys2Proof.Machine
end

