-- ==== Sys2Proof/Tests/Slice0.lean ====
section
/-! SUPPORT. Tests: ill-formed terms that the checks refuse, words written out from the encoding tables, results that
the spec works out, and for each statement concrete states and operands that meet its hypotheses. -/

namespace Sys2Proof.Tests
set_option Elab.async false
open Sys2Proof Sys2Proof.Machine Sys2Proof.Claims

/-! ### Well-formedness: one ill-formed term for each check -/

/-- A well-formed instruction: ADD.n32 v14, v8, v10. -/
def addForm : LForm := { blank with ty := 2, a := 8, b := 10, d := 14 }

theorem test_wf_good : Instr.wellFormed (.add addForm) = true := by decide +kernel

/-- A step of the device has no words. -/
theorem test_wf_event : Instr.wellFormed .version = false := by decide +kernel

/-- An unassigned opcode is one that no row of the opcode table has: 0x08 is ADD.b32's word, 0x7C has opcode 0x1F. -/
theorem test_wf_unassigned : Instr.canonical (.unassignedOpcode (.short 0x08)) = false
    ∧ Instr.canonical (.unassignedOpcode (.short 0x7C)) = true := by decide +kernel

/-- Row 2 of Table 3-6: a privileged opcode, and an unassigned one. -/
theorem test_wf_row2 : Instr.wellFormed (.fwsave { blank with a := 8, asc := true }) = false
    ∧ Instr.wellFormed (.unassignedOpcode (.short 0x7C)) = false := by decide +kernel

/-- Row 3: a type that the entry does not admit, and type code 15. -/
theorem test_wf_row3 : Instr.wellFormed (.add { addForm with ty := 3 }) = false
    ∧ Instr.wellFormed (.mov { addForm with ty := 15, b := 0 }) = false := by decide +kernel

/-- Row 4: a reserved field, PNEG without PRED, a scalar form not admitted, a scalar form with a predicate, a literal
form not admitted. -/
theorem test_wf_row4 : Instr.wellFormed (.not { addForm with ty := 0 }) = false
    ∧ Instr.wellFormed (.add { addForm with pneg := true }) = false
    ∧ Instr.wellFormed (.icmp { addForm with d := 1, asc := true, bsc := true }) = false
    ∧ Instr.wellFormed (.add { addForm with asc := true, bsc := true, pred := 1 }) = false
    ∧ Instr.wellFormed (.exit { blank with lit := some 0 }) = false := by decide +kernel

/-- Row 4: SETF without a valid flag of the clause. -/
theorem test_wf_flag : decodeTrap { V := 256, W := 16, aval := false, bval := true, injected := false }
      (.ld { blank with d := 1, c := 10, asc := true, setf := true }) = some .illegalOpcode
    ∧ decodeTrap { V := 256, W := 16, aval := true, bval := false, injected := false }
      (.ld { blank with d := 1, c := 10, asc := true, setf := true }) = none := by decide +kernel

/-- Row 4 on a clause header (R53): a flag above 11, a field of a flag that is not valid, one flag named twice. -/
theorem test_wf_header : Header.ok { fetchClause with flagA := 12 } = false
    ∧ Header.ok { fetchClause with bval := false } = false
    ∧ Header.ok { fetchClause with flagB := 0 } = false ∧ Header.ok fetchClause = true := by decide +kernel

/-- Row 5: a vector register past V, an odd pair, a scalar past s63, a predicate past p7, a mask past k11. -/
theorem test_wf_row5 : Instr.wf 16 16 (.add { addForm with a := 16 }) = false
    ∧ Instr.wellFormed (.add { addForm with ty := 4, a := 9 }) = false
    ∧ Instr.wellFormed (.add { addForm with bsc := true, b := 64 }) = false
    ∧ Instr.wellFormed (.pnot { blank with d := 8, a := 1 }) = false
    ∧ Instr.wellFormed (.join { blank with a := 12 }) = false := by decide +kernel

/-- Row 6: two words of a pair that write one register. -/
theorem test_wf_row6 : pairTrap { V := 256, W := 16, aval := true, bval := true, injected := false }
      (.addShort { blankS with ty := 2, a := 1, d := 5, m := true }) (.addShort { blankS with ty := 2, a := 2, d := 5 })
    = some .illegalPair := by decide +kernel

/-! ### Decoding -/

/-- Fields that all differ from 0 and from one another where their widths allow. -/
def sampleLong : LForm :=
  { d := 0x21, a := 0x43, b := 0x65, c := 0x87, pred := 5, pneg := true, ty := 0xA, mod := 9, fsel := true, setf := false,
    asc := true, bsc := false, mod2 := 0xC, lit := none }
def sampleShort : SForm := { ty := 0xA, pneg := true, pred := 5, a := 0x43, d := 0x21, m := false }

/-- Words whose second is mod2 C, ASC and FSEL, mod 9, type A, PNEG with p5, c 0x87, high digit of b 6 (Table 3-4). -/
def decodesTo (l : List (Word × (LForm → Instr))) : Bool :=
  l.all (fun e => (decodeWords [e.1, 0xC59AD876]).toOption == some (e.2 sampleLong, 2))


/-- Long opcodes 0x000 to 0x0FF of Table 3-11, each in bits 11..2 of its word. -/
theorem test_decode_arithmetic : decodesTo [
   (0x54321002, .mov), (0x54321006, .movi), (0x5432100A, .sel), (0x5432100E, .add), (0x54321012, .sub),
    (0x54321016, .addc), (0x5432101A, .subb), (0x5432101E, .mul), (0x54321022, .mulh), (0x54321026, .mad),
    (0x5432102A, .neg), (0x5432102E, .abs), (0x54321032, .min), (0x54321036, .max), (0x54321042, .and),
    (0x54321046, .or), (0x5432104A, .xor), (0x5432104E, .not), (0x54321052, .shl), (0x54321056, .shr),
    (0x5432105A, .sar), (0x5432105E, .rot), (0x54321062, .popc), (0x54321066, .clz), (0x5432106A, .brev),
    (0x5432106E, .bfe), (0x54321072, .bfi), (0x54321076, .lea), (0x54321082, .icmp), (0x543210A2, .pset),
    (0x543210A6, .pand), (0x543210AA, .por), (0x543210AE, .pxor), (0x543210B2, .pnot)] = true := by decide +kernel

/-- Long opcodes 0x100 to 0x1FF of Table 3-11, each in bits 11..2 of its word. -/
theorem test_decode_float : decodesTo [
   (0x54321402, .fadd), (0x54321406, .fsub), (0x5432140A, .fmul), (0x5432140E, .ffma), (0x54321412, .fmin),
    (0x54321416, .fmax), (0x5432141A, .fcmp), (0x5432141E, .fclass), (0x54321422, .fsat), (0x54321602, .div),
    (0x54321606, .rem), (0x5432160A, .rcp), (0x5432160E, .rsq), (0x54321612, .sqrt), (0x54321616, .exp2),
    (0x5432161A, .log2), (0x5432161E, .sin), (0x54321622, .cos), (0x54321626, .tanh), (0x54321702, .cvt),
    (0x54321706, .pack), (0x5432170A, .unpack), (0x5432170E, .cvtsc)] = true := by decide +kernel

/-- Long opcodes 0x200 to 0x27F of Table 3-11, each in bits 11..2 of its word. -/
theorem test_decode_control : decodesTo [
   (0x54321802, .bra), (0x54321806, .brx), (0x5432180A, .call), (0x5432180E, .callx), (0x54321812, .ret),
    (0x54321816, .exit), (0x5432181A, .yield), (0x54321822, .join), (0x54321826, .leave), (0x5432182A, .waitm),
    (0x54321832, .kset), (0x54321836, .kmov), (0x5432183A, .kand), (0x5432183E, .kor), (0x54321842, .kpop),
    (0x5432187E, .nopLong)] = true := by decide +kernel

/-- Long opcodes 0x280 to 0x2FF of Table 3-11, each in bits 11..2 of its word. -/
theorem test_decode_cross_lane_and_system : decodesTo [
   (0x54321A02, .vote), (0x54321A06, .shfl), (0x54321A0A, .shflp), (0x54321A0E, .reduce), (0x54321A12, .scan),
    (0x54321A16, .matchLanes), (0x54321B02, .bar), (0x54321B06, .barb), (0x54321B0A, .gbar),
    (0x54321B12, .launch), (0x54321B16, .waitch), (0x54321B22, .mfs), (0x54321B26, .mts), (0x54321B42, .trap),
    (0x54321B46, .bkpt), (0x54321B4A, .tret), (0x54321B4E, .tqpeek), (0x54321B52, .tqdrop),
    (0x54321B56, .rgnend), (0x54321B5A, .chkpt), (0x54321BC2, .fwsave), (0x54321BC6, .fwrest),
    (0x54321BCA, .fwarr), (0x54321BCE, .fwend)] = true := by decide +kernel

/-- Long opcodes 0x300 to 0x3BF of Table 3-11, each in bits 11..2 of its word. -/
theorem test_decode_memory : decodesTo [
   (0x54321C02, .ld), (0x54321C06, .st), (0x54321C0A, .ldx), (0x54321C0E, .stx), (0x54321C12, .ldc),
    (0x54321C16, .stc), (0x54321C22, .phase), (0x54321C26, .fenceX), (0x54321C2A, .fenceP),
    (0x54321C32, .pref), (0x54321E02, .atom), (0x54321E06, .cas), (0x54321E0A, .red), (0x54321E0E, .atomr),
    (0x54321E12, .cqpop), (0x54321E22, .tst), (0x54321E26, .retract), (0x54321E2A, .tcommit)] = true := by decide +kernel

/-- Long opcodes 0x3C0 to 0x3FF of Table 3-11, each in bits 11..2 of its word. -/
theorem test_decode_tensor_and_engines : decodesTo [
   (0x54321F02, .tdset), (0x54321F06, .tdget), (0x54321F0A, .tdinv), (0x54321F12, .lookup),
    (0x54321F16, .tagset), (0x54321F1A, .tagclr), (0x54321F1E, .pres), (0x54321F22, .kick),
    (0x54321F26, .boinit), (0x54321F2A, .boarrive), (0x54321F2E, .bowait), (0x54321F42, .mzero),
    (0x54321F46, .mma), (0x54321F4A, .mmas), (0x54321F4E, .mdrain), (0x54321F52, .maccld), (0x54321F62, .coll),
    (0x54321F66, .gse)] = true := by decide +kernel

/-- The short opcodes of Table 3-3, each in bits 7..2 of its word. -/
theorem test_decode_short : ([
   (0xAD432104, .movShort), (0xAD432108, .addShort), (0xAD43210C, .subShort), (0xAD432110, .mulShort),
    (0xAD432114, .mulhShort), (0xAD432118, .minShort), (0xAD43211C, .maxShort), (0xAD432120, .andShort),
    (0xAD432124, .orShort), (0xAD432128, .xorShort), (0xAD43212C, .notShort), (0xAD432130, .negShort),
    (0xAD432134, .absShort), (0xAD432138, .shlShort), (0xAD43213C, .shrShort), (0xAD432140, .sarShort),
    (0xAD432144, .rotShort), (0xAD432148, .popcShort), (0xAD43214C, .clzShort), (0xAD432150, .brevShort),
    (0xAD432154, .faddShort), (0xAD432158, .fsubShort), (0xAD43215C, .fmulShort), (0xAD432160, .fminShort),
    (0xAD432164, .fmaxShort), (0xAD432168, .fsatShort), (0xAD43216C, .nop)] : List (Word × (SForm → Instr))).all
    (fun e => (decodeWords [e.1]).toOption == some (e.2 sampleShort, 1)) = true := by decide +kernel

/-! ### Words written out bit by bit (Tables 3-2, 3-4 and 3-8), one of each family -/

/-- `.clause` with flag A = f1: RGN, YIELD, BVAL, FLAGB, AVAL, FLAGA, WAIT, opcode 0, length 0. -/
theorem test_bits_header : (decodeWords [0b0_0_0_0000_1_0001_000000000000_000000_00]).toOption
    = some (.clauseHeader { rgn := false, yield := false, bval := false, flagB := 0, aval := true, flagA := 1, wait := 0 }, 1) := by
  decide +kernel

/-- ADD.n32 v10, v0 as a short form: TYPE, PNEG, PRED, A, D, opcode 0x02, length 0. -/
theorem test_bits_short : (decodeWords [0b0010_0_000_00000000_00001010_000010_00]).toOption
    = some (.addShort { blankS with ty := 2, d := 10 }, 1) := by decide +kernel

/-- MUL.n32 v10, v11, v13: low b, A, D, opcode 0x007, length 2; MOD2, BSC ASC SETF FSEL, MOD, TYPE, PNEG PRED, C, high b. -/
theorem test_bits_integer :
    (decodeWords [0b1101_00001011_00001010_0000000111_10, 0b0000_0000_0000_0010_0000_00000000_0000]).toOption
    = some (.mul { blank with d := 10, a := 11, b := 13, ty := 2 }, 2) := by decide +kernel

/-- FADD.bf16 v1, v2, v3: opcode 0x100, TYPE 7. -/
theorem test_bits_float :
    (decodeWords [0b0011_00000010_00000001_0100000000_10, 0b0000_0000_0000_0111_0000_00000000_0000]).toOption
    = some (.fadd { blank with d := 1, a := 2, b := 3, ty := 7 }, 2) := by decide +kernel

/-- (p4) BRA with the literal 0xFFFFFFB8: opcode 0x200, length 3. -/
theorem test_bits_control :
    (decodeWords [0b0000_00000000_00000000_1000000000_11, 0b0000_0000_0000_0000_0100_00000000_0000, 0xFFFFFFB8]).toOption
    = some (.bra { blank with pred := 4, lit := some 0xFFFFFFB8 }, 3) := by decide +kernel

/-- VOTE.all p5, p3: opcode 0x280, MOD 1. -/
theorem test_bits_cross_lane :
    (decodeWords [0b0000_00000011_00000101_1010000000_10, 0b0000_0000_0001_0000_0000_00000000_0000]).toOption
    = some (.vote { blank with d := 5, a := 3, mod := 1 }, 2) := by decide +kernel

/-- MTS %trapctl, s40: opcode 0x2C9, D 0x31, ASC. -/
theorem test_bits_system :
    (decodeWords [0b0000_00101000_00110001_1011001001_10, 0b0000_0100_0000_0000_0000_00000000_0000]).toOption
    = some (.mts { blank with d := 0x31, a := 40, asc := true }, 2) := by decide +kernel

/-- LD.b32 v1 at [s0:s1 + v10] with flag A: opcode 0x300, C 10, ASC, SETF. -/
theorem test_bits_memory :
    (decodeWords [0b0000_00000000_00000001_1100000000_10, 0b0000_0110_0000_0000_0000_00001010_0000]).toOption
    = some (.ld { blank with d := 1, c := 10, setf := true, asc := true }, 2) := by decide +kernel

/-- CAS.n32 v8 at [s0:s1 + v20], expected v0, new v7: opcode 0x381, length 3. -/
theorem test_bits_atomic :
    (decodeWords [0b0000_00000000_00001000_1110000001_11, 0b0000_0100_0000_0010_0000_00010100_0000, 7]).toOption
    = some (.cas { blank with d := 8, c := 20, ty := 2, asc := true, lit := some 7 }, 3) := by decide +kernel

/-- MMA s16, s18, s20 with flag A: opcode 0x3D1, ASC, BSC, SETF. -/
theorem test_bits_matrix :
    (decodeWords [0b0010_00010000_00000000_1111010001_10, 0b0000_1110_0000_0000_0000_00010100_0001]).toOption
    = some (.mma { blank with a := 16, b := 18, c := 20, asc := true, bsc := true, setf := true }, 2) := by decide +kernel

/-- The first word of a pair has length code 1, and a header may not. -/
theorem test_decode_marked : decodeWords [0x00000001] = .error .headerMarked
    ∧ (decodeWords [0x20000A09]).toOption = some (.addShort { blankS with ty := 2, d := 10, m := true }, 1)
    ∧ decodeWords [0x00000003, 0] = .error .tooFewBytes := by decide +kernel

/-- Opcodes that no row has (R45, R64). -/
theorem test_decode_unassigned : (decodeWords [0x0000007C]).toOption = some (.unassignedOpcode (.short 0x7C), 1)
    ∧ (decodeWords [0x00000FFE, 0]).toOption = some (.unassignedOpcode (.long 0xFFE 0), 2) := by decide +kernel

/-- A translated program ends with EXIT in a clause that waits for the instruction before it: AVAL, FLAGA 0, WAIT bit 0; opcode
0x205, length 2. A portable program reads %strand and not %lane (R396). -/
theorem test_portable : (translateCode { n := 1, regs := 2, regions := [] } (choicesOf { n := 1, regs := 2, regions := [] } (fun _ => 0)))
      = [0b0_0_0_0000_1_0000_000000000001_000000_00, 0b0000_00000000_00000000_1000000101_10, 0]
    ∧ portableRegion 2 (.each [encode (.mfs { blank with d := 0, a := 1 })]) = true
    ∧ portableRegion 2 (.each [encode (.mfs { blank with d := 0, a := 0 })]) = false := by decide +kernel

/-! ### States -/

/-- One block of one strand, about to fetch at 0x10000 (log 6). -/
def st : State := State.reset.withFetchWord 64 0

def cordIs (k : Cord → Cord) (s : State) : State := modCord s 0 0 k
def laneIs (k : Strand → Strand) (s : State) : State := cordIs (fun c => c.modLane 0 k) s
def blockIs (k : Block → Block) (s : State) : State := modBlock s 0 k
def vreg (r : Nat) (x : Word) (s : State) : State := laneIs (fun t => { t with v := t.v.set r x }) s
def sreg (r : Nat) (x : Word) (s : State) : State := cordIs (fun c => { c with s := c.s.set r x }) s

/-- The same with 16 strands at one address. -/
def st16 : State :=
  { cordIs (fun c => { c with strands := List.replicate 16 fetchStrand }) st with
    sel := some { b := 0, c := 0, lanes := List.range 16, pc := 0x10000 } }

/-- The cord of the fetching strand after an instruction. -/
def cordAfter (i : Instr) (s : State) : Cord :=
  match exec i s with
  | .next t => (cordOf t 0 0).getD {}
  | _ => {}

/-- Register v14 of lane 0 after an instruction. -/
def v14 (i : Instr) (s : State) : Word := ((cordAfter i s).lane 0).reg 14

/-- v8 and v10 hold two words. -/
def ab (x y : Word) : State := vreg 8 x (vreg 10 y st)

/-- A form D = v14, A = v8, B = v10 of a type. -/
def bin (t : Nat) : LForm := { blank with ty := BitVec.ofNat 4 t, a := 8, b := 10, d := 14 }
def un (t : Nat) : LForm := { blank with ty := BitVec.ofNat 4 t, a := 8, d := 14 }

/-! ### Results of single instructions, calculated by hand from the tables -/

/-- 0xFFFFFFFF + 2 wraps to 1 (Table 4-2), and the PC moves 8 bytes on. -/
theorem test_add_wraps : v14 (.add (bin 2)) (ab 0xFFFFFFFF 2) = 1
    ∧ ((cordAfter (.add (bin 2)) (ab 0xFFFFFFFF 2)).lane 0).pc = 0x10008 := by decide +kernel
/-- .sat limits each half of s16 to 0x7FFF and 0x8000. -/
theorem test_add_saturates : v14 (.add { bin 12 with mod := 1 }) (ab 0x7FFF8000 0x0001FFFF) = 0x7FFF8000 := by
  decide +kernel
theorem test_sub_operand_order : v14 (.sub (bin 2)) (ab 3 5) = 0xFFFFFFFE := by decide +kernel
/-- (-1) × 2 is -2, so the high half is all ones for s32 and 1 for n32. -/
theorem test_mulh_sign : v14 (.mulh (bin 1)) (ab 0xFFFFFFFF 2) = 0xFFFFFFFF
    ∧ v14 (.mulh (bin 2)) (ab 0xFFFFFFFF 2) = 1 := by decide +kernel
/-- R86: an amount of 32 or more. -/
theorem test_shifts_past_width : v14 (.shl (bin 0)) (ab 1 32) = 0 ∧ v14 (.sar (bin 0)) (ab 0x80000000 40) = 0xFFFFFFFF
    ∧ v14 (.rot (bin 0)) (ab 0x80000001 33) = 3 := by decide +kernel
/-- BFE.s32 of bits 11..4: 0xF80 >> 4 is 0xF8, which is -8 (R87). -/
theorem test_bfe_sign : v14 (.bfe { un 1 with lit := some 0x0804 }) (ab 0xF80 0) = 0xFFFFFFF8 := by decide +kernel
theorem test_clz : v14 (.clz (un 0)) (ab 0x00010000 0) = 15 ∧ v14 (.clz (un 0)) (ab 0 0) = 32 := by decide +kernel
/-- ADDC with p1 clear: 0xFFFFFFFF + 1 is 0 with a carry. -/
theorem test_addc : v14 (.addc { bin 2 with c := 1 }) (ab 0xFFFFFFFF 1) = 0
    ∧ ((cordAfter (.addc { bin 2 with c := 1 }) (ab 0xFFFFFFFF 1)).lane 0).pred 1 = true := by decide +kernel
/-- -1 is below 1 for s32 and above it for n32 (R89). -/
theorem test_icmp_sign : ((cordAfter (.icmp { bin 1 with d := 1, mod := 2 }) (ab 0xFFFFFFFF 1)).lane 0).pred 1 = true
    ∧ ((cordAfter (.icmp { bin 2 with d := 1, mod := 2 }) (ab 0xFFFFFFFF 1)).lane 0).pred 1 = false := by decide +kernel
/-- 1.5 + 2.25 is 3.75 in FP32. -/
theorem test_fadd : v14 (.fadd (bin 3)) (ab 0x3FC00000 0x40100000) = 0x40700000 := by decide +kernel
/-- Infinity minus infinity is the default NaN and invalid (R91). -/
theorem test_fsub_invalid : v14 (.fsub (bin 3)) (ab 0x7F800000 0x7F800000) = 0x7FC00000
    ∧ (cordAfter (.fsub (bin 3)) (ab 0x7F800000 0x7F800000)).fpflags = 1 := by decide +kernel
/-- -0 lies below +0 (R92). -/
theorem test_fmin_zero : v14 (.fmin (bin 3)) (ab 0 0x80000000) = 0x80000000 := by decide +kernel
/-- -7 / 2 truncates to -3, and a division by 0 gives all ones (R97): what is queued for v14. -/
theorem test_div_trunc : ((cordAfter (.div (bin 1)) (ab 0xFFFFFFF9 2)).ops.map Op.kind)
      = [.queued [.v 0 14 0xFFFFFFFD] none]
    ∧ ((cordAfter (.div (bin 2)) (ab 7 0)).ops.map Op.kind) = [.queued [.v 0 14 0xFFFFFFFF] (some (.intDivz, 1))] := by
  decide +kernel
/-- MATCH.first: lanes of equal values name the lowest of them (R123). -/
theorem test_match : ((cordAfter (.matchLanes (un 0)) st16).lane 5).reg 14 = 0 := by decide +kernel
/-- SHFL.up by 1: lane 3 pulls from lane 2, and lane 0 keeps its own (R119). -/
theorem test_shfl : let s := cordIs (fun c => { c with strands := (List.range 16).map (fun l =>
        { fetchStrand with v := fetchStrand.v.set 8 (BitVec.ofNat 32 (100 + l)) }) }) st16
    ((cordAfter (.shfl { un 0 with mod := 1, lit := some 1 }) s).lane 3).reg 14 = 102
    ∧ ((cordAfter (.shfl { un 0 with mod := 1, lit := some 1 }) s).lane 0).reg 14 = 100 := by decide +kernel
/-- KSET keeps only the strands that have not ended: strand 0 alone (R29). -/
theorem test_kset : (cordAfter (.kset { blank with d := 1, lit := some 7 }) st).mask 1 = 1 := by decide +kernel
/-- TRAP 7 queues a record of cause 0x30 with DETAIL 7 at its own address, and the strand stands past it (R332). -/
theorem test_trap : ((cordAfter (.trap { blank with lit := some 7 }) st).queue.map (fun r => (r.cause, r.detail, r.pc)))
      = [(0x30, 7, 0x10000)]
    ∧ ((cordAfter (.trap { blank with lit := some 7 }) st).lane 0).pc = 0x1000C := by decide +kernel
/-- An unassigned opcode: cause 0x01, and the strand stays (R52). -/
theorem test_illegal : ((cordAfter (.unassignedOpcode (.short 0x7C)) st).queue.map TrapRec.cause) = [0x01]
    ∧ ((cordAfter (.unassignedOpcode (.short 0x7C)) st).lane 0).pc = 0x10000 := by decide +kernel
/-- A load at 2^57 is not canonical: cause 0x10 (Table 13-2), and nothing is asked for. -/
theorem test_ld_canon : ((cordAfter (.ld { blank with d := 1, c := 10, asc := true }) (sreg 1 0x02000000 st)).queue.map
      (fun r => r.addr)) = [0x0200000000000000]
    ∧ (cordAfter (.ld { blank with d := 1, c := 10, asc := true }) (sreg 1 0x02000000 st)).ops = [] := by decide +kernel
/-- STC at offset 0x40 writes four bytes of the window once it is performed, lowest first (R4). -/
theorem test_stc : (match exec (.stc { blank with b := 1, c := 10, asc := true }) (vreg 1 0x04030201 (sreg 0 0x40 st)) with
    | .next t => winRead (performStore t 0 0 0 0) 0 0x40 4
    | _ => []) = [1, 2, 3, 4] := by decide +kernel
/-- A store that has been performed is the core's own byte before any home has it. -/
theorem test_st : (match exec (.st { blank with b := 1, c := 10, asc := true }) (vreg 1 0x04030201 (sreg 0 0x40 st)) with
    | .next t => ((coreRead (performStore t 0 0 0 0) 0 0 0x41).1, memGet (performStore t 0 0 0 0).mem 0x41)
    | _ => (0, 0)) = (2, 0) := by decide +kernel

/-! ### Hypotheses that are met: instructions at issue

Each test names the statement whose hypotheses it meets, with one form and state for each clause. -/

def sized (f : LForm) : Nat := if f.lit.isSome then 12 else 8

/-- The n-th case of a list: its instruction issues in the state, and the case's condition holds. -/
def meets (cs : LForm → State → Issue → List Case) (n : Nat) (f : LForm) (s : State) : Bool :=
  match issueOf s (sized f) with
  | some u =>
    match (cs f s u)[n]? with
    | some e => decide (Issues e.i s u e.regs e.dws) && e.holds
    | none => false
  | none => false

/-- Every case of a list is met by the form and state that stand at its place. -/
def meetsAll (cs : LForm → State → Issue → List Case) (l : List (LForm × State)) : Bool :=
  (match issueOf st 8 with
    | some u => (cs blank st u).length == l.length
    | none => false)
  && l.zipIdx.all (fun x => meets cs x.2 x.1.1 x.1.2)

/-- A form with no predicate issues in `st`. -/
def issuesIn (s : State) (i : Instr) (k : Issue → Bool) : Bool :=
  match issueOf s i.length with
  | some u => decide (Issues i s u [] []) && k u
  | none => false

/-- As `issuesIn`, without room in a region. -/
def reachesIn (s : State) (i : Instr) (k : Issue → Bool) : Bool :=
  match issueOf s i.length with
  | some u => decide (Reaches i s u) && k u
  | none => false

def lit (f : LForm) (w : Word) : LForm := { f with lit := some w }

theorem test_meets_IntegerArithmetic :
    meetsAll (fun f _ u => arithTable.map (fun e => writes (e.1 f) u (arithWrites f u e.2)))
      [(bin 1, st), (bin 4, st), (bin 2, st), (bin 1, st), ({ bin 2 with c := 12 }, st), (un 1, st), (un 1, st), (bin 12, st),
       ({ bin 2 with lit := some 5, b := 0 }, st)]
    && meetsAll (fun f _ u => carryCases f u) [({ bin 2 with c := 1 }, st), (bin 2, st)] = true := by decide +kernel

theorem test_meets_BitOperations :
    meetsAll (fun f _ u => bitTable.map (fun e => writes (e.1 f) u (bitWrites f u e.2)))
      [(bin 0, st), (bin 4, st), (bin 0, st), (un 0, st), (bin 0, st), (bin 1, st), (bin 5, st), ({ bin 0 with mod := 1 }, st)]
    && meetsAll (fun f _ u => countTable.map (fun e => writes (e.1 f) u (countWrites f u e.2)))
      [(un 0, st), (un 0, st), (un 0, st)] = true := by decide +kernel

theorem test_meets_MovesAndFields : meetsAll (fun f _ u => moveCases f u)
    [(un 0, st), ({ un 2 with a := 0, lit := some 7 }, st), ({ bin 0 with c := 1 }, st), (bin 1, st), ({ bin 0 with c := 12 }, st),
     (bin 5, st)] = true := by decide +kernel

theorem test_meets_PredicateWrites :
    let p : LForm := { blank with d := 1, a := 2, b := 3 }
    meetsAll (fun f _ u => predicateCases f u)
      [({ bin 2 with d := 1 }, st), ({ un 0 with d := 1 }, st), (p, st), (p, st), (p, st), ({ p with b := 0 }, st),
       ({ bin 3 with d := 1 }, st), ({ bin 3 with d := 1 }, st)] = true := by decide +kernel

/-- The special values: a NaN, infinities of both signs, +0, -0, -1 and 1 in each format. -/
theorem test_meets_FloatArithmetic :
    meetsAll (fun f _ u => floatTable.map (fun e => writes (e.1 f) u (floatWrites f u e.2)))
      [(bin 3, st), (bin 6, st), (bin 7, st), ({ bin 3 with c := 12 }, st), (bin 3, st), (bin 3, st), (un 3, st)]
    && [fp32, fp16, bf16].all (fun F =>
      let inf := F.ones * 2 ^ F.m
      F.decode (inf + 1) == .nan && F.decode inf == .inf false && F.decode (2 ^ (F.e + F.m) + inf) == .inf true
        && (match F.decode 0, F.decode (2 ^ (F.e + F.m)), F.decode (2 ^ (F.e + F.m) + F.bias * 2 ^ F.m) with
          | .fin false 0 _, .fin true 0 _, .fin true n d => n == d
          | _, _, _ => false)) = true := by decide +kernel

theorem test_meets_ShortForms : shortTable.all (fun e =>
    match issueOf st 4 with
    | some u =>
      [0, 1, 3].any (fun n =>
        let f : SForm := { blankS with d := 14, a := 8, ty := BitVec.ofNat 4 n }
        (longWrites (longOf f e.2.2) u).any (fun g =>
          g.1 blank == e.2.1 blank && decide (Issues (e.1 f) st u (vregsOf g.2) [])))
    | none => false) = true := by decide +kernel

/-- An outstanding load of the strand, and eight instructions of the special-function queue. -/
def busy (s : State) : State := cordIs (fun c => { c with nextOp := 1, ops :=
  [{ id := 0, kind := .load blank, flag := none, pc := 0, ret := 0, seq := 0, lanes := [0], accs := [{ lane := 0, va := 0, size := 4 }] }] }) s
def eight (q : Nat) (s : State) : State := cordIs (fun c => { c with nextOp := 8, ops := (List.range 8).map (fun n =>
  { id := n, kind := .queued [.v 0 1 5] (if n = 1 then some (.intDivz, 1) else none), flag := none, pc := 0, ret := 0, seq := 0,
    lanes := [0], stream := q }) }) s

theorem test_meets_QueuedIssue : meetsAll queuedCases
      [(bin 2, st), (bin 1, st), ({ un 3 with mod2 := 2 }, st), (bin 6, st), ({ un 3 with mod := 6, mod2 := 1 }, st), (un 3, st),
       (un 3, st), (un 3, st), (un 3, st), (un 3, st), (un 3, st), (un 3, st), (un 3, st)]
    && reachesIn (eight 0 st) (.div (bin 2)) (fun u => queueFull (eight 0 st) u 0)
    && reachesIn (eight 1 st) (.cvt { un 3 with mod2 := 2 }) (fun u => queueFull (eight 1 st) u 1)
    && reachesIn (eight 1 st) (.cvtsc { blank with d := 1, a := 2, ty := 6, b := 4, bsc := true }) (fun u => queueFull (eight 1 st) u 1) = true := by decide +kernel

/-- A queued division whose registers were written one by one: its flags, and its cause, are left. -/
def pieced (ws : List RegW) (cause : Option (Cause × Mask)) : State := cordIs (fun c => { c with nextOp := 1, ops :=
  [{ id := 0, kind := .queued [] cause, flag := none, pc := 0, ret := 0, seq := 0, lanes := [0], piece := true, ws := ws }] }) st

theorem test_meets_QueuedResults_piece :
    let ok (s : State) (k : Op → Bool) : Bool := (cordOf s 0 0).any (fun x => (opOf x 0).any (fun o => o.piece && k o))
    ok (pieced [.fp 1] none) (fun o => o.kind == .queued [] none && o.ws.all RegW.isFp)
    && ok (pieced [.fp 1] (some (.intDivz, 1))) (fun o => o.kind == .queued [] (some (.intDivz, 1)) && o.ws.all RegW.isFp)
    && ok (pieced [.v 0 1 5] none) (fun o => !o.ws.all RegW.isFp) = true := by decide +kernel

/-- NaNs and negative numbers of each format; the operands of the divisions. -/
theorem test_meets_QueuedSpecials : specials.all (fun e => e.F.decode e.nan == .nan
      && (match e.F.decode (e.sign + e.one) with
        | .fin s n _ => s && n != 0
        | _ => false))
    && (match fp32.decode 0x3F800000, fp32.decode 0, fp32.decode 0x80000000 with
      | .fin _ n _, .fin _ z _, .fin t w _ => n != 0 && z == 0 && t && w == 0
      | _, _, _ => false)
    && fp32.decode 0xFF800000 == .inf true && (fp32.decode 0x7FC00000 == .nan) = true := by decide +kernel

/-- Numbers beyond the largest of each format and beside 1,024 on the Q4O grid; an ill-formed byte, and one of an outlier. -/
theorem test_meets_Conversions : (narrowFormats.all (fun e => decide (e.top * 1 ≤ 2 ^ 128))) = true
    ∧ 1024 * 1 < 1100 ∧ 1100 < 1536 * 1 ∧ 1536 * 1 ≤ 1536
    ∧ (0x00008800 : Word).extractLsb' (8 * (2 / 2)) 8 = 0x88 ∧ (0x00000082 : Word).extractLsb' (8 * 0) 8 = 0x82 := by decide +kernel

theorem test_meets_QueuedResults : (match cordOf (eight 0 st) 0 0 with
    | some x => ((opOf x 0).map Op.kind == some (.queued [.v 0 1 5] none))
        && ((opOf x 1).map Op.kind == some (.queued [.v 0 1 5] (some (.intDivz, 1))))
    | none => false) = true := by decide +kernel

/-- Targets: a header, an address off a word, a page without a translation, a word that is no header. -/
theorem test_meets_Transfers :
    let ok (n : Nat) (f : LForm) (s : State) (k : Issue → List (Nat × DWord) → Bool) : Bool :=
      match issueOf s (sized f) with
      | some u => match (transferTable f u)[n]? with
        | some e => decide (Issues e.1 s u (linkRegs e.1 f) []) && participants u f == [0] && k u (targetsOf f u e.2)
        | none => false
      | none => false
    let r (x : Word) : LForm × State := ({ blank with d := 2, a := 8 }, vreg 8 x st)
    ok 0 (lit blank 0x18) st (fun u ts => targetsGood st u ts)
    && ok 1 { blank with a := 8 } (r 0x10018).2 (fun u ts => targetsGood st u ts)
    && ok 2 (lit { blank with d := 2 } 0x18) st (fun u ts => targetsGood st u ts)
    && ok 3 (r 0x10018).1 (r 0x10018).2 (fun u ts => targetsGood st u ts)
    && ok 4 { blank with a := 8 } (r 0x10018).2 (fun u ts => targetsGood st u ts)
    && ok 3 (r 0x10019).1 (r 0x10019).2 (fun _ ts => ts.any (fun t => t.2.toNat % 4 != 0))
    && ok 3 (r 0x40000000).1 (r 0x40000000).2 (fun u ts => !(untranslated st u ts).isEmpty)
    && (let s := { (r 0x10018).2 with mem := memWrite [] 0x10018 [2] }
        ok 3 (r 0x10018).1 s (fun u ts => (untranslated s u ts).isEmpty && !(notHeaders s u ts).isEmpty)) = true := by
  decide +kernel

/-- The release: with strand 0 alone in k1 and parked there, and with strand 1 in k1 but not parked. -/
theorem test_meets_MasksAndEnds :
    let k : LForm := { blank with d := 1, a := 2, b := 3 }
    meetsAll (fun f _ u => maskCases f u)
      [({ blank with a := 1 }, st), ({ blank with a := 1 }, st), ({ blank with a := 1 }, st), (lit { blank with d := 1 } 5, st),
       ({ k with b := 0 }, st), ({ blank with d := 2, a := 1, mod := 1 }, st), (k, st), (k, st), ({ k with b := 0 }, st),
       ({ k with b := 0, mod := 1 }, st)]
    && meetsAll (fun f _ u => endCases f u) [(blank, st), (blank, st), (blank, st)]
    && (let c := { fetchCord with k := fetchCord.k.set 1 1 }.modLane 0 (fun t => { t with park := some (.waitm 1) })
        decide (1 < c.k.length) && c.liveLanes.all (fun l => !(c.mask 1).getLsbD l || (c.lane l).park == some (.waitm 1)))
    && (let c := { fetchCord with k := fetchCord.k.set 1 1 }
        c.liveLanes.any (fun l => (c.mask 1).getLsbD l && (c.lane l).park != some (.waitm 1)))
    && issuesIn st (.nop blankS) (fun _ => true) && issuesIn st (.nopLong blank) (fun _ => true) = true := by decide +kernel

theorem test_meets_CrossLane :
    meetsAll (fun f _ u => laneCases f u)
      [({ blank with d := 1, a := 2 }, st), ({ blank with d := 1, a := 2, mod := 1 }, st), ({ blank with d := 2, a := 2, mod := 2 }, st),
       (bin 0, st), (bin 0, st), ({ un 2 with c := 1 }, st), (un 2, st16), (un 0, st), ({ un 0 with mod := 1 }, st),
       ({ un 0 with mod := 2 }, st), ({ un 0 with mod := 3, d := 1 }, st)]
    && (issueOf st16 8).any (fun u => u.blk.width == 16) && (bin 0).ty == 0 && (bin 1).ty == 1
    && decide (0 < fetchCord.strands.length) = true := by decide +kernel

/-! ### Hypotheses that are met: barriers, launches, special registers, traps, headers -/

/-- The grid without `.gbar`: bit 566 of the record clear. -/
def noGbar (s : State) : State := { s with grids := [{ fetchGrid with record := fetchRecord - 2 ^ 566 }] }

/-- The strand parked at the fetch address. -/
def parkedAt (p : Park) (s : State) : State := laneIs (fun t => { t with park := some p }) s

/-- Strands that stand parked look at their instruction again. -/
def looksIn (s : State) (i : Instr) (p : Park) : Bool :=
  match issueOf s i.length with
  | some u => decide (LooksAgain i s u p)
  | none => false

theorem test_meets_BarriersArrive :
    meetsAll barrierCases [(blank, st), (blank, st), (blank, st)]
    && reachesIn (noGbar st) (.gbar blank) (fun u => ((gridOf (noGbar st) u.blk.grid).map Grid.isGbar) == some false) = true := by
  decide +kernel

theorem test_meets_WaitersPass :
    let w : LForm := { blank with a := 8, d := 4, asc := true }
    let both (k : Bool → Park) (i : Instr) : Bool := [false, true].all (fun sent => looksIn (parkedAt (k sent) st) i (k sent))
    both (.barb 0 1) (.barb blank) && both (.gbar 1) (.gbar blank) && (gridOf st 0).isSome
    && looksIn (parkedAt (.waitch 5 1) st) (.waitch w) (.waitch 5 1)
    && looksIn (parkedAt (.bowait 0) st) (.bowait { w with mod := 1 }) (.bowait 0)
    && both (.hold 1) (.phase { blank with mod := 5, mod2 := 2 }) && both (.hold 1) (.phase { blank with mod := 5 })
    && both (.hold 1) (.fenceX blank) && both (.hold 1) (.fenceP { blank with mod := 1, mod2 := 2 })
    && looksIn (parkedAt (.launch 1 false) st) (.launch w) (.launch 1 false) = true := by decide +kernel

/-- One strand at BAR 3; at GBAR in a grid of it; and a block with a strand at no barrier. -/
theorem test_meets_BarReleases :
    let live (s : State) (p : Option Park → Bool) : Bool := (s.blocks[0]?).any (fun x =>
      let es := x.cords.zipIdx.flatMap (fun e => e.1.liveLanes.map (fun l => (e.2, l)))
      es != [] && es.all (fun e => p ((x.cords[e.1]?).bind (fun c => (c.lane e.2).park))))
    (live (parkedAt (.bar 3) st) (fun p => p == some (.bar 3)) && live st (fun p => p == none)) = true := by decide +kernel

theorem test_meets_BarrierDepartures :
    let s := parkedAt (.gbar 1 true) st
    (s.blocks[0]?).any (fun x => (x.cords[0]?).any (fun y => decide (0 < y.strands.length) && (y.lane 0).live
      && ((y.lane 0).park.map (fun p => p == .gbar 1 true)).getD false))
    && (gridOf s 0).isSome = true := by decide +kernel

/-- Strand 0 is the cord's last; in the cord of 16 strands others stay. -/
theorem test_meets_StrandsEnd :
    (cordOf (endStrands st 0 0 [0]) 0 0).any (fun y => y.liveLanes == [] && y.ended) = true
    ∧ (cordOf (endStrands st16 0 0 [0]) 0 0).any (fun y => y.liveLanes != []) = true
    ∧ (cordOf st 0 0).isSome = true ∧ (st.blocks[0]?).isSome = true := by decide +kernel

/-- A LAUNCH that waits for room in its queue, its record read. -/
def launching : State := laneIs (fun t => { t with park := some .launchRoom }) (cordIs (fun c => { c with ops :=
  [{ id := 0, kind := .launch { blank with d := 4, a := 8, asc := true }, flag := none, pc := 0x10000, ret := 0, seq := 1,
     lanes := [0], accs := [{ lane := 0, va := 0, size := 128, data := leBytes 128 fetchRecord, st := .done }] }] }) st)

theorem test_meets_LaunchAndWaitch :
    let f : LForm := { blank with a := 8, d := 4, asc := true }
    let deep (d : Nat) (s : State) : State := { s with grids := [{ fetchGrid with depth := d }] }
    let full : State := blockIs (fun b => { b with handles := (List.range 64).map (fun h => { h := h, grid := none, status := 0 }) }) st
    meetsAll (fun f s u => [launchCase f s u]) [(f, sreg 8 0x20000 st)]
    && reachesIn st16 (.launch f) (fun u => !(participants u f).isEmpty && participants u f != [0])
    && reachesIn (deep 10 st) (.launch f) (fun u => participants u f == [0] && u.c == 0)
    && reachesIn (deep 9 (sreg 8 0x20040 st)) (.launch f) (fun u => regVal u.cord 0 true true 8 % 128 != 0)
    && reachesIn full (.launch f) (fun u => 64 ≤ u.blk.handles.length && regVal u.cord 0 true true 8 % 128 == 0)
    && (match cordOf launching 0 0, gridOfBlock launching 0 with
      | some x, some g => (launchOp x).isSome && (x.lane 0).park == some .launchRoom && queueRoom launching g.part
          (recordQueue (leNat (leBytes 128 fetchRecord)))
      | _, _ => false)
    && meets waitchCases 0 f st
    && meets waitchCases 0 f (sreg 8 5 (blockIs (fun b => { b with handles := [{ h := 5, grid := none, status := 0x101 }] }) st))
    && meets waitchCases 0 f (sreg 8 5 (blockIs (fun b => { b with handles := [{ h := 5, grid := some 0, status := 0 }] }) st))
    && (let s := busy (sreg 8 5 (blockIs (fun b => { b with handles := [{ h := 5, grid := none, status := 0 }] }) st))
        reachesIn s (.waitch f) (fun u => participants u f == [0] && u.c == 0
          && (waitchAnswer s u.blk (waitHandle f u)).any (fun r => !answerDue u (cutOf s u.blk.core) [0] r)))
      = true := by decide +kernel

/-- MFS of every number of Table 3-12, %cycle in deterministic mode by its number 0x22. -/
theorem test_meets_SpecialRegisters :
    let det : State := { st with ctxs := [(0, { fetchCtx with control := 8 })] }
    ((List.range 64).filter (fun n => (SReg.ofNum n).isSome)).all (fun n =>
      meets mfsCases 0 { blank with a := BitVec.ofNat 8 n, ty := 2, d := 4 } det)
    && meetsAll (fun f _ u => [cycleCase f u fetchGrid]) [({ blank with a := 0x22, ty := 2, d := 4 }, st)]
    && (SReg.ofNum 0x22 == some .cycle) && !ctxBit st fetchGrid 3
    && meetsAll systemCases [({ blank with d := 12 }, st), ({ blank with d := 12, mod := 1 }, st), ({ blank with d := 12 }, st),
        ({ blank with d := 0x28, a := 4, asc := true }, st), (lit { blank with d := 0x31 } 0x3001, st)] = true := by decide +kernel

theorem test_meets_TrapInstructions :
    let held (d : Bool) (s : State) : State := cordIs (fun c => { c with debugger := d }) s
    let armed : State := cordIs (fun c => { c with trapctl := 0x1004 }) st
    let none_ : LForm := lit { blank with pred := 2 } 7
    issuesIn st (.trap (lit blank 7)) (fun u => participants u blank == [0])
    && issuesIn st (.trap none_) (fun u => participants u none_ == [])
    && issuesIn armed (.bkpt blank) (fun u => !u.cord.debugger && u.cord.bk && u.cord.hoff != 0 && participants u blank == [0])
    && issuesIn (held true st) (.bkpt blank) (fun u => u.cord.debugger && resultsIn u.cord && u.cord.suspend == [])
    && issuesIn (held true (eight 0 st)) (.bkpt blank) (fun u => u.cord.debugger && !resultsIn u.cord)
    && issuesIn st (.bkpt blank) (fun u => !u.cord.debugger && !u.cord.bk) = true := by decide +kernel

/-- A suspended cord into which a control core injects, and one that is not suspended. -/
def injecting (why : List SuspendWhy) (s : State) : State :=
  { cordIs (fun c => { c with suspend := why }) s with
    sel := some { b := 0, c := 0, lanes := [0], pc := 0x10000, injected := true } }

theorem test_meets_FirmwareAndUnassigned :
    let f : LForm := { blank with a := 8, asc := true }
    let s : State := injecting [.debugger] st
    let ok (i : Instr) (k : Issue → Bool) : Bool := match issueOf s i.length with
      | some u => decide (Injects i s u) && k u
      | none => false
    ok (.fwsave f) (fun _ => true)
    && (match issueOf s 8 with
      | some u =>
        let t : State := { s with mem := memWrite [] 0 (imageHead u.blk u.c u.cord) }
        decide (Injects (.fwrest f) t u) && (physRead t (physA u f) (imageLen u.blk)).1.take 8 == imageHead u.blk u.c u.cord
          && decide (Injects (.fwrest f) s u) && (physRead s (physA u f) (imageLen u.blk)).1.take 8 != imageHead u.blk u.c u.cord
      | none => false)
    && ok (.fwarr f) (fun _ => f.mod == 0) && ok (.fwarr { f with mod := 1 }) (fun _ => true) && ok (.fwend blank) (fun _ => true)
    && (issueOf st 8).any (fun u => !u.injected)
    && (issueOf (injecting [] st) 8).any (fun u => u.injected && u.cord.suspend == [])
    && (issueOf st (Instr.unassignedOpcode (.short 0x7C)).length).any (fun u => !u.injected) = true := by decide +kernel

/-- A region that is open, and its flag f0 busy. -/
def openRegion : Region :=
  { entry := 0x10000, ret := 0, count := 0, lastPc := 0x10000, handler := false, s := List.replicate 64 0,
    k := List.replicate 12 0, fp := 0,
    lanes := List.replicate 16 { pc := 0x10000, clause := some fetchClause, park := none, p := 1, tret := 0, tclause := none,
                                 entered := false, refs := [] } }
def inRegion (s : State) : State := cordIs (fun c => { c with region := some openRegion }) s

theorem test_meets_ClauseHeaders :
    let h : Header := { fetchClause with wait := 1 }
    let busyFlag : State := cordIs (fun c => { c with f := c.f.set 0 1 }) st
    let clear (s : State) (h : Header) : Bool := (issueOf s 4).any (fun u => waitClear (waitCount s u) h.wait)
    (issueOf st 4).isSome && !Header.ok { fetchClause with flagA := 12 } && Header.ok h
    && !clear busyFlag h && clear st h && clear (inRegion st) { h with rgn := true }
    && (issueOf (inRegion st) 4).any (fun u => u.cord.region.isSome)
    && (issueOf (cordIs (fun c => { c with ops := c.ops.map (fun o => { o with flag := some 0 }) }) (busy st)) 4).any (fun u =>
        longWait st u 1 && !longWait st u 2 && !queuedWait u 2)
    && (issueOf st 4).any (fun u => u.cord.region.isNone && decide (0 < u.cord.strands.length) && u.lanes.contains 0) = true := by
  decide +kernel

/-! ### Hypotheses that are met: memory, scratchpad, engines, arrays at issue -/

/-- An address form: base pair s0, offset v10. -/
def g : LForm := { blank with c := 10, asc := true }
/-- A descriptor that is valid, 4 wide, of format 1. -/
def goodDesc : BitVec 512 := BitVec.ofNat 512 (0x91 + 2 ^ 128 * 4 + 2 ^ 160 + 2 ^ 192 + 2 ^ 224)
def withDesc (e : BitVec 512) (s : State) : State := { s with ctxs := [(0, { fetchCtx with desc := [(0, e)] })] }
def sa : LForm := { blank with a := 8, asc := true }
def sb : LForm := { sa with b := 4, bsc := true }
def mmForm : LForm := { blank with a := 8, b := 10, c := 12, asc := true, bsc := true }
/-- A second block of the braid on the next core. -/
def paired (s : State) : State := { s with blocks := s.blocks ++ [{ fetchBlock with pos := 1, core := 1, cords := [] }] }

theorem test_meets_AccessesIssue :
    let cv : LForm := { blank with d := 1, a := 2, ty := 6, b := 4, bsc := true }
    let hit : State := blockIs (fun b => { b with tags := b.tags.set 0 { valid := true, tag := 0 } }) st
    meetsAll accessCases [({ g with d := 1 }, st), ({ g with b := 1 }, st), (g, st), ({ g with d := 1 }, st), ({ g with b := 1 }, st),
      ({ g with d := 1, b := 1 }, st), ({ g with b := 1 }, st), ({ g with b := 1 }, hit), (cv, withDesc goodDesc st),
      (cv, withDesc (goodDesc ||| BitVec.twoPow 512 16) st)]
    && meetsAll fenceCases [({ blank with mod2 := 2, mod := 2 }, st), ({ blank with mod := 5 }, st), ({ blank with mod2 := 1 }, st),
      ({ blank with mod2 := 1 }, busy st), (blank, st)] = true := by decide +kernel

theorem test_meets_AtomicsIssue :
    let y : LForm := { lit g 1 with ty := 2 }
    meetsAll atomicCases [({ y with d := 3 }, st), ({ y with mod2 := 8, mod := 11 }, st), ({ y with d := 3 }, st), ({ y with b := 4 }, st),
      ({ blank with d := 4 }, st), ({ g with d := 6, b := 5 }, st), (lit g 0x18, st), (g, st)]
    && decide (leNat [1, 2, 3, 4] = (0x04030201 : Word).toNat) = true := by decide +kernel

theorem test_meets_ScratchInstructions :
    let one : State := blockIs (fun b => { b with window := [(0, 1)] }) st
    meetsAll scratchCases [(sb, withDesc goodDesc st), (sb, st), ({ sb with a := 0, asc := false }, st), ({ sa with d := 4 }, st),
      ({ blank with a := 8, d := 4 }, st), (sb, st), ({ blank with mod := 1 }, st), (sa, st), ({ sa with d := 4 }, st), (sb, st), (sa, st),
      ({ sa with d := 4, mod := 1 }, st), ({ sa with d := 4, mod := 1 }, one)] = true := by decide +kernel

/-- A copy that converts to E3M2 is emulated, one that moves bytes is not. -/
theorem test_meets_RequestsHandOver : meetsAll requestCases [({ sa with setf := true }, st), (sa, st), (sa, st)]
    && (let s := blockIs (fun b => { b with window := memWrite [] 0 (leBytes 32 (2 ^ 239 + 0xB * 2 ^ 234)) }) st
        requestEmulated (blockTable s 0) .copy (leNat (winRead s 0 0 32))
          && !requestEmulated (blockTable st 0) .copy (leNat (winRead st 0 0 32)) && (cordOf s 0 0).isSome) = true := by
  decide +kernel

theorem test_meets_ArrayInstructions :
    let lent : State := { paired (withDesc goodDesc st) with cores := [(0, { freshCore 0 with array :=
      [{ n := 0, kind := .mzero, block := 0, cord := 0, lane := 0, pc := 0, ret := 0, seq := 0, flag := none, handler := false,
         fol := some 1, ty := 3 }] })] }
    let fol : State := { lent with blocks := [{ fetchBlock with core := 1 }] }
    meetsAll arrayCases [({ blank with mod2 := 8 }, st), ({ sa with ty := 3, mod2 := 8 }, st), (mmForm, paired (withDesc goodDesc st)),
      (mmForm, withDesc goodDesc st), ({ blank with ty := 3, mod2 := 12 }, st)]
    && reachesIn fol (.mma mmForm) (fun u => slaved fol u.blk.core && participants u mmForm == [0])
    && reachesIn st (.mma mmForm) (fun u => !slaved st u.blk.core && followerOf st u == none && participants u mmForm == [0])
      = true := by decide +kernel

/-- What each check of Table 9-5 finds: the form n of `arrayChecks`, and what it must find first. -/
def finds (n : Nat) (f : LForm) (s : State) (k : Issue → ArrayCheck → Bool) : Bool :=
  (issueOf s (sized f)).any (fun u => ((arrayChecks f s u)[n]?).any (fun e =>
    decide (Reaches e.i s u) && participants u f == [0] && k u e))

theorem test_meets_ArrayInstructions_checks :
    let good := withDesc goodDesc st
    let two := paired good
    -- A follower: the block stands on core 1.
    let fol : State := { good with blocks := [{ fetchBlock with core := 1 }] }
    let role (n : Nat) (f : LForm) : Bool :=
      finds n f st (fun u e => !slaved st u.blk.core && e.paired && followerOf st u == none)
        && finds n f fol (fun u e => !slaved fol u.blk.core && isFollower u.blk.core && (n != 2 || e.paired))
    let ld : LForm := { sa with ty := 3 }
    let dr : LForm := { blank with ty := 3, d := 10 }
    let mixed (n : Nat) : State := paired { st with ctxs := [(0, { fetchCtx with desc := [(0, goodDesc), (1, goodDesc + BitVec.ofNat 512 n)] })] }
    let past (s : State) : State := sreg 8 (256 * 4) s
    role 0 blank && role 1 ld && role 2 mmForm && role 4 dr
    && finds 1 { ld with mod2 := 8 } (sreg 8 1 good) (fun u e => roleGood (sreg 8 1 good) u e.paired && e.field)
    && finds 2 mmForm (sreg 12 0x400 two) (fun u e => roleGood (sreg 12 0x400 two) u e.paired && e.field)
    && finds 3 mmForm (sreg 10 1 good) (fun u e => roleGood (sreg 10 1 good) u e.paired && e.field)
    && finds 4 { dr with mod2 := 8 } (sreg 10 1 good) (fun u e => roleGood (sreg 10 1 good) u e.paired && e.field)
    && finds 2 mmForm (sreg 12 0x10000 two) (fun u e => roleGood (sreg 12 0x10000 two) u e.paired && !e.field && e.invalid == some 1)
    && finds 2 mmForm (sreg 12 0x10000 (mixed 4)) (fun _ e => !e.field && e.invalid == none && e.formats)
    && finds 2 mmForm (past two) (fun _ e => !e.field && e.invalid == none && !e.formats && e.outside)
    && finds 1 { ld with mod2 := 8 } (past good) (fun u e => roleGood (past good) u e.paired && !e.field && e.invalid == none && e.outside)
    && finds 4 { dr with mod2 := 8 } (sreg 10 0x400 good) (fun _ e => !e.field && e.invalid == none && e.outside) = true := by
  decide +kernel

/-- With predicate p2 false in the strand no instruction of the table has a participant. -/
theorem test_meets_NoParticipants :
    let p (f : LForm) : LForm := { f with pred := 2 }
    let y : LForm := p { lit g 1 with ty := 2 }
    ([.ld (p g), .st (p g), .pref (p g), .ldc (p g), .stc (p g), .ldx (p { g with b := 1 }), .stx (p g),
      .cvtsc (p { blank with ty := 6, b := 4, bsc := true }), .phase (p blank), .fenceX (p blank), .fenceP (p blank), .atom y, .red y, .cas y,
      .atomr y, .cqpop (p blank), .tst (p g), .retract (p (lit g 0)), .tcommit (p g), .tdset (p sb), .tdget (p sb),
      .tdinv (p { sb with a := 0, asc := false }), .lookup (p blank), .tagset (p sb), .tagclr (p sa), .pres (p blank), .boinit (p sb),
      .boarrive (p sa), .bowait (p sa), .kick (p sa), .gse (p sa), .coll (p sa), .mzero (p blank), .maccld (p { sa with ty := 3 }),
      .mma (p mmForm), .mmas (p mmForm), .mdrain (p { blank with ty := 3, mod2 := 4 })] : List Instr).all (fun i =>
        issuesIn st i (fun u => participants u (p blank) == [] && !queueFull st u 1)) = true := by decide +kernel

/-- Addresses at 2^57 and one byte off, for each row of the table that checks them; then the checks of LDC and of an
offset, each met alone. -/
theorem test_meets_AddressChecks :
    let y : LForm := { lit g 1 with ty := 2 }
    let forms : List LForm := [g, g, { g with b := 1 }, g, g, y, y, y, y, g, lit g 0, g]
    let sAt (x : Word) : State := sreg 0 x st
    let far : State := sreg 1 0x02000000 st
    forms.zipIdx.all (fun x =>
      (match (globalTable x.1)[x.2]? with
        | some e => (!e.2.1 || reachesIn far e.1 (fun u => (globals x.1 u).any (fun a => 2 ^ 57 ≤ a.2)))
          && (e.2.2 == 1 || reachesIn (sAt 2) e.1 (fun u => (globals x.1 u).any (fun a => a.2 % e.2.2 != 0)))
        | none => false))
    && reachesIn (sAt 0x04000000) (.ldc g) (fun u => bits (baseLocal u g 0) 31 26 != 0)
    && reachesIn (sAt 2) (.stc g) (fun u => bits (baseLocal u g 0) 31 26 == 0 && offLocal u g 0 % accSize g != 0)
    && reachesIn (sAt 0x400) (.ldc g) (fun u => (placeOfLocal (sAt 0x400) u g 0).isNone && offLocal u g 0 % accSize g == 0)
    && reachesIn (sreg 8 0x100000 st) (.kick sa) (fun u => bits (scalA u 8) 31 20 != 0)
    && reachesIn (sreg 8 8 st) (.boarrive sa) (fun u => scalA u 8 % 16 != 0)
    && reachesIn (sreg 8 0x400 st) (.tdset sb) (fun u => bits (scalA u 8) 31 20 == 0 && scalA u 8 % 64 == 0
        && 256 * u.blk.lines < scalA u 8 + 64) = true := by decide +kernel

/-- Stores and accesses that answer a next state. -/
theorem test_meets_frames :
    let goes (i : Instr) : Bool := (issueOf st i.length).isSome && (match exec i st with
      | .next _ => true
      | _ => false)
    goes (.st { g with b := 1 }) && goes (.stc { g with b := 1 }) && goes (.stx { g with b := 1 }) && goes (.ld { g with d := 1 })
      && goes (.add (bin 2)) && goes (.ldx { g with d := 1, b := 1 }) && goes (.atomr { blank with d := 4 }) && goes (.cqpop { blank with d := 4 })
      && goes (.pres { blank with a := 8, d := 4 }) && goes (.tdget sb) = true := by decide +kernel

/-! ### Hypotheses that are met: encoding, the step, traps -/

/-- Every word of the table encodes from a canonical instruction, and its bytes decode. -/
theorem test_meets_encoding : wordTable.all (fun e => e.2.canonical
    && (match decodeBytes (bytesOf e.2 ++ [1, 2, 3]) with
      | .ok (_, rest) => rest == [1, 2, 3]
      | .error _ => false)) = true := by decide +kernel

/-- The fetching state with words in memory at its program counter: the one choice is to issue them. -/
def fetching (ws : List Word) : State := { st with mem := memWrite st.mem 0x10000 (ws.flatMap bytesOfWord) }

/-- What the one issue of a state fetches: nothing is due, and its cord alone has a turn. -/
def fetched (s : State) (k : Sel → Issue → List Word → Bool) : Bool :=
  (dueNext s).isNone && choices s == [.issue 0 0] && turnOrder s 0 0 == [(0, 0)] &&
  match issueAt s 0 0 0 with
  | some x =>
    match issueOf (select s x true) 4 with
    | some u =>
      match fetchAt (select s x true) x.b u.blk.core x.pc with
      | .words ws => k x u ws
      | _ => false
    | none => false
  | none => false

/-- MUL.n32 v10, v11, v13 alone; and ADD.n32 v10, v0 marked, with SUB.n32 v11, v1 behind it. -/
theorem test_meets_StepRunsDecoded :
    let one := fetching [0xD0B0A01E, 0x00020000]
    let two := fetching [0x20000A09, 0x20010B0C]
    one.power && fetched one (fun x u ws => !marked ws && (match instrOf ws with
      | some i => !held (select one x true) u i && (match exec i (select one x true) with
        | .next t => issuedIn one t 0 0
        | _ => false)
      | none => false))
    && fetched two (fun x u ws => ws.length == 2 && marked ws && (match pairForms x.pc (ws.getD 0 0) (ws.getD 1 0) with
      | some (i, j) => (pairTrap (decodeCtx u) i j).isNone && pairFits u.cord i j
          && !held (select two x true) u i && !held (select two x true) u j
      | none => false)) = true := by decide +kernel

/-- An instruction that does not issue: KICK finds its engine's queue full, and nothing retires. -/
theorem test_meets_StepRunsDecoded_waits :
    let s := modCore (fetching (encode (.kick sa))) 0 (fun k => { k with requests := List.replicate 32 {
      n := 9, engine := .copy, block := 0, cord := 0, lane := 0, pc := 0, ret := 0, seq := 1, off := 0, flag := none, handler := false } })
    (match issueAt s 0 0 0 with
    | some x => (match exec (.kick sa) (select s x true) with
      | .next t => !issuedIn s t 0 0
      | _ => false)
    | none => false) = true := by decide +kernel

theorem test_meets_FetchReadsMemory : (match fetchAt (fetching [0xD0B0A01E, 0x00020000]) 0 0 0x10000 with
    | .words ws => ws == [0xD0B0A01E, 0x00020000]
    | _ => false) = true := by decide +kernel

/-- Nothing may happen after reset; a queued result alone; an input alone; an issue beside an input. -/
theorem test_meets_StepTakesAChoice :
    let inp : Input := { i := .clockStep }
    let quiet : State := cordIs (fun c => { c with suspend := [.debugger], active := none }) st
    let ending : State := cordIs (fun c => { c with ops := c.ops.take 1, suspend := [.debugger], active := none }) (eight 0 st)
    (dueNext (cordIs (fun c => { c with suspend := [.debugger] }) st)).isSome = true
    ∧ choices State.reset = [] ∧ State.reset.power = true ∧ dueNext State.reset = none
    ∧ choices ({ quiet with parts := [(0, { fetchPart with rings := [(2, { ctx := 0, addr := 0, rung := true })] })] })
      = [.event (.ringDoorbell 0 2)]
    ∧ choices { State.reset with inputs := [inp] } = [.input] ∧ inp.i.shape = .event
    ∧ choices quiet = [] ∧ 2 ≤ (choices { st with inputs := [inp] }).length
    ∧ 2 ≤ (choices ending).length ∧ dueNext ending = none := by decide +kernel

theorem test_meets_MemoryStaysCanonical : Memory.wf st.mem = true
    ∧ (match step State.reset with
      | .next _ => true
      | _ => false) = true := by decide +kernel

/-- A pair of ADD.n32 v10, v0 and SUB.n32 v11, v1, and one whose second word has D in the bank of the first: a pair off its
boundary, a second word of two, headers, and the words that pass. -/
theorem test_meets_PairTraps :
    marked [0x20000A09] = true ∧ (0x10004 : DWord).toNat % 8 ≠ 0 ∧ (0x10000 : DWord).toNat % 8 = 0 ∧ lengthCode 0xD0B0A01E ≠ 0
    ∧ lengthCode 0x20010E0C = 0 ∧ marked [0x00000001] = true ∧ shortCode 0x00000001 = 0 ∧ shortCode 0x00000000 = 0
    ∧ shortCode 0x20000A09 ≠ 0 ∧ shortCode 0x20010E0C ≠ 0
    ∧ (match instrOf [0x20000A09], instrOf [0x20010E0C], issueOf st 8 with
      | some i, some j, some u => (decodeTrap (decodeCtx u) i).isNone && (decodeTrap (decodeCtx u) j).isNone
      | _, _, _ => false) = true
    ∧ Clash 2 { blankS with ty := 2, d := 10, m := true } 3 { blankS with ty := 2, a := 1, d := 14 } :=
  ⟨by decide, by decide, by decide, by decide, by decide, by decide, by decide, by decide, by decide, by decide, by decide +kernel,
    by decide, by decide, Or.inl (by decide)⟩

/-- A word for each row of Table 3-6. -/
theorem test_meets_DecodeTraps : ([(.fwsave sa, .illegalOpcode), (.add (bin 3), .illegalType), (.not (bin 0), .illegalOpcode),
      (.pnot { blank with d := 8, a := 1 }, .illegalReg), (.addShort { blankS with ty := 3 }, .illegalType),
      (.notShort { blankS with pneg := true }, .illegalOpcode), (.addShort { blankS with ty := 4, d := 9 }, .illegalReg),
      (.unassignedOpcode (.short 0x7C), .illegalOpcode)] : List (Instr × Cause)).all (fun e =>
    match issueOf st e.1.length with
    | some u => !u.injected && decodeTrap (decodeCtx u) e.1 == some e.2
    | none => false) = true := by decide +kernel

theorem test_meets_RetireMoves : (issueOf st 8).any (fun u => !u.injected && u.cord.slow.isNone && u.lanes.contains 0) = true := by
  decide +kernel

/-- Code at 0x10000 of an interlocked version, with no version elsewhere. -/
def codeLocked (s : State) : State :=
  { s with ctxs := [(0, { fetchCtx with versions := [(0, { base := 0x10000, len := 0x1000, step := 1, intlk := true })] })] }

/-- Transfers that wait at their way into native code, and transfers in which no strand takes part (R62, R109). -/
theorem test_meets_Transfers_native :
    let s := codeLocked (busy st)
    let none_ (n : Nat) (f : LForm) : Bool := match issueOf st (sized f) with
      | some u => ((transferTable f u)[n]?).any (fun e => decide (Issues e.1 st u [] []) && participants u f == [])
      | none => false
    (match issueOf s 12 with
      | some u => ((transferTable (lit blank 0x10018) u)[0]?).any (fun e =>
          let ts := targetsOf (lit blank 0x10018) u e.2
          decide (Reaches e.1 s u) && ts.all (fun t => t.2.toNat % 4 == 0) && untranslated s u ts == [] && notHeaders s u ts == []
            && nativeWait s u ts)
      | none => false)
    && none_ 0 (lit { blank with pred := 2 } 0x18) && none_ 1 { blank with a := 8, pred := 2 }
    && none_ 2 (lit { blank with d := 2, pred := 2 } 0x18) && none_ 3 { blank with d := 2, a := 8, pred := 2 }
    && none_ 4 { blank with a := 8, pred := 2 } = true := by decide +kernel

/-- A record, and queues of one and of eight. -/
def aRec (n : Nat) : TrapRec := { kind := 0, cause := 0x30, ret := BitVec.ofNat 32 n, pc := 0x10000, smask := 1 }
def queued (n : Nat) (s : State) : State := cordIs (fun c => { c with queue := (List.range n).map aRec }) s

theorem test_meets_TrapsAreQueued :
    let plain_ (s : State) (k : Cord → Bool) : Bool := (cordOf s 0 0).any (fun x => !x.ended && k x)
    plain_ (queued 7 st) (fun x => !x.handler && x.region.isNone && x.queue.length == 7)
    && plain_ (cordIs (fun c => { c with given := true }) (queued 2 st)) (fun x => !x.handler && x.region.isNone && x.given)
    && plain_ (queued 8 st) (fun x => !x.handler && x.region.isNone && x.queue.length == 8)
    && !Cause.informational .alignFault && informationalCode 0x38 && !informationalCode 0x30
    && plain_ (cordIs (fun c => { c with handler := true }) st) (fun x => x.handler)
    && (gridOfBlock st 0).any (fun g => (ctxOf st g.part g.ctx).fatal.isNone)
    && plain_ (inRegion st) (fun x => !x.handler && x.region.isSome) = true := by decide +kernel

theorem test_meets_TrapDelivered :
    let s (r : TrapRec) (hoff : Word) (d : Bool) : State :=
      cordIs (fun c => { c with queue := [r], trapctl := hoff, debugger := d }) st
    let info : TrapRec := { aRec 0 with kind := 1, cause := 0x38 }
    let ok (t : State) (k : Cord → TrapRec → Bool) : Bool := match cordOf t 0 0, gridOfBlock t 0 with
      | some x, some _ => mayDeliver x && (x.queue.head?).any (k x)
      | _, _ => false
    let waits (t : State) : Bool := match cordOf t 0 0, gridOfBlock t 0 with
      | some x, some g => Cord.hoff x != 0 && deliveryWaits t 0 g x
      | _, _ => false
    ok (s (aRec 0) 0x1000 false) (fun x _ => Cord.hoff x != 0) && !waits (s (aRec 0) 0x1000 false)
    && (let t := codeLocked (busy (s (aRec 0) 0x800000 false))
        ok t (fun x _ => Cord.hoff x != 0) && waits t)
    && ok (s (aRec 0) 0 true) (fun x _ => Cord.hoff x == 0 && x.debugger)
    && ok (s info 0 false) (fun x r => Cord.hoff x == 0 && !x.debugger && informationalCode r.cause)
    && ok (s (aRec 0) 0 false) (fun x r => Cord.hoff x == 0 && !x.debugger && !informationalCode r.cause) = true := by
  decide +kernel

theorem test_meets_TrapReturn :
    let h (r : TrapRec) : State := laneIs (fun t => { t with entered := true, tret := 0x10000 })
      (cordIs (fun c => { c with handler := true, queue := [r] }) st)
    let skip : LForm := { blank with mod := 1 }
    let away : State := codeLocked (busy (laneIs (fun t => { t with entered := true, tret := 0x20000 })
      (cordIs (fun c => { c with handler := true, queue := [aRec 0] }) st)))
    let plain (s : State) (u : Issue) : Bool := nativeWait s u (tretTargets u.cord (fun _ _ => none))
    issuesIn st (.tret blank) (fun u => !u.cord.handler)
    && issuesIn (h (aRec 0)) (.tret blank) (fun u => u.cord.handler && !plain (h (aRec 0)) u)
    && issuesIn away (.tret blank) (fun u => u.cord.handler && plain away u)
    && issuesIn (h (aRec 0)) (.tret skip) (fun u => u.cord.handler
        && (nextAfter (h (aRec 0)) u.b u.blk.core ((aRec 0).pc.setWidth 64)).isSome && decide (0 < u.cord.strands.length))
    && issuesIn (h { aRec 0 with kind := 1 }) (.tret skip) (fun u => u.cord.handler)
    && (translate st 0 0 0x10000 .fetch).isSome = true := by decide +kernel

/-! ### Hypotheses that are met: steps of the device -/

/-- The cord with one outstanding operation. -/
def withOp (o : Op) (s : State) : State := cordIs (fun c => { c with ops := [o], nextOp := 1 }) s
/-- An operation of lane 0 with one access. -/
def op1 (k : OpKind) (a : Acc) : Op :=
  { id := 0, kind := k, flag := none, pc := 0x10000, ret := 0, seq := 0, lanes := [0], accs := [a] }
/-- A translated access of four bytes at 0x40. -/
def acc4 : Acc := { lane := 0, va := 0x40, pa := 0x40, size := 4, data := [1, 0, 0, 0], st := .ready }
/-- Core 0 changed. -/
def coreIs (k : CoreSt → CoreSt) (s : State) : State := modCore s 0 k
def theOp (s : State) (k : Block → Op → Bool) : Bool := match s.blocks[0]?, opIn s 0 0 0 with
  | some x, some o => k x o
  | _, _ => false

theorem test_meets_LoadsRead :
    let o := op1 (.load g) acc4
    let w := op1 (.loadC g) acc4
    let s := withOp o st
    !blocked s 0 0 o acc4 && !onWindow o.kind && reachOf s 0 0x40 4 true == .home && !(readRest 0 0 acc4 0 4 s).2.1 && l1Room s 0 0x40 4
    && acc4.got == [] && acc4.early == []
    && (let a : Acc := { acc4 with early := [(0, (7, false))] }
        let t : State := { s with cells := [{ dw := 0x40, owner := (0, 1), former := [1, 2, 3, 4, 5, 6, 7, 8] }] }
        underCell t 0 0 a.pa && (tabGet a.got 0).isNone && tabGet a.early 0 == some (7, false) && decide (0 < a.size)) && tabGet ({ acc4 with got := [(1, (7, false))] } : Acc).got 1 == some (7, false)
    && onWindow w.kind && !blocked (withOp w st) 0 0 w acc4 && mateAt st 0 (0x40 / 2 ^ 24) == some 0
    && present st 0 0x40 4 && !winPoison st 0 0x40 4
    && ({ g with mod2 := 1 } : LForm).mod2.toNat % 4 == 1 && ({ g with mod2 := 2 } : LForm).mod2.toNat % 4 == 2 = true := by decide +kernel

theorem test_meets_StepsAtHome : Safety.MemOk State.reset ∧ NoLog State.reset
    ∧ stepNew (.cas blank) acc4 2 = none ∧ stepNew (.cas blank) acc4 1 = some 0 := by
  refine ⟨rfl, ?_, by decide +kernel, by decide +kernel⟩
  intro p k
  change ctxLog {} ≠ 1
  decide

/-- A port that leads to peer 5: up, in recovery, or lost. -/
def porting (p : Port) : State :=
  { st with ports := [(15, p)], mgmt := { st.mgmt with masks := (List.range 128).map (fun i => if i = 5 then 0x8000 else 0) } }

/-- Each kind of operation ready for its step; a delegated command, and its reply to a cord that runs or has ended. -/
theorem test_meets_OperationSteps :
    let f : LForm := { lit g 1 with ty := 2 }
    let dw : Acc := { acc4 with va := 0x40, size := 8 }
    let ready (k : OpKind) (a : Acc) (test : State → Block → Op → Bool) : Bool :=
      let s := withOp (op1 k a) st
      theOp s (test s)
    let dws (s : State) (x : Block) (o : Op) : Bool :=
      (accsAtDw o (dwOf 0x40)).length == 1 && runGoes s 0 0 x.core o (accsAtDw o (dwOf 0x40))
    let d : Delegated := { n := 3, block := 0, cord := 0, slot := 0, lane := 0, pa := 0x40, op := 0, ty := 2, val := 1, cmp := 0, tag := 0,
                           ret := 0, seq := 1 }
    let cmds (p : Bool) : State := coreIs (fun k => { k with commands := [{ d with perf := p }] }) st
    -- A log at 0x8000 whose one entry has the command's source step at another word.
    let other (s : State) : State := { s with
      mem := memWrite s.mem 0x8000 (leBytes 16 (LogEntry.bits { kind := 0, src := { core := 0, slot := 0, lane := 0, count := 0 }, data := 0x80 }))
      ctxs := [(0, { fetchCtx with control := BitVec.ofNat 128 (0x20 + 0x8000 * 2 ^ 64 + 2 ^ 116) })] }
    ready (.load g) acc4 (fun _ _ o => o.kind == .load g) && ready (.pref g) acc4 (fun _ _ o => o.kind == .pref g)
    && ready (.cvtsc g 0 [] []) acc4 (fun _ _ o => o.kind == .cvtsc g 0 [] [])
    && ready (.atom f) acc4 (fun s x o => groupReady s 0 0 x.core o 0x40
        && ((accsAt o 0x40).head?.bind (fun i => (o.accs[i]?).map Acc.st)) == some .ready)
    && ready (.red f) { acc4 with st := .sent 5 } (fun s x o => groupReady s 0 0 x.core o 0x40
        && ((accsAt o 0x40).head?.bind (fun i => (o.accs[i]?).map Acc.st)) == some (.sent 5))
    && ready (.retract g) acc4 dws && ready (.tcommit g) acc4 dws && ready (.tst g) dw dws
    && ready (.store g true) acc4 (fun s _ _ => hasTicket s 0)
    && ready (.atom f) acc4 (fun s _ o => mergeKey o.kind != none && placeOf 0x40 == .homed && !detMode s 0
        && !inReplay s 0 && mergeable s 0 0x40 o (0, 0, o))
    && (coreOf (cmds false) 0).commands.any (fun e => e.n == 3 && !e.perf && !commandWaits (cmds false) 0 e
        && commandReplay (cmds false) 0 e == .go none)
    && (coreOf (other (cmds false)) 0).commands.any (fun e => !commandWaits (other (cmds false)) 0 e
        && commandReplay (other (cmds false)) 0 e == .diverge)
    && placeOf d.pa == .homed && placeOf 0x1000000000000 == .host && !hostServes 5 2 && hostServes 0 2
    && (coreOf (cmds true) 0).commands.any (fun e => e.n == 3 && e.perf && !replyDropped (cmds true) e && !overRecovery (cmds true) e)
    && (let s := cordIs (fun c => { c with ended := true }) (cmds true)
        (coreOf s 0).commands.any (fun e => e.n == 3 && e.perf && replyDropped s e && !overRecovery s e))
    && (let far (p : Port) : State := { porting p with cores := (cmds true).cores }
        let e : Delegated := { d with pa := 0x8500000000000, perf := true }
        overRecovery (far { up := true, window := some 3 }) e && placeOf e.pa == .peer 5
          && reachPeer (far { up := false }) 5 (e.pa % 2 ^ 44) == .reject 8) = true := by decide +kernel

theorem test_meets_HomesAndSnapshots :
    let o : Outbound := { n := 2, seq := 1, block := 0, bytes := [(0x40, 7), (0x41, 8)] }
    let s : State := coreIs (fun k => { k with outbound := [o], dirty := [(0x40, { byte := 7, seq := 0, block := 0 })] }) st
    (coreOf s 0).outbound.find? (fun e => e.n == 2) = some o ∧ outboundBehind (coreOf s 0) o = false ∧ Memory.wf s.mem = true
    ∧ (o.bytes.map Prod.fst).Nodup ∧ (0x40, { byte := 7, seq := 0, block := 0 }) ∈ (coreOf s 0).dirty
    ∧ inTicketUnit s 0 = false := by decide +kernel

/-- A table at 0 whose entry 0 names the table itself, and whose entry 1 is `e`. -/
def tableAt (e : Nat) : Mem := memWrite [] 0 (leBytes 8 1 ++ leBytes 8 e)

theorem test_meets_TranslationSteps :
    let w : WalkReq := { src := .fetch 0 0 0x40000000, pc := 0x10000, smask := 1 }
    let walking (m : Mem) : State := { st with mem := m, dies := [(0, { fetchDie with
      slots := [(0, { valid := true, root := 0 })], walks := [w] })] }
    let entry : FaultEntry :=
      { ctx := 0, va := 0x40000000, smask := 1, pc := 0x10000, block := 0, core := 0, cord := 0, stream := 0,
        flag := 0, kind := 2, cause := 0, state := 0, exited := false, src := w.src }
    let faulted (m : Mem) (e : FaultEntry) : State := { walking m with dies := [(0, { fetchDie with
      slots := [(0, { valid := true, root := 0 })], faults := [(0, e)] })] }
    let isPage (x : Walk) : Bool := match x with
      | .page _ _ _ _ _ => true
      | .fault _ => false
    (ctxOf State.reset 0 0).life == .absent && (ctxOf st 0 0).life != .absent
    && (dieOf (walking []) (dieOfCore (srcCore (walking []) w.src))).walks.find? (fun e => e.src == w.src) == some w
    && (let s := dropWalk (walking []) (srcCore (walking []) w.src) w
        srcLive s w.src && walkOf s w.src == .fault 0)
    && (let s := dropWalk (walking (tableAt 0x1B)) (srcCore (walking (tableAt 0x1B)) w.src) w
        srcLive s w.src && isPage (walkOf s w.src))
    && (tabGet (dieOf (faulted [] entry) 0).faults 0 == some entry) && entry.state == 0 && srcLive (faulted [] entry) w.src
    && walkOf (faulted [] entry) w.src == .fault 0 && isPage (walkOf (faulted (tableAt 0x1B) entry) w.src)
    && (cordOf (faulted [] entry) 0 0).isSome
    && (let d := dieOf { st with dies := [(0, { fetchDie with reports := [(0, 0, 1)] })] } 0
        d.reports != [] && d.fqProd - d.fqCons < 2 ^ d.fqSize)
    && (tabGet (dieOf (faulted [] { entry with src := .op 0 0 0 0x40 }) 0).faults 0).any (fun e => e.src == .op 0 0 0 0x40)
    && !residentOn State.reset 0 (((tabGet (dieOf State.reset 0).slots 127).getD {}).part) 0
    && !(0 : Nat).testBit 0 && (0x81 : Nat).testBit 7 && (0x5 : Nat).testBit 2
    && (0x3 : Nat).testBit 1 && !(0x3 : Nat).testBit 3 && !(0x3 : Nat).testBit 4 && (0x1B : Nat).testBit 3 && (0x1B : Nat).testBit 4
    && leNat (memRead (tableAt 0x1B) 8 8) == 0x1B = true := by decide +kernel

/-- A request of an engine at offset 0 of the window, its image there. -/
def req (e : Engine) (n : Nat) : Request :=
  { n := n, engine := e, block := 0, cord := 0, lane := 0, pc := 0x10000, ret := 0, seq := 1, off := 0, flag := none, handler := false,
    table := [(0, goodDesc)] }
def requesting (r : Request) (image : Nat) (s : State) : State :=
  coreIs (fun k => { k with requests := [r] }) (blockIs (fun b => { b with window := memWrite [] 0 (leBytes 32 image) }) s)
/-- No barrier object, and 16 in bits 159..128. -/
def image16 : Nat := 0xFFFF * 2 ^ 240 + 16 * 2 ^ 128
/-- One in COUNT of a gather, and of a collective. -/
def imageG : Nat := 0xFFFF * 2 ^ 240 + 2 ^ 192
def imageC : Nat := 0xFFFF * 2 ^ 240 + 2 ^ 128
/-- Block 0 alone is the communicator 0. -/
def communing (s : State) : State := { withDesc goodDesc s with parts := [(0, { fetchPart with comms :=
  [(0, { image := [0, 0, BitVec.ofNat 64 (fetchGrid.field 191 128)] })] })] }

theorem test_meets_RequestsAccepted :
    let next (e : Engine) (image : Nat) (s0 : State) (k : State → Request → Bool) : Bool :=
      let s := requesting (req e 0) image s0
      (nextRequest s 0 e).any (fun q => requestDue s q && k s (readRequest s q))
    let coll (k : State → Request → Bool) (s : State) (r : Request) : Bool := k s { r with ordinal := (countColl s r).1 }
    next .copy image16 st (fun s r => copyCheck s r == 0 && room s (copyLines s r) && copyTotal r == 16)
    && next .copy (image16 + 2 ^ 238) st (fun s r => copyCheck s r == 1)
    && next .gse imageG st (fun s r => gseCheck s r == 0 && room s (gseLines s r)) && next .gse 0 st (fun s r => gseCheck s r == 1)
    && next .coll imageC (communing st) (coll (fun s r => collCheck s r == 0 && room s (collLines s r)))
    && next .coll imageC st (coll (fun s r => collCheck s r != 0))
    && !winPoison st 0 0 32 && winPoison (blockIs (fun b => { b with wpoison := [3] }) st) 0 0 32
    && (let s := blockIs (fun b => { b with colls := [(0, 2)] }) (communing st)
        (s.blocks[0]?).any (fun x => tabGet x.colls (Request.field { req .coll 0 with image := imageC } 199 192) == some 2)
        && (reqRank s { req .coll 0 with image := imageC }).isSome
        && (reqRank st { req .coll 0 with image := imageC }).isNone) = true := by decide +kernel

/-- An accepted request of an engine, alone on core 0. -/
def working (e : Engine) (image : Nat) (k : Request → Request) (s : State) : State :=
  requesting (k { req e 0 with accepted := true, image := image }) image s
def works (s : State) (k : Request → Bool) : Bool := (reqOf s 0 0).any (fun q => q.accepted && !q.finished && k q)
/-- What the outside world brings to a collective: nothing, or a lost peer. -/
def quietWorld : CollWorld := { vals := [], err := 0 }
def lostWorld : CollWorld := { vals := [], err := 7 }

theorem test_meets_EnginesWork :
    let c (k : Request → Request) : State := working .coll imageC k (communing st)
    works (working .copy image16 id st) (fun q => q.engine == .copy && 0 < copyUnits q * q.rows && q.moved == [])
    && works (working .gse imageG id st) (fun q => q.engine == .gse && 0 < q.gcount && (tabGet q.moved 0).isNone)
    && works (c (fun q => { q with result := some ([], []) })) (fun q => q.engine == .coll && q.result == some ([], []))
    && works (working .coll imageC id st) (fun q => q.result.isNone && (reqRank (working .coll imageC id st) q).isNone)
    && works (c id) (fun q => q.result.isNone && q.source.isNone && reqRank (c id) q == some 0
        && collError (c id) q (collLocal (c id) q) (heardWorld (c id) q quietWorld) == 0
        && collError (c id) q (collLocal (c id) q) (heardWorld (c id) q lostWorld) == 7)
    && (let s := c (fun q => { q with source := some ([3], false, []) })
        works s (fun q => q.source.isSome && reqRank s q == some 0 && collError s q (collLocal s q) quietWorld == 0
          && collWhole (collLocal s q) quietWorld (reqComm s q).length))
    && (let s := working .copy image16 (fun q => { q with emulated := true }) st
        works s (fun q => (s.blocks[0]?).any (fun x => x.core == 0)
          && (coreOf s 0).requests.find? (fun r => r.n == 0 && r.emulated && r.accepted && (r.block == 0 && r.cord == 0)) == some q)) = true := by
  decide +kernel

/-- An operation at the head of core 0's array. -/
def arr (k : ArrKind) (em : Bool) : ArrOp :=
  { n := 4, kind := k, block := 0, cord := 0, lane := 0, pc := 0x10000, ret := 0, seq := 1, flag := none, handler := false, fol := none,
    ty := 3, emulated := em }
def withArr (o : ArrOp) : State := coreIs (fun k => { k with array := [o] }) st

theorem test_meets_ArraysWork :
    let dr (due : List (Nat × Nat)) : State := withArr { arr .mdrain false with due := due }
    (headOp (withArr (arr .mzero false)) 0 [.mzero, .maccld] == some (arr .mzero false))
    && (headOp (withArr (arr .maccld false)) 0 [.mzero, .maccld] == some (arr .maccld false))
    && linesPresent (withArr (arr .maccld false)) [] (rowLines (withArr (arr .maccld false)) 0 0 (tileRow 3) (opndRows 1 32))
    && (headOp (withArr (arr .mma false)) 0 [.mma, .mmas] == some (arr .mma false))
    && (headOp (dr []) 0 [.mdrain] == some (arr .mdrain false)) && linesPresent (dr []) [] []
    && linesPresent (dr []) (ownRaised (coreOf (dr []) 0)) []
    && (headOp (dr [(0, 1)]) 0 [.mdrain]).any (fun o => o.due != [] && canRaise (dr [(0, 1)]) o.due)
    && (let s := blockIs (fun b => { b with presence := [15, 15, 15, 15] }) (dr [(0, 1)])
        (headOp s 0 [.mdrain]).any (fun o => o.due != [] && !canRaise s o.due))
    && (let s := withArr (arr .mma true)
        (s.blocks[0]?).any (fun x => x.core == 0) && (coreOf s 0).requests == [] && (coreOf s 0).array == [arr .mma true]) = true := by
  decide +kernel

/-! ### The device events that complete -/

/-- A copy of one byte from offset 0x40 to offset 0x80 of the window (Table 8-3). -/
def image1 : Nat := 0xFFFF * 2 ^ 240 + 2 ^ 128 + (2 ^ 63 + 0x80) * 2 ^ 64 + 2 ^ 63 + 0x40
/-- A gather of one element of one byte at the index that stands at offset 0xC0. -/
def imageG1 : Nat := 0xFFFF * 2 ^ 240 + 2 ^ 192 + (2 ^ 63 + 0xC0) * 2 ^ 128 + (2 ^ 63 + 0x80) * 2 ^ 64 + 2 ^ 63 + 0x40
/-- An all-reduce of one element from offset 0x40 to offset 0x80. -/
def imageC1 : Nat := 0xFFFF * 2 ^ 240 + 2 ^ 128 + (2 ^ 63 + 0x80) * 2 ^ 64 + 2 ^ 63 + 0x40

def copying : State := { working .copy image1 id st with free := 1 }

/-- The one run of that copy can be read and written. -/
theorem test_meets_runsGo : ∃ q, reqOf copying 0 0 = some q ∧ q.engine = .copy ∧ q.cv = false ∧ (copySides q 0).isSome = true
    ∧ runsGo copying 0 q ∧ ∃ u, u < q.len * q.rows ∧ undelivered q u := by
  refine ⟨{ req .copy 0 with accepted := true, image := image1 }, by decide +kernel, rfl, by decide +kernel, by decide +kernel, ?_, 0,
    by decide +kernel, by intro e h; cases h⟩
  intro row i k src dst hr hk hl hs
  have h1 : Request.rows { req .copy 0 with accepted := true, image := image1 } = 1 := by decide +kernel
  have h2 : Request.len { req .copy 0 with accepted := true, image := image1 } = 1 := by decide +kernel
  have h3 : copySides { req .copy 0 with accepted := true, image := image1 } 0 = some (.spad 0 0x40, .spad 0 0x80) := by decide +kernel
  rw [h1] at hr
  rw [h2] at hl
  obtain ⟨rfl, rfl, rfl⟩ : row = 0 ∧ i = 0 ∧ k = 1 := by omega
  rw [h3] at hs
  cases hs
  exact ⟨_, _, _, _, rfl, rfl⟩

theorem test_meets_EventsComplete :
    let whole (x : EngGot) (k : List Byte → State → Bool) : Bool := match x with
      | .ok bs _ t => k bs t
      | _ => false
    let ga : State := working .gse imageG1 id st
    let co (k : Request → Request) : State := working .coll imageC1 k (communing st)
    let ready (s : State) (o : ArrOp) : Bool := o.bad.isNone && o.fol.isNone
      && linesPresent s [] (rowLines s o.block o.a 64 (opndRows 1 32)) && linesPresent s [] (rowLines s o.block o.b 64 (opndRows 1 64))
      && (match readScales s o.block 0 (scaleAddrs o.aDesc 32 ++ scaleAddrs o.bDesc 64) with
        | .ok _ _ _ => true
        | _ => false)
    (cordOf (eight 0 st) 0 0).any (fun x => (opOf x 0).any (fun o => o.kind == .queued [.v 0 1 5] none && !o.piece && o.ws == []))
    && works ga (fun q => q.engine == .gse && !q.gcv && 0 < q.gcount && (tabGet q.moved 0).isNone
        && sideOf (q.field 191 128) == some (.spad 0 0xC0)
        && whole (engRead ga 0 0 q.raised (.spad 0 0xC0) q.iw) (fun idx t =>
          gseSides q 0 (leNat idx) == some (.spad 0 0x40, .spad 0 0x80) && !gseOutside t q (.spad 0 0x40) (.spad 0 0x80)
            && whole (engRead t 0 0 q.raised (.spad 0 0x40) (gseElt q)) (fun bs u => whole (engWrite u 0 0 (.spad 0 0x80) bs []) (fun _ _ => true))))
    && works (co id) (fun q => q.engine == .coll && q.result.isNone && q.source.isNone && reqRank (co id) q == some 0
        && collError (co id) q (collLocal (co id) q) (heardWorld (co id) q quietWorld) == 0
        && (match collRead (co id) 0 q (reqComm (co id) q).length 0 with
          | .ok _ _ _ _ => true
          | _ => false))
    && (let s := co (fun q => { q with result := some ([3], []), da := goodDesc, db := goodDesc })
        works s (fun q => sideOf (q.field 127 64) == some (.spad 0 0x80) && whole (resultScales s 0 q [3]) (fun rs t =>
          collBytes q [3] rs != [] && whole (engWrite t 0 0 (.spad 0 0x80) (collBytes q [3] rs) []) (fun _ _ => true))))
    && ready (withArr (arr .mma false)) (arr .mma false) && ready (withArr (arr .mma true)) (arr .mma true)
    && (arr .mzero false).fol.isNone && !(arr .mdrain false).reg = true := by decide +kernel

/-! ### Hypotheses that are met: grids, contexts, cords -/

/-- A grid that waits in queue 16 of partition 0, alone: one block, no `.gbar`. -/
def waitingGrid : Grid := { fetchGrid with record := fetchRecord - 2 ^ 566, stage := .queued, next := 0, braids := [], cores := [], order := 0 }
def queueing (x : Grid) : State :=
  { st with
    blocks := [], grids := [x], cores := (List.range 4).map (fun c => (c, { phys := c, mapA := BitVec.allOnes 36, mapB := BitVec.allOnes 36 })),
    parts := [(0, { fetchPart with queues := (List.replicate 64 []).set x.queue [0], last := List.replicate 4 63 })] }
/-- A record that waits until the word at 0x20100 is 5 or more. -/
def withWait (r : Nat) : Nat := r + 2 ^ 255 + 0x20100 * 2 ^ 192 + 5 * 2 ^ 256
/-- The word that the wait reads. -/
def waitsOn (w : Nat) : State :=
  { queueing { waitingGrid with record := withWait waitingGrid.record, stage := .accepted, waits := [false] } with
    mem := memWrite st.mem 0x20100 (leBytes 8 w) }

theorem test_meets_GridSteps_wait :
    let x (w : Nat) : Grid := (gridOf (waitsOn w) 0).getD waitingGrid
    let word (w : Nat) : Option Nat := (waitWord (waitsOn w) (x w) 0x20100).map Prod.fst
    (x 5).stage == .accepted && (recordWaits (x 5).record)[0]? == some (0x20100, 5)
    && word 5 == some 5 && word 4 == some 4 && word (2 ^ 63) == some (2 ^ 63) = true := by decide +kernel

theorem test_meets_GridSteps_accept :
    let s := queueing waitingGrid
    let bad := { waitingGrid with record := waitingGrid.record + 2 ^ 599 }
    headOf s 0 waitingGrid.queue = some 0 ∧ gridOf s 0 = some waitingGrid ∧ waitingGrid.stage = .queued ∧ acceptCheck s waitingGrid = 0
    ∧ headOf (queueing bad) 0 bad.queue = some 0 ∧ acceptCheck (queueing bad) bad ≠ 0 := by decide +kernel

theorem test_meets_GridSteps_place :
    let x : Grid := { waitingGrid with stage := .ready }
    let g : Grid := { x with record := x.record + 2 ^ 566 }
    let p : Grid := { x with stage := .running, next := 1, braids := [(0, { relaunchable := true, pending := true })] }
    (pendingBraid x == none && placing (queueing x) 0 && itsTurn (queueing x) 0 x false && !x.isGbar && (chooseSeat (queueing x) x false).isSome)
    && (placing (queueing g) 0 && itsTurn (queueing g) 0 g true && g.isGbar && (placeAll 0 g.blockCount (queueing g)).isSome)
    && (pendingBraid p == some 0 && !p.over && mayPlace (queueing p) p true && (chooseSeat (queueing p) p true).isSome)
    && (let s := { queueing p with ctxs := [(0, { fetchCtx with life := .draining })] }
        !mayPlace s p true)
    && decide (0 < x.width) = true := by decide +kernel

theorem test_meets_GridSteps_end :
    let done : Grid := { fetchGrid with braids := [(0, { relaunchable := false, retired := true })] }
    let det : State := { st with ctxs := [(0, { fetchCtx with control := 8 })] }
    let ended : State := cordIs (fun c => { c with ended := true }) st
    (ended.blocks[0]?).any (fun y => y.cords.all (fun c => c.ended)) && childrenOver ended 0
    && (holder det 0 fetchGrid).isSome && ctxBit det fetchGrid 3 && gridTurn 11 det 0
    && ((tabGet ({ fetchGrid with braids := [(0, { relaunchable := true, kept := true })] } : Grid).braids 0).map Braid.kept).getD false
    && (ctxOf { st with ctxs := [(0, { fetchCtx with life := .saved })] } 0 0).life == .saved && (ctxOf det 0 0).life != .saved
    && ({ done with stage := .completed } : Grid).over && gridDone done && decide (3 ≤ complScope done)
    && coresQuiet (done.cores.foldl publishAll st) 0 done
    && (let low : Grid := { done with record := done.record - 3 * 2 ^ 596 }
        gridDone low && decide (complScope low < 3)) = true := by decide +kernel

theorem test_meets_ContextsAndCode :
    let life (l : CtxLife) (s : State) : State := { s with ctxs := [(0, { fetchCtx with life := l })] }
    let none_ : State := { life .draining st with blocks := [], grids := [] }
    let logs : State :=
      { st with mem := memWrite [] 0x1000000 [1], ctxs := [(0, { fetchCtx with control := 0x20 + 0x1000000 * 2 ^ 64 + 2 ^ 116 })] }
    let due : State := { st with ctxs := [(0, { fetchCtx with life := .draining })] }
    let o : CodeObject :=
      { head := BitVec.ofNat 512 (0x4C444E58 + 2 ^ 48), base := 0x20000, len := 0x100, tensors := [], consts := [], bytes := [] }
    let ver : Version := { base := 0x30000, len := 0x100, step := 1, intlk := false, superseded := true }
    let old : State := { st with ctxs := [(0, { fetchCtx with versions := [(0, ver)] })] }
    (ctxOf (life .saved st) 0 0).life == .saved && !controlBad 0 && (ctxOf st 0 0).life != .saved && controlBad 2
    && (ctxOf State.reset 0 0).life == .absent && (diesOf State.reset 0).all (slotRoom State.reset 0 0)
    && (ctxOf (life .reset st) 0 0).life == .reset && !hasBlocks none_ 0 0 && !hasGrids none_ 0 0
    && (ctxOf st 0 0).life == .running && (ctxOf none_ 0 0).life == .draining
    && (let d : State := { st with blocks := [], ctxs := [(0, { fetchCtx with life := .draining, control := 8 })] }
        !hasBlocks d 0 0 && (d.grids[0]?).any (fun g => g.part == 0 && g.ctx == 0 && ctxBit d g 3))
    && (ctxOf due 0 0).life == .draining && ctxLog (ctxOf logs 0 0) == 2 && (ctxOf logs 0 0).life != .absent
    && (logLeft logs (ctxOf logs 0 0)).any (fun e => e.1.kind == 1) && (ctxOf logs 0 0).fatal.isNone
    && (st.blocks[0]?).any (fun y => (cordOf st 0 0).any (fun z => !clockStands st 0 0 y { z with idle := 200000 }
        && hangDue st 0 { z with idle := 200000 } && !hangDue st 0 { z with idle := 199999 } && announced st 0 0 0 z == 0))
    && (let o := op1 (.load g) { acc4 with pa := 0x8500000000000 }
        let s := withOp o { porting { up := true, window := some 3 } with dies := st.dies }
        (match placeOf 0x8500000000000 with
          | .peer _ => true
          | _ => false) && (cordOf s 0 0).any (fun z => announced s 0 0 0 z == 300 && z.ext == 0))
    && (let f : State := { st with ctxs := [(0, { fetchCtx with fatal := some (0x0201, 1, 0x10000) })] }
        (ctxOf f 0 0).fatal.isSome && allSuspended f 0 0 && !allSuspended (eight 0 f) 0 0)
    && (let p : Portable := { n := 1, regs := 0, regions := [] }
        let o : CodeObject := { o with head := BitVec.ofNat 512 (0x4C444E58 + 2 ^ 48 + 2 ^ 64), portable := some p }
        !objectRefused o && o.head.toNat / 2 ^ 64 % 4 == 1 && portableOk p && o.base % 4 == 0 && placedWell st 0 0 o.data)
    && placedWell st 0 0 o.data && placedWell st 0 0 [{ addr := 0x20100, bytes := [1, 2, 3, 4], fills := [(0, 0, false)] }]
    && !placedWell st 0 0 [{ addr := 0x20101, bytes := [1], fills := [] }]
    && (ctxOf { st with ctxs := [(0, { fetchCtx with fatal := some (0x0201, 1, 0x10000) })] } 0 0).fatal.isSome
    && !objectRefused o && !versionAtAny (ctxOf st 0 0) o.base o.len && objectRefused { o with head := 0 }
    && versionAtAny (ctxOf st 0 0) 0x10000 0x100
    && (tabGet (ctxOf old 0 0).versions 0).any (fun v => v.superseded && !versionUsed old 0 0 0 v)
    && (tabGet (ctxOf st 0 0).versions 0).any (fun v => !v.superseded && !versionAtAny (ctxOf st 0 0) 0x40000 0x100) = true := by
  decide +kernel

/-- A cord with a report, or in a region that ends. -/
def aReport : Report := { pc := 0x10000, ret := 0, cause := .intDivz, lanes := [0] }
def regionIs (k : Region → Region) : State := cordIs (fun c => { c with region := some (k openRegion) }) st

theorem test_meets_CordEvents :
    let rep (r : Report) (s : State) : State := cordIs (fun c => { c with reports := [r], lates := [r] }) s
    let at0 (s : State) (k : Cord → Bool) : Bool := (cordOf s 0 0).any (fun x => !x.ended && k x)
    let reg (s : State) (k : Region → Bool) : Bool := at0 s (fun x => x.region.any k)
    at0 st (fun x => resultsIn x) && at0 (eight 0 st) (fun x => !resultsIn x) && at0 (cordIs (fun c => { c with debugger := true }) st) (fun x => x.debugger)
    && at0 (rep { aReport with handler := true } st) (fun x => (x.reports[0]?).any (fun r => r.handler))
    && at0 (rep { aReport with region := true } (inRegion st)) (fun x => (x.reports[0]?).any (fun r => !r.handler && r.region) && x.region.isSome)
    && at0 (rep aReport st) (fun x => (x.reports[0]?).any (fun r => !r.handler && !r.region) && (x.lates[0]?).any (fun r => !r.handler))
    && reg (regionIs (fun g => { g with uncov := true })) (fun g => g.uncov && !g.told)
    && reg (regionIs (fun g => { g with count := 256 })) (fun g => 256 ≤ g.count && g.ending.isNone)
    && at0 (regionIs (fun g => { g with ending := some .limit })) (fun x => x.region.any (fun g => g.ending == some .limit)
        && !x.withdrawing && regionQuiet (viewCord st 0 x))
    && (cordOf (cordIs (fun c => { c with ended := true }) (rep aReport st)) 0 0).any (fun x => x.ended && (x.lates[0]?).isSome)
    && at0 (cordIs (fun c => { c with debugger := true, given := true }) st) (fun x => x.debugger && x.given)
    && at0 (rep { aReport with handler := true } st) (fun x => (x.lates[0]?).any (fun r => r.handler) && x.region.isNone)
    && at0 (regionIs (fun g => { g with ending := some (.trap (aRec 0)) })) (fun x => !x.handler && !x.withdrawing && regionQuiet (viewCord st 0 x))
    && at0 (cordIs (fun c => { c with handler := true }) (regionIs (fun g => { g with ending := some (.trap { aRec 0 with cause := 0x10 }) })))
        (fun x => x.handler && !x.withdrawing && regionQuiet (viewCord st 0 x))
    && (let s : State := { st with ctxs := [(0, { fetchCtx with control := 1 })], cores :=
          [(0, { phys := 0, mapA := BitVec.allOnes 36, mapB := BitVec.allOnes 36 })] }
        (gridOfBlock s 0).any (fun g => ctxBit s g 0) && (s.blocks[0]?).any (fun k => (cordOf s 0 0).any (fun x =>
          twinLane s k x 0 0 && !twinLane s k x 1 0 && !twinLane s k x 0 35)))
      = true := by decide +kernel

theorem test_meets_RegionsAndBraids :
    let fault := regionIs (fun g => { g with cause := some (aRec 0) })
    let late := regionIs (fun g => { g with cause := some (aRec 0), uncov := true })
    let gear (z : SlowGear) : State := cordIs (fun c => { c with region := some openRegion, slow := some z }) st
    let ok (s : State) (k : Cord → Region → Bool) : Bool := (cordOf s 0 0).any (fun x => x.region.any (fun g => k x g))
    let next (x : Cord) (z : SlowGear) : Option Nat :=
      (stepping x).find? (fun l => !z.served.contains l && !z.stopped.contains l && !z.waiting.contains l)
    let cell : Cell := { dw := 0x40, owner := (0, 0), former := [1, 2, 3, 4, 5, 6, 7, 8], fpoison := [7] }
    let kill (r : Braid) : State := { st with grids := [{ fetchGrid with braids := [(0, r)] }] }
    ok fault (fun x g => g.cause.isSome && x.slow.isNone && resultsIn x && storesIn x && (unrecoverable fault 0 0 g).isNone)
    && !doomed fault 0 && !doomed late 0
    && (let s : State := { fault with grids := [{ fetchGrid with braids := [(0, { relaunchable := false, toKill := true })] }] }
        doomed s 0 && ok s (fun x g => g.cause.isSome && x.slow.isNone && resultsIn x && storesIn x))
    && openRegion.popped == [] && ({ openRegion with popped := [(aRec 0, true)] } : Region).popped == [(aRec 0, true)]
    && ok late (fun x g => g.cause.isSome && x.slow.isNone && (unrecoverable late 0 0 g) == some 3)
    && ok (gear { held := aRec 0 }) (fun x _ => slowReady x && !fetchHeld (gear { held := aRec 0 }) 0 0 0 && next x { held := aRec 0 } == some 0)
    && ok (gear { held := aRec 0, stopped := [0] }) (fun x _ => slowReady x && next x { held := aRec 0, stopped := [0] } == none)
    && Memory.wf st.mem && (cellsAt { st with cells := [cell] } 0x40).find? (fun _ => true) == some cell
    && (openRegion.lanes[0]?).isSome && decide (9 < (fetchCord.lane 0).v.length) && decide (([(9, [7])] : List (Nat × List Word)).map Prod.fst).Nodup
    && (braidRec (kill { relaunchable := true, toKill := true }) (0, 0)).any (fun r => r.toKill && !r.retired && !r.pending)
    && (braidRec (kill { relaunchable := true, toKill := true, pending := true }) (0, 0)).any (fun r => r.toKill && r.pending) = true := by
  decide +kernel

/-! ### Hypotheses that are met: the module -/

/-- GO set for a command of an opcode with a request in the buffer, at a stage. -/
def asks (op stage : Nat) (bs : List Byte) : State :=
  { State.reset with mgmt := { State.reset.mgmt with
      bootstat := bootWord stage 0, mbcmd := BitVec.ofNat 64 (2 ^ 63 + bs.length * 2 ^ 32 + op), mbbuf := memWrite [] 0 bs } }
/-- The command is there, with the length of its request. -/
def isThere (op stage : Nat) (bs : List Byte) : Bool :=
  let s := asks op stage bs
  s.mgmt.mbcmd.getLsbD 63 && bits s.mgmt.mbcmd.toNat 15 0 == op && bits s.mgmt.mbcmd.toNat 47 32 == bs.length
    && !signatureStop s && stageOf s == stage
/-- A record for partition 0: two clusters, 1 GiB of memory, reserved memory at its start. -/
def goodRecord : List Byte := leBytes 8 (0x100 + 2 * 2 ^ 48) ++ leBytes 8 0 ++ leBytes 8 (2 ^ 30) ++ leBytes 24 0

theorem test_meets_MailboxCommands_all :
    (let s : State := { asks 0x0020 0 [] with mgmt := { (asks 0x0020 0 []).mgmt with bootstat := bootWord 0 1 } }
     signatureStop s && started s 0x0020 && !alwaysTaken 0x0020)
    && isThere 0x0001 0 [] && isThere 0x0001 0 [7]
    && commandTable.all (fun e => !e.2.2 (asks e.2.1 0 (leBytes 3 0)) 3 || e.2.1 == 0x0010) && decide (32768 < 40000)
    && isThere 0x0010 0 (leBytes 8 8 ++ [1, 2])
    && isThere 0x0011 0 (leBytes 4 520 ++ leBytes 4 3)
    && isThere 0x0021 3 [7] && isThere 0x0030 1 (leBytes 264 127)
    && Machine.req (leBytes 264 127) 0 1 == 127 && Machine.req (leBytes 264 127) (8 + 2 * 127) 2 == 0
    && isThere 0x0060 2 (leBytes 64 0) && isThere 0x0070 0 (leBytes 2 1023) = true := by decide +kernel

/-- A field out of range, and a stage that does not accept, for each command that has one. -/
theorem test_meets_MailboxCommands_refused :
    isThere 0x0010 0 (leBytes 8 4) && isThere 0x0011 0 (leBytes 8 519) && isThere 0x0021 3 [8] && isThere 0x0021 2 [0]
    && isThere 0x0030 1 (leBytes 264 128) && isThere 0x0030 2 (leBytes 264 0) && isThere 0x0040 3 (leBytes 8 8)
    && isThere 0x0040 2 (leBytes 8 0) && isThere 0x0050 3 (leBytes 16 8) && isThere 0x0050 2 (leBytes 16 0)
    && isThere 0x0060 1 (leBytes 64 0) && isThere 0x0070 0 (leBytes 2 0) && isThere 0x0070 0 (leBytes 2 1024)
    && Machine.req (leBytes 8 519) 0 4 == 519 && Machine.req (leBytes 264 128) 0 1 == 128 && Machine.req (leBytes 8 8) 0 1 == 8
    && Machine.req (leBytes 16 8) 0 1 == 8 && (st.blocks[0]?).isSome = true := by decide +kernel

/-- PART_RESET with nothing that keeps it, and with a cord of a stopped context that waits for its results. -/
theorem test_meets_MailboxCommands_reset :
    let f : State := { eight 0 st with ctxs := [(0, { fetchCtx with fatal := some (0x0201, 1, 0x10000) })], mgmt := (asks 0x0021 3 [0]).mgmt }
    isThere 0x0021 3 [0] && !resetWaits (asks 0x0021 3 [0]) 0 && resetWaits f 0 && bits f.mgmt.mbcmd.toNat 15 0 == 0x0021
      && f.mgmt.mbcmd.getLsbD 63 && !signatureStop f && stageOf f == 3 = true := by decide +kernel

theorem test_meets_MailboxCommands_tables :
    let r := dwords goodRecord 6
    let none_ := dwords (leBytes 48 0) 6
    let q : List Byte := leBytes 8 0x00010107 ++ leBytes 16 (63 * 2 ^ 16 + 127)
    let ring : List Byte := leBytes 8 (0x003F0F07) ++ leBytes 8 (2 ^ 57 - 64)
    let runs : State := { asks 0x0020 2 goodRecord with parts := [(0, fetchPart)] }
    isThere 0x0020 0 goodRecord && !recordBad r && !recordClash (asks 0x0020 0 goodRecord) r && recordBad none_
    && (partOf runs 0).running && decide (2 ≤ stageOf runs) && !recordClash runs r
    && isThere 0x0040 3 q && Machine.req q 2 2 == 1 && !memberBad q 0 && Machine.req q 4 4 == 0
    && isThere 0x0050 3 ring && Machine.req ring 0 1 == 7 && Machine.req ring 1 1 == 15 && Machine.req ring 2 2 == 63
    && Machine.req ring 4 4 == 0 && Machine.req ring 8 8 % 64 == 0 = true := by decide +kernel

theorem test_meets_ManagementSteps :
    let points (f : Nat → Nat) : State :=
      { State.reset with mgmt := { State.reset.mgmt with qchf := (List.range 8).map (fun i => BitVec.ofNat 64 (f i)) } }
    let up := points (fun i => 100 * i + 5 * 65536)
    let flat := points (fun _ => 5 * 65536)
    ascending (fluidPoints up.mgmt) && (fluidPoints up.mgmt).all (fun p => p.2 != 0)
    && !ascending (fluidPoints flat.mgmt) && (fluidPoints State.reset.mgmt).any (fun p => p.2 == 0)
    && (0x2A : DWord).toNat / 2 % 4 == 1 && (ctxOf st 0 0).life != .absent && (ctxOf State.reset 0 0).life == .absent
    && (nextRecord { State.reset with mgmt := { State.reset.mgmt with stored := [(3, [1])] } } 3).isSome
    && (let f : State := { st with ctxs := [(0, { fetchCtx with fatal := some (0x0201, 1, 0x10000) })] }
        !resetWaits st 0 && !resetWaits f 0 && resetWaits (eight 0 f) 0 && (ctxOf (eight 0 f) 0 0).life != .absent
          && (ctxOf (eight 0 f) 0 0).fatal.isSome && !allSuspended (eight 0 f) 0 0)
    && (0x4 : DWord).toNat / 2 % 4 == 2 = true := by decide +kernel

/-- A ring at 0x40 whose descriptors lie at 0x100, with one to finish: a kind and a descriptor, and its LEN. -/
def ringing (prod : Nat) : State :=
  { st with
    mem := memWrite [] 0x40 (leBytes 8 1 ++ leBytes 8 0x100 ++ leBytes 48 0),
    parts := [(0, { fetchPart with rings := [(3, { ctx := 0, addr := 0x40, prod := prod, seen := true })] })] }

theorem test_meets_PortsAndOutside :
    let s := porting { up := true }
    let w : RingWorld := { status := 0, len := 0 }
    let x : Ring := { ctx := 0, addr := 0x40, prod := 1, seen := true }
    let y := ringRead (ringing 1) 0 3 (addrs 0x40 64)
    let h := leNat y.1
    let a := headBase h + 32 * (headCons h % headSize h)
    reachPeer s 5 0x1000 == .far && reachPeer s 5 0x050000000000 == .reject 7
    && reachPeer (porting { up := true, window := some 1 }) 5 0 == .waits && reachPeer s 6 0 == .reject 8
    && (portOf s 15).up && (portOf s 15).window.isNone && (portOf (porting { up := true, window := some 1 }) 15).window.isSome
    && !(portOf (porting { up := false }) 15).up && gradeFor 100 1 == 3 && gradeFor 1 (10 ^ 12) == 1 && decide ((portOf s 15).grade < 3)
    && decide (1024 * 10 ^ 9 < 1024 * 10 ^ 9 - 3 + outSize (.step 0 2 0 0)) && !hostCompletes 0x40 (.step 3 2 0 0)
    && inHbm 0x1000 (outSize (.read 4)) && inTier2 (2 ^ 40) (outSize (.read 4)) && decide (0 < outSize (.read 4))
    && !ringWaits (ringing 1) 0 3 [(0x40, 64, .read)] && !consHeld (ringing 1) 0 3 x && ringReach (ringing 1) 0 3 0x40 64 .read
    && !ringWaits y.2 0 3 [(a, 32, .read)] && ringReach y.2 0 3 a 32 .read
    && tabGet (partOf (ringing 1) 0).rings 3 == some x
    && ringMiss (ringing 1) 0 3 [(0x40, 64, .read), (0x68, 8, .write)] == none
    && headEn h && headErr h == 0 && headCons h != x.prod && a == 0x100
    && ringMiss y.2 0 3 [(a, 32, .read), (a + 24, 8, .write)] == none
    && !descReserved (headKind h) 0 && !x.bad && ringMiss y.2 0 3 [(0, (descMoves (headKind h) 0 0).1, .read), (0, 0, .write)] == none
    && (match serveDesc y.2 0 3 x h a 0 w with
      | .ok _ => true
      | .error _ => false) = true := by decide +kernel

theorem test_meets_PortsAndOutside_memory : Memory.wf st.mem = true ∧ ctxLog (ctxOf st 0 0) ≠ 1 ∧ st.ctxs.length = 1 := by
  decide +kernel

theorem test_meets_PowerAndTests :
    let boot (g : Nat) : State := setStage State.reset g 0
    let core (f : CoreSt → CoreSt) : State := coreIs f { st with blocks := [] }
    let due : State := { st with dies := [(0, { fetchDie with atMin := 100, pmeas := 5300, capeff := 5200, fclk := 12 }),
      (1, { pmeas := 5000, capeff := 5200 }), (2, { pmeas := 100, capeff := 5200, underMs := 9, fclk := 23 })] }
    let bad (ps : List Nat) : State := { boot 1 with dies := [(0, { bad := ps })] }
    mapsOk (boot 1) [(3, 41)] && !mapsOk (boot 1) [(0, 1)]
    && !fewClusters (buildMap (boot 1) { fault := 0, failed := [5], maps := [] })
    && fewClusters (buildMap (boot 1) { fault := 0, failed := [5, 6, 7], maps := [] })
    && (dieOf (bad [0]) 0).bad.contains (physCluster (bad [0]) 0) && spareOf (bad [0]) 0 == some 40
    && nextRecord { boot 1 with mgmt := { (boot 1).mgmt with stored := [(3, [1])] } } 3 == some [1]
    && errOf (boot 0) == 0 && stageOf (boot 0) == 0 && stageOf (boot 1) == 1 && stageOf (boot 2) == 2 && st.power
    && !(coreOf st 0).avoided && (coreOf (core (fun k => { k with avoided := true })) 0).avoided
    && (coreOf (core (fun k => { k with avoided := true })) 0).dtimes.isEmpty
    && ((coreOf (core (fun k => { k with dtimes := [1, 100] })) 0).dtimes.filter (fun a => a ≤ 100)).length == 2
    && (let warn : State := setStage State.reset 2 0x0103
        errOf warn == 0x0103 && stageOf warn == 2)
    && (let table : State := { State.reset with mgmt := { State.reset.mgmt with fluid := true }, dies := [(0, { qpeak := 0 }), (1, { qpeak := 7 })] }
        table.mgmt.fluid && (dieOf table 0).qpeak == 0 && (dieOf table 1).qpeak != 0)
    && !st.mgmt.fluid && (dieOf due 0).atMin == 100 && decide ((dieOf due 0).capeff < (dieOf due 0).pmeas)
    && decide (95 * (dieOf due 1).capeff ≤ (dieOf due 1).pmeas * 100)
    && decide ((dieOf due 2).pmeas * 100 < 95 * (dieOf due 2).capeff) && (dieOf due 2).underMs == 9
    && (coreOf (core (fun k => { k with fuses := [(1, 35)] })) 0).fuses.contains (1, 35)
    && !hasResident (core (fun k => { k with fuses := [(1, 35)] })) 0
    && (coreOf (core id) 0).inService && !hasResident (core id) 0 && (core id).cores.all (fun e => !e.2.awl)
    && (coreOf (core (fun k => { k with awl := true, awlFails := 1 })) 0).awl
    && (coreOf (core (fun k => { k with awl := true, awlFails := 1 })) 0).awlFails != 0 = true := by decide +kernel

/-- The fields of the dump header at their places (Table 17-12). -/
theorem test_dump_header :
    let h := dumpHeader { life := .running, logPos := 9 } 5 0x300 77 3 2 0x0201 0x40 (2 ^ 57 + 0x10008)
    (bits h 31 0, bits h 63 32, bits h 120 64, bits h 127 121, bits h 143 128, bits h 159 144, bits h 175 160)
      = (1, 0x40, 0x10008, 0, 5, 0x0201, 2)
    ∧ (bits h 191 176, bits h 255 192, bits h 319 256, bits h 383 320, bits h 511 384) = (3, 77, 0x300, 9, 0) := by
  decide +kernel

/-- SHA-512 of the bytes "abc", its published example (FIPS 180-4): the first eight bytes. -/
theorem test_sha512 : (sha512 [0x61, 0x62, 0x63]).take 8 = [0xDD, 0xAF, 0x35, 0xA1, 0x93, 0x61, 0x7A, 0xBA] := by decide +kernel

end Sys2Proof.Tests
end

section
/-! Masks, the release of WAITM, and the end of strands (R23, R29, R30, R112 to R117). -/

namespace Sys2Proof.Machine
open Sys2Proof

/-! ### Strands and masks of a cord under its updates -/

/-- A strand of a cord after some strands are changed. -/
theorem Cord.lane_modLanes (c : Cord) (ls : List Nat) (f : Strand → Strand) (l : Nat) :
    (c.modLanes ls f).lane l = if l ∈ ls ∧ l < c.strands.length then f (c.lane l) else c.lane l := by
  by_cases hl : l < c.strands.length <;> simp [Cord.lane, Cord.modLanes, hl]

@[simp] theorem Cord.modLanes_strands_length (c : Cord) (ls : List Nat) (f : Strand → Strand) :
    (c.modLanes ls f).strands.length = c.strands.length := by simp [Cord.modLanes]

/-- A lane is live exactly where the cord has a strand there that has not ended. -/
theorem Cord.mem_liveLanes {c : Cord} {l : Nat} :
    l ∈ c.liveLanes ↔ l < c.strands.length ∧ (c.lane l).live = true := by simp [Cord.liveLanes]

/-- A strand is among those parked in one way exactly where it is live and parks so. -/
theorem Cord.mem_parkedAt {c : Cord} {p : Park} {l : Nat} :
    l ∈ c.parkedAt p ↔ l ∈ c.liveLanes ∧ (c.lane l).park = some p := by simp [Cord.parkedAt]

/-- The written mask, without the strands that have ended (R29). -/
theorem applyW_mask_same {c : Cord} {k : Nat} (x : Mask) (h : k < c.k.length) :
    (applyW c (.k k x)).mask k = x &&& maskOf c.liveLanes := by simp [applyW, Cord.mask, h]

/-- Every other mask. -/
theorem applyW_mask_other (c : Cord) {k n : Nat} (x : Mask) (h : n ≠ k) :
    (applyW c (.k k x)).mask n = c.mask n := by
  simp [applyW, Cord.mask, List.getD_eq_getElem?_getD, List.getElem?_set_ne h.symm]

/-- A mask of a cord whose masks have been cut to its live strands. -/
theorem liveMasks_mask (c : Cord) (n : Nat) : (liveMasks c).mask n = c.mask n &&& maskOf c.liveLanes := by
  by_cases h : n < c.k.length <;> simp [liveMasks, Cord.mask, h]

/-- The masks of a cord from its image hold no strand that has ended (R29). -/
theorem cordFrom_mask (b : Block) (img : List Byte) (y : Cord) {n : Nat} (hn : n < 12) :
    (cordFrom b img y).mask n
      = BitVec.ofNat 64 (imgNat img (272 + 8 * n) 8) &&& maskOf (cordFrom b img y).liveLanes := by
  rw [cordFrom, liveMasks_mask]
  simp [Cord.mask, hn]
  rfl

/-- A flag that falls changes nothing but the flags. -/
theorem flagDown_eq (c : Cord) (n : Option Nat) : ∃ f, flagDown c n = { c with f := f } := by
  cases n with
  | none => exact ⟨c.f, rfl⟩
  | some n => exact ⟨_, rfl⟩

/-- Flags that fall one after another change nothing but the flags. -/
theorem foldl_flagDown_eq (os : List Op) (c : Cord) :
    ∃ f, os.foldl (fun c o => flagDown c o.flag) c = { c with f := f } := by
  induction os generalizing c with
  | nil => exact ⟨c.f, rfl⟩
  | cons o os ih =>
    obtain ⟨f, hf⟩ := flagDown_eq c o.flag
    obtain ⟨g, hg⟩ := ih (flagDown c o.flag)
    exact ⟨g, by rw [List.foldl_cons, hg, hf]⟩

/-- Passing a tag changes nothing but the outstanding operations and the flags (R55). -/
theorem passTags_eq (c : Cord) (ls : List Nat) : ∃ ops f, passTags c ls = { c with ops := ops, f := f } := by
  obtain ⟨f, hf⟩ := foldl_flagDown_eq _ _
  exact ⟨_, f, hf⟩

@[simp] theorem passTags_lane (c : Cord) (ls : List Nat) (l : Nat) : (passTags c ls).lane l = c.lane l := by
  obtain ⟨ops, f, h⟩ := passTags_eq c ls
  rw [h]; rfl

/-- A strand after some have passed the instruction at which they parked. -/
theorem passLanes_lane (n : Nat) (ls : List Nat) (c : Cord) (l : Nat) :
    (passLanes n ls c).lane l = if l ∈ ls ∧ l < c.strands.length then
      { c.lane l with park := none, pc := (c.lane l).pc + BitVec.ofNat 64 n } else c.lane l := by
  simp only [passLanes, passTags_lane, Cord.lane_modLanes]

/-! ### The check of R30 -/

/-- Every live strand of mask k is parked at a WAITM on it (R30). -/
def Cord.AllWait (c : Cord) (k : Nat) : Prop :=
  ∀ l ∈ c.liveLanes, (c.mask k).getLsbD l = true → (c.lane l).park = some (.waitm k)

/-- The condition that the release check tests. -/
theorem allWait_iff (c : Cord) (k : Nat) :
    c.liveLanes.all (fun l => !(c.mask k).getLsbD l || (c.lane l).park == some (.waitm k)) = true ↔ c.AllWait k := by
  simp only [Cord.AllWait, List.all_eq_true, Bool.or_eq_true, Bool.not_eq_true', beq_iff_eq, ← imp_iff_not_or,
    ← Bool.not_eq_true]

/-- Where every strand of the mask waits, those that park there pass. -/
theorem checkWaitm_of_allWait {c : Cord} {k : Nat} (h : c.AllWait k) :
    checkWaitm c k = passLanes 8 (c.parkedAt (.waitm k)) c := if_pos ((allWait_iff c k).mpr h)

/-- Where some strand of the mask does not wait, nothing changes. -/
theorem checkWaitm_of_not_allWait {c : Cord} {k : Nat} (h : ¬ c.AllWait k) : checkWaitm c k = c :=
  if_neg (fun e => h ((allWait_iff c k).mp e))

/-- The strands after a release. -/
theorem checkWaitm_lane_of_allWait {c : Cord} {k : Nat} (h : c.AllWait k) (l : Nat) :
    (checkWaitm c k).lane l = if l ∈ c.liveLanes ∧ (c.lane l).park = some (.waitm k) then
      { c.lane l with park := none, pc := (c.lane l).pc + 8 } else c.lane l := by
  have hmem : (l ∈ c.parkedAt (.waitm k) ∧ l < c.strands.length)
      ↔ (l ∈ c.liveLanes ∧ (c.lane l).park = some (.waitm k)) :=
    ⟨fun p => Cord.mem_parkedAt.mp p.1, fun p => ⟨Cord.mem_parkedAt.mpr p, (Cord.mem_liveLanes.mp p.1).1⟩⟩
  simp only [checkWaitm_of_allWait h, passLanes_lane, hmem]
  rfl

/-! ### What a release leaves as it is -/

/-- From strand t to strand t' the strand may have been released: it may have moved, and it is not newly parked; its
registers, its end and its references stay. -/
structure Strand.Releases (t t' : Strand) : Prop where
  v : t'.v = t.v
  p : t'.p = t.p
  present : t'.present = t.present
  ended : t'.ended = t.ended
  refs : t'.refs = t.refs
  park : t.park = none → t'.park = none

theorem Strand.Releases.refl (t : Strand) : t.Releases t := ⟨rfl, rfl, rfl, rfl, rfl, id⟩

theorem Strand.Releases.trans {t t' t'' : Strand} (h : t.Releases t') (g : t'.Releases t'') : t.Releases t'' where
  v := g.v.trans h.v
  p := g.p.trans h.p
  present := g.present.trans h.present
  ended := g.ended.trans h.ended
  refs := g.refs.trans h.refs
  park := g.park ∘ h.park

/-- A release ends no strand. -/
theorem Strand.Releases.live {t t' : Strand} (h : t.Releases t') : t'.live = t.live := by
  simp only [Strand.live, h.present, h.ended]

/-- From cord x to cord y strands may have been released and the cord may have ended, with its queue emptied: no mask
and no scalar register changes, and nothing retires. -/
structure Cord.Releases (x y : Cord) : Prop where
  length : y.strands.length = x.strands.length
  masks : y.k = x.k
  scalars : y.s = x.s
  retired : y.retired = x.retired
  ended : x.ended = true → y.ended = true
  queue : x.queue = [] → y.queue = []
  lane : ∀ l, (x.lane l).Releases (y.lane l)

theorem Cord.Releases.refl (x : Cord) : x.Releases x := ⟨rfl, rfl, rfl, rfl, id, id, fun _ => .refl _⟩

theorem Cord.Releases.trans {x y z : Cord} (h : x.Releases y) (g : y.Releases z) : x.Releases z where
  length := g.length.trans h.length
  masks := g.masks.trans h.masks
  scalars := g.scalars.trans h.scalars
  retired := g.retired.trans h.retired
  ended := g.ended ∘ h.ended
  queue := g.queue ∘ h.queue
  lane l := (h.lane l).trans (g.lane l)

/-- The live lanes are those before a release. -/
theorem Cord.Releases.liveLanes {x y : Cord} (h : x.Releases y) : y.liveLanes = x.liveLanes := by
  simp only [Cord.liveLanes, h.length, (h.lane _).live]

/-- The masks are those before a release. -/
theorem Cord.Releases.mask {x y : Cord} (h : x.Releases y) (n : Nat) : y.mask n = x.mask n := by
  simp only [Cord.mask, h.masks]

/-- Some strands released, the rest of the cord as it is. -/
theorem Cord.releases_modLanes {f : Strand → Strand} (hf : ∀ t : Strand, t.Releases (f t)) (c : Cord) (ls : List Nat) :
    c.Releases (c.modLanes ls f) where
  length := c.modLanes_strands_length ls f
  masks := rfl
  scalars := rfl
  retired := rfl
  ended := id
  queue := id
  lane l := by
    rw [Cord.lane_modLanes]
    split
    · exact hf _
    · exact .refl _

/-- Passing a tag is such a step. -/
theorem Cord.releases_passTags (c : Cord) (ls : List Nat) : c.Releases (passTags c ls) := by
  obtain ⟨ops, f, h⟩ := passTags_eq c ls
  rw [h]
  exact ⟨rfl, rfl, rfl, rfl, id, id, fun _ => .refl _⟩

/-- Strands that pass the instruction at which they parked. -/
theorem Cord.releases_passLanes (n : Nat) (ls : List Nat) (c : Cord) : c.Releases (passLanes n ls c) := by
  refine (Cord.releases_modLanes ?_ c ls).trans (Cord.releases_passTags _ ls)
  exact fun _ => ⟨rfl, rfl, rfl, rfl, rfl, fun _ => rfl⟩

/-- A phase boundary is such a step. -/
theorem Cord.releases_boundary (ls : List Nat) (c : Cord) : c.Releases (boundary ls c) := by
  refine Cord.releases_modLanes ?_ c ls
  exact fun _ => ⟨rfl, rfl, rfl, rfl, rfl, id⟩

/-- The release check of one mask. -/
theorem Cord.releases_checkWaitm (c : Cord) (k : Nat) : c.Releases (checkWaitm c k) := by
  by_cases h : c.AllWait k
  · rw [checkWaitm_of_allWait h]
    exact Cord.releases_passLanes ..
  · rw [checkWaitm_of_not_allWait h]
    exact .refl c

/-- The release checks of some masks in turn. -/
theorem Cord.releases_foldl_checkWaitm (ks : List Nat) (c : Cord) : c.Releases (ks.foldl checkWaitm c) := by
  induction ks generalizing c with
  | nil => exact .refl c
  | cons k ks ih => exact (c.releases_checkWaitm k).trans (ih _)

/-- The release checks of all masks. -/
theorem Cord.releases_checkMasks (c : Cord) : c.Releases (checkMasks c) := c.releases_foldl_checkWaitm _

/-! ### The end of strands in their cord (R23, R112) -/

/-- A strand that ends is parked nowhere and drops its references. -/
def endStrand (t : Strand) : Strand := { t with ended := true, park := none, refs := [] }

/-- A cord some of whose strands have ended and left its masks, before any check for release. -/
def leaveMasks (lanes : List Nat) (c : Cord) : Cord := liveMasks (passTags (c.modLanes lanes endStrand) lanes)

/-- A cord whose last strand has ended ends, and its trap queue is discarded (R326). -/
def closeCord (c : Cord) : Cord := if c.liveLanes.isEmpty then { c with ended := true, queue := [] } else c

/-- What the end of some strands does to their cord. -/
def endInCord (lanes : List Nat) (c : Cord) : Cord := closeCord (checkMasks (leaveMasks lanes c))

/-- The end of a cord is no further change of its strands and masks. -/
theorem Cord.releases_closeCord (c : Cord) : c.Releases (closeCord c) := by
  unfold closeCord
  split
  · exact ⟨rfl, rfl, rfl, rfl, fun _ => rfl, fun _ => rfl, fun _ => .refl _⟩
  · exact .refl c

/-- A cord without live strands is ended, its queue empty. -/
theorem closeCord_ended {c : Cord} (h : c.liveLanes = []) : (closeCord c).ended = true ∧ (closeCord c).queue = [] := by
  simp [closeCord, h]

/-- After the strands have left the masks there are only releases and the end of the cord. -/
theorem releases_endInCord (lanes : List Nat) (c : Cord) : (leaveMasks lanes c).Releases (endInCord lanes c) :=
  (Cord.releases_checkMasks _).trans (Cord.releases_closeCord _)

/-- A cord whose last strand ends is ended, its queue empty. -/
theorem endInCord_ended {lanes : List Nat} {c : Cord} (h : (endInCord lanes c).liveLanes = []) :
    (endInCord lanes c).ended = true ∧ (endInCord lanes c).queue = [] :=
  closeCord_ended ((Cord.releases_closeCord _).liveLanes ▸ h)

/-- The strands of a cord some of whose strands have ended. -/
theorem leaveMasks_lane (lanes : List Nat) (c : Cord) (l : Nat) :
    (leaveMasks lanes c).lane l = if l ∈ lanes ∧ l < c.strands.length then endStrand (c.lane l) else c.lane l := by
  rw [← Cord.lane_modLanes]
  exact passTags_lane _ lanes l

/-- What leaving the masks leaves of the cord. -/
theorem leaveMasks_frame (lanes : List Nat) (c : Cord) :
    (leaveMasks lanes c).strands.length = c.strands.length ∧ (leaveMasks lanes c).s = c.s
      ∧ (leaveMasks lanes c).retired = c.retired := by
  obtain ⟨ops, f, h⟩ := passTags_eq (c.modLanes lanes endStrand) lanes
  simp [leaveMasks, liveMasks, h]

/-- A lane is live afterwards where it was live and is not among those that end. -/
theorem mem_liveLanes_leaveMasks {lanes : List Nat} {c : Cord} {l : Nat} :
    l ∈ (leaveMasks lanes c).liveLanes ↔ l ∈ c.liveLanes ∧ l ∉ lanes := by
  rw [Cord.mem_liveLanes, Cord.mem_liveLanes, (leaveMasks_frame lanes c).1, leaveMasks_lane]
  by_cases hl : l ∈ lanes
  · simp +contextual [hl, endStrand, Strand.live]
  · simp [hl]

/-- The strands that end leave every mask. -/
theorem leaveMasks_mask (lanes : List Nat) (c : Cord) (n : Nat) :
    (leaveMasks lanes c).mask n = c.mask n &&& maskOf (leaveMasks lanes c).liveLanes := by
  obtain ⟨ops, f, h⟩ := passTags_eq (c.modLanes lanes endStrand) lanes
  rw [leaveMasks, liveMasks_mask, h]
  rfl

/-! ### The end of strands in the device -/

/-- A cord that is there, after it is changed. -/
theorem cordOf_modCord_of_some {s : State} {b c : Nat} {x : Cord} (h : cordOf s b c = some x) (f : Cord → Cord) :
    cordOf (modCord s b c f) b c = some (f x) := by
  rw [cordOf_modCord_same, h, Option.map_some]

/-- A state with the same blocks has the same cords. -/
theorem cordOf_congr {s t : State} (h : t.blocks = s.blocks) (b c : Nat) : cordOf t b c = cordOf s b c := by
  simp only [cordOf, h]

/-- The core that is changed. -/
theorem coreOf_modCore_same (s : State) (core : Nat) (f : CoreSt → CoreSt) :
    coreOf (modCore s core f) core = f (coreOf s core) := by
  simp [coreOf, tabGet_tabPut_same]

/-- A change of a core that leaves its completion queue leaves that of every core. -/
theorem coreOf_modCore_cq {f : CoreSt → CoreSt} (hf : ∀ k, (f k).cq = k.cq) (s : State) (core i : Nat) :
    (coreOf (modCore s core f) i).cq = (coreOf s i).cq := by
  by_cases h : i = core
  · rw [h, coreOf_modCore_same, hf]
  · simp [coreOf, tabGet_tabPut_other _ _ h]

/-- A phase boundary leaves every completion queue. -/
theorem coreOf_coreBoundary_cq (s : State) (core i : Nat) :
    (coreOf (coreBoundary s core) i).cq = (coreOf s i).cq :=
  coreOf_modCore_cq (fun k => by split <;> rfl) s core i

/-- The causes that go to the status of a grid move no block. -/
theorem foldl_lateOfEnded_blocks (b : Nat) (rs : List Report) (s : State) :
    (rs.foldl (fun s r => lateOfEnded s b r) s).blocks = s.blocks := by
  induction rs generalizing s with
  | nil => rfl
  | cons r rs ih =>
    rw [List.foldl_cons, ih, lateOfEnded]
    split <;> rfl

/-- A cord's late causes leave it, and nothing else of it changes (R164). -/
theorem cordOf_endLates (s : State) (b c : Nat) :
    cordOf (endLates s b c) b c = (cordOf s b c).map (fun y => { y with lates := [] }) := by
  cases h : cordOf s b c with
  | none => simp [endLates, h]
  | some x =>
    simp only [endLates, h]
    rw [cordOf_modCord_same, cordOf_congr (foldl_lateOfEnded_blocks ..), h]

/-- A completion queue without the replies of one cord. -/
def dropReplies (b c : Nat) (k : CoreSt) : CoreSt :=
  { k with
    cq := k.cq.filter (fun r => !(r.block == b && r.cord == c)),
    credits := k.credits + (k.cq.filter (fun r => r.block == b && r.cord == c)).length }

/-- An ended cord's late causes and replies are discarded, and its fault entries are marked (R164, R218, R228). -/
def discardEnded (s : State) (b c : Nat) : State :=
  match s.blocks[b]?, cordOf s b c with
  | some blk, some x =>
    if x.ended then
      modDie (modCore (endLates s b c) blk.core (dropReplies b c)) (dieOfCore blk.core) (fun d => markExited d s b c)
    else s
  | _, _ => s

/-- The end of strands step by step: in their cord, of what an ended cord leaves behind, and at the block's barrier. -/
theorem endStrands_eq (s : State) (b c : Nat) (lanes : List Nat) :
    endStrands s b c lanes = checkBar (discardEnded (modCord s b c (endInCord lanes)) b c) b := rfl

/-- What an ended cord leaves behind does not change its strands, masks and registers. -/
theorem cordOf_discardEnded {s : State} {b c : Nat} {y : Cord} (h : cordOf s b c = some y) :
    ∃ z, cordOf (discardEnded s b c) b c = some z ∧ y.Releases z := by
  unfold discardEnded
  split
  next blk x hb hx =>
    obtain rfl : y = x := Option.some.inj (h.symm.trans hx)
    split
    · refine ⟨{ y with lates := [] }, ?_, ⟨rfl, rfl, rfl, rfl, id, id, fun _ => .refl _⟩⟩
      rw [cordOf_congr (by simp) b c (s := endLates s b c), cordOf_endLates, h]
      rfl
    · exact ⟨y, h, .refl y⟩
  · exact ⟨y, h, .refl y⟩

/-- The core of an ended cord holds none of its replies (R228). -/
theorem cq_discardEnded {s : State} {b c : Nat} {y : Cord} {k : Block} (h : cordOf s b c = some y)
    (hk : s.blocks[b]? = some k) (he : y.ended = true) :
    ∀ r ∈ (coreOf (discardEnded s b c) k.core).cq, ¬(r.block = b ∧ r.cord = c) := by
  have hcore : coreOf (discardEnded s b c) k.core = dropReplies b c (coreOf (endLates s b c) k.core) := by
    simp only [discardEnded, hk, h, he, if_true]
    exact coreOf_modCore_same ..
  rw [hcore]
  rintro r hr ⟨hb, hc⟩
  simp [dropReplies, hb, hc] at hr

/-- The release of a block barrier ends nothing (R124). -/
theorem cordOf_checkBar {s : State} {b c : Nat} {y : Cord} (h : cordOf s b c = some y) :
    ∃ z, cordOf (checkBar s b) b c = some z ∧ y.Releases z := by
  unfold checkBar
  split
  · exact ⟨y, h, .refl y⟩
  next x hx =>
    simp only
    split
    next n _ =>
      refine ⟨passLanes 8 (y.parkedAt (.bar n)) (boundary (y.parkedAt (.bar n)) y), ?_,
        (Cord.releases_boundary _ y).trans (Cord.releases_passLanes ..)⟩
      have hy : x.cords[c]? = some y := by simpa [cordOf, hx] using h
      simp [cordOf, hx, hy]
    · exact ⟨y, h, .refl y⟩

/-- The release of a block barrier leaves every completion queue. -/
theorem coreOf_checkBar_cq (s : State) (b i : Nat) : (coreOf (checkBar s b) i).cq = (coreOf s i).cq := by
  unfold checkBar
  split
  · rfl
  · simp only
    split
    · exact (coreOf_coreBoundary_cq ..).trans (coreOf_modCore_cq (fun _ => by rfl) ..)
    · rfl

/-- After the strands have left the masks of their cord, the rest of their end releases strands and ends the cord. -/
theorem cordOf_endStrands {s : State} {b c : Nat} {x : Cord} (h : cordOf s b c = some x) (lanes : List Nat) :
    ∃ y, cordOf (endStrands s b c lanes) b c = some y ∧ (endInCord lanes x).Releases y := by
  have h0 := cordOf_modCord_of_some h (endInCord lanes)
  obtain ⟨z, hz, r1⟩ := cordOf_discardEnded h0
  obtain ⟨y, hy, r2⟩ := cordOf_checkBar hz
  rw [endStrands_eq]
  exact ⟨y, hy, r1.trans r2⟩

/-- Where the cord ends with its strands, its core's completion queue holds none of its replies (R228). -/
theorem cq_endStrands {s : State} {b c : Nat} {x : Cord} {k : Block} {lanes : List Nat} (h : cordOf s b c = some x)
    (hk : s.blocks[b]? = some k) (he : (endInCord lanes x).ended = true) :
    ∀ r ∈ (coreOf (endStrands s b c lanes) k.core).cq, ¬(r.block = b ∧ r.cord = c) := by
  have h0 := cordOf_modCord_of_some h (endInCord lanes)
  have hk0 : (modCord s b c (endInCord lanes)).blocks[b]? = some (k.modCord c (endInCord lanes)) := by
    simp [modCord, hk]
  rw [endStrands_eq, coreOf_checkBar_cq]
  exact cq_discardEnded (k := k.modCord c (endInCord lanes)) h0 hk0 he

/-! ### Leaving the active slot, and residents -/

/-- A cord that leaves its active slot changes in nothing but that (R298, R300). -/
theorem cordOf_swapOut {s : State} {b c : Nat} {y : Cord} (h : cordOf s b c = some y) :
    ∃ n, cordOf (swapOut s b c) b c = some { y with active := none, since := n } := by
  unfold swapOut
  split
  next x z hx hz =>
    obtain rfl : y = z := Option.some.inj (h.symm.trans hz)
    split
    next ha => exact ⟨y.since, by rw [h, ← Option.isNone_iff_eq_none.mp ha]⟩
    · exact ⟨(coreOf s x.core).swaps, by rw [cordOf_congr (modCore_blocks ..), cordOf_modCord_of_some h]⟩
  next hno =>
    obtain ⟨x, hx, _⟩ := Option.bind_eq_some_iff.mp h
    exact (hno x y hx h).elim

/-- The residents of a side are counted block by block, cords that have ended left out (R20, R23). -/
theorem residents_length (s : State) (core side : Nat) : (residents s core side).length
    = (s.blocks.map (fun x => if x.core = core ∧ x.side = side then (x.cords.filter (fun y => !y.ended)).length else 0)).sum := by
  rw [residents, List.length_flatMap]
  congr 1
  apply List.map_congr_left
  intro x _
  split <;> simp

/-! ### Instructions that complete as their body says -/

/-- An instruction whose body goes as a case says completes as that case says. -/
theorem completes_of_body {e : Claims.Case} {s : State} {u : Issue} {body : Issue → State → Act}
    (hx : exec e.i s = issue e.i body s) (hb : e.holds = true → body u s = .go e.regs e.dws e.eff) :
    e.Completes s u := by
  rintro ⟨hi, hd, hr, he, hf⟩ hh
  rw [hx, issue_go hi hd hr he hf (hb hh)]
  rfl

/-- The mask instructions complete (R29, R115 to R117). -/
theorem maskCases_complete (f : LForm) (s : State) (u : Issue) : ∀ e ∈ Claims.maskCases f u, e.Completes s u := by
  simp only [Claims.maskCases, List.forall_mem_cons]
  refine ⟨?join, ?leave, ?waitm, ?kset, ?kmov, ?kmovTos, ?kand, ?kor, ?kpop, ?kpopLow, by simp⟩
  case join => exact completes_of_body (show execJoin f s = _ from rfl) (fun _ => rfl)
  case leave => exact completes_of_body (show execLeave f s = _ from rfl) (fun _ => rfl)
  case waitm => exact completes_of_body (show execWaitm f s = _ from rfl) (fun _ => rfl)
  case kset => exact completes_of_body (show execKset f s = _ from rfl) (fun _ => rfl)
  case kmov =>
    refine completes_of_body (show execKmov f s = _ from rfl) (fun h => if_neg ?_)
    simpa [Claims.changes] using h
  case kmovTos => exact completes_of_body (show execKmov f s = _ from rfl) (fun h => if_pos h)
  case kand =>
    refine completes_of_body (show execKand f s = _ from rfl) (fun _ => ?_)
    simp only [maskBody, Claims.changes, beq_iff_eq]
  case kor => exact completes_of_body (show execKor f s = _ from rfl) (fun _ => rfl)
  case kpop =>
    refine completes_of_body (show execKpop f s = _ from rfl) (fun h => ?_)
    have hm : (f.mod == 1) = false := by simpa [Claims.writes] using h
    simp only [hm]
    rfl
  case kpopLow =>
    refine completes_of_body (show execKpop f s = _ from rfl) (fun h => ?_)
    have hm : (f.mod == 1) = true := h
    simp only [hm, if_true, List.headD_eq_head?_getD, lanesOf, List.head?_filter, goRegs, Claims.writes]
    cases (List.range 64).find? (fun i => (u.cord.mask f.a.toNat).getLsbD i) <;> rfl

/-- EXIT, YIELD and RGNEND complete (R112, R113, R335). -/
theorem endCases_complete (f : LForm) (s : State) (u : Issue) : ∀ e ∈ Claims.endCases f u, e.Completes s u := by
  simp only [Claims.endCases, List.forall_mem_cons]
  refine ⟨?exit, ?yield, ?rgnend, by simp⟩
  case exit => exact completes_of_body (show execExit f s = _ from rfl) (fun _ => rfl)
  case yield => exact completes_of_body (show execYield f s = _ from rfl) (fun _ => rfl)
  case rgnend => exact completes_of_body (show execRgnend f s = _ from rfl) (fun _ => rfl)

/-- The short NOP retires with no effect (R46, R114). -/
theorem nop_completes (g : SForm) (s : State) (u : Issue) : ({ i := .nop g } : Claims.Case).Completes s u :=
  completes_of_body (show execNop g s = _ from rfl) (fun _ => rfl)

/-- The long NOP retires with no effect (R114). -/
theorem nopLong_completes (f : LForm) (s : State) (u : Issue) : ({ i := .nopLong f } : Claims.Case).Completes s u :=
  completes_of_body (show execNopLong f s = _ from rfl) (fun _ => rfl)

/-! ### The statement -/

/-- Settles O26: the instructions complete by the one way of issuing; a mask write and the check of R30 by the lemmas
about applyW and checkWaitm; the end of strands as the strands leaving the masks (leaveMasks), after which only releases
and the end of the cord follow (Cord.Releases). -/
theorem masksAndEnds : Obligations.MasksAndEnds := by
  unfold Obligations.MasksAndEnds
  refine ⟨maskCases_complete, ?masks, ⟨endCases_complete, fun s b c y h => cordOf_swapOut h⟩, ?ends,
    residents_length, fun f g s u => ⟨fun h => nop_completes g s u h rfl, fun h => nopLong_completes f s u h rfl⟩⟩
  case masks =>
    intro c k x hk
    refine ⟨applyW_mask_same x hk, fun n hn => applyW_mask_other c x hn, ?_, fun h l => checkWaitm_lane_of_allWait h l,
      fun b img y n hn => cordFrom_mask b img y hn⟩
    rintro ⟨l, hl, hm, hp⟩
    exact checkWaitm_of_not_allWait (fun h => hp (h l hl hm))
  case ends =>
    intro s b c x lanes h
    obtain ⟨y, hy, hr⟩ := cordOf_endStrands h lanes
    have hrel : (leaveMasks lanes x).Releases y := (releases_endInCord lanes x).trans hr
    obtain ⟨-, hs, hret⟩ := leaveMasks_frame lanes x
    refine ⟨y, hy, fun l hl => ?lane, fun n => ?mask, fun l => ?live, hrel.scalars.trans hs, hrel.retired.trans hret,
      fun hnone => ?last⟩
    case lane =>
      have hlane := hrel.lane l
      rw [leaveMasks_lane] at hlane
      by_cases hin : l ∈ lanes
      · rw [if_pos ⟨hin, hl⟩] at hlane
        exact ⟨hlane.v, hlane.p, fun _ => ⟨hlane.ended, hlane.park rfl, hlane.refs⟩, fun hout => absurd hin hout⟩
      · rw [if_neg (fun e => hin e.1)] at hlane
        exact ⟨hlane.v, hlane.p, fun e => absurd e hin, fun _ => ⟨hlane.ended, hlane.refs⟩⟩
    case mask => rw [hrel.mask, hrel.liveLanes, leaveMasks_mask]
    case live => rw [hrel.liveLanes, mem_liveLanes_leaveMasks]
    case last =>
      obtain ⟨hend, hqueue⟩ := endInCord_ended (hr.liveLanes ▸ hnone)
      exact ⟨hr.ended hend, hr.queue hqueue, fun k hk => cq_endStrands h hk hend⟩

end Sys2Proof.Machine
end

section
/-! Instructions that write D: their operands, their completion as a result says, and their integers as bit vectors (R48,
R50, R77). -/

namespace Sys2Proof.Machine
open Sys2Proof

/-! ### Operands -/

/-- The width of an operand of a type: a register or a pair (R48). -/
def valWidth (ty : Nat) : Nat := if wideNat ty then 64 else 32

/-- A register or pair holds no more than its width. -/
theorem regVal_lt (c : Cord) (l : Nat) (scalar : Bool) (ty r : Nat) :
    regVal c l scalar (wideNat ty) r < 2 ^ valWidth ty := by
  unfold regVal valWidth
  cases wideNat ty <;> exact BitVec.isLt _

/-- Operand A within its width. -/
theorem valA_lt (c : Cord) (f : LForm) (ty l : Nat) : valA c f ty l < 2 ^ valWidth ty := regVal_lt ..

/-- Operand C within its width. -/
theorem valC_lt (c : Cord) (f : LForm) (ty l : Nat) : valC c f ty l < 2 ^ valWidth ty := regVal_lt ..

/-- A literal within the width of its type (R50). -/
theorem litVal_lt (ty : Nat) (w : Word) : litVal ty w < 2 ^ valWidth ty := by
  unfold litVal
  split
  next h => subst h; exact BitVec.isLt _
  next =>
    refine w.isLt.trans_le (Nat.pow_le_pow_right (by omega) ?_)
    unfold valWidth
    split <;> omega

/-- Operand B within its width. -/
theorem valB_lt (c : Cord) (f : LForm) (ty l : Nat) : valB c f ty l < 2 ^ valWidth ty := by
  unfold valB
  split
  · exact litVal_lt ..
  · exact regVal_lt ..

/-! ### What passing the decode checks says of the type -/

/-- An instruction that passes Table 3-6 is of a type that its entry admits (row 3). -/
theorem typeOk_of_decodeTrap {x : DecodeCtx} {i : Instr} {op : Nat} {f : LForm} (hs : i.shape = .long op f)
    (h : decodeTrap x i = none) : (admits x.W i).typeOk = true := by
  by_contra ht
  have hf : (admits x.W i).typeOk = false := Bool.eq_false_iff.mpr ht
  simp only [decodeTrap, hs, hf] at h
  split at h <;> simp at h

/-- An operand of a type among some that name no pairs is a word. -/
theorem lt_word_of_tyIn {t : BitVec 4} {l : List Nat} {x : Nat} (hl : ∀ n ∈ l, wideNat n = false)
    (ht : tyIn t l = true) (hx : x < 2 ^ valWidth t.toNat) : x < 2 ^ 32 := by
  have hw : wideNat t.toNat = false := hl _ (by simpa [tyIn] using ht)
  simpa [valWidth, hw] using hx

/-! ### Instructions that complete as a result says -/

/-- As `completes_of_body`, the body looked at where the instruction passes the decode checks. -/
theorem completes_of_decoded {e : Claims.Case} {s : State} {u : Issue} {body : Issue → State → Act}
    (hx : exec e.i s = issue e.i body s)
    (hb : decodeTrap (decodeCtx u) e.i = none → body u s = .go e.regs e.dws e.eff) : e.Completes s u :=
  fun hi => completes_of_body hx (fun _ => hb hi.2.1) hi

/-- An instruction that writes D in each target completes as a result that agrees with its own. -/
theorem completes_of_alu {i : Instr} {f : LForm} {s : State} {u : Issue} {g : Cord → Nat → Nat × FpFlags}
    {r : Nat → Nat × FpFlags} (hx : exec i s = issue i (aluBody f f.ty.toNat g) s)
    (h : decodeTrap (decodeCtx u) i = none → ∀ l, g u.cord l = r l) :
    (Claims.writes i u (Claims.resultWrites f u r)).Completes s u := by
  refine completes_of_decoded hx (fun hd => ?_)
  have hg : g u.cord = r := funext (h hd)
  subst hg
  rfl

/-- An operation on whole values completes as a result that agrees with its own. -/
theorem completes_of_whole {i : Instr} {f : LForm} {s : State} {u : Issue} {g : Nat → Nat → Nat → Nat} {r : Nat → Nat}
    (hx : exec i s = issue i (wholeBody f g) s)
    (h : decodeTrap (decodeCtx u) i = none → ∀ l,
      g (valA u.cord f f.ty.toNat l) (valB u.cord f f.ty.toNat l) (valC u.cord f f.ty.toNat l) = r l) :
    (Claims.writes i u (Claims.resultWrites f u (fun l => (r l, 0)))).Completes s u :=
  completes_of_alu
    (g := fun c l => (g (valA c f f.ty.toNat l) (valB c f f.ty.toNat l) (valC c f f.ty.toNat l), 0)) hx
    (fun hd l => by rw [h hd l])

/-! ### Integers as bit vectors -/

/-- The low bits of an integer, as a bit vector. -/
theorem wrapInt_eq (w : Nat) (r : Int) : wrapInt w r = (BitVec.ofInt w r).toNat := by simp [wrapInt, BitVec.toNat_ofInt]

/-- The integer that w bits stand for, as a bit vector's. -/
theorem toInt_eq_readInt (sg : Bool) {w x : Nat} (h : x < 2 ^ w) : toInt sg w x = Claims.readInt sg w x := by
  have hx : (BitVec.ofNat w x).toNat = x := by rw [BitVec.toNat_ofNat, Nat.mod_eq_of_lt h]
  unfold toInt Claims.readInt
  cases sg
  case false => simp [hx]
  case true =>
    have hmsb : (BitVec.ofNat w x).msb = x.testBit (w - 1) := by
      rw [BitVec.msb_eq_getLsbD_last, BitVec.getLsbD, hx]
    simp [BitVec.toInt_eq_msb_cond, hmsb, hx]

/-- A bit vector extended as a sign says stands for the same integer. -/
theorem extend_eq_ofInt (sg : Bool) {w : Nat} (v : Nat) (x : BitVec w) :
    (if sg then x.signExtend v else x.setWidth v) = BitVec.ofInt v (Claims.readInt sg w x.toNat) := by
  cases sg
  case false => simp [Claims.readInt]
  case true => simp [Claims.readInt]; rfl

end Sys2Proof.Machine
end

section
/-! Bitwise operations, shifts, rotation, counts and bit reversal (R85, R86). -/

namespace Sys2Proof.Machine
open Sys2Proof

/-! ### Shifts and rotation (R86) -/

/-- A value shifted left and cut to its width. -/
theorem toNat_ofNat_shiftLeft (w x n : Nat) : (BitVec.ofNat w x <<< n).toNat = x * 2 ^ n % 2 ^ w := by
  simp [Nat.shiftLeft_eq]

/-- SHL as a shift of bit vectors. -/
theorem shlVal_eq (w x n : Nat) : shlVal w x n = (BitVec.ofNat w x <<< n).toNat := by
  unfold shlVal
  split
  next h => rw [BitVec.shiftLeft_eq_zero h]; rfl
  next => rw [toNat_ofNat_shiftLeft]

/-- SHR as a shift of bit vectors. -/
theorem shrVal_eq {w x : Nat} (n : Nat) (hx : x < 2 ^ w) : shrVal w x n = (BitVec.ofNat w x >>> n).toNat := by
  have hv : (BitVec.ofNat w x >>> n).toNat = x / 2 ^ n := by simp [Nat.shiftRight_eq_div_pow, Nat.mod_eq_of_lt hx]
  unfold shrVal
  split
  next h => rw [hv, Nat.div_eq_of_lt (hx.trans_le (Nat.pow_le_pow_right (by omega) h))]
  next => rw [hv]

/-- Past its width an integer of w bits has only copies of its sign. -/
theorem ediv_two_pow_of_width_le {t : Int} {w n : Nat} (hlo : -2 ^ w ≤ t) (hhi : t < 2 ^ w) (h : w ≤ n) :
    t / 2 ^ n = t / 2 ^ w := by
  have key : ∀ k, w ≤ k → t / 2 ^ k = if t < 0 then -1 else 0 := by
    intro k hk
    have hp : (2 : Int) ^ w ≤ 2 ^ k := pow_le_pow_right₀ (by norm_num) hk
    split
    · exact Int.ediv_eq_iff_of_pos (by positivity) |>.mpr ⟨by omega, by omega⟩
    · exact Int.ediv_eq_zero_of_lt (by omega) (by omega)
  rw [key n h, key w le_rfl]

/-- SAR as a shift of bit vectors: past the width nothing changes any more. -/
theorem sarVal_eq {w x : Nat} (n : Nat) (hx : x < 2 ^ w) : sarVal w x n = ((BitVec.ofNat w x).sshiftRight n).toNat := by
  have ht : toInt true w x = (BitVec.ofNat w x).toInt := toInt_eq_readInt true hx
  have hq : toInt true w x / 2 ^ Nat.min n w = (BitVec.ofNat w x).toInt >>> n := by
    rw [ht, Int.shiftRight_eq_div_pow, show Nat.min n w = min n w from rfl, Nat.cast_pow, Nat.cast_ofNat]
    rcases Nat.le_total n w with h | h
    · rw [Nat.min_eq_left h]
    · have hlo := BitVec.le_toInt (BitVec.ofNat w x)
      have hhi := BitVec.toInt_lt (x := BitVec.ofNat w x)
      have hp : (2 : Int) ^ (w - 1) ≤ 2 ^ w := pow_le_pow_right₀ (by norm_num) (by omega)
      rw [Nat.min_eq_right h, ediv_two_pow_of_width_le (by omega) (by omega) h]
  rw [sarVal, hq, wrapInt_eq, BitVec.sshiftRight_eq]

/-- A rotation to the left puts together two parts that share no bit. -/
theorem rotlVal_eq_or {w x k : Nat} (hx : x < 2 ^ w) (hk : k < w) :
    rotlVal w x k = x <<< k % 2 ^ w ||| x >>> (w - k) := by
  have hw : w - k + k = w := by omega
  have hlow : x <<< k % 2 ^ w = (x % 2 ^ (w - k)) <<< k := by
    rw [Nat.shiftLeft_eq, Nat.shiftLeft_eq, ← Nat.mul_mod_mul_right, ← pow_add, hw]
  have hhigh : x >>> (w - k) < 2 ^ k := by
    rw [Nat.shiftRight_eq_div_pow]
    exact Nat.div_lt_of_lt_mul (by rwa [← pow_add, hw])
  rw [hlow, ← Nat.shiftLeft_add_eq_or_of_lt hhigh, ← hlow]
  simp [rotlVal, Nat.mod_eq_of_lt hk, Nat.shiftLeft_eq, Nat.shiftRight_eq_div_pow]

/-- A rotation by the whole width is none. -/
theorem rotlVal_width {w x : Nat} (hx : x < 2 ^ w) : rotlVal w x w = x := by
  simp [rotlVal, Nat.mod_eq_of_lt hx, Nat.div_eq_of_lt hx]

/-- ROT.l as a rotation of bit vectors. -/
theorem rotlVal_left {w x : Nat} (n : Nat) (hw : 0 < w) (hx : x < 2 ^ w) :
    rotlVal w x (n % w) = ((BitVec.ofNat w x).rotateLeft n).toNat := by
  rw [rotlVal_eq_or hx (Nat.mod_lt n hw), BitVec.toNat_rotateLeft, BitVec.toNat_ofNat, Nat.mod_eq_of_lt hx]

/-- A rotation to the right is one to the left by the rest of the width. -/
theorem rotlVal_right {w x : Nat} (n : Nat) (hw : 0 < w) (hx : x < 2 ^ w) :
    rotlVal w x (w - n % w) = ((BitVec.ofNat w x).rotateRight n).toNat := by
  have hn := Nat.mod_lt n hw
  rw [BitVec.toNat_rotateRight, BitVec.toNat_ofNat, Nat.mod_eq_of_lt hx]
  rcases Nat.eq_zero_or_pos (n % w) with h | h
  · simp [h, rotlVal_width hx, Nat.shiftLeft_eq]
  · rw [rotlVal_eq_or hx (by omega), Nat.or_comm]
    congr 2
    omega

/-! ### Counts and reversal (R85) -/

/-- POPC counts the bits of the word. -/
theorem popcVal_eq (x : Nat) :
    popcVal x = ((List.range 32).filter (fun i => (BitVec.ofNat 32 x).getLsbD i)).length := by
  unfold popcVal
  congr 1
  apply List.filter_congr
  intro i hi
  rw [BitVec.getLsbD_ofNat, decide_eq_true (List.mem_range.mp hi), Bool.true_and]

/-- CLZ finds the first 1 bit from the top. -/
theorem clzVal_eq {x : Nat} (hx : x < 2 ^ 32) :
    clzVal x = ((List.range 33).find? (fun n => n == 32 || (BitVec.ofNat 32 x).getMsbD n)).getD 32 := by
  unfold clzVal
  split
  next h => subst h; decide
  next h =>
    have hlog : Nat.log2 x < 32 := (Nat.log2_lt h).mpr hx
    have hfind : (List.range 33).find? (fun n => n == 32 || (BitVec.ofNat 32 x).getMsbD n) = some (31 - Nat.log2 x) := by
      rw [List.find?_range_eq_some]
      refine ⟨?top, by simp; omega, fun j hj => ?above⟩
      case top =>
        have hi : 32 - 1 - (31 - Nat.log2 x) = Nat.log2 x := by omega
        simp only [BitVec.getMsbD, BitVec.getLsbD_ofNat, hi, Nat.testBit_log2 h]
        simp [hlog]; omega
      case above =>
        have hz : x.testBit (32 - 1 - j) = false :=
          Nat.testBit_lt_two_pow ((Nat.log2_lt h).mp (by omega))
        simp only [BitVec.getMsbD, BitVec.getLsbD_ofNat, hz]
        simp; omega
    rw [hfind]; rfl

/-- The bits from j on are those above j and bit j. -/
theorem high_bits_succ (y j : Nat) :
    y / 2 ^ j * 2 ^ j = if y.testBit j then y / 2 ^ (j + 1) * 2 ^ (j + 1) + 2 ^ j else y / 2 ^ (j + 1) * 2 ^ (j + 1) := by
  have hq : 2 * (y / 2 ^ j / 2) + y / 2 ^ j % 2 = y / 2 ^ j := Nat.div_add_mod ..
  rw [Nat.testBit_eq_decide_div_mod_eq, Nat.pow_succ, ← Nat.div_div_eq_div_mul]
  generalize y / 2 ^ j = q at hq
  simp only [decide_eq_true_eq]
  split
  next h => rw [h] at hq; nth_rw 1 [← hq]; ring
  next h =>
    have h0 : q % 2 = 0 := by omega
    rw [h0] at hq; nth_rw 1 [← hq]; ring

/-- The top k bits of a word's reversal are put together from its low k bits. -/
theorem foldl_bits_eq_reverse (x : Nat) {k : Nat} (hk : k ≤ 32) :
    (List.range k).foldl (fun r i => if x.testBit i then r + 2 ^ (31 - i) else r) 0
      = (BitVec.ofNat 32 x).reverse.toNat / 2 ^ (32 - k) * 2 ^ (32 - k) := by
  induction k with
  | zero => rw [Nat.div_eq_of_lt (BitVec.isLt _), Nat.zero_mul]; rfl
  | succ k ih =>
    have hbit : (BitVec.ofNat 32 x).reverse.toNat.testBit (31 - k) = x.testBit k := by
      have hi : 32 - 1 - (31 - k) = k := by omega
      rw [← BitVec.getLsbD, BitVec.getLsbD_reverse, BitVec.getMsbD, BitVec.getLsbD_ofNat, hi,
        decide_eq_true (by omega : 31 - k < 32), decide_eq_true (by omega : k < 32), Bool.true_and, Bool.true_and]
    have hexp : 32 - k = 31 - k + 1 := by omega
    have hsucc : 32 - (k + 1) = 31 - k := by omega
    rw [List.range_succ, List.foldl_append, ih (by omega), hsucc, hexp, high_bits_succ _ (31 - k), hbit]
    rfl

/-- BREV as the reversal of bit vectors. -/
theorem brevVal_eq (x : Nat) : brevVal x = (BitVec.ofNat 32 x).reverse.toNat := by
  rw [brevVal, foldl_bits_eq_reverse x le_rfl, Nat.sub_self, pow_zero, Nat.div_one, Nat.mul_one]

/-! ### O16 -/

/-- An instruction of Table 4-3 on all bits completes as an operation on bit vectors that its own agrees with. -/
theorem completes_of_bits {i : Instr} {f : LForm} {s : State} {u : Issue} {g : Nat → Nat → Nat → Nat}
    {r : (w : Nat) → BitVec w → BitVec w → Nat → BitVec 4 → BitVec w} (hx : exec i s = issue i (wholeBody f g) s)
    (h : ∀ x y z, x < 2 ^ shiftWidth f → y < 2 ^ shiftWidth f → g x y z
      = (r (shiftWidth f) (BitVec.ofNat _ x) (BitVec.ofNat _ y) (shiftBy y) f.mod).toNat) :
    (Claims.writes i u (Claims.bitWrites f u r)).Completes s u :=
  completes_of_whole hx (fun _ _ => h _ _ _ (valA_lt ..) (valB_lt ..))

/-- A shift has a width. -/
theorem shiftWidth_pos (f : LForm) : 0 < shiftWidth f := by
  unfold shiftWidth
  split <;> omega

/-- AND, OR, XOR, NOT, the shifts and ROT complete (R85, R86). -/
theorem bitTable_complete : ∀ e ∈ Claims.bitTable, ∀ (f : LForm) (s : State) (u : Issue),
    (Claims.writes (e.1 f) u (Claims.bitWrites f u e.2)).Completes s u := by
  simp only [Claims.bitTable, List.forall_mem_cons]
  refine ⟨?and, ?or, ?xor, ?not, ?shl, ?shr, ?sar, ?rot, by simp⟩ <;> intro f s u
  case and =>
    refine completes_of_bits (show execAnd f s = _ from rfl) (fun x y _ hx hy => ?_)
    simp [Nat.mod_eq_of_lt hx, Nat.mod_eq_of_lt hy]
  case or =>
    refine completes_of_bits (show execOr f s = _ from rfl) (fun x y _ hx hy => ?_)
    simp [Nat.mod_eq_of_lt hx, Nat.mod_eq_of_lt hy]
  case xor =>
    refine completes_of_bits (show execXor f s = _ from rfl) (fun x y _ hx hy => ?_)
    simp [Nat.mod_eq_of_lt hx, Nat.mod_eq_of_lt hy]
  case not =>
    refine completes_of_bits (show execNot f s = _ from rfl) (fun x y _ _ _ => ?_)
    rw [BitVec.toNat_not, BitVec.toNat_ofNat]
  case shl => exact completes_of_bits (show execShl f s = _ from rfl) (fun _ _ _ _ _ => shlVal_eq ..)
  case shr => exact completes_of_bits (show execShr f s = _ from rfl) (fun _ _ _ hx _ => shrVal_eq _ hx)
  case sar => exact completes_of_bits (show execSar f s = _ from rfl) (fun _ _ _ hx _ => sarVal_eq _ hx)
  case rot =>
    refine completes_of_bits (show execRot f s = _ from rfl) (fun x y _ hx _ => ?_)
    simp only [beq_iff_eq]
    split
    · exact rotlVal_right _ (shiftWidth_pos f) hx
    · exact rotlVal_left _ (shiftWidth_pos f) hx

/-- POPC, CLZ and BREV complete (R85). -/
theorem countTable_complete : ∀ e ∈ Claims.countTable, ∀ (f : LForm) (s : State) (u : Issue),
    (Claims.writes (e.1 f) u (Claims.countWrites f u e.2)).Completes s u := by
  simp only [Claims.countTable, List.forall_mem_cons]
  refine ⟨?popc, ?clz, ?brev, by simp⟩ <;> intro f s u
  case popc => exact completes_of_whole (show execPopc f s = _ from rfl) (fun _ _ => popcVal_eq _)
  case clz =>
    exact completes_of_whole (show execClz f s = _ from rfl) (fun hd _ =>
      clzVal_eq (lt_word_of_tyIn (by decide) (typeOk_of_decodeTrap rfl hd) (valA_lt ..)))
  case brev => exact completes_of_whole (show execBrev f s = _ from rfl) (fun _ _ => brevVal_eq _)

/-- Settles O16: each operation as one on bit vectors, by the lemmas on shifts, rotation, counts and reversal. -/
theorem bitOperations : Obligations.BitOperations := ⟨bitTable_complete, countTable_complete⟩

end Sys2Proof.Machine
end

section
/-! Moves, selection, bit fields and addresses (R81, R82, R87, R88). -/

namespace Sys2Proof.Machine
open Sys2Proof

/-! ### Bit fields (R87) -/

/-- A field of an integer's low part is that field of the integer. -/
theorem emod_ediv_emod_two_pow {n pos len : Nat} (i : Int) (h : pos + len ≤ n) :
    i % 2 ^ n / 2 ^ pos % 2 ^ len = i / 2 ^ pos % 2 ^ len := by
  have hn : (2 : Int) ^ n = 2 ^ pos * 2 ^ len * 2 ^ (n - (pos + len)) := by
    rw [← pow_add, ← pow_add, Nat.add_sub_cancel' h]
  have hsplit : i % 2 ^ n = i + 2 ^ pos * (2 ^ len * (2 ^ (n - (pos + len)) * -(i / 2 ^ n))) := by
    rw [Int.emod_def]
    nth_rw 1 [hn]
    ring
  rw [hsplit, Int.add_mul_ediv_left _ _ (by positivity), Int.add_mul_emod_self_left]

/-- Bits of the bit vector of an integer are bits of the integer. -/
theorem extractLsb'_ofInt {n pos len : Nat} (i : Int) (h : pos + len ≤ n) :
    (BitVec.ofInt n i).extractLsb' pos len = BitVec.ofInt len (i / 2 ^ pos) := by
  apply BitVec.eq_of_toNat_eq
  have hnonneg : 0 ≤ i % 2 ^ n := Int.emod_nonneg _ (by positivity)
  rw [BitVec.extractLsb'_toNat, BitVec.toNat_ofInt, BitVec.toNat_ofInt, Nat.shiftRight_eq_div_pow]
  push_cast
  rw [← emod_ediv_emod_two_pow i h]
  obtain ⟨k, hk⟩ := Int.eq_ofNat_of_zero_le hnonneg
  rw [hk]
  norm_cast

/-- BFE takes the field of the extended word and extends it in turn. -/
theorem bfeVal_eq (sg : Bool) {x : Nat} (y : Nat) (hx : x < 2 ^ 32) :
    bfeVal sg x y = (Claims.bfeField sg (BitVec.ofNat 32 x) y).toNat := by
  have hwidth : y % 256 + min (y / 256 % 256) 32 ≤ 320 := by omega
  have hlow (len : Nat) (i : Int) : toInt sg len (wrapInt len i) = Claims.readInt sg len (BitVec.ofInt len i).toNat := by
    rw [wrapInt_eq, toInt_eq_readInt sg (BitVec.isLt _)]
  simp only [Claims.bfeField, extend_eq_ofInt]
  rw [extractLsb'_ofInt _ hwidth, BitVec.toNat_ofNat, Nat.mod_eq_of_lt hx, ← toInt_eq_readInt sg hx, ← hlow, ← wrapInt_eq]
  simp only [bfeVal, show Nat.min (y / 256 % 256) 32 = min (y / 256 % 256) 32 from rfl]
  split
  next h => rw [h]; cases sg <;> simp [toInt, wrapInt]
  next => rfl

/-- The bits that a mask takes from one value and those that it leaves of another share none. -/
theorem mask_disjoint {w : Nat} (z x m : BitVec w) : (z &&& ~~~m) &&& (x &&& m) = 0#w := by
  ext i hi
  cases hm : m[i] <;> simp [hm]

/-- The bits that a mask leaves and those that it takes are all. -/
theorem mask_parts {w : Nat} (z m : BitVec w) : (z &&& ~~~m) ||| (z &&& m) = z := by
  ext i hi
  cases hm : m[i] <;> simp [hm]

/-- Two values put together by a mask that chooses between their bits. -/
theorem toNat_select {w : Nat} (z x m : BitVec w) :
    ((z &&& ~~~m) ||| (x &&& m)).toNat = z.toNat - (z.toNat &&& m.toNat) + (x.toNat &&& m.toNat) := by
  have hsum (y : BitVec w) : ((z &&& ~~~m) ||| (y &&& m)).toNat = (z &&& ~~~m).toNat + (y.toNat &&& m.toNat) := by
    rw [← BitVec.add_eq_or_of_and_eq_zero _ _ (mask_disjoint z y m),
      BitVec.toNat_add_of_and_eq_zero (mask_disjoint z y m), BitVec.toNat_and y m]
  have hz := hsum z
  rw [mask_parts] at hz
  rw [hsum]
  omega

/-- BFI chooses by the mask of the field between c and a moved to its place. -/
theorem bfiVal_eq (x y : Nat) {z : Nat} (hz : z < 2 ^ 32) :
    bfiVal x y z = (Claims.bfiField (BitVec.ofNat 32 x) (BitVec.ofNat 32 z) y).toNat := by
  simp only [Claims.bfiField, toNat_select, toNat_ofNat_shiftLeft, BitVec.toNat_ofNat, Nat.mod_eq_of_lt hz]
  rfl

/-! ### Addresses (R88) -/

/-- The sum of LEA, on bit vectors. -/
theorem wrapInt_leaSum (sg : Bool) (a k : Nat) (b : Word) :
    wrapInt 64 ((a : Int) + toInt sg 32 b.toNat * 2 ^ k)
      = (BitVec.ofNat 64 a + (if sg then b.signExtend 64 else b.setWidth 64) <<< k).toNat := by
  have hk : BitVec.ofInt 64 (2 ^ k) = BitVec.twoPow 64 k := by
    apply BitVec.eq_of_toNat_eq
    rw [BitVec.toNat_ofInt, BitVec.toNat_twoPow]
    norm_cast
  rw [extend_eq_ofInt, wrapInt_eq, BitVec.ofInt_add, BitVec.ofInt_mul, hk, ← BitVec.shiftLeft_eq_mul_twoPow,
    toInt_eq_readInt sg b.isLt, BitVec.ofInt_natCast]

/-- A single register as a word. -/
theorem toNat_ofNat_regVal (c : Cord) (l : Nat) (scalar : Bool) (r : Nat) :
    (BitVec.ofNat 32 (regVal c l scalar false r)).toNat = regVal c l scalar false r := by
  rw [BitVec.toNat_ofNat]
  exact Nat.mod_eq_of_lt (regVal_lt c l scalar 0 r)

/-- An instruction on operands of a type writes D in each target, where it raises no flag. -/
theorem aluBody_eq_goRegs {f : LForm} {ty : Nat} {g : Cord → Nat → Nat × FpFlags} {r : Nat → Nat} {u : Issue} (s : State)
    (h : ∀ l, g u.cord l = (r l, 0)) :
    aluBody f ty g u s = goRegs u ((targets u f).flatMap (fun l => putD f ty l (r l))) := by simp [aluBody, h]

/-! ### O17 -/

/-- Settles O17: MOV, MOVI and SEL copy; BFE, BFI and LEA by the lemmas on fields and addresses. -/
theorem movesAndFields : Obligations.MovesAndFields := by
  unfold Obligations.MovesAndFields
  intro f s u
  simp only [Claims.moveCases, List.forall_mem_cons]
  refine ⟨?mov, ?movi, ?sel, ?bfe, ?bfi, ?lea, by simp⟩
  case mov => exact completes_of_whole (show execMov f s = _ from rfl) (fun _ _ => rfl)
  case movi => exact completes_of_whole (show execMovi f s = _ from rfl) (fun _ _ => rfl)
  case sel => exact completes_of_alu (show execSel f s = _ from rfl) (fun _ _ => rfl)
  case bfe =>
    exact completes_of_whole (show execBfe f s = _ from rfl) (fun hd _ =>
      bfeVal_eq _ _ (lt_word_of_tyIn (by decide) (typeOk_of_decodeTrap rfl hd) (valA_lt ..)))
  case bfi =>
    exact completes_of_whole (show execBfi f s = _ from rfl) (fun hd _ =>
      bfiVal_eq _ _ (lt_word_of_tyIn (by decide) (typeOk_of_decodeTrap rfl hd) (valC_lt ..)))
  case lea =>
    refine completes_of_body (show execLea f s = _ from rfl) (fun _ => aluBody_eq_goRegs s (fun l => ?_))
    simp only [← beq_iff_eq (a := f.mod2)]
    cases f.lit with
    | some w => simp only [wrapInt_leaSum]
    | none => simp only [← wrapInt_leaSum, toNat_ofNat_regVal]

end Sys2Proof.Machine
end

section
/-! Integer arithmetic, and addition and subtraction with carry (Table 4-2, R83, R84). -/

namespace Sys2Proof.Machine
open Sys2Proof

/-! ### One element -/

/-- An element lies within its width. -/
theorem elt_lt (x w i : Nat) : elt x w i < 2 ^ w := Nat.mod_lt _ (by positivity)

/-- An integer limited to a range. -/
theorem clampInt_eq (sg : Bool) (w : Nat) (r : Int) : clampInt sg w r = max (minInt sg w) (min (maxInt sg w) r) := by
  have hp : (0 : Int) < 2 ^ (w - 1) := by positivity
  have hq : (0 : Int) < 2 ^ w := by positivity
  have hle : minInt sg w ≤ maxInt sg w := by
    unfold minInt maxInt
    cases sg <;> simp only [Bool.false_eq_true, if_true, if_false] <;> omega
  unfold clampInt
  split
  · omega
  · split <;> omega

/-- An element that is written, wrapped or limited. -/
theorem writeInt_eq (sg sat : Bool) (w : Nat) (r : Int) :
    Claims.writeInt sg sat w r = wrapInt w (if sat then clampInt sg w r else r) := by
  rw [wrapInt_eq, clampInt_eq]
  rfl

/-- Two exact results that agree give the same element (R83). -/
theorem intElt_eq {f : LForm} {r : Int → Int → Int → Int} {r' : Nat → Int → Int → Int → Int} {x y z : Nat}
    (h : ∀ x y z, r x y z = r' (eltBits f.ty.toNat) x y z) (hx : x < 2 ^ eltBits f.ty.toNat)
    (hy : y < 2 ^ eltBits f.ty.toNat) (hz : z < 2 ^ eltBits f.ty.toNat) :
    intElt f.ty.toNat (f.mod == 1) r x y z = (Claims.arithElt f r' x y z, 0) := by
  simp only [intElt, Claims.arithElt, writeInt_eq, toInt_eq_readInt _ hx, toInt_eq_readInt _ hy, toInt_eq_readInt _ hz, h]

/-! ### All elements -/

/-- Flags of elements that raise none. -/
theorem foldl_or_zero {α : Type} (l : List α) (fl : FpFlags) :
    (l.foldl (fun a _ => a ||| (0 : FpFlags)) fl) = fl := by
  have h0 : fl ||| 0 = fl := BitVec.or_zero
  induction l with
  | nil => rfl
  | cons _ l ih => rw [List.foldl_cons, h0, ih]

/-- An operation that raises no flag, on each element. -/
theorem eachElt_eq_onElts {ty : Nat} {g : Nat → Nat → Nat → Nat × FpFlags} {r : Nat → Nat → Nat → Nat}
    (h : ∀ x y z, x < 2 ^ eltBits ty → y < 2 ^ eltBits ty → z < 2 ^ eltBits ty → g x y z = (r x y z, 0)) (x y z : Nat) :
    eachElt ty g x y z = (Claims.onElts ty r x y z, 0) := by
  have hg (i : Nat) := h (elt x (eltBits ty) i) (elt y (eltBits ty) i) (elt z (eltBits ty) i)
    (elt_lt ..) (elt_lt ..) (elt_lt ..)
  simp only [eachElt, Claims.onElts, hg, List.map_map, List.foldl_map, foldl_or_zero]
  rfl

/-- An integer instruction completes as an exact result that agrees with its own. -/
theorem completes_of_int {i : Instr} {f : LForm} {s : State} {u : Issue} {r : Int → Int → Int → Int}
    {r' : Nat → Int → Int → Int → Int} (hx : exec i s = issue i (intBody f r) s)
    (h : ∀ x y z, r x y z = r' (eltBits f.ty.toNat) x y z) :
    (Claims.writes i u (Claims.arithWrites f u r')).Completes s u :=
  completes_of_alu (g := fun c l => eachElt f.ty.toNat (intElt f.ty.toNat (f.mod == 1) r) (valA c f f.ty.toNat l)
    (valB c f f.ty.toNat l) (valC c f f.ty.toNat l)) hx
    (fun _ _ => eachElt_eq_onElts (fun _ _ _ => intElt_eq h) ..)

/-- The instructions of Table 4-2 that write one element from others complete (R83). -/
theorem arithTable_complete : ∀ e ∈ Claims.arithTable, ∀ (f : LForm) (s : State) (u : Issue),
    (Claims.writes (e.1 f) u (Claims.arithWrites f u e.2)).Completes s u := by
  simp only [Claims.arithTable, List.forall_mem_cons]
  refine ⟨?add, ?sub, ?mul, ?mulh, ?mad, ?neg, ?abs, ?min, ?max, by simp⟩ <;> intro f s u
  case add => exact completes_of_int (show execAdd f s = _ from rfl) (fun _ _ _ => rfl)
  case sub => exact completes_of_int (show execSub f s = _ from rfl) (fun _ _ _ => rfl)
  case mul => exact completes_of_int (show execMul f s = _ from rfl) (fun _ _ _ => rfl)
  case mulh => exact completes_of_int (show execMulh f s = _ from rfl) (fun _ _ _ => rfl)
  case mad => exact completes_of_int (show execMad f s = _ from rfl) (fun _ _ _ => rfl)
  case neg => exact completes_of_int (show execNeg f s = _ from rfl) (fun _ _ _ => rfl)
  case abs => exact completes_of_int (show execAbs f s = _ from rfl) (fun x _ _ => (Int.abs_eq_natAbs x).symm)
  case min => exact completes_of_int (show execMin f s = _ from rfl) (fun x y _ => (min_def x y).symm)
  case max => exact completes_of_int (show execMax f s = _ from rfl) (fun x y _ => (max_def x y).symm)

/-! ### Carry and borrow (R84) -/

/-- A register takes the low 32 bits of a value. -/
theorem putD_mod (f : LForm) (l x : Nat) : putD f 2 l (x % 2 ^ 32) = putD f 2 l x := by
  have hx : BitVec.ofNat 32 (x % 2 ^ 32) = BitVec.ofNat 32 x :=
    BitVec.eq_of_toNat_eq (by simp only [BitVec.toNat_ofNat, Nat.mod_mod])
  simp only [putD, putReg, wideNat, hx]
  rfl

/-- The difference of SUBB, kept above 0 by twice 2^32. -/
theorem wrapInt_borrow {x y : Nat} (hy : y < 2 ^ 32) (bi : Bool) :
    wrapInt 32 ((x : Int) - y - bi.toNat) = (x + 2 ^ 32 + (2 ^ 32 - y - bi.toNat)) % 2 ^ 32 := by
  have hb : bi.toNat ≤ 1 := Bool.toNat_le bi
  unfold wrapInt
  omega

/-- ADDC and SUBB complete (R84). -/
theorem carryCases_complete (f : LForm) (s : State) (u : Issue) : ∀ e ∈ Claims.carryCases f u, e.Completes s u := by
  have ha (l : Nat) : valA u.cord f 2 l % 2 ^ 32 = valA u.cord f 2 l := Nat.mod_eq_of_lt (valA_lt ..)
  have hb (l : Nat) : valB u.cord f 2 l % 2 ^ 32 = valB u.cord f 2 l := Nat.mod_eq_of_lt (valB_lt ..)
  simp only [Claims.carryCases, List.forall_mem_cons]
  refine ⟨?addc, ?subb, by simp⟩
  case addc =>
    refine completes_of_body (show execAddc f s = _ from rfl) (fun _ => ?_)
    simp only [BitVec.toNat_ofNat, carryOut, ha, hb, putD_mod]
    rfl
  case subb =>
    refine completes_of_body (show execSubb f s = _ from rfl) (fun _ => ?_)
    simp only [BitVec.toNat_ofNat, borrowOut, ha, hb, wrapInt_borrow (valB_lt u.cord f 2 _)]
    rfl

/-- Settles O18: the elements by the exact result that each instruction names, carry and borrow by the operands' bounds. -/
theorem integerArithmetic : Obligations.IntegerArithmetic := ⟨arithTable_complete, carryCases_complete⟩

end Sys2Proof.Machine
end

section
/-! Float arithmetic and its special values (R91, R92). -/

namespace Sys2Proof.Machine
open Sys2Proof

/-! ### Sums and products of special values -/

/-- A sum with a NaN is one, with no flag. -/
theorem addVal_nan_left (mode : Nat) (y : FVal) : addVal mode .nan y = (.nan, 0) := rfl

/-- As `addVal_nan_left`, on the other side. -/
theorem addVal_nan_right (mode : Nat) (x : FVal) : addVal mode x .nan = (.nan, 0) := by cases x <;> rfl

/-- A product with a NaN is one, with no flag. -/
theorem mulVal_nan_left (y : FVal) : mulVal .nan y = (.nan, 0) := rfl

/-- As `mulVal_nan_left`, on the other side. -/
theorem mulVal_nan_right (x : FVal) : mulVal x .nan = (.nan, 0) := by cases x <;> rfl

/-- Infinities of two signs have no sum. -/
theorem addVal_inf_not (mode : Nat) (s : Bool) : addVal mode (.inf s) (.inf (!s)) = (.nan, fNV) := by cases s <;> rfl

/-- Zero and infinity have no product. -/
theorem mulVal_zero_inf (s a : Bool) (d : Nat) : mulVal (.fin s 0 d) (.inf a) = (.nan, fNV) := rfl

/-- As `mulVal_zero_inf`, on the other side. -/
theorem mulVal_inf_zero (s a : Bool) (d : Nat) : mulVal (.inf a) (.fin s 0 d) = (.nan, fNV) := rfl

/-- A value that is none rounds to the default NaN (R91). -/
theorem arith_nan (F : Fmt) (mode : Nat) (fl : FpFlags) : F.arith mode (.nan, fl) = (F.defaultNaN, fl) := rfl

/-- A NaN operand gives the default NaN and no flag (R91). -/
theorem arith_of_nan (F : Fmt) (mode : Nat) {x y : Nat} (h : F.decode x = .nan ∨ F.decode y = .nan) :
    F.add mode x y = (F.defaultNaN, 0) ∧ F.sub mode x y = (F.defaultNaN, 0) ∧ F.mul mode x y = (F.defaultNaN, 0) := by
  unfold Fmt.add Fmt.sub Fmt.mul
  rcases h with h | h <;> rw [h]
  · simp only [addVal_nan_left, mulVal_nan_left, arith_nan, and_self]
  · simp only [negVal, addVal_nan_right, mulVal_nan_right, arith_nan, and_self]

/-- Zero times infinity gives the default NaN with invalid, in FFMA whatever the addend (R91). -/
theorem mul_zero_inf (F : Fmt) (mode z : Nat) {x y d : Nat} {s a : Bool} (hx : F.decode x = .fin s 0 d)
    (hy : F.decode y = .inf a) : F.mul mode x y = (F.defaultNaN, fNV) ∧ F.mul mode y x = (F.defaultNaN, fNV)
      ∧ F.fma mode x y z = (F.defaultNaN, fNV) := by
  refine ⟨?_, ?_, ?_⟩
  · rw [Fmt.mul, hx, hy, mulVal_zero_inf, arith_nan]
  · rw [Fmt.mul, hx, hy, mulVal_inf_zero, arith_nan]
  · simp only [Fmt.fma, hx, hy, mulVal_zero_inf, addVal_nan_left, arith_nan]
    rfl

/-! ### FMIN and FMAX (R92) -/

/-- Of two NaNs the result is the default NaN. -/
theorem minmax_nan_nan (F : Fmt) {x y : Nat} (hx : F.decode x = .nan) (hy : F.decode y = .nan) :
    F.min x y = F.defaultNaN ∧ F.max x y = F.defaultNaN := by simp only [Fmt.min, Fmt.max, hx, hy, and_self]

/-- The operand that is no NaN is the result. -/
theorem minmax_nan (F : Fmt) {x y : Nat} (hx : F.decode x = .nan) (hy : F.decode y ≠ .nan) :
    F.min x y = y ∧ F.max x y = y ∧ F.min y x = y ∧ F.max y x = y := by
  unfold Fmt.min Fmt.max
  rw [hx]
  cases h : F.decode y with
  | nan => exact absurd h hy
  | inf s => exact ⟨rfl, rfl, rfl, rfl⟩
  | fin s n d => exact ⟨rfl, rfl, rfl, rfl⟩

/-- -0 lies below +0, and not the other way. -/
theorem belowVal_zeros (d e : Nat) :
    belowVal (.fin true 0 d) (.fin false 0 e) = true ∧ belowVal (.fin false 0 e) (.fin true 0 d) = false := by
  simp [belowVal, leVal, FVal.neg]

/-- Of zeros of two signs FMIN gives -0 and FMAX +0. -/
theorem minmax_zeros (F : Fmt) {x y d e : Nat} (hx : F.decode x = .fin true 0 d) (hy : F.decode y = .fin false 0 e) :
    F.min x y = x ∧ F.min y x = x ∧ F.max x y = y ∧ F.max y x = y := by
  obtain ⟨hxy, hyx⟩ := belowVal_zeros d e
  simp [Fmt.min, Fmt.max, hx, hy, hxy, hyx]

/-! ### FSAT (R92) -/

/-- The encoding of 1. -/
theorem mk'_bias (F : Fmt) : F.mk' false F.bias 0 = F.bias * 2 ^ F.m := by simp [Fmt.mk']

/-- FSAT, by what its operand stands for. -/
theorem sat_eq (F : Fmt) (x : Nat) : F.sat x = match F.decode x with
    | .nan => 0
    | .inf true => 0
    | .inf false => F.bias * 2 ^ F.m
    | .fin true _ _ => 0
    | .fin false n d => if n = 0 then 0 else if n < d then x else F.bias * 2 ^ F.m := by
  rw [← mk'_bias, Fmt.sat]
  cases F.decode x with
  | nan => rfl
  | inf s => cases s <;> rfl
  | fin s n d =>
    cases s
    case true => rfl
    case false =>
      simp only [Bool.false_or, beq_iff_eq]
      split
      · rfl
      · split <;> split <;> omega

/-- 1 in each format of R91. -/
theorem decode_one {F : Fmt} (hF : F ∈ [fp32, fp16, bf16]) :
    ∃ k, 0 < k ∧ F.decode (F.bias * 2 ^ F.m) = .fin false k k := by
  simp only [List.mem_cons, List.not_mem_nil, or_false] at hF
  rcases hF with rfl | rfl | rfl
  · exact ⟨2 ^ 23, by decide, by decide⟩
  · exact ⟨2 ^ 10, by decide, by decide⟩
  · exact ⟨2 ^ 7, by decide, by decide⟩

/-! ### O20 -/

/-- An operation on each element completes as the float operation that it is. -/
theorem completes_of_elts {i : Instr} {f : LForm} {s : State} {u : Issue} {g : Nat → Nat → Nat → Nat × FpFlags}
    {r : Fmt → Nat → Nat → Nat → Nat → Nat × FpFlags} (hx : exec i s = issue i (eltBody f g) s)
    (h : g = r (fmtOf f.ty.toNat) f.mod.toNat) : (Claims.writes i u (Claims.floatWrites f u r)).Completes s u := by
  subst h
  exact completes_of_body hx (fun _ => rfl)

/-- The float instructions of Table 4-5 complete (R91). -/
theorem floatTable_complete : ∀ e ∈ Claims.floatTable, ∀ (f : LForm) (s : State) (u : Issue),
    (Claims.writes (e.1 f) u (Claims.floatWrites f u e.2)).Completes s u := by
  simp only [Claims.floatTable, List.forall_mem_cons]
  refine ⟨?fadd, ?fsub, ?fmul, ?ffma, ?fmin, ?fmax, ?fsat, by simp⟩ <;> intro f s u
  case fadd => exact completes_of_elts (show execFadd f s = _ from rfl) rfl
  case fsub => exact completes_of_elts (show execFsub f s = _ from rfl) rfl
  case fmul => exact completes_of_elts (show execFmul f s = _ from rfl) rfl
  case ffma => exact completes_of_elts (show execFfma f s = _ from rfl) rfl
  case fmin => exact completes_of_elts (show execFmin f s = _ from rfl) rfl
  case fmax => exact completes_of_elts (show execFmax f s = _ from rfl) rfl
  case fsat => exact completes_of_elts (show execFsat f s = _ from rfl) rfl

/-- Settles O20: the instructions by the operation on each element, the special values by the sums, products and orders
of values that stand for no real. -/
theorem floatArithmetic : Obligations.FloatArithmetic := by
  unfold Obligations.FloatArithmetic
  refine ⟨floatTable_complete, by decide, by decide, by decide, fun F hF m x y z => ?_⟩
  refine ⟨arith_of_nan F m, fun s hx hy => ?inf, fun s a d => mul_zero_inf F m z, minmax_nan_nan F, minmax_nan F,
    fun d e => minmax_zeros F, ?satNan, ?satNeg, ?satNegInf, ?satPos, ?satInf, decode_one hF⟩
  case inf => rw [Fmt.add, hx, hy, addVal_inf_not, arith_nan]
  case satNan => exact fun h => by rw [sat_eq, h]
  case satNeg => exact fun n d h => by rw [sat_eq, h]
  case satNegInf => exact fun h => by rw [sat_eq, h]
  case satPos => exact fun n d h => by rw [sat_eq, h]
  case satInf => exact fun h => by rw [sat_eq, h]

end Sys2Proof.Machine
end

section
/-! Decoding and encoding are each other's inverse (R43, R44, R47, R53, R64): words as numbers, their fields, the opcodes,
the bytes. -/

namespace Sys2Proof

/-- Two bit vectors side by side, as a number. -/
theorem toNat_append_mul {n m : Nat} (x : BitVec n) (y : BitVec m) :
    (x ++ y).toNat = x.toNat * 2 ^ m + y.toNat := by
  rw [BitVec.toNat_append, Nat.shiftLeft_eq, ← Nat.shiftLeft_eq, Nat.shiftLeft_add_eq_or_of_lt y.isLt]

/-- A bit as a number. -/
theorem toNat_getLsbD {n : Nat} (w : BitVec n) (i : Nat) : (w.getLsbD i).toNat = w.toNat / 2 ^ i % 2 := by
  rw [BitVec.getLsbD, Nat.testBit_eq_decide_div_mod_eq]
  rcases Nat.mod_two_eq_zero_or_one (w.toNat / 2 ^ i) with h | h <;> simp [h]

/-- Bools that agree as numbers are one. -/
theorem bool_eq_of_toNat {a b : Bool} (h : a.toNat = b.toNat) : a = b := by
  revert a b
  decide

/-- A slice of a bit vector as a number. -/
theorem toNat_extract {n : Nat} (w : BitVec n) (i k : Nat) : (w.extractLsb' i k).toNat = w.toNat / 2 ^ i % 2 ^ k := by
  rw [BitVec.extractLsb'_toNat, Nat.shiftRight_eq_div_pow]

/-! ### Words as numbers -/

/-- A header's word as a number (Table 3-8). -/
theorem toNat_encodeHeader (h : Header) : (encodeHeader h).toNat =
    h.rgn.toNat * 2 ^ 31 + h.yield.toNat * 2 ^ 30 + h.bval.toNat * 2 ^ 29 + h.flagB.toNat * 2 ^ 25 + h.aval.toNat * 2 ^ 24
      + h.flagA.toNat * 2 ^ 20 + h.wait.toNat * 2 ^ 8 := by
  unfold encodeHeader
  iterate 7 rw [toNat_append_mul]
  simp only [BitVec.toNat_ofBool, BitVec.ofNat_eq_ofNat, BitVec.toNat_ofNat]
  omega

/-- A short form's word as a number (Table 3-2). -/
theorem toNat_encodeShort (op : Nat) (f : SForm) : (encodeShort op f).toNat =
    f.ty.toNat * 2 ^ 28 + f.pneg.toNat * 2 ^ 27 + f.pred.toNat * 2 ^ 24 + f.a.toNat * 2 ^ 16 + f.d.toNat * 2 ^ 8
      + op % 64 * 4 + f.m.toNat := by
  unfold encodeShort
  iterate 7 rw [toNat_append_mul]
  simp only [BitVec.toNat_ofBool, BitVec.ofNat_eq_ofNat, BitVec.toNat_ofNat]
  omega

/-- A long form's first word as a number (Table 3-4). -/
theorem toNat_encodeLongLo (op : Nat) (f : LForm) : (encodeLongLo op f).toNat =
    f.b.toNat % 16 * 2 ^ 28 + f.a.toNat * 2 ^ 20 + f.d.toNat * 2 ^ 12 + op % 1024 * 4 + 2 + f.lit.isSome.toNat := by
  unfold encodeLongLo
  iterate 5 rw [toNat_append_mul]
  simp only [BitVec.toNat_ofBool, BitVec.ofNat_eq_ofNat, BitVec.toNat_ofNat, toNat_extract]
  omega

/-- A long form's second word as a number (Table 3-4). -/
theorem toNat_encodeLongHi (f : LForm) : (encodeLongHi f).toNat =
    f.mod2.toNat * 2 ^ 28 + f.bsc.toNat * 2 ^ 27 + f.asc.toNat * 2 ^ 26 + f.setf.toNat * 2 ^ 25 + f.fsel.toNat * 2 ^ 24
      + f.mod.toNat * 2 ^ 20 + f.ty.toNat * 2 ^ 16 + f.pneg.toNat * 2 ^ 15 + f.pred.toNat * 2 ^ 12 + f.c.toNat * 2 ^ 4
      + f.b.toNat / 16 := by
  unfold encodeLongHi
  iterate 10 rw [toNat_append_mul]
  simp only [BitVec.toNat_ofBool, toNat_extract]
  omega

/-! ### Fields of words -/

/-- A short form's fields are those that were encoded. -/
theorem shortFields_encodeShort (op : Nat) (f : SForm) : shortFields (encodeShort op f) = f := by
  obtain ⟨ty, pneg, pred, a, d, m⟩ := f
  have hm := m.toNat_le
  have hp := pneg.toNat_le
  simp only [shortFields, SForm.mk.injEq]
  refine ⟨?_, bool_eq_of_toNat ?_, ?_, ?_, ?_, bool_eq_of_toNat ?_⟩ <;> try apply BitVec.eq_of_toNat_eq
  all_goals
    simp only [toNat_extract, toNat_getLsbD, toNat_encodeShort]
    omega

/-- A short form's opcode is the one that was encoded. -/
theorem shortOp_encodeShort {op : Nat} (f : SForm) (h : op < 64) : shortOp (encodeShort op f) = op := by
  have hw := toNat_encodeShort op f
  have hm := Bool.toNat_le f.m
  have hp := Bool.toNat_le f.pneg
  simp only [shortOp, toNat_extract, hw]
  omega

/-- A header's fields are those that were encoded. -/
theorem headerFields_encodeHeader (h : Header) : headerFields (encodeHeader h) = h := by
  obtain ⟨rgn, yield, bval, flagB, aval, flagA, wait⟩ := h
  have := rgn.toNat_le
  have := yield.toNat_le
  have := bval.toNat_le
  have := aval.toNat_le
  simp only [headerFields, Header.mk.injEq]
  refine ⟨bool_eq_of_toNat ?_, bool_eq_of_toNat ?_, bool_eq_of_toNat ?_, ?_, bool_eq_of_toNat ?_, ?_, ?_⟩ <;>
    try apply BitVec.eq_of_toNat_eq
  all_goals
    simp only [toNat_extract, toNat_getLsbD, toNat_encodeHeader]
    omega

/-- A long form's fields are those that were encoded. -/
theorem longFields_encodeLong (op : Nat) (f : LForm) (l : Option Word) :
    longFields (encodeLongLo op f) (encodeLongHi f) l = { f with lit := l } := by
  obtain ⟨d, a, b, c, pred, pneg, ty, mod, fsel, setf, asc, bsc, mod2, lit⟩ := f
  have := lit.isSome.toNat_le
  have := pneg.toNat_le
  have := fsel.toNat_le
  have := setf.toNat_le
  have := asc.toNat_le
  have := bsc.toNat_le
  simp only [longFields, LForm.mk.injEq, and_true]
  refine ⟨?_, ?_, ?_, ?_, ?_, bool_eq_of_toNat ?_, ?_, ?_, bool_eq_of_toNat ?_, bool_eq_of_toNat ?_,
    bool_eq_of_toNat ?_, bool_eq_of_toNat ?_, ?_⟩ <;> try apply BitVec.eq_of_toNat_eq
  all_goals
    simp only [toNat_extract, toNat_getLsbD, toNat_append_mul, toNat_encodeLongLo, toNat_encodeLongHi]
    omega

/-- A long form's opcode is the one that was encoded. -/
theorem longOp_encodeLongLo {op : Nat} (f : LForm) (h : op < 1024) : longOp (encodeLongLo op f) = op := by
  have hw := toNat_encodeLongLo op f
  have := Bool.toNat_le f.lit.isSome
  simp only [longOp, toNat_extract, hw]
  omega

/-- A word whose low byte is 0 is the header of its fields. -/
theorem encodeHeader_headerFields {w : Word} (h : w.toNat % 256 = 0) : encodeHeader (headerFields w) = w := by
  apply BitVec.eq_of_toNat_eq
  have := w.isLt
  simp only [toNat_encodeHeader, headerFields, toNat_extract, toNat_getLsbD]
  omega

/-- A word with a short length code is the short form of its opcode and fields. -/
theorem encodeShort_shortFields {w : Word} (h : w.toNat % 4 < 2) : encodeShort (shortOp w) (shortFields w) = w := by
  apply BitVec.eq_of_toNat_eq
  have := w.isLt
  simp only [toNat_encodeShort, shortFields, shortOp, toNat_extract, toNat_getLsbD]
  omega

/-- The first word of a long form is the one of its opcode and fields. -/
theorem encodeLongLo_longFields {lo hi : Word} {l : Option Word} (h : lo.toNat % 4 = 2 + l.isSome.toNat) :
    encodeLongLo (longOp lo) (longFields lo hi l) = lo := by
  apply BitVec.eq_of_toNat_eq
  have := lo.isLt
  simp only [toNat_encodeLongLo, longFields, longOp, toNat_extract, toNat_append_mul]
  omega

/-- A field of a number, with what stands above it. -/
theorem field_add (n k j : Nat) : n / 2 ^ k % 2 ^ j * 2 ^ k + n / 2 ^ (k + j) * 2 ^ (k + j) = n / 2 ^ k * 2 ^ k := by
  have h := Nat.mod_add_div (n / 2 ^ k) (2 ^ j)
  rw [Nat.div_div_eq_div_mul, ← pow_add] at h
  calc n / 2 ^ k % 2 ^ j * 2 ^ k + n / 2 ^ (k + j) * 2 ^ (k + j)
      = (n / 2 ^ k % 2 ^ j + 2 ^ j * (n / 2 ^ (k + j))) * 2 ^ k := by ring
    _ = n / 2 ^ k * 2 ^ k := by rw [h]

/-- The second word of a long form is the one of its fields. -/
theorem encodeLongHi_longFields (lo hi : Word) (l : Option Word) : encodeLongHi (longFields lo hi l) = hi := by
  have hb : (hi.extractLsb' 0 4 ++ lo.extractLsb' 28 4).toNat / 16 = hi.toNat % 16 := by
    rw [toNat_append_mul, toNat_extract]
    omega
  apply BitVec.eq_of_toNat_eq
  simp only [toNat_encodeLongHi, longFields, hb, toNat_extract, toNat_getLsbD]
  have h0 := field_add hi.toNat 0 4
  have h4 := field_add hi.toNat 4 8
  have h12 := field_add hi.toNat 12 3
  have h15 := field_add hi.toNat 15 1
  have h16 := field_add hi.toNat 16 4
  have h20 := field_add hi.toNat 20 4
  have h24 := field_add hi.toNat 24 1
  have h25 := field_add hi.toNat 25 1
  have h26 := field_add hi.toNat 26 1
  have h27 := field_add hi.toNat 27 1
  have h28 := field_add hi.toNat 28 4
  have h32 : hi.toNat / 2 ^ (28 + 4) = 0 := Nat.div_eq_of_lt hi.isLt
  simp only [pow_one, pow_zero, Nat.div_one, Nat.mul_one, Nat.reduceAdd, Nat.reducePow] at *
  linarith

/-- The length of an instruction by the low bits of its first word (Table 3-1). -/
theorem lengthWords_eq (w : Word) : lengthWords w = if w.toNat % 4 = 2 then 2 else if w.toNat % 4 = 3 then 3 else 1 := by
  have h : (w.extractLsb' 0 2).toNat = w.toNat % 4 := by simp only [toNat_extract]; omega
  unfold lengthWords
  rw [h]
  split <;> simp_all

/-! ### Opcodes and shapes -/

/-- A long instruction that an opcode names has that opcode (Table 3-11). -/
theorem shape_of_ofLong {op : Nat} {f : LForm} {i : Instr} (h : ofLong op f = some i) : i.shape = .long op f := by
  unfold ofLong at h
  split at h <;> cases h <;> rfl

/-- The opcode of a long instruction names it, and fits its field. -/
theorem ofLong_of_shape {op : Nat} {f : LForm} {i : Instr} (h : i.shape = .long op f) : ofLong op f = some i ∧ op < 1024 := by
  cases i <;> cases h <;> exact ⟨rfl, by decide⟩

/-- A short instruction that an opcode names has that opcode (Table 3-3). -/
theorem shape_of_ofShort {op : Nat} {f : SForm} {i : Instr} (h : ofShort op f = some i) : i.shape = .short op f := by
  unfold ofShort at h
  split at h <;> cases h <;> rfl

/-- The opcode of a short instruction names it, is not the header's 0, and fits its field. -/
theorem ofShort_of_shape {op : Nat} {f : SForm} {i : Instr} (h : i.shape = .short op f) :
    ofShort op f = some i ∧ 0 < op ∧ op < 64 := by
  cases i <;> cases h <;> exact ⟨rfl, by decide⟩

/-- Only a clause header has a header's shape. -/
theorem eq_of_shape_header {h : Header} {i : Instr} (e : i.shape = .header h) : i = .clauseHeader h := by
  cases i <;> cases e
  rfl

/-- Only an unassigned opcode has its shape. -/
theorem eq_of_shape_unassigned {w : UWord} {i : Instr} (e : i.shape = .unassigned w) : i = .unassignedOpcode w := by
  cases i <;> cases e
  rfl

/-! ### Bytes -/

/-- The bytes of a word, lowest address first, make that word (R4). -/
theorem wordsOfBytes_append_word (w : Word) (bs : List Byte) :
    wordsOfBytes (bytesOfWord w ++ bs) = w :: wordsOfBytes bs := by
  have hw : wordOfBytes (w.extractLsb' 0 8) (w.extractLsb' 8 8) (w.extractLsb' 16 8) (w.extractLsb' 24 8) = w := by
    apply BitVec.eq_of_toNat_eq
    unfold wordOfBytes
    iterate 3 rw [toNat_append_mul]
    simp only [toNat_extract]
    have := w.isLt
    omega
  simp only [bytesOfWord, List.cons_append, List.nil_append, wordsOfBytes, hw]

/-- The bytes of some words make those words. -/
theorem wordsOfBytes_flatMap (ws : List Word) (bs : List Byte) :
    wordsOfBytes (ws.flatMap bytesOfWord ++ bs) = ws ++ wordsOfBytes bs := by
  induction ws with
  | nil => rfl
  | cons w ws ih => rw [List.flatMap_cons, List.append_assoc, wordsOfBytes_append_word, ih, List.cons_append]

/-- Each word has four bytes. -/
theorem length_flatMap_bytesOfWord (ws : List Word) : (ws.flatMap bytesOfWord).length = 4 * ws.length := by
  rw [List.length_flatMap]
  simp [bytesOfWord, Nat.mul_comm]

/-- The bytes of the word that four bytes make are those four. -/
theorem bytesOfWord_wordOfBytes (b0 b1 b2 b3 : Byte) : bytesOfWord (wordOfBytes b0 b1 b2 b3) = [b0, b1, b2, b3] := by
  have h : (wordOfBytes b0 b1 b2 b3).toNat = ((b3.toNat * 2 ^ 8 + b2.toNat) * 2 ^ 8 + b1.toNat) * 2 ^ 8 + b0.toNat := by
    unfold wordOfBytes
    iterate 3 rw [toNat_append_mul]
  simp only [bytesOfWord, List.cons.injEq, and_true]
  refine ⟨?_, ?_, ?_, ?_⟩ <;> apply BitVec.eq_of_toNat_eq
  all_goals
    rw [toNat_extract, h]
    omega

/-- Bytes that begin with some words are the bytes of those words and what follows. -/
theorem bytes_of_words {ws r : List Word} {bs : List Byte} (h : wordsOfBytes bs = ws ++ r) :
    ws.flatMap bytesOfWord ++ bs.drop (4 * ws.length) = bs := by
  induction ws generalizing bs with
  | nil => rfl
  | cons w ws ih =>
    match bs, h with
    | b0 :: b1 :: b2 :: b3 :: bs, h =>
      obtain ⟨hw, ht⟩ := List.cons.inj h
      rw [List.flatMap_cons, ← hw, bytesOfWord_wordOfBytes, List.append_assoc, List.length_cons, Nat.mul_succ]
      simp only [List.cons_append, List.nil_append, List.drop_succ_cons, ih ht]

/-! ### Words -/

/-- The length codes of one word. -/
theorem lengthWords_eq_one {w : Word} : lengthWords w = 1 ↔ w.toNat % 4 < 2 := by
  rw [lengthWords_eq]
  split <;> (try split) <;> omega

/-- The length code of two words. -/
theorem lengthWords_eq_two {w : Word} : lengthWords w = 2 ↔ w.toNat % 4 = 2 := by
  rw [lengthWords_eq]
  split <;> (try split) <;> omega

/-- The length code of three words. -/
theorem lengthWords_eq_three {w : Word} : lengthWords w = 3 ↔ w.toNat % 4 = 3 := by
  rw [lengthWords_eq]
  split <;> (try split) <;> omega

/-- A header is what opcode 0 of a short word that is not marked stands for. -/
theorem header_word {w : Word} : w.toNat % 256 = 0 ↔ lengthWords w = 1 ∧ shortOp w = 0 ∧ w.getLsbD 0 = false := by
  have hb : w.getLsbD 0 = false ↔ w.toNat / 2 ^ 0 % 2 = 0 := by
    rw [← toNat_getLsbD]
    exact Bool.toNat_eq_zero.symm
  rw [lengthWords_eq_one, hb, shortOp, toNat_extract]
  omega

/-- The words of a canonical instruction decode to it, whatever words follow. -/
theorem decodeWords_encode {i : Instr} (h : i.canonical = true) (ws : List Word) :
    decodeWords (encode i ++ ws) = .ok (i, (encode i).length) := by
  unfold encode
  cases hs : i.shape with
  | header f =>
    obtain ⟨hl, hop, hb⟩ := header_word.mp (show (encodeHeader f).toNat % 256 = 0 by rw [toNat_encodeHeader]; omega)
    simp [decodeWords, hl, hop, hb, -BitVec.getLsbD_eq_getElem, headerFields_encodeHeader, eq_of_shape_header hs]
  | short op f =>
    obtain ⟨hi, hpos, hlt⟩ := ofShort_of_shape hs
    have hl : lengthWords (encodeShort op f) = 1 := by
      have hm := f.m.toNat_le
      rw [lengthWords_eq_one, toNat_encodeShort]
      omega
    simp [decodeWords, hl, shortOp_encodeShort f hlt, shortFields_encodeShort, hi, Nat.pos_iff_ne_zero.mp hpos]
  | long op f =>
    obtain ⟨hi, hlt⟩ := ofLong_of_shape hs
    have hf : longFields (encodeLongLo op f) (encodeLongHi f) f.lit = f := longFields_encodeLong op f f.lit
    have hw := toNat_encodeLongLo op f
    cases hlit : f.lit <;> rw [hlit] at hw hf
    case none =>
      have hl : lengthWords (encodeLongLo op f) = 2 := by
        rw [lengthWords_eq_two, hw, Option.isSome_none, Bool.toNat_false]
        omega
      simp [decodeWords, hl, hf, hlit, longOp_encodeLongLo f hlt, hi]
    case some l =>
      have hl : lengthWords (encodeLongLo op f) = 3 := by
        rw [lengthWords_eq_three, hw, Option.isSome_some, Bool.toNat_true]
        omega
      simp [decodeWords, hl, hf, hlit, longOp_encodeLongLo f hlt, hi]
  | unassigned w =>
    rw [Instr.canonical, hs] at h
    rw [eq_of_shape_unassigned hs]
    cases w <;> simp only [Bool.and_eq_true, beq_iff_eq, bne_iff_ne, Option.isNone_iff_eq_none] at h <;>
      simp [decodeWords, h]
  | event => rw [Instr.canonical, hs] at h; cases h

/-- A long form that is read from its words encodes to them. -/
theorem encode_of_long {lo hi : Word} {l : Option Word} {i : Instr} (hl : lo.toNat % 4 = 2 + l.isSome.toNat)
    (h : ofLong (longOp lo) (longFields lo hi l) = some i) : i.canonical = true ∧ encode i = [lo, hi] ++ l.toList := by
  have hs := shape_of_ofLong h
  rw [Instr.canonical, encode, hs]
  simp only [encodeLongLo_longFields hl, encodeLongHi_longFields, true_and]
  rfl

/-- A short form that is read from its word encodes to it. -/
theorem encode_of_short {w : Word} {i : Instr} (hl : lengthWords w = 1)
    (h : ofShort (shortOp w) (shortFields w) = some i) : i.canonical = true ∧ encode i = [w] := by
  have hs := shape_of_ofShort h
  rw [Instr.canonical, encode, hs]
  simp only [encodeShort_shortFields (lengthWords_eq_one.mp hl), true_and]

/-- What is decoded from some words is canonical, and encodes to the first of them. -/
theorem encode_of_decodeWords {ws : List Word} {i : Instr} {n : Nat} (h : decodeWords ws = .ok (i, n)) :
    i.canonical = true ∧ n = (encode i).length ∧ ∃ r, ws = encode i ++ r := by
  cases ws with
  | nil => cases h
  | cons w rest =>
    simp only [decodeWords] at h
    split at h
    case _ hl =>
      split at h
      case _ hop =>
        split at h <;> cases h
        case _ hb =>
          have hw := header_word.mpr ⟨hl, hop, Bool.eq_false_iff.mpr hb⟩
          exact ⟨rfl, rfl, _, by rw [encode]; simp only [Instr.shape, encodeHeader_headerFields hw]; rfl⟩
      case _ hop =>
        split at h <;> cases h
        case _ hi =>
          obtain ⟨hc, he⟩ := encode_of_short hl hi
          exact ⟨hc, by rw [he]; rfl, _, by rw [he]; rfl⟩
        case _ hi => exact ⟨by simp [Instr.canonical, Instr.shape, hl, hop, hi], rfl, _, rfl⟩
    case _ hi rest hl =>
      split at h <;> cases h
      case _ hd =>
        obtain ⟨hc, he⟩ := encode_of_long (lengthWords_eq_two.mp hl) hd
        exact ⟨hc, by rw [he]; rfl, rest, by rw [he]; rfl⟩
      case _ hd => exact ⟨by simp [Instr.canonical, Instr.shape, hl, hd], rfl, rest, rfl⟩
    case _ hi l rest hl =>
      split at h <;> cases h
      case _ hd =>
        obtain ⟨hc, he⟩ := encode_of_long (lengthWords_eq_three.mp hl) hd
        exact ⟨hc, by rw [he]; rfl, rest, by rw [he]; rfl⟩
      case _ hd => exact ⟨by simp [Instr.canonical, Instr.shape, hl, hd], rfl, rest, rfl⟩
    case _ => cases h

/-- Settles O2: the words of an instruction decode to it, whatever words the bytes after it make. -/
theorem decodeOfEncode : Obligations.DecodeOfEncode := by
  unfold Obligations.DecodeOfEncode
  intro i rest h
  rw [decodeBytes, Claims.bytesOf, wordsOfBytes_flatMap, decodeWords_encode h]
  simp only [← length_flatMap_bytesOfWord, List.drop_left]

/-- Settles O3: the words that are decoded are those of the instruction, and the bytes those of the words. -/
theorem encodeOfDecode : Obligations.EncodeOfDecode := by
  unfold Obligations.EncodeOfDecode
  intro bs rest i h
  unfold decodeBytes at h
  split at h <;> cases h
  case _ n hd =>
    obtain ⟨hc, rfl, r, hr⟩ := encode_of_decodeWords hd
    exact ⟨hc, bytes_of_words hr⟩

/-- The worked words are those of the instructions they stand for. -/
theorem encode_wordTable : ∀ e ∈ Claims.wordTable, e.2.canonical = true ∧ encode e.2 = e.1 := by decide +kernel

/-- Settles O1: the words are those that the instructions encode to, and an encoding decodes to its instruction. -/
theorem wordsDecode : Obligations.WordsDecode := by
  unfold Obligations.WordsDecode
  intro e he
  obtain ⟨hc, hw⟩ := encode_wordTable e he
  have hd := decodeWords_encode hc []
  rw [List.append_nil, hw] at hd
  exact ⟨hd, hw⟩

end Sys2Proof
end

section
/-! What a step takes, what a fetch gives, and that no step stops (R23, R43, R299 to R301). -/

namespace Sys2Proof.Machine
open Sys2Proof

/-! ### Reset -/

/-- Settles O9: nothing is listed at reset, so that every part is as one that nothing has touched. -/
theorem resetLeaves : Obligations.ResetLeaves := by
  unfold Obligations.ResetLeaves
  refine ⟨⟨rfl, fun b hb => absurd hb (List.not_mem_nil), rfl, rfl⟩, rfl, rfl, rfl, rfl, rfl, rfl,
    fun _ => ⟨rfl, rfl, rfl, rfl⟩, fun _ => ⟨rfl, rfl, rfl⟩, fun _ _ => rfl, fun _ => rfl⟩

/-! ### Fetches -/

/-- The words of a fetch are as many as asked for, each what memory holds at its translated address. -/
theorem fetchWords_words {s : State} {b core n : Nat} {pc : DWord} {ws : List Word}
    (h : fetchWords s b core n pc = .words ws) : ws.length = n ∧ ∀ k, k < n → ∃ pa,
      translate s b core (pc + BitVec.ofNat 64 (4 * k)).toNat .fetch = some pa ∧ ws[k]? = some (codeWord s pa) := by
  induction n generalizing pc ws with
  | zero =>
    cases h
    exact ⟨rfl, fun _ hk => absurd hk (Nat.not_lt_zero _)⟩
  | succ n ih =>
    unfold fetchWords at h
    split at h
    case _ => cases h
    case _ pa hpa =>
      split at h
      case _ => cases h
      case _ =>
        split at h
        case _ ws' hws =>
          cases h
          obtain ⟨hlen, hget⟩ := ih hws
          refine ⟨by rw [List.length_cons, hlen], fun k hk => ?_⟩
          cases k with
          | zero => exact ⟨pa, by simpa using hpa, rfl⟩
          | succ k =>
            have hpc : pc + 4 + BitVec.ofNat 64 (4 * k) = pc + BitVec.ofNat 64 (4 * (k + 1)) := by
              rw [BitVec.add_assoc, Nat.mul_succ, Nat.add_comm, BitVec.ofNat_add]
              rfl
            obtain ⟨pa', htr, hcode⟩ := hget k (Nat.lt_of_succ_lt_succ hk)
            exact ⟨pa', hpc ▸ htr, hcode⟩
        case _ hws => exact absurd h (hws ws)

/-- The first of several words of a fetch is what a fetch of one word gives. -/
theorem fetchWords_first {s : State} {b core n : Nat} {pc : DWord} {w : Word} {t ws : List Word}
    (h1 : fetchWords s b core 1 pc = .words (w :: t)) (h : fetchWords s b core (n + 1) pc = .words ws) :
    ws[0]? = some w := by
  obtain ⟨-, hone⟩ := fetchWords_words h1
  obtain ⟨-, hall⟩ := fetchWords_words h
  obtain ⟨pa, htr, hw⟩ := hone 0 Nat.zero_lt_one
  obtain ⟨pa', htr', hw'⟩ := hall 0 (Nat.succ_pos n)
  rw [htr] at htr'
  cases htr'
  rw [hw', ← hw]
  rfl

/-- No instruction has no words. -/
theorem lengthWords_pos (w : Word) : 0 < lengthWords w := by
  rw [lengthWords_eq]
  split <;> (try split) <;> decide

/-- The words that an instruction's first word asks for: two of a marked pair, else by its length code. -/
def wordsAsked (w : Word) : Nat := if lengthWords w == 1 && w.getLsbD 0 then 2 else lengthWords w

/-- What a fetch gives is what its first word asks for. -/
theorem fetchAt_words {s : State} {b core : Nat} {pc : DWord} {ws : List Word} (h : fetchAt s b core pc = .words ws) :
    ∃ w t, fetchWords s b core 1 pc = .words (w :: t) ∧ fetchWords s b core (wordsAsked w) pc = .words ws := by
  unfold fetchAt at h
  split at h
  case _ w t hone => exact ⟨w, t, hone, h⟩
  case _ hr =>
    cases ws with
    | cons w t => exact absurd h (hr w t)
    | nil => exact absurd (fetchWords_words h).1 (by simp)

/-- Settles O5: a fetch reads its words one after another, and the first says how many. -/
theorem fetchReadsMemory : Obligations.FetchReadsMemory := by
  unfold Obligations.FetchReadsMemory
  intro s b core pc ws h
  obtain ⟨w, t, hone, hall⟩ := fetchAt_words h
  obtain ⟨hlen, hget⟩ := fetchWords_words hall
  have hpos : 0 < wordsAsked w := by
    unfold wordsAsked
    split
    · exact Nat.zero_lt_two
    · exact lengthWords_pos w
  obtain ⟨n, hn⟩ := Nat.exists_eq_succ_of_ne_zero hpos.ne'
  rw [hn] at hall
  have hfirst := fetchWords_first hone hall
  cases ws with
  | nil => cases hfirst
  | cons w' t' =>
    cases hfirst
    refine ⟨List.cons_ne_nil _ _, ?_, fun k hk => hget k (hlen ▸ hk)⟩
    rw [hlen]
    rfl

/-! ### One step -/

/-- What is due comes first. -/
theorem step_due {s t : State} (hp : s.power = true) (h : dueNext s = some t) : step s = .next t := by
  simp only [step, hp, if_true, stepLit, h]

/-- Where nothing is due a step takes a choice. -/
theorem step_pick {s : State} (hp : s.power = true) (h : dueNext s = none) : step s = pickNext s := by
  simp only [step, hp, if_true, stepLit, h]

/-- The only choice is taken. -/
theorem pickNext_one {s : State} {c : Choice} (h : choices s = [c]) : pickNext s = takeChoice c s := by
  simp only [pickNext, h]

/-- Of several choices one is taken. -/
theorem pickNext_several {s : State} (h : 2 ≤ (choices s).length) :
    ∃ c ∈ choices s, pickNext s = takeChoice c { s with free := s.free + 1 } := by
  unfold pickNext
  split
  case _ h0 => simp [h0] at h
  case _ c h1 => simp [h1] at h
  case _ c cs _ hcs =>
    have hlt : Config.pick s.free % (c :: cs).length < (c :: cs).length := Nat.mod_lt _ (by simp)
    refine ⟨_, ?_, rfl⟩
    rw [hcs, List.getD_eq_getElem _ _ hlt]
    exact List.getElem_mem hlt

/-- Settles O6: a step takes what is due, or one of the choices. -/
theorem stepTakesAChoice : Obligations.StepTakesAChoice := by
  unfold Obligations.StepTakesAChoice
  intro s hp
  refine ⟨fun t => step_due hp, fun hd => ?_⟩
  rw [step_pick hp hd]
  refine ⟨fun h => ?_, fun i h => ?_, fun x h hx hs => ?_, pickNext_several⟩
  · simp only [pickNext, h]
  · rw [pickNext_one h]; rfl
  · rw [pickNext_one h]
    simp only [takeChoice, takeInput, hx, runInput, hs]

/-! ### The issue slot of a side -/

/-- The issue slot of a side, where it is the only choice, is offered in slot order. -/
theorem step_turn {s : State} {core side b c : Nat} {rest : List (Nat × Nat)} (hp : s.power = true)
    (hd : dueNext s = none) (hc : choices s = [.issue core side]) (ht : turnOrder s core side = (b, c) :: rest) :
    step s = turn core ((b, c) :: rest) s := by
  rw [step_pick hp hd, pickNext_one hc, takeChoice, ht]

/-- The cord whose turn it is has issued, and the step is over; or it has not, and the next one has its turn. -/
theorem turn_of_runSel {s t : State} {core b c : Nat} {rest : List (Nat × Nat)} {x : Sel}
    (hx : issueAt s b c core = some x) (hr : runSel x (select s x true) = .next t) :
    (issuedIn s t b c = true → turn core ((b, c) :: rest) s = .next (endTurn s t b c core x))
    ∧ (issuedIn s t b c = false → turn core ((b, c) :: rest) s = turn core rest t) := by
  constructor <;> intro h <;> simp only [turn, hx, hr, h, if_true, Bool.false_eq_true, if_false]

/-- The words that are fetched run. -/
theorem runSel_words {s : State} {x : Sel} {u : Issue} {ws : List Word} (hu : issueOf s 4 = some u)
    (hf : fetchAt s x.b u.blk.core x.pc = .words ws) : runSel x s = runWords x u ws s := by
  simp only [runSel, hu, hf]

/-- Words that are no marked pair run as the instruction that they are. -/
theorem runWords_one {s : State} {x : Sel} {u : Issue} {ws : List Word} {i : Instr} (hm : Claims.marked ws = false)
    (hi : instrOf ws = some i) (hh : held s u i = false) : runWords x u ws s = exec i s := by
  cases ws with
  | nil => cases hi
  | cons w t =>
    rw [Claims.marked] at hm
    simp only [runWords, hm, hi, hh, Bool.false_eq_true, if_false]

/-- A marked word runs as a pair with the word after it. -/
theorem runWords_marked {s : State} {x : Sel} {u : Issue} {w w' : Word} (hm : Claims.marked [w] = true) :
    runWords x u [w, w'] s = runPair x u w w' s := by
  rw [Claims.marked] at hm
  simp only [runWords, hm, if_true]
  rfl

/-- The words of a pair run one after the other. -/
theorem runPair_both {s : State} {x : Sel} {u : Issue} {w w' : Word} {i j : Instr}
    (hp : pairForms x.pc w w' = some (i, j)) (ht : pairTrap (decodeCtx u) i j = none) (hi : held s u i = false)
    (hj : held s u j = false) (hf : pairFits u.cord i j = true) :
    runPair x u w w' s = secondWord j x (exec i s) := by
  simp only [runPair, hp, ht, hi, hj, hf, Bool.or_self, Bool.not_true, Bool.false_eq_true, if_false]

/-- Settles O4: the turn of a cord runs the words that it fetches, and its outcome says whose turn is next. -/
theorem stepRunsDecoded : Obligations.StepRunsDecoded := by
  unfold Obligations.StepRunsDecoded
  intro s core side b c rest x u ws hp hd hc ht hx hu hf
  rw [step_turn hp hd hc ht]
  refine ⟨fun i t hm hi hh he => turn_of_runSel hx ?_, fun i j t hl hm hpf htr hhi hhj hfit he => turn_of_runSel hx ?_⟩
  · rw [runSel_words hu hf, runWords_one hm hi hh, he]
  · obtain ⟨w, w', rfl⟩ := List.length_eq_two.mp hl
    rw [runSel_words hu hf, runWords_marked hm]
    exact (runPair_both hpf htr hhi hhj hfit).trans he

/-! ### What an issue can do -/

/-- An issue traps, leaves everything, ends the open region first, asks for something, or goes: from where its strands
stand parked, or once it has retired. -/
theorem issue_cases {i : Instr} {body : Issue → State → Act} {s t : State} {u : Issue}
    (hu : issueOf s i.length = some u) (h : issue i body s = .next t) :
    (∃ k ls d a, (decodeTrap (decodeCtx u) i = some k ∨ body u s = .trap k ls d a) ∧ t = trapAt s u k ls d a)
    ∨ t = s ∨ t = markEnding s u ∨ (∃ k, body u s = .ask k ∧ t = k s)
    ∨ ∃ regs dws k, body u s = .go regs dws k
      ∧ (u.resume.isSome = true ∧ t = k s ∨ u.resume = none ∧ t = k (modCord s u.b u.c (retire u regs dws))) := by
  unfold issue at h
  simp only [hu] at h
  split at h
  case _ k hk => cases h; exact .inl ⟨k, _, _, _, .inl hk, rfl⟩
  case _ =>
    split at h
    case _ hr =>
      split at h
      case _ regs dws k hb => cases h; exact .inr (.inr (.inr (.inr ⟨regs, dws, k, hb, .inl ⟨hr, rfl⟩⟩)))
      case _ => cases h; exact .inr (.inl rfl)
    case _ hr =>
      have hr : u.resume = none := by simpa using hr
      split at h
      case _ => cases h; exact .inr (.inr (.inl rfl))
      case _ =>
        split at h
        case _ k ls d a hb => cases h; exact .inl ⟨k, ls, d, a, .inr hb, rfl⟩
        case _ => cases h; exact .inr (.inl rfl)
        case _ k hb => cases h; exact .inr (.inr (.inr (.inl ⟨k, hb, rfl⟩)))
        case _ regs dws k hb =>
          split at h <;> cases h
          · exact .inr (.inr (.inr (.inr ⟨regs, dws, k, hb, .inr ⟨hr, rfl⟩⟩)))
          · exact .inr (.inr (.inl rfl))

/-! ### Cords that stay where they are -/

/-- Every cord that is there stays there. -/
structure SameSeats (s t : State) : Prop where
  isSome : ∀ b c, (cordOf t b c).isSome = (cordOf s b c).isSome

/-- Nothing leaves its place where nothing happens. -/
theorem SameSeats.refl (s : State) : SameSeats s s := ⟨fun _ _ => rfl⟩

/-- Cords that stay through two changes stay through both. -/
theorem SameSeats.trans {s t r : State} (h : SameSeats s t) (g : SameSeats t r) : SameSeats s r :=
  ⟨fun b c => (g.isSome b c).trans (h.isSome b c)⟩

/-- Where the blocks are the same, so are the places. -/
theorem sameSeats_of_blocks {s t : State} (h : t.blocks = s.blocks) : SameSeats s t :=
  ⟨fun b c => by rw [cordOf_congr h]⟩

/-- A change of a cord leaves it in its place. -/
theorem sameSeats_modCord (s : State) (b c : Nat) (f : Cord → Cord) : SameSeats s (modCord s b c f) := by
  refine ⟨fun i j => ?_⟩
  by_cases h : (i, j) = (b, c)
  · cases h
    rw [cordOf_modCord_same, Option.isSome_map]
  · rw [cordOf_modCord_other s f h]

/-- Marking a braid leaves every cord. -/
theorem sameSeats_killBraid (s : State) (b : Nat) : SameSeats s (killBraid s b) := by
  apply sameSeats_of_blocks
  unfold killBraid
  split <;> rfl

/-- A fatal error leaves every cord. -/
theorem sameSeats_fatal (s : State) (b status cause pc : Nat) : SameSeats s (fatal s b status cause pc) := by
  apply sameSeats_of_blocks
  unfold fatal
  split <;> rfl

/-- A record leaves every cord in its place. -/
theorem sameSeats_queueRec (s : State) (b c : Nat) (r : TrapRec) : SameSeats s (queueRec s b c r) := by
  unfold queueRec
  split
  · exact .refl s
  · split
    · exact .refl s
    · split
      · exact sameSeats_modCord ..
      · split
        · exact sameSeats_modCord ..
        · exact sameSeats_killBraid ..

/-- A trap leaves every cord in its place. -/
theorem sameSeats_takeTrap (s : State) (b c : Nat) (k : Cause) (pc : DWord) (ret : Nat) (lanes : List Nat) (d a : Nat) :
    SameSeats s (takeTrap s b c k pc ret lanes d a) := by
  unfold takeTrap
  split
  · exact .refl s
  · split
    · exact sameSeats_modCord ..
    · split
      · exact sameSeats_fatal ..
      · exact sameSeats_queueRec ..

/-- As `sameSeats_takeTrap`, at an issue. -/
theorem sameSeats_trapAt (s : State) (u : Issue) (k : Cause) (lanes : List Nat) (d a : Nat) :
    SameSeats s (trapAt s u k lanes d a) :=
  (sameSeats_modCord ..).trans (sameSeats_takeTrap ..)

/-- A short form writes some registers, or none. -/
theorem exec_short_regs {i : Instr} {op : Nat} {f : SForm} (h : i.shape = .short op f) :
    (∃ ws : Issue → List RegW, ∀ s, exec i s = issue i (fun u _ => goRegs u (ws u)) s)
    ∨ ∀ s, exec i s = issue i (fun _ _ => .go [] [] id) s := by
  cases i <;> cases h
  case nop => exact .inr (fun _ => rfl)
  all_goals exact .inl ⟨_, fun _ => rfl⟩

/-- A short form leaves every cord in its place. -/
theorem sameSeats_short {i : Instr} {op : Nat} {f : SForm} {s t : State} {u : Issue} (h : i.shape = .short op f)
    (hu : issueOf s i.length = some u) (he : exec i s = .next t) : SameSeats s t := by
  have hgo (body : Issue → State → Act) (hx : exec i s = issue i body s) (ha : ∀ k, body u s ≠ .ask k)
      (hk : ∀ regs dws k, body u s = .go regs dws k → ∀ r, SameSeats r (k r)) : SameSeats s t := by
    rw [hx] at he
    rcases issue_cases hu he with ⟨_, _, _, _, -, rfl⟩ | rfl | rfl | ⟨k, hb, -⟩ | ⟨regs, dws, k, hb, ⟨-, rfl⟩ | ⟨-, rfl⟩⟩
    · exact sameSeats_trapAt ..
    · exact .refl _
    · exact sameSeats_modCord ..
    · exact absurd hb (ha k)
    · exact hk _ _ _ hb _
    · exact (sameSeats_modCord ..).trans (hk _ _ _ hb _)
  rcases exec_short_regs h with ⟨ws, hx⟩ | hx
  · refine hgo _ (hx s) (fun _ e => by cases e) (fun _ _ _ e r => ?_)
    cases e
    exact sameSeats_modCord ..
  · refine hgo _ (hx s) (fun _ e => by cases e) (fun _ _ _ e r => ?_)
    cases e
    exact .refl r

/-! ### No instruction stops -/

/-- Where a cord is selected an injection answers a next state. -/
theorem inject_next {i : Instr} {body : Issue → State → Act} {s : State} {u : Issue} (h : issueOf s i.length = some u) :
    ∃ t, inject i body s = .next t := by
  unfold inject
  simp only [h]
  split
  · exact ⟨_, rfl⟩
  · split
    · split <;> exact ⟨_, rfl⟩
    · exact issue_next h

/-- Where a cord is selected, and for a step of the device wherever it is taken, exec answers a next state. -/
theorem exec_next {s : State} {n : Nat} (h : (issueOf s n).isSome = true) (i : Instr) : ∃ t, exec i s = .next t := by
  obtain ⟨u, hu⟩ := Option.isSome_iff_exists.mp ((issueOf_isSome_length (m := i.length)).symm.trans h)
  cases hs : i.shape with
  | header f =>
    obtain ⟨v, hv⟩ := Option.isSome_iff_exists.mp ((issueOf_isSome_length (m := 4)).symm.trans h)
    rw [eq_of_shape_header hs, exec, execClauseHeader]
    simp only [hv]
    split
    · exact ⟨_, rfl⟩
    · split
      · exact ⟨_, rfl⟩
      · split <;> exact ⟨_, rfl⟩
  | short op f =>
    obtain ⟨body, hx⟩ := exec_short i op f hs
    exact hx s ▸ issue_next hu
  | long op f =>
    cases hf : firmwareOp op with
    | false =>
      obtain ⟨body, hx⟩ := exec_long i op f hs hf
      exact hx s ▸ issue_next hu
    | true =>
      obtain ⟨body, hx⟩ := exec_firmware i op f hs hf
      exact hx s ▸ inject_next hu
  | unassigned w =>
    rw [eq_of_shape_unassigned hs] at hu ⊢
    exact inject_next hu
  | event => exact exec_event i s hs

/-! ### What may happen are steps of the device -/

/-- The members of a list under a condition. -/
theorem forall_mem_when_ {α : Type} {p : Bool} {l : List α} {q : α → Prop} :
    (∀ x ∈ when_ p l, q x) ↔ (p = true → ∀ x ∈ l, q x) := by
  cases p <;> simp [when_]

/-- Instructions that are steps of the device. -/
def Events (l : List Instr) : Prop := ∀ i ∈ l, i.shape = .event

/-- No step. -/
@[simp] theorem events_nil : Events [] := fun _ h => absurd h List.not_mem_nil

/-- The steps of two lists. -/
@[simp] theorem events_append {l m : List Instr} : Events (l ++ m) ↔ Events l ∧ Events m := List.forall_mem_append

/-- The steps of a list under a condition. -/
@[simp] theorem events_when_ {p : Bool} {l : List Instr} : Events (when_ p l) ↔ (p = true → Events l) := forall_mem_when_

/-- One step. -/
@[simp] theorem events_singleton {i : Instr} : Events [i] ↔ i.shape = .event := List.forall_mem_singleton

/-- A step for each of a list. -/
@[simp] theorem events_map {α : Type} {l : List α} {f : α → Instr} :
    Events (l.map f) ↔ ∀ x ∈ l, (f x).shape = .event := List.forall_mem_map

/-- A step for some of a list. -/
@[simp] theorem events_filterMap {α : Type} {l : List α} {f : α → Option Instr} :
    Events (l.filterMap f) ↔ ∀ x ∈ l, ∀ i, f x = some i → i.shape = .event := by
  simp only [Events, List.mem_filterMap]
  exact ⟨fun h x hx i hi => h i ⟨x, hx, hi⟩, fun h i ⟨x, hx, hi⟩ => h x hx i hi⟩

/-- Steps for each of a list. -/
@[simp] theorem events_flatMap {α : Type} {l : List α} {f : α → List Instr} :
    Events (l.flatMap f) ↔ ∀ x ∈ l, Events (f x) := by
  simp only [Events, List.mem_flatMap]
  exact ⟨fun h x hx i hi => h i ⟨x, hx, hi⟩, fun h i ⟨x, hx, hi⟩ => h x hx i hi⟩

/-- What happens to an operation. -/
theorem events_opEvents (s : State) (b c core : Nat) (o : Op) : Events (opEvents s b c core o) := by
  unfold opEvents
  split <;> simp [Instr.shape]

/-- What happens to the traps and the region of a cord. -/
theorem events_trapEvents (s : State) (b c core : Nat) (y : Cord) : Events (trapEvents s b c core y) := by
  unfold trapEvents
  split <;> simp [Instr.shape]

/-- What happens to a request. -/
theorem events_requestEvents (s : State) (core : Nat) (r : Request) : Events (requestEvents s core r) := by
  unfold requestEvents
  split <;> simp [Instr.shape]

/-- What happens to an array. -/
theorem events_arrayEvents (core : Nat) (k : CoreSt) : Events (arrayEvents core k) := by
  unfold arrayEvents
  split
  · exact events_nil
  · split
    · simp [Instr.shape]
    · split <;> simp [Instr.shape]

/-- What happens to a core. -/
theorem events_coreEvents (s : State) (core : Nat) (k : CoreSt) : Events (coreEvents s core k) := by
  simp [coreEvents, events_requestEvents, events_arrayEvents, Instr.shape]

/-- What happens to a grid. -/
theorem events_gridEvents (s : State) (x : Grid) (g : Nat) : Events (gridEvents s x g) := by
  have hp : Events (if (chooseSeat s x false).isSome then [Instr.blockPlacement g]
      else when_ (chooseSeat s x true).isSome [Instr.avoidedPlacementTimeout g]) := by
    split <;> simp [Instr.shape]
  simp [gridEvents, hp, Instr.shape]

/-- What happens to a context. -/
theorem events_ctxEvents (s : State) (key : Nat) (x : Ctx) : Events (ctxEvents s key x) := by
  simp [ctxEvents, Instr.shape]

/-- What happens to a partition. -/
theorem events_partEvents (s : State) (p : Nat) (x : Part) : Events (partEvents s p x) := by
  simp only [partEvents, events_append, events_filterMap, events_map]
  refine ⟨fun q _ i hi => ?_, fun _ _ => rfl⟩
  split at hi
  · split at hi <;> cases hi
    rfl
  · cases hi

/-- What happens to the dies. -/
theorem events_dieEvents (s : State) : Events (dieEvents s) := by
  simp [dieEvents, Instr.shape]

/-- What happens to the mailbox. -/
theorem events_mailEvents (s : State) : Events (mailEvents s) := by
  have hall : ∀ e ∈ mailboxOps, e.2.shape = .event := by decide
  exact List.forall_mem_map.mpr (fun e he => hall e (List.mem_of_mem_filter he))

/-- What happens to the device but for its blocks. -/
theorem events_deviceEvents (s : State) : Events (deviceEvents s) := by
  simp [deviceEvents, events_coreEvents, events_gridEvents, events_ctxEvents, events_partEvents,
    events_dieEvents, events_mailEvents]

/-- A choice that names a step of the device, and no instruction. -/
def Choice.Fair : Choice → Prop
  | .event i => i.shape = .event
  | _ => True

/-- Choices that are fair. -/
def Fair (l : List Choice) : Prop := ∀ c ∈ l, c.Fair

/-- No choice. -/
@[simp] theorem fair_nil : Fair [] := fun _ h => absurd h List.not_mem_nil

/-- The choices of two lists. -/
@[simp] theorem fair_append {l m : List Choice} : Fair (l ++ m) ↔ Fair l ∧ Fair m := List.forall_mem_append

/-- The choices of a list under a condition. -/
@[simp] theorem fair_when_ {p : Bool} {l : List Choice} : Fair (when_ p l) ↔ (p = true → Fair l) := forall_mem_when_

/-- One choice. -/
@[simp] theorem fair_singleton {c : Choice} : Fair [c] ↔ c.Fair := List.forall_mem_singleton

/-- A choice for each of a list. -/
@[simp] theorem fair_map {α : Type} {l : List α} {f : α → Choice} : Fair (l.map f) ↔ ∀ x ∈ l, (f x).Fair :=
  List.forall_mem_map

/-- Choices for each of a list. -/
@[simp] theorem fair_flatMap {α : Type} {l : List α} {f : α → List Choice} :
    Fair (l.flatMap f) ↔ ∀ x ∈ l, Fair (f x) := by
  simp only [Fair, List.mem_flatMap]
  exact ⟨fun h x hx i hi => h i ⟨x, hx, hi⟩, fun h i ⟨x, hx, hi⟩ => h x hx i hi⟩

/-- Choices that are steps of the device. -/
theorem fair_events {l : List Instr} (h : Events l) : Fair (l.map .event) := fair_map.mpr h

/-- The choices of a store. -/
theorem fair_storeChoices (s : State) (b c core : Nat) (o : Op) : Fair (storeChoices s b c core o) := by
  unfold storeChoices
  split <;> simp [Choice.Fair]

/-- The choices of a cord. -/
theorem fair_cordChoices (s : State) (b : Nat) (x : Block) (y : Cord) (c : Nat) : Fair (cordChoices s b x y c) := by
  simp only [cordChoices, fair_append]
  refine ⟨⟨fair_events ?_, ?_⟩, ?_⟩
  · simp [events_opEvents, events_trapEvents, Instr.shape]
  · simp [fair_storeChoices, beginChoices, byteChoices, resultChoices, Choice.Fair]
  · simp [Choice.Fair]

/-- The choices of a block. -/
theorem fair_blockChoices (s : State) (b : Nat) (x : Block) : Fair (blockChoices s b x) := by
  rw [blockChoices, fair_append]
  refine ⟨?_, fair_events ?_⟩
  · simp [fair_cordChoices]
  · simp [Instr.shape]

/-- No choice runs an instruction for no cord. -/
theorem fair_choices (s : State) : Fair (choices s) := by
  simp only [choices, fair_append]
  refine ⟨⟨⟨⟨?_, fair_events (events_deviceEvents s)⟩, ?_⟩, ?_⟩, ?_⟩
  · simp [Choice.Fair]
  · simp [tlbChoices, Choice.Fair]
  · simp [fair_blockChoices]
  · simp [issueChoices, Choice.Fair]

/-! ### No step stops -/

/-- A selection that is there issues. -/
theorem issueOf_isSome_of_cord {s : State} {x : Sel} (n : Nat) (hs : s.sel = some x) (h : (cordOf s x.b x.c).isSome = true) :
    (issueOf s n).isSome = true := by
  unfold cordOf at h
  unfold issueOf
  simp only [hs]
  cases hb : s.blocks[x.b]? with
  | none => simp [hb] at h
  | some blk =>
    simp only [hb, Option.bind_some] at h
    obtain ⟨y, hy⟩ := Option.isSome_iff_exists.mp h
    simp only [hy, Option.isSome_some]

/-- What issues is what has been selected. -/
theorem issueOf_sel {s : State} {x : Sel} {n : Nat} {u : Issue} (hs : s.sel = some x) (hu : issueOf s n = some u) :
    u.b = x.b ∧ u.c = x.c := by
  unfold issueOf at hu
  simp only [hs] at hu
  split at hu
  · cases hu
  · split at hu <;> cases hu
    exact ⟨rfl, rfl⟩

/-- A pair that does not trap is one whose words pass and go together. -/
theorem pairTrap_none {x : DecodeCtx} {i j : Instr} (h : pairTrap x i j = none) :
    decodeTrap x i = none ∧ decodeTrap x j = none ∧ (pairWrites i j).isSome = true := by
  unfold pairTrap at h
  split at h
  · cases h
  · split at h
    · cases h
    · split at h
      · exact ⟨‹_›, ‹_›, ‹_›⟩
      · cases h

/-- The words of a pair are short forms. -/
theorem pairWrites_shape {i j : Instr} (h : (pairWrites i j).isSome = true) :
    ∃ op1 f1 op2 f2, i.shape = .short op1 f1 ∧ j.shape = .short op2 f2 := by
  unfold pairWrites at h
  split at h
  · exact ⟨_, _, _, _, ‹_›, ‹_›⟩
  · cases h

/-- Where a cord that is there is selected, exec answers a next state. -/
theorem exec_next_of_sel {s : State} {x : Sel} (h : (cordOf s x.b x.c).isSome = true) (i : Instr) :
    ∃ t, exec i { s with sel := some x } = .next t :=
  exec_next (s := { s with sel := some x }) (issueOf_isSome_of_cord 4 rfl h) i

/-- The second word of a pair answers a next state where its cord is still there. -/
theorem secondWord_next {t : State} {x : Sel} {j : Instr} (h : (cordOf t x.b x.c).isSome = true) :
    ∃ r, secondWord j x (.next t) = .next r :=
  exec_next_of_sel (x := { x with pc := x.pc + 4 }) h j

/-- A pair answers a next state. -/
theorem runPair_next {s : State} {x : Sel} {u : Issue} (hs : s.sel = some x) (hu : issueOf s 4 = some u) (w w' : Word) :
    ∃ t, runPair x u w w' s = .next t := by
  unfold runPair
  split
  case _ => exact ⟨_, rfl⟩
  case _ i j hp =>
    split
    case _ => exact ⟨_, rfl⟩
    case _ ht =>
      split
      · exact ⟨_, rfl⟩
      · split
        · exact ⟨_, rfl⟩
        · have hsome : (issueOf s 4).isSome = true := Option.isSome_iff_exists.mpr ⟨u, hu⟩
          obtain ⟨t, he⟩ := exec_next hsome i
          obtain ⟨v, hv⟩ := Option.isSome_iff_exists.mp ((issueOf_isSome_length (m := i.length)).symm.trans hsome)
          obtain ⟨op1, f1, -, -, hi, -⟩ := pairWrites_shape (pairTrap_none ht).2.2
          rw [he]
          apply secondWord_next
          obtain ⟨hb, hc⟩ := issueOf_sel hs hv
          rw [(sameSeats_short hi hv he).isSome, ← hb, ← hc, issueOf_cord hv]
          rfl

/-- Fetched words answer a next state. -/
theorem runWords_next {s : State} {x : Sel} {u : Issue} (hs : s.sel = some x) (hu : issueOf s 4 = some u) (ws : List Word) :
    ∃ t, runWords x u ws s = .next t := by
  unfold runWords
  split
  · exact ⟨_, rfl⟩
  · split
    · exact runPair_next hs hu _ _
    · split
      · split
        · exact ⟨_, rfl⟩
        · exact exec_next (Option.isSome_iff_exists.mpr ⟨u, hu⟩) _
      · exact ⟨_, rfl⟩

/-- What is selected answers a next state. -/
theorem runSel_next {s : State} {x : Sel} (hs : s.sel = some x) : ∃ t, runSel x s = .next t := by
  unfold runSel
  split
  · exact ⟨_, rfl⟩
  case _ hu =>
    split
    · exact ⟨_, rfl⟩
    · exact ⟨_, rfl⟩
    · exact runWords_next hs hu _

/-- The offer of an issue slot answers a next state. -/
theorem turn_next (core : Nat) (l : List (Nat × Nat)) (s : State) : ∃ t, turn core l s = .next t := by
  induction l generalizing s with
  | nil => exact ⟨s, rfl⟩
  | cons e rest ih =>
    unfold turn
    split
    · exact ih s
    · case _ x _ =>
      obtain ⟨t, ht⟩ := runSel_next (s := select s x true) (x := x) rfl
      simp only [ht]
      split
      · exact ⟨_, rfl⟩
      · exact ih t

/-- What the outside world brings answers a next state. -/
theorem runInput_next (x : Input) (s : State) : ∃ t, runInput x s = .next t := by
  unfold runInput
  split
  · exact exec_event _ _ ‹_›
  · split
    · case _ b c _ _ h =>
      rw [Bool.and_eq_true] at h
      exact exec_next_of_sel (x := { b := b, c := c, lanes := [], pc := 0, injected := true }) h.2 _
    · exact ⟨_, rfl⟩
  · exact ⟨_, rfl⟩

/-- A fair choice answers a next state. -/
theorem takeChoice_next {c : Choice} (hc : c.Fair) (s : State) : ∃ t, takeChoice c s = .next t := by
  cases c with
  | input =>
    rw [takeChoice, takeInput]
    split
    · exact ⟨_, rfl⟩
    · exact runInput_next _ _
  | event i => exact exec_event _ _ hc
  | issue core side => exact turn_next ..
  | look x => exact runSel_next rfl
  | store | begin | piece | writeOne | keep | byte | toggleTlb => exact ⟨_, rfl⟩

/-- A choice answers a next state. -/
theorem pickNext_next (s : State) : ∃ t, pickNext s = .next t := by
  cases h : choices s with
  | nil => exact ⟨s, by simp only [pickNext, h]⟩
  | cons c cs =>
    cases cs with
    | nil =>
      rw [pickNext_one h]
      exact takeChoice_next (fair_choices s c (h ▸ List.mem_singleton_self c)) s
    | cons d ds =>
      obtain ⟨e, he, hp⟩ := pickNext_several (s := s) (by simp [h])
      rw [hp]
      exact takeChoice_next (fair_choices s e he) _

/-- Settles O7: a cord that issues is there, and stays there between the words of a pair; every other choice is a step of
the device. -/
theorem neverStops : Obligations.NeverStops := by
  unfold Obligations.NeverStops Safety.GoesOn
  intro s
  unfold step
  split
  · unfold stepLit
    split
    · exact ⟨_, rfl⟩
    · exact pickNext_next s
  · unfold stepDark
    split
    · exact ⟨_, rfl⟩
    · split
      · exact exec_event _ _ rfl
      · exact ⟨_, rfl⟩

end Sys2Proof.Machine
end

section
/-! Retiring, and the way of a trap: its record, its delivery, the return from it (R26, R46, R324 to R333). -/

namespace Sys2Proof.Machine
open Sys2Proof

/-! ### Retiring -/

/-- A strand of a list that is changed place by place. -/
theorem lane_mapIdx {c d : Cord} {g : Nat → Strand → Strand} (hd : d.strands = c.strands.mapIdx g) {l : Nat}
    (h : l < c.strands.length) : d.lane l = g l (c.lane l) := by
  simp [Cord.lane, hd, List.getD_eq_getElem?_getD, h]

/-- What retiring leaves of a cord that is not injected (R26, R46). -/
theorem retire_frame (u : Issue) (regs dws : List Nat) {c : Cord} (hi : u.injected = false) :
    ∃ r z q w, retire u regs dws c = ({ c with
      retired := q, round := w, region := r, slow := z,
      full := c.full.filter (fun e => !u.lanes.contains e.1) } : Cord).modLanes u.lanes
        (fun t => { t with pc := t.pc + BitVec.ofNat 64 u.len }) := by
  unfold retire
  rw [if_neg (by simp [hi])]
  exact ⟨_, _, _, _, rfl⟩

/-- Outside the slow gear an instruction that retires is counted. -/
theorem retire_retired (u : Issue) (regs dws : List Nat) {c : Cord} (hi : u.injected = false) (hs : c.slow = none) :
    (retire u regs dws c).retired = c.retired + 1 := by
  simp [retire, hi, hs]

/-- Settles O12: what retiring changes is the place of its strands, the counts, the round, the region and the slow gear. -/
theorem retireMoves : Obligations.RetireMoves := by
  unfold Obligations.RetireMoves
  intro u regs dws c hi hs
  obtain ⟨r, z, q, w, hr⟩ := retire_frame u regs dws (c := c) hi
  refine ⟨fun l => ?_, retire_retired u regs dws hi hs, ?_⟩
  · rw [hr, Cord.lane_modLanes]
    simp only [List.contains_iff_mem]
    rfl
  · rw [hr]
    exact ⟨rfl, rfl, rfl, rfl, rfl, rfl, rfl⟩

/-! ### Records (R325, R326) -/

/-- The code of a cause says whether it reports a fault (R324). -/
theorem informationalCode_code (k : Cause) : informationalCode (BitVec.ofNat 8 k.code) = k.informational := by
  cases k <;> rfl

/-- A record goes behind every record whose RET is not larger, and before the first whose RET is (R326). -/
theorem insertRec_split (q : List TrapRec) (r : TrapRec) : ∃ l1 l2, q = l1 ++ l2 ∧ insertRec q r = l1 ++ r :: l2
    ∧ (∀ h ∈ l1, h.ret.toNat ≤ r.ret.toNat) ∧ ∀ h ∈ l2.head?, r.ret.toNat < h.ret.toNat := by
  induction q with
  | nil => exact ⟨[], [], rfl, rfl, by simp, by simp⟩
  | cons h t ih =>
    unfold insertRec
    split
    case _ hlt => exact ⟨[], h :: t, rfl, rfl, by simp, by simpa using hlt⟩
    case _ hle =>
      obtain ⟨l1, l2, ht, hins, hbefore, hafter⟩ := ih
      exact ⟨h :: l1, l2, by rw [ht]; rfl, by rw [hins]; rfl,
        List.forall_mem_cons.mpr ⟨Nat.le_of_not_lt hle, hbefore⟩, hafter⟩

/-- Where a record goes outside the handler: behind the one that a debugger has (R330). -/
theorem queueInsert_of_not_handler {c : Cord} (h : c.handler = false) (r : TrapRec) : queueInsert c r
    = if c.given then c.queue.take 1 ++ insertRec (c.queue.drop 1) r else insertRec c.queue r := by
  simp only [queueInsert, Cord.delivering, h, Bool.false_or]
  split
  · cases c.queue <;> rfl
  · rfl

/-- A record that finds room is queued (R326). -/
theorem queueRec_room {s : State} {b c : Nat} {x : Cord} {r : TrapRec} (hx : cordOf s b c = some x)
    (he : x.ended = false) (hq : x.queue.length < 8) :
    queueRec s b c r = modCord s b c (fun y => { y with queue := queueInsert y r }) := by
  simp only [queueRec, hx, he, hq, if_true, Bool.false_eq_true, if_false]

/-- A record that finds eight is dropped, where it reports no fault, or kills the braid (R326). -/
theorem queueRec_full {s : State} {b c : Nat} {x : Cord} {r : TrapRec} (hx : cordOf s b c = some x)
    (he : x.ended = false) (hq : 8 ≤ x.queue.length) : queueRec s b c r = if informationalCode r.cause then
      modCord s b c (fun y => { y with drop := true }) else killBraid s b := by
  simp only [queueRec, hx, he, Nat.not_lt.mpr hq, Bool.false_eq_true, if_false]

/-! ### Taking a trap (R324, R330, R337) -/

section
variable {s : State} {b c : Nat} {x : Cord} {k : Cause} {pc : DWord} {ret : Nat} {lanes : List Nat} {d a : Nat}

/-- Outside a region and the handler the record of a trap is queued. -/
theorem takeTrap_queues (hx : cordOf s b c = some x) (hh : x.handler = false) (hg : x.region = none) :
    takeTrap s b c k pc ret lanes d a = queueRec s b c (preciseRec k pc ret lanes d a) := by
  simp only [takeTrap, hx, hg, hh, Bool.false_and, Bool.false_eq_true, if_false]

/-- In the handler any trap but TRAP and BKPT is fatal (R330). -/
theorem takeTrap_double (hx : cordOf s b c = some x) (hh : x.handler = true) (hg : x.region = none) (ht : k ≠ .trap)
    (hb : k ≠ .bkpt) : takeTrap s b c k pc ret lanes d a = fatal s b 0x0201 k.code pc.toNat := by
  simp [takeTrap, hx, hg, hh, ht, hb]

/-- In a region a trap ends it (R337). -/
theorem takeTrap_region {g : Region} (hx : cordOf s b c = some x) (hg : x.region = some g) :
    takeTrap s b c k pc ret lanes d a = modCord s b c (fun y => { y with
      region := some { g with ending := some (.trap (preciseRec k pc ret lanes d a)) },
      slow := y.slow.map (fun z => { z with closing := true }) }) := by
  simp only [takeTrap, hx, hg]

end

/-- A context after it is changed. -/
theorem ctxOf_modCtx_same (s : State) (p c : Nat) (f : Ctx → Ctx) : ctxOf (modCtx s p c f) p c = f (ctxOf s p c) := by
  simp only [ctxOf, modCtx_ctxs, tabGet_tabPut_same]
  rfl

/-- The first fatal error of a context is kept (R354). -/
theorem ctxOf_fatal {s : State} {b : Nat} {g : Grid} (hg : gridOfBlock s b = some g)
    (hf : (ctxOf s g.part g.ctx).fatal = none) (status cause pc : Nat) :
    (ctxOf (fatal s b status cause pc) g.part g.ctx).fatal = some (status, cause, pc) := by
  simp only [fatal, hg, fatalOf, ctxOf_modCtx_same, hf]

/-- A fatal error changes no block. -/
theorem fatal_blocks (s : State) (b status cause pc : Nat) : (fatal s b status cause pc).blocks = s.blocks := by
  unfold fatal
  split <;> rfl

/-- Settles O13: a precise trap's record goes where `takeTrap` says, and into its place in the queue. -/
theorem trapsAreQueued : Obligations.TrapsAreQueued := by
  unfold Obligations.TrapsAreQueued
  refine ⟨fun s b c x k pc ret lanes d a hx hh hg he => ⟨fun hq => ?_, fun hq hk => ?_⟩, insertRec_split,
    fun s b c x r hx he hq => ⟨fun hi => ?_, fun hi => ?_⟩, fun s b c x k pc ret lanes d a hx => ⟨?_, ?_⟩⟩
  · rw [takeTrap_queues hx hh hg, queueRec_room hx he hq]
    apply modCord_congr
    intro y hy
    cases hx.symm.trans hy
    rw [queueInsert_of_not_handler hh]
  · rw [takeTrap_queues hx hh hg, queueRec_full hx he hq.ge, if_neg]
    rw [preciseRec, informationalCode_code, hk]
    exact Bool.false_ne_true
  · rw [queueRec_full hx he hq, if_pos hi]
  · rw [queueRec_full hx he hq, if_neg (by simp [hi])]
  · intro hh hg ht hb g hgrid hf
    rw [takeTrap_double hx hh hg ht hb]
    exact ⟨ctxOf_fatal hgrid hf .., fatal_blocks ..⟩
  · intro g hg
    rw [takeTrap_region hx hg, cordOf_modCord_of_some hx]
    exact ⟨_, _, rfl, rfl, rfl, rfl, rfl⟩

/-! ### Delivery (R329, R330) -/

/-- A lane without a strand does not enter the handler. -/
theorem enterHandler_default (entry : DWord) : enterHandler entry {} = {} := rfl

/-- A strand after delivery. -/
theorem deliver_lane (entry : Nat) (c : Cord) (l : Nat) : (deliver entry c).lane l
    = enterHandler (handlerEntry entry c.trapctl) (c.lane l) := by
  simp only [Cord.lane, deliver, List.getD_eq_getElem?_getD, List.getElem?_map]
  cases c.strands[l]? with
  | none => rfl
  | some t => rfl

/-- Settles O14: the head record goes to the handler, to the debugger, or nowhere, as HOFF and the debugger say. -/
theorem trapDelivered : Obligations.TrapDelivered := by
  unfold Obligations.TrapDelivered
  intro s b c x g r rest hx hg hm hq
  have hexec : exec (.trapDelivery b c) s = .next (
      if Cord.hoff x != 0 then
        if deliveryWaits s b g x then s
        else modCord s b c (fun y => { deliver g.entry (Cord.unhold y .trap) with slow := y.slow.map restartRound })
      else if x.debugger then modCord s b c (fun y => { Cord.hold y .trap with given := true })
      else if informationalCode r.cause then modCord s b c (fun y => { Cord.unhold y .trap with queue := rest })
      else fatal s b 0x0201 r.cause.toNat r.pc.toNat) := by
    simp only [exec, execTrapDelivery, hx, hg, hm, hq, Bool.not_true, Bool.false_eq_true, if_false]
  rw [hexec]
  refine ⟨fun h hw => ?_, fun h hw => ?_, fun h hd => ?_, fun h hd hi => ?_, fun h hd hi => ?_⟩
  · simp [h, hw]
  · rw [if_pos (by simp [h]), if_neg (by simp [hw])]
    refine ⟨_, _, rfl, cordOf_modCord_of_some hx _, rfl, rfl, rfl, rfl, rfl, fun l => ?_⟩
    refine (deliver_lane g.entry (Cord.unhold x .trap) l).trans ?_
    simp only [enterHandler, Bool.and_eq_true, Option.isNone_iff_eq_none]
    rfl
  · simp [h, hd]
  · simp [h, hd, hi]
  · simp [h, hd, hi]

/-! ### The return from the handler (R333) -/

/-- Strands return from the handler, and wait before they do (R62). -/
theorem tretGo_of_wait {s : State} {u : Issue} {skip : Nat → DWord → Option DWord} {w : Bool}
    (h : nativeWait s u (tretTargets u.cord skip) = w) : tretGo s u skip
      = if w then .wait else .go [] [] (fun t => modCord t u.b u.c (returnFromTrap skip)) := by
  rw [tretGo, h]

/-- A strand after a return. -/
theorem returnFromTrap_lane (skip : Nat → DWord → Option DWord) {c : Cord} {l : Nat} (h : l < c.strands.length) :
    (returnFromTrap skip c).lane l = leaveHandler (skip l) (c.lane l) := by
  unfold returnFromTrap
  obtain ⟨ops, f, hp⟩ := passTags_eq { c with
    handler := false, queue := c.queue.tail, region := c.region.map (keepPopped c (c.queue.take 1) true),
    strands := c.strands.mapIdx (fun l t => leaveHandler (skip l) t) }
    (c.liveLanes.filter (fun l => (c.lane l).entered && (c.lane l).park.isSome))
  rw [hp]
  exact lane_mapIdx (g := fun l t => leaveHandler (skip l) t) rfl h

/-- What a return leaves in the queue. -/
theorem returnFromTrap_queue (skip : Nat → DWord → Option DWord) (c : Cord) :
    (returnFromTrap skip c).queue = c.queue.tail ∧ (returnFromTrap skip c).handler = false := by
  unfold returnFromTrap
  obtain ⟨ops, f, hp⟩ := passTags_eq { c with
    handler := false, queue := c.queue.tail, region := c.region.map (keepPopped c (c.queue.take 1) true),
    strands := c.strands.mapIdx (fun l t => leaveHandler (skip l) t) }
    (c.liveLanes.filter (fun l => (c.lane l).entered && (c.lane l).park.isSome))
  rw [hp]
  exact ⟨rfl, rfl⟩

/-- What TRET does once it has passed decode. -/
def tretBody (f : LForm) (u : Issue) (s : State) : Act :=
  if !u.cord.handler then .trap .illegalOpcode u.lanes 0 0
  else
    match u.cord.queue with
    | r :: _ =>
      if f.mod == 1 && r.kind == 0 then
        (match nextAfter s u.b u.blk.core (r.pc.setWidth 64) with
          | some n => tretGo s u (skipTo r n)
          | none => .ask (fun t => askWalk t u.blk.core
              { src := .fetch u.b u.c r.pc.toNat, pc := u.pc.toNat, smask := maskOf u.lanes }))
      else tretGo s u (fun _ _ => none)
    | [] => tretGo s u (fun _ _ => none)

/-- TRET issues with that body. -/
theorem exec_tret (f : LForm) (s : State) : exec (.tret f) s = issue (.tret f) (tretBody f) s := by
  simp only [exec, execTret]
  congr 1

/-- A return that skips nothing. -/
theorem tretBody_plain {f : LForm} {s : State} {u : Issue} (hh : u.cord.handler = true)
    (h : f.mod ≠ 1 ∨ ∀ r ∈ u.cord.queue.head?, r.kind ≠ 0) : tretBody f u s = tretGo s u (fun _ _ => none) := by
  unfold tretBody
  rw [if_neg (by simp [hh])]
  split
  case _ r rest hq =>
    rw [if_neg]
    rw [Bool.and_eq_true, beq_iff_eq, beq_iff_eq]
    rintro ⟨hm, hk⟩
    exact h.elim (· hm) (· r (by simp [hq]) hk)
  case _ => rfl

/-- A return past the instruction of a KIND 0 record. -/
theorem tretBody_skip {f : LForm} {s : State} {u : Issue} {r : TrapRec} {rest : List TrapRec} {n : DWord}
    (hh : u.cord.handler = true) (hf : f.mod = 1) (hq : u.cord.queue = r :: rest) (hk : r.kind = 0)
    (hn : nextAfter s u.b u.blk.core (r.pc.setWidth 64) = some n) : tretBody f u s = tretGo s u (skipTo r n) := by
  simp [tretBody, hh, hq, hf, hk, hn]

/-- Settles O15: outside the handler a trap; in it a return with the skip that the form and the record give. -/
theorem trapReturn : Obligations.TrapReturn := by
  unfold Obligations.TrapReturn
  rintro f s u ⟨hu, hd, hr, he, hfit⟩
  have hgo {skip : Nat → DWord → Option DWord} (hb : tretBody f u s = tretGo s u skip)
      (hw : nativeWait s u (tretTargets u.cord skip) = false) :
      exec (.tret f) s = .next (modCord (Claims.moved s u [] []) u.b u.c (returnFromTrap skip)) := by
    rw [exec_tret]
    exact issue_go hu hd hr he hfit (hb.trans (tretGo_of_wait hw))
  refine ⟨fun hh => ?_, fun hh hf hw => hgo (tretBody_plain hh (.inl (by rw [hf]; decide))) hw, fun hh hf hw => ?_,
    fun r rest n hh hf hq hk hn hw => hgo (tretBody_skip hh hf hq hk hn) hw,
    fun r rest hh hf hq hk hw => hgo (tretBody_plain hh (.inr (by simpa [hq] using hk))) hw, fun r n pc l => ?_,
    fun b core pc pa htr => ?_, fun skip y l hl => ?_⟩
  · rw [exec_tret]
    exact issue_trap hu hd hr he (by simp [tretBody, hh])
  · rw [exec_tret]
    refine issue_wait hu hd hr he ?_
    rw [tretBody_plain hh (.inl (by rw [hf]; decide)), tretGo_of_wait hw]
    rfl
  · simp only [skipTo, Bool.and_eq_true, beq_iff_eq, and_assoc]
  · rw [nextAfter, htr]
    rfl
  · obtain ⟨hq, hh⟩ := returnFromTrap_queue skip y
    exact ⟨hq, hh, returnFromTrap_lane skip hl⟩

end Sys2Proof.Machine
end

/-! ## The decode checks -/

section
open Sys2Proof Sys2Proof.Machine

namespace Sys2Proof.Machine

/-- An instruction that a decode check refuses traps, whatever its meaning. -/
theorem exec_decode {i : Instr} {s : State} {u : Issue} {k : Cause} (hu : issueOf s i.length = some u)
    (hi : u.injected = false) (hk : decodeTrap (decodeCtx u) i = some k) :
    exec i s = .next (trapAt s u k u.lanes 0 0) := by
  cases hs : i.shape with
  | header h =>
    obtain rfl := eq_of_shape_header hs
    have hok : Header.ok h = false ∧ k = .illegalOpcode := by
      simp only [decodeTrap, Instr.shape] at hk
      split at hk <;> cases hk
      exact ⟨by simpa using ‹¬Header.ok h = true›, rfl⟩
    have hu : issueOf s 4 = some u := hu
    simp [exec, execClauseHeader, hu, hok]
  | short op f =>
    obtain ⟨body, hx⟩ := exec_short i op f hs
    rw [hx, issue_decode hu hk]
  | long op f =>
    cases hf : firmwareOp op with
    | false =>
      obtain ⟨body, hx⟩ := exec_long i op f hs hf
      rw [hx, issue_decode hu hk]
    | true =>
      obtain ⟨body, hx⟩ := exec_firmware i op f hs hf
      rw [hx, inject_issues hu hi, issue_decode hu hk]
  | unassigned w =>
    obtain rfl := eq_of_shape_unassigned hs
    rw [exec, execUnassignedOpcode, inject_issues hu hi, issue_decode hu hk]
  | event =>
    simp [decodeTrap, hs] at hk

/-- The first row of Table 3-6 that a long form breaks. -/
theorem decodeTrap_long {x : DecodeCtx} {i : Instr} {op : Nat} {f : LForm} (h : i.shape = .long op f) :
    decodeTrap x i = if firmwareOp op = true ∧ x.injected = false then some .illegalOpcode
        else if (admits x.W i).typeOk = false then some .illegalType
        else if (admits x.W i).fieldsOk = false ∨ predBitsOk f.pred f.pneg (admits x.W i).predOk = false
            ∨ flagBitsOk x f = false then some .illegalOpcode
        else if ∃ r ∈ (admits x.W i).regs, RegUse.ok x.V r = false then some .illegalReg
        else none := by
  simp only [decodeTrap, h]
  congr 1
  · simp
  congr 1
  · simp
  congr 1
  · simp only [Bool.not_eq_true', Bool.and_eq_false_iff, or_assoc]
  congr 1
  simp only [Bool.not_eq_true', List.all_eq_false, Bool.not_eq_true]

/-- The first row of Table 3-6 that a short form breaks. -/
theorem decodeTrap_short {x : DecodeCtx} {i : Instr} {op : Nat} {f : SForm} (h : i.shape = .short op f) :
    decodeTrap x i = if (admits x.W i).typeOk = false then some .illegalType
        else if (admits x.W i).fieldsOk = false ∨ predBitsOk f.pred f.pneg (admits x.W i).predOk = false then
          some .illegalOpcode
        else if ∃ r ∈ (admits x.W i).regs, RegUse.ok x.V r = false then some .illegalReg
        else none := by
  simp only [decodeTrap, h]
  congr 1
  · simp
  congr 1
  · simp only [Bool.not_eq_true', Bool.and_eq_false_iff]
  congr 1
  simp only [Bool.not_eq_true', List.all_eq_false, Bool.not_eq_true]

/-! ### Marked pairs -/

/-- The opcode bits of a short form, as a number. -/
theorem shortOp_eq_shortCode (w : Word) : shortOp w = Claims.shortCode w := by
  rw [shortOp, toNat_extract]
  rfl

/-- A word of one word that is no clause header is an instruction, or none that is assigned. -/
theorem instrOf_isSome {w : Word} (hl : lengthWords w = 1) (h0 : shortOp w ≠ 0) : ∃ i, instrOf [w] = some i := by
  simp only [instrOf, decodeWords, hl, h0, if_false]
  cases ofShort (shortOp w) (shortFields w) with
  | some i => exact ⟨i, rfl⟩
  | none => exact ⟨_, rfl⟩

/-- Two words that are no short forms at an 8-byte boundary are no pair. -/
theorem pairForms_none {pc : DWord} {w w' : Word}
    (h : pc.toNat % 8 ≠ 0 ∨ Claims.lengthCode w' ≠ 0 ∨ Claims.shortCode w = 0 ∨ Claims.shortCode w' = 0) :
    pairForms pc w w' = none := by
  rw [pairForms, if_pos]
  simpa only [Claims.lengthCode, shortOp_eq_shortCode, Bool.or_eq_true, bne_iff_ne, decide_eq_true_eq, or_assoc] using h

/-- Two words that are short forms at an 8-byte boundary are a pair. -/
theorem pairForms_some {pc : DWord} {w w' : Word} {i j : Instr} (hp : pc.toNat % 8 = 0)
    (hc : Claims.lengthCode w' = 0) (hw : Claims.shortCode w ≠ 0) (hw' : Claims.shortCode w' ≠ 0)
    (hi : instrOf [w] = some i) (hj : instrOf [w'] = some j) : pairForms pc w w' = some (i, j) := by
  rw [pairForms, if_neg]
  · simp only [hi, hj]
  · have hc : w'.extractLsb' 0 2 = 0 := hc
    simp [hp, hc, shortOp_eq_shortCode, hw, hw']

/-- The registers of a field of a short form: a pair for a wide type. -/
theorem shortRegs_eq (f : SForm) (r : BitVec 8) :
    (if wideTy f.ty then [r.toNat, r.toNat + 1] else [r.toNat]) = Claims.shortRegs f r := by
  simp [Claims.shortRegs, wideTy]

/-- What a short form other than the NOP reads and writes. -/
theorem shortUse_eq {op : Nat} (f : SForm) (h : op ≠ 0x1B) :
    shortUse op f = (Claims.shortReads op f, Claims.shortRegs f f.d) := by
  simp only [shortUse, h, if_false, shortRegs_eq, Claims.shortReads, List.contains_iff_mem]
  split <;> simp

/-- Short forms that break R59 together are no pair. -/
theorem pairOk_of_clash {op1 op2 : Nat} {f1 f2 : SForm} (h : Claims.Clash op1 f1 op2 f2) : pairOk op1 f1 op2 f2 = false := by
  obtain ⟨h1, h2, h⟩ := h
  rw [← Bool.not_eq_true]
  simp only [pairOk, h1, h2, decide_false, Bool.false_or, Bool.and_eq_true, bne_iff_ne, List.all_eq_true,
    Bool.not_eq_true', List.contains_eq_mem, decide_eq_false_iff_not, shortUse_eq f1 h1, shortUse_eq f2 h2]
  rintro ⟨⟨⟨hd, ha⟩, hr⟩, hw⟩
  obtain h | h | ⟨r, hr1, hr2⟩ | ⟨r, hr1, hr2⟩ := h
  · exact hd h
  · exact ha h
  · exact hr r hr1 hr2
  · exact hw r hr1 hr2

/-- A pair whose words pass their own checks and break R59 together breaks row 6. -/
theorem pairTrap_clash {x : DecodeCtx} {i j : Instr} {op1 op2 : Nat} {f1 f2 : SForm} (hi : decodeTrap x i = none)
    (hj : decodeTrap x j = none) (h1 : i.shape = .short op1 f1) (h2 : j.shape = .short op2 f2)
    (h : Claims.Clash op1 f1 op2 f2) : pairTrap x i j = some .illegalPair := by
  simp [pairTrap, hi, hj, pairWrites, h1, h2, pairOk_of_clash h]

/-- A pair that a check refuses traps. -/
theorem runPair_trap {s : State} {x : Sel} {u : Issue} {w w' : Word} {i j : Instr} {k : Cause}
    (hp : pairForms x.pc w w' = some (i, j)) (hk : pairTrap (decodeCtx u) i j = some k) :
    runPair x u w w' s = .next (trapAt s u k u.lanes 0 0) := by
  simp [runPair, hp, hk]

/-- Settles O11: the decode checks are made before any meaning, in the order of Table 3-6, of one word and of a pair. -/
theorem decodeTraps : Obligations.DecodeTraps := by
  unfold Obligations.DecodeTraps
  refine ⟨fun i s u k hu hi hk => exec_decode hu hi hk, fun x i op => ⟨fun f h => decodeTrap_long h,
    fun f h => decodeTrap_short h, fun w => rfl⟩, fun x u w w' s hm => ⟨fun h => ?_, fun hp hc hw hw' => ?_⟩⟩
  · rw [runWords_marked hm, runPair, pairForms_none h]
  · have hl : lengthWords w = 1 := by
      rw [Claims.marked, Bool.and_eq_true, beq_iff_eq] at hm
      exact hm.1
    have hl' : lengthWords w' = 1 := by
      rw [lengthWords_eq_one]
      have hc := congrArg BitVec.toNat hc
      rw [Claims.lengthCode, toNat_extract] at hc
      simp at hc
      omega
    obtain ⟨i, hi⟩ := instrOf_isSome hl (by rwa [shortOp_eq_shortCode])
    obtain ⟨j, hj⟩ := instrOf_isSome hl' (by rwa [shortOp_eq_shortCode])
    have hf := pairForms_some hp hc hw hw' hi hj
    refine ⟨i, j, hi, hj, fun k hk => ?_, fun k hn hk => ?_, fun op1 f1 op2 f2 hn hn' h1 h2 h => ?_⟩ <;>
      rw [runWords_marked hm]
    · exact runPair_trap hf (by simp [pairTrap, hk])
    · exact runPair_trap hf (by simp [pairTrap, hn, hk])
    · exact runPair_trap hf (pairTrap_clash hn hn' h1 h2 h)

end Sys2Proof.Machine
end

/-! ## A core and its own stores -/

section
open Sys2Proof Sys2Proof.Machine

namespace Sys2Proof.Machine

/-! ### Tables -/

/-- What a filter that keeps every value at a number leaves there. -/
theorem tabGet_filter {α : Type} {p : Nat × α → Bool} {a : Nat} (h : ∀ x, p (a, x) = true) (t : Tab α) :
    tabGet (t.filter p) a = tabGet t a := by
  induction t with
  | nil => rfl
  | cons e t ih =>
    obtain ⟨k, v⟩ := e
    by_cases hk : k = a
    · subst hk
      rw [List.filter_cons_of_pos (h v)]
      simp [tabGet]
    · rw [List.filter_cons]
      split <;> simp [tabGet, hk, ih]

/-- A value taken out leaves the others. -/
theorem tabGet_tabDel_other {α : Type} (t : Tab α) {a b : Nat} (h : b ≠ a) : tabGet (tabDel t a) b = tabGet t b :=
  tabGet_filter (fun _ => by simpa using h) t

/-- A core that was replaced. -/
theorem coreOf_setCore_same (s : State) (core : Nat) (x : CoreSt) : coreOf (setCore s core x) core = x := by
  simp [coreOf, tabGet_tabPut_same]

/-- A change of a braid leaves the cores. -/
theorem coreOf_modBraid (s : State) (x : BraidId) (f : Braid → Braid) (core : Nat) :
    coreOf (modBraid s x f) core = coreOf s core := rfl

/-! ### The bytes of a core -/

/-- What is unpublished and what is on its way at an address makes a core's own byte there. -/
theorem ownByte_congr {c d : CoreSt} {a : Nat} (hd : tabGet d.dirty a = tabGet c.dirty a)
    (ho : d.outbound.filter (fun o => o.bytes.any (fun e => e.1 == a))
      = c.outbound.filter (fun o => o.bytes.any (fun e => e.1 == a))) : ownByte d a = ownByte c a := by
  rw [ownByte, ownByte, hd, ho]

/-- A read gives the core's own byte, but where the braid has staged one that comes after it. -/
theorem coreRead_own {s : State} {core b a : Nat} {x : Byte × Bool} (h : ownByte (coreOf s core) a = some x) :
    (coreRead s core b a).1 = (stagedOpByte s core b a).getD x.1 := by
  rw [coreRead, h]
  cases stagedOpByte s core b a <;> rfl

/-- The bytes that are sent to their homes are of one line. -/
theorem publishable_line {s : State} {c : CoreSt} {line block : Nat} {e : Nat × Dirty}
    (h : e ∈ publishable s c line block) : e.1 / 256 = line := by
  rw [publishable] at h
  split at h
  · simp only [List.mem_filter, Bool.and_eq_true, beq_iff_eq] at h
    exact h.2.1
  · cases h

/-- A line that is sent home leaves the core's own bytes of every other line. -/
theorem ownByte_publishLine {s : State} {core line block a : Nat} (h : a / 256 ≠ line) :
    ownByte (coreOf (publishLine s core line block) core) a = ownByte (coreOf s core) a := by
  have hne : ∀ e ∈ publishable s (coreOf s core) line block, e.1 ≠ a :=
    fun e he ha => h (ha ▸ publishable_line he)
  rw [publishLine]
  split
  · rfl
  · rw [coreOf_setCore_same]
    refine ownByte_congr (tabGet_filter (fun x => ?_) _) ?_
    · simpa using fun x => (hne (a, x) · rfl)
    · simp only [List.filter_append, List.append_right_eq_self, List.filter_eq_nil_iff, List.mem_singleton]
      rintro o rfl
      simpa [List.any_map] using fun d he => hne (a, d) he rfl

/-- What makes place for a store leaves the core's own bytes of other lines. -/
theorem ownByte_displace {s : State} {core block pa a : Nat} (h : pa / 256 ≠ a / 256) :
    ownByte (coreOf (displace s core block pa) core) a = ownByte (coreOf s core) a := by
  rw [displace]
  split
  · rfl
  · split
    · rfl
    · split
      · exact ownByte_publishLine (Ne.symm h)
      · rw [coreOf_modBraid, coreOf_modCore_same]
        exact ownByte_congr (tabGet_tabDel_other _ (fun hp => h (by rw [hp]))) rfl

/-- Outside deterministic mode nothing makes place. -/
theorem displace_free {s : State} {core block pa : Nat} (h : detMode s block = false) :
    displace s core block pa = s := by
  rw [displace]
  split
  · rfl
  · simp [h]

/-- What makes place leaves memory. -/
theorem displace_mem (s : State) (core block pa : Nat) : (displace s core block pa).mem = s.mem := by
  rw [displace]
  split
  · rfl
  · split
    · rfl
    · split
      · rw [publishLine]
        split <;> rfl
      · rfl

/-! ### A byte merged -/

/-- A byte that is merged is the core's own. -/
theorem ownByte_mergeByte_same (s : State) (core block seq : Nat) (p : Bool) (e : Nat × Byte) :
    ownByte (coreOf (mergeByte core block seq p s e) core) e.1 = some (e.2, p) := by
  rw [mergeByte, coreOf_modCore_same]
  simp only [ownByte, tabGet_tabPut_same]

/-- A byte that is merged leaves the others: outside deterministic mode all, and in it those of other lines. -/
theorem ownByte_mergeByte_other {s : State} {core block seq a : Nat} {p : Bool} {e : Nat × Byte} (hne : a ≠ e.1)
    (h : detMode s block = false ∨ e.1 / 256 ≠ a / 256) :
    ownByte (coreOf (mergeByte core block seq p s e) core) a = ownByte (coreOf s core) a := by
  rw [mergeByte, coreOf_modCore_same]
  calc _ = ownByte (coreOf (displace s core block e.1) core) a := by
        exact ownByte_congr (tabGet_tabPut_other _ _ hne) rfl
    _ = ownByte (coreOf s core) a := h.elim (fun h => by rw [displace_free h]) ownByte_displace

/-- Outside deterministic mode a byte that is merged leaves it so. -/
theorem detMode_mergeByte {s : State} {core block seq : Nat} {p : Bool} {e : Nat × Byte} (h : detMode s block = false) :
    detMode (mergeByte core block seq p s e) block = false := by
  rw [mergeByte, displace_free h]
  exact h

/-! ### Bytes merged -/

/-- Bytes that are merged leave memory. -/
theorem mergeBytes_mem (core block seq : Nat) (p : Bool) (es : List (Nat × Byte)) (s : State) :
    (mergeBytes s core block seq es p).mem = s.mem := by
  rw [mergeBytes]
  induction es generalizing s with
  | nil => rfl
  | cons e es ih => exact (ih _).trans (displace_mem _ _ _ _)

/-- Bytes that are merged leave the core's own bytes at other addresses. -/
theorem ownByte_mergeBytes_other {core block seq a : Nat} {p : Bool} (es : List (Nat × Byte)) (s : State)
    (hne : ∀ e ∈ es, a ≠ e.1) (h : detMode s block = false ∨ ∀ e ∈ es, e.1 / 256 ≠ a / 256) :
    ownByte (coreOf (mergeBytes s core block seq es p) core) a = ownByte (coreOf s core) a := by
  rw [mergeBytes]
  induction es generalizing s with
  | nil => rfl
  | cons e es ih =>
    rw [List.forall_mem_cons] at hne
    refine (ih _ hne.2 ?_).trans (ownByte_mergeByte_other hne.1 ?_)
    · exact h.imp detMode_mergeByte (fun h => (List.forall_mem_cons.mp h).2)
    · exact h.imp_right (· e List.mem_cons_self)

/-- Of bytes merged at addresses that differ each is the core's own, and in deterministic mode the last. -/
theorem ownByte_mergeBytes_same {core block seq : Nat} {p : Bool} {e : Nat × Byte} (l1 l2 : List (Nat × Byte)) (s : State)
    (hne : ∀ y ∈ l2, e.1 ≠ y.1) (h : detMode s block = false ∨ l2 = []) :
    ownByte (coreOf (mergeBytes s core block seq (l1 ++ e :: l2) p) core) e.1 = some (e.2, p) := by
  have hd : detMode (mergeBytes s core block seq (l1 ++ [e]) p) block = false ∨ l2 = [] := by
    refine h.imp_left (fun h => ?_)
    rw [mergeBytes]
    exact List.foldlRecOn (motive := fun t => detMode t block = false) _ _ h (fun _ h _ _ => detMode_mergeByte h)
  have hs : mergeBytes s core block seq (l1 ++ e :: l2) p
      = mergeBytes (mergeBytes s core block seq (l1 ++ [e]) p) core block seq l2 p := by
    simp only [mergeBytes, List.foldl_append, List.foldl_cons, List.foldl_nil]
  rw [hs, ownByte_mergeBytes_other l2 _ hne (hd.imp_right (by rintro rfl; simp)), mergeBytes, List.foldl_append]
  exact ownByte_mergeByte_same _ core block seq p e

/-! ### The bytes of a store -/

/-- A byte of a store with its address. -/
theorem mem_bytesAt {pa : Nat} {bs : List Byte} {e : Nat × Byte} (h : e ∈ bytesAt pa bs) :
    pa ≤ e.1 ∧ e.1 < pa + bs.length := by
  have := (List.of_mem_zip (a := e.1) (b := e.2) h).1
  simp only [List.mem_map, List.mem_range] at this
  obtain ⟨i, hi, he⟩ := this
  omega

/-- The byte n of a store among its bytes: those after it stand at other addresses. -/
theorem bytesAt_split {pa n : Nat} {bs : List Byte} {x : Byte} (h : bs[n]? = some x) :
    ∃ l1 l2, bytesAt pa bs = l1 ++ (pa + n, x) :: l2 ∧ (∀ e ∈ l2, pa + n ≠ e.1) ∧ (n + 1 = bs.length → l2 = []) := by
  obtain ⟨hn, hx⟩ := List.getElem?_eq_some_iff.mp h
  have hl : (bytesAt pa bs).length = bs.length := by simp [bytesAt]
  have hg : (bytesAt pa bs)[n]'(by omega) = (pa + n, x) := by simp [bytesAt, hx]
  refine ⟨(bytesAt pa bs).take n, (bytesAt pa bs).drop (n + 1), ?_, fun e he => ?_, fun hn => ?_⟩
  · rw [← hg, List.getElem_cons_drop, List.take_append_drop]
  · obtain ⟨i, hi, rfl⟩ := List.mem_iff_getElem.mp he
    simp only [List.getElem_drop, bytesAt, List.getElem_zip, List.getElem_map, List.getElem_range]
    omega
  · exact List.drop_eq_nil_of_le (by omega)

/-- Settles O10: byte by byte, a merge puts what is stored before every other byte of the address, and only the place that it
makes in deterministic mode touches more, in its own line. -/
theorem storeThenRead : Obligations.StoreThenRead := by
  unfold Obligations.StoreThenRead
  refine fun s core block seq b pa bs n => ⟨fun x hx hd => ?_, fun a ha hd => ?_, fun a => ?_⟩
  · obtain ⟨l1, l2, hl, hne, hlast⟩ := bytesAt_split (pa := pa) hx
    rw [coreRead_own (x := (x, false))]
    rw [mergeStore, hl]
    exact ownByte_mergeBytes_same (e := (pa + n, x)) l1 l2 s hne (hd.imp_right hlast)
  · refine ownByte_mergeBytes_other _ s (fun e he => ?_) (hd.imp_right (fun hd e he => ?_))
    · have := mem_bytesAt he
      omega
    · have hb := mem_bytesAt he
      have := hd (e.1 - pa) (by omega)
      rwa [show pa + (e.1 - pa) = e.1 by omega] at this
  · rw [mergeStore, mergeBytes_mem]

end Sys2Proof.Machine
end

/-! ## Trap instructions, firmware forms, clause headers -/

section
open Sys2Proof Sys2Proof.Machine

namespace Sys2Proof.Machine

/-! ### An instruction that reaches its meaning -/

/-- What issues has reached its meaning. -/
theorem reaches_of_issues {i : Instr} {s : State} {u : Issue} {regs dws : List Nat} (h : Claims.Issues i s u regs dws) :
    Claims.Reaches i s u := ⟨h.1, h.2.1, h.2.2.1, h.2.2.2.1⟩

/-- An instruction whose meaning is a trap takes it. -/
theorem exec_trap_of {i : Instr} {body : Issue → State → Act} {s : State} {u : Issue} {k : Cause} {ls : List Nat} {d a : Nat}
    (h : Claims.Reaches i s u) (hx : exec i s = issue i body s) (hb : body u s = .trap k ls d a) :
    exec i s = .next (trapAt s u k ls d a) := by
  obtain ⟨hu, hd, hr, he⟩ := h
  rw [hx, issue_trap hu hd hr he hb]

/-- An instruction that waits leaves everything. -/
theorem exec_wait_of {i : Instr} {body : Issue → State → Act} {s : State} {u : Issue}
    (h : Claims.Reaches i s u) (hx : exec i s = issue i body s) (hb : body u s = .wait) : exec i s = .next s := by
  obtain ⟨hu, hd, hr, he⟩ := h
  rw [hx, issue_wait hu hd hr he hb]

/-- An instruction that asks the device for something first. -/
theorem exec_ask_of {i : Instr} {body : Issue → State → Act} {s : State} {u : Issue} {k : State → State}
    (h : Claims.Reaches i s u) (hx : exec i s = issue i body s) (hb : body u s = .ask k) : exec i s = .next (k s) := by
  obtain ⟨hu, hd, hr, he⟩ := h
  rw [hx, issue_ask hu hd hr he hb]

/-- An instruction that goes takes its effect once it has retired. -/
theorem exec_go_of {i : Instr} {body : Issue → State → Act} {s : State} {u : Issue} {regs dws : List Nat} {k : State → State}
    (h : Claims.Issues i s u regs dws) (hx : exec i s = issue i body s) (hb : body u s = .go regs dws k) :
    exec i s = .next (k (Claims.moved s u regs dws)) := by
  obtain ⟨hu, hd, hr, he, hf⟩ := h
  rw [hx, issue_go hu hd hr he hf hb, Claims.moved]

/-! ### TRAP and BKPT -/

/-- Settles O32: by the conditions of the two bodies. -/
theorem trapInstructions : Obligations.TrapInstructions := by
  unfold Obligations.TrapInstructions
  refine fun f s u => ⟨fun h hp => ?_, fun h hp => ?_, fun h hd hb ho hp => ?_, fun h hd hq => ?_, fun h hd hq hs => ?_,
    fun h hd hn => ?_⟩
  · rw [exec_ask_of (reaches_of_issues h) (show execTrap f s = _ from rfl) (if_neg (by simpa using hp))]
    rfl
  · exact exec_go_of h (show execTrap f s = _ from rfl) (if_pos (by simpa using hp))
  · refine exec_ask_of (k := fun _ => trapAt (Claims.past s u) u .bkpt (participants u f) 0 0) (reaches_of_issues h)
      (show execBkpt f s = _ from rfl) ?_
    simp [hd, hb, ho, hp, trapNext, Claims.past]
  · exact exec_wait_of (reaches_of_issues h) (show execBkpt f s = _ from rfl) (by simp [hd, hq])
  · exact exec_go_of h (show execBkpt f s = _ from rfl) ((if_neg (by simp [hq])).trans (if_pos hd))
  · refine exec_go_of (k := fun t => t) h (show execBkpt f s = _ from rfl) ?_
    have hc : (u.cord.bk && u.cord.hoff != 0 && !(participants u f).isEmpty) = false := by
      rcases hn with hn | hn | hn <;> simp [hn]
    simp only [hd, Bool.false_and, Bool.false_eq_true, if_false, hc]

/-! ### Firmware forms -/

/-- An injected form that goes takes its effect, and nothing retires. -/
theorem exec_inject_go {i : Instr} {body : Issue → State → Act} {s : State} {u : Issue} {regs dws : List Nat} {k : State → State}
    (h : Claims.Injects i s u) (hx : exec i s = inject i body s) (hb : body u s = .go regs dws k) : exec i s = .next (k s) := by
  obtain ⟨hu, hi, hd, hs⟩ := h
  simp [hx, inject, hu, hi, hd, hs, hb]

/-- An injected form that waits is refused. -/
theorem exec_inject_wait {i : Instr} {body : Issue → State → Act} {s : State} {u : Issue}
    (h : Claims.Injects i s u) (hx : exec i s = inject i body s) (hb : body u s = .wait) : exec i s = .next (send s .fwRefused) := by
  obtain ⟨hu, hi, hd, hs⟩ := h
  simp [hx, inject, hu, hi, hd, hs, hb]

/-- A form that is injected into a cord that is not suspended is refused. -/
theorem inject_refused {i : Instr} {body : Issue → State → Act} {s : State} {u : Issue} (hu : issueOf s i.length = some u)
    (hi : u.injected = true) (hs : u.cord.suspend = []) : inject i body s = .next (send s .fwRefused) := by
  simp [inject, hu, hi, hs]

/-- A firmware form that a cord fetches breaks row 2 of Table 3-6. -/
theorem decodeTrap_firmware {x : DecodeCtx} {i : Instr} {op : Nat} {f : LForm} (h : i.shape = .long op f)
    (hf : firmwareOp op = true) (hi : x.injected = false) : decodeTrap x i = some .illegalOpcode := by
  rw [decodeTrap_long h, if_pos ⟨hf, hi⟩]

/-- A firmware form that a cord fetches, and one that is injected into a cord that is not suspended. -/
theorem firmware_stops {i : Instr} {op : Nat} {f : LForm} {s : State} {u : Issue} (h : i.shape = .long op f)
    (hf : firmwareOp op = true) (hu : issueOf s i.length = some u) :
    (u.injected = false → exec i s = .next (trapAt s u .illegalOpcode u.lanes 0 0))
    ∧ (u.injected = true → u.cord.suspend = [] → exec i s = .next (send s .fwRefused)) := by
  refine ⟨fun hi => exec_decode hu hi (decodeTrap_firmware h hf hi), fun hi hs => ?_⟩
  obtain ⟨body, hx⟩ := exec_firmware i op f h hf
  rw [hx, inject_refused hu hi hs]

/-- Settles O33: the forms by their bodies, and what stops them by the decode checks and the test of the suspension. -/
theorem firmwareAndUnassigned : Obligations.FirmwareAndUnassigned := by
  unfold Obligations.FirmwareAndUnassigned
  refine ⟨fun f s u => ⟨fun h => ?save, fun h hh => ?rest,
    fun h hh => ?other, fun h hm => ?arr, fun h hm => ?arrLoad, fun h => ?fin, ?stops⟩,
    fun w s u hu hi => exec_decode hu hi rfl⟩
  case save => exact exec_inject_go h (show execFwsave f s = _ from rfl) rfl
  case rest => exact exec_inject_go h (show execFwrest f s = _ from rfl) (if_pos (by simpa using hh))
  case other => exact exec_inject_wait h (show execFwrest f s = _ from rfl) (if_neg (by simpa using hh))
  case arr => exact (exec_inject_go h (show execFwarr f s = _ from rfl) rfl).trans (by simp [hm])
  case arrLoad => exact (exec_inject_go h (show execFwarr f s = _ from rfl) rfl).trans (by simp [hm])
  case fin => exact exec_inject_go h (show execFwend f s = _ from rfl) rfl
  case stops =>
    simp only [List.forall_mem_cons]
    exact ⟨firmware_stops (op := 0x2F0) rfl rfl, firmware_stops (op := 0x2F1) rfl rfl, firmware_stops (op := 0x2F2) rfl rfl,
      firmware_stops (op := 0x2F3) rfl rfl, by simp⟩

/-! ### Clause headers -/

/-- Settles O34: by the order in which a header is looked at. -/
theorem clauseHeaders : Obligations.ClauseHeaders := by
  unfold Obligations.ClauseHeaders
  refine fun h s u hu => ⟨fun ho => ?_, fun ho hw => ?_, fun hy => ?_, fun hy hl hq => ?_, fun ho hw hr hg => ?_,
    fun ho hw hr => ?_, fun c l hl hm => ?_⟩
  · simp [exec, execClauseHeader, hu, ho]
  · simp [exec, execClauseHeader, hu, ho, hw]
  · rw [stallAtHeader, if_pos (by simpa using hy)]
  · simp [stallAtHeader, hy, hl, hq]
  · simp [exec, execClauseHeader, hu, ho, hw, hr, hg]
  · have hn : (h.rgn && u.cord.region.isSome) = false := by rcases hr with hr | hr <;> simp [hr]
    simp [exec, execClauseHeader, hu, ho, hw, hn]
  · have hm : l ∈ u.lanes := by simpa using hm
    have hlane (d : Cord) (hs : d.strands = c.strands) : (d.modLanes u.lanes (fun t => { t with pc := u.pc + 4, clause := some h })).lane l
        = { c.lane l with pc := u.pc + 4, clause := some h } := by
      rw [Cord.lane_modLanes, hs, if_pos ⟨hm, hl⟩, Cord.lane, hs]
      rfl
    rw [enterClause]
    split
    · exact ⟨congrArg Strand.pc (hlane _ rfl), congrArg Strand.clause (hlane _ rfl), rfl⟩
    · exact ⟨congrArg Strand.pc (hlane _ rfl), congrArg Strand.clause (hlane _ rfl), rfl⟩

end Sys2Proof.Machine
end

/-! ## Transfers -/

section
open Sys2Proof Sys2Proof.Machine

namespace Sys2Proof.Machine

/-! ### The checks of R109 -/

/-- No target is off a word boundary. -/
theorem odd_eq_nil {ts : List (Nat × DWord)} :
    ts.filter (fun t => t.2.toNat % 4 != 0) = [] ↔ ts.all (fun t => t.2.toNat % 4 == 0) = true := by
  simp

/-- A target off a word boundary traps first. -/
theorem checkTargets_odd {u : Issue} {s : State} {ts : List (Nat × DWord)} {k : Act}
    (h : ts.filter (fun t => t.2.toNat % 4 != 0) ≠ []) :
    checkTargets u s ts k = .trap .illegalTarget ((ts.filter (fun t => t.2.toNat % 4 != 0)).map Prod.fst) 0 0 :=
  if_pos (by simpa using h)

/-- Then targets without a translation are fetched. -/
theorem checkTargets_far {u : Issue} {s : State} {ts : List (Nat × DWord)} {k : Act}
    (h : ts.filter (fun t => t.2.toNat % 4 != 0) = []) (hf : untranslated s u ts ≠ []) :
    checkTargets u s ts k = .ask (askFetches u (untranslated s u ts)) := by
  simp only [checkTargets, h, List.isEmpty_nil, Bool.not_true, Bool.false_eq_true, if_false]
  exact if_pos (by simpa using hf)

/-- Then a target that is no clause header traps. -/
theorem checkTargets_bad {u : Issue} {s : State} {ts : List (Nat × DWord)} {k : Act}
    (h : ts.filter (fun t => t.2.toNat % 4 != 0) = []) (hf : untranslated s u ts = []) (hb : notHeaders s u ts ≠ []) :
    checkTargets u s ts k = .trap .illegalTarget ((notHeaders s u ts).map Prod.fst) 0 0 := by
  simp only [checkTargets, h, hf, List.isEmpty_nil, Bool.not_true, Bool.false_eq_true, if_false]
  exact if_pos (by simpa using hb)

/-- Targets that pass are gone to, but where R62 has them wait. -/
theorem checkTargets_pass {u : Issue} {s : State} {ts : List (Nat × DWord)} {k : Act}
    (h : ts.filter (fun t => t.2.toNat % 4 != 0) = []) (hf : untranslated s u ts = []) (hb : notHeaders s u ts = []) :
    checkTargets u s ts k = if nativeWait s u ts then .wait else k := by
  simp only [checkTargets, h, hf, hb, List.isEmpty_nil, Bool.not_true, Bool.false_eq_true, if_false]

/-! ### The five transfers -/

/-- The effect of a transfer whose targets pass. -/
def transferGo (f : LForm) (target : Issue → Nat → DWord) (link ret : Bool) (u : Issue) : Act :=
  .go (if link then [f.d.toNat, f.d.toNat + 1] else []) [] (fun t =>
    modCord t u.b u.c (fun c =>
      let back := (u.pc + BitVec.ofNat 64 u.len).toNat
      let c := if link then
          (writeRegs ((participants u f).flatMap (fun l => putReg false true f.d.toNat l back)) c).modLanes (participants u f)
            (linkLane t u)
        else c
      let c := if ret then c.modLanes (participants u f) dropRef else c
      goTo (Claims.targetsOf f u (target u)) c))

/-- A transfer with participants is the checks, then its effect. -/
theorem transfer_checks {f : LForm} {target : Issue → Nat → DWord} {link ret : Bool} {u : Issue} {s : State}
    (h : participants u f ≠ []) : transfer f target link ret u s
      = checkTargets u s (Claims.targetsOf f u (target u)) (transferGo f target link ret u) :=
  if_neg (by simpa using h)

/-- A transfer without participants only moves on. -/
theorem transfer_none {f : LForm} {target : Issue → Nat → DWord} {link ret : Bool} {u : Issue} {s : State}
    (h : participants u f = []) : transfer f target link ret u s = .go [] [] (fun t => t) :=
  if_pos (by simpa using h)

/-- A row of the table of transfers: how it issues, and what its go does beside moving the strands. -/
structure TransferRow (f : LForm) (u : Issue) (i : Instr) (target : Nat → DWord) (body : Issue → State → Act) (go : Act) : Prop where
  issues : ∀ s, exec i s = issue i body s
  go_eq : go = .go (Claims.linkRegs i f) [] (fun t => modCord t u.b u.c (fun c =>
    goTo (Claims.targetsOf f u target) (Claims.linked i f t u c)))
  none : ∀ s, participants u f = [] → body u s = .go [] [] (fun t => t)
  checks : ∀ s, participants u f ≠ [] → body u s = checkTargets u s (Claims.targetsOf f u target) go

/-- Each transfer has such a row. -/
theorem transferTable_rows (f : LForm) (u : Issue) : ∀ e ∈ Claims.transferTable f u, ∃ body go, TransferRow f u e.1 e.2 body go := by
  simp only [Claims.transferTable, List.forall_mem_cons]
  refine ⟨⟨_, _, fun s => (show execBra f s = _ from rfl), ?_, fun _ => transfer_none, fun _ => transfer_checks⟩,
    ⟨_, _, fun s => (show execBrx f s = _ from rfl), ?_, fun _ => transfer_none, fun _ => transfer_checks⟩,
    ⟨_, _, fun s => (show execCall f s = _ from rfl), ?_, fun _ => transfer_none, fun _ => transfer_checks⟩,
    ⟨_, _, fun s => (show execCallx f s = _ from rfl), ?_, fun _ => transfer_none, fun _ => transfer_checks⟩,
    ⟨_, _, fun s => (show execRet f s = _ from rfl), ?_, fun _ => transfer_none, fun _ => transfer_checks⟩, by simp⟩ <;> rfl

/-- Settles O25: each transfer is the checks of R109 in their order, then its effect. -/
theorem transfers : Obligations.Transfers := by
  unfold Obligations.Transfers
  refine ⟨fun f s u e he => ?_, fun f s u e he h hp => ?_⟩ <;> obtain ⟨body, go, r⟩ := transferTable_rows f u e he
  · refine ⟨fun h hp hg => ?_, fun h hp => exec_go_of h (r.issues s) (r.none s hp), fun h ho hf hb hn => ?_⟩
    · simp only [Claims.targetsGood, Bool.and_eq_true, List.isEmpty_iff, Bool.not_eq_true'] at hg
      obtain ⟨⟨⟨ho, hf⟩, hb⟩, hn⟩ := hg
      have hgo := (r.checks s hp).trans (checkTargets_pass (odd_eq_nil.mpr ho) hf hb)
      rw [hn, if_neg (by simp), r.go_eq] at hgo
      exact exec_go_of h (r.issues s) hgo
    · have hp : participants u f ≠ [] := by
        intro hp
        simp [nativeWait, Claims.targetsOf, hp] at hn
      exact exec_wait_of h (r.issues s) (by rw [r.checks s hp, checkTargets_pass (odd_eq_nil.mpr ho) hf hb, hn, if_pos rfl])
  · exact ⟨fun ho => exec_trap_of h (r.issues s) ((r.checks s hp).trans (checkTargets_odd ho)),
      fun ho hf => exec_ask_of h (r.issues s) ((r.checks s hp).trans (checkTargets_far ho hf)),
      fun ho hf hb => exec_trap_of h (r.issues s) ((r.checks s hp).trans (checkTargets_bad ho hf hb))⟩

end Sys2Proof.Machine
end

/-! ## Barriers as their strands arrive, LAUNCH and WAITCH, special registers -/

section
open Sys2Proof Sys2Proof.Machine

namespace Sys2Proof.Machine

/-- As `completes_of_body`, the body looked at where the instruction reaches its meaning. -/
theorem completes_of_reaches {e : Claims.Case} {s : State} {u : Issue} {body : Issue → State → Act}
    (hx : exec e.i s = issue e.i body s)
    (hb : u.resume = none → e.holds = true → body u s = .go e.regs e.dws e.eff) : e.Completes s u :=
  fun hi => completes_of_body hx (hb hi.2.2.1) hi

/-! ### Barriers -/

/-- Settles O28: by the body of each barrier where its strands do not stand parked at it. -/
theorem barriersArrive : Obligations.BarriersArrive := by
  unfold Obligations.BarriersArrive
  refine fun f s u => ⟨?_, fun g hg hn h => exec_trap_of h (show execGbar f s = _ from rfl) ?_⟩
  · simp only [Claims.barrierCases, List.forall_mem_cons]
    refine ⟨?bar, ?barb, ?gbar, by simp⟩
    case bar =>
      refine completes_of_reaches (show execBar f s = _ from rfl) (fun hr _ => ?_)
      simp only [hr]
    case barb =>
      refine completes_of_reaches (show execBarb f s = _ from rfl) (fun hr _ => ?_)
      simp only [hr]
      rfl
    case gbar =>
      refine completes_of_reaches (show execGbar f s = _ from rfl) (fun hr hg => ?_)
      cases hgr : gridOf s u.blk.grid with
      | none => simp [hgr] at hg
      | some g =>
        have hb : g.isGbar = true := by simpa [hgr] using hg
        simp only [hr, hgr, hb]
        rfl
  · simp only [h.2.2.1, hg, hn]
    rfl

/-! ### LAUNCH -/

/-- The body of LAUNCH in a block whose grid is there, where no strand stands parked at it. -/
theorem launch_trap {f : LForm} {s : State} {u : Issue} {g : Grid} {k : Cause} (hg : gridOf s u.blk.grid = some g)
    (h : Claims.Reaches (.launch f) s u)
    (hk : (participants u f ≠ [] ∧ ¬(participants u f = [0] ∧ u.c = 0) ∧ k = .launchLeader)
      ∨ ((participants u f = [0] ∧ u.c = 0) ∧ (g.depth = 10 ∧ k = .launchDepth ∨ g.depth ≠ 10 ∧
        (regVal u.cord 0 true true f.a.toNat % 128 ≠ 0 ∧ k = .launchRecord
        ∨ regVal u.cord 0 true true f.a.toNat % 128 = 0 ∧ 64 ≤ u.blk.handles.length ∧ k = .launchHandles)))) :
    exec (.launch f) s = .next (trapAt s u k (participants u f) 0 0) := by
  refine exec_trap_of h (show execLaunch f s = _ from rfl) ?_
  simp only [h.2.2.1, hg]
  obtain ⟨hp, hn, rfl⟩ | ⟨⟨hp, hc⟩, hk⟩ := hk
  · have hl : leaderOnly u (participants u f) = false := by
      rw [← Bool.not_eq_true]
      simpa [leaderOnly] using hn
    simp [hp, hl]
  · have hl : leaderOnly u [0] = true := by simp [leaderOnly, hc]
    obtain ⟨hd, rfl⟩ | ⟨hd, ⟨ha, rfl⟩ | ⟨ha, hh, rfl⟩⟩ := hk
    · simp [hp, hl, hd]
    · simp [hp, hl, hd, ha]
    · simp [hp, hl, hd, ha, hh]

/-- LAUNCH in the block leader completes. -/
theorem launchCase_completes (f : LForm) (s : State) (u : Issue) : (Claims.launchCase f s u).Completes s u := by
  refine completes_of_reaches (show execLaunch f s = _ from rfl) (fun hr h => ?_)
  simp only [Claims.launchCase, Bool.and_eq_true, beq_iff_eq, Option.any_eq_true, bne_iff_ne, decide_eq_true_eq] at h
  obtain ⟨⟨⟨⟨hp, hc⟩, g, hg, hd⟩, ha⟩, hh⟩ := h
  have hl : leaderOnly u [0] = true := by simp [leaderOnly, hc]
  have hh : ¬64 ≤ u.blk.handles.length := by omega
  simp only [hr, hg, hp, hl, hd, ha, hh]
  rfl

/-- The queue of a waiting leader takes its record once it has room. -/
theorem exec_launchQueueRoom {s : State} {b : Nat} {x : Cord} {g : Grid} {o : Op} {k : LForm} {a : Acc} {rest : List Acc}
    (hx : cordOf s b 0 = some x) (hg : gridOfBlock s b = some g) (ho : launchOp x = some (o, k)) (ha : o.accs = a :: rest)
    (hp : (x.lane 0).park = some .launchRoom) (hq : queueRoom s g.part (recordQueue (leNat a.data)) = true) :
    exec (.launchQueueRoom b) s = .next (endLaunch (launchRecord s b 0 k g (leNat a.data)) b 0 o) := by
  change execLaunchQueueRoom b s = _
  simp [execLaunchQueueRoom, hx, hg, ho, ha, hp, hq]


/-- WAITCH in the block leader, of the handle that it names. -/
def waitchAct (f : LForm) (s : State) (u : Issue) : Act :=
  match waitchAnswer s u.blk (Claims.waitHandle f u) with
  | some r => if answerDue u (cutOf s u.blk.core) [0] r then .go [] [] (fun t => takeAnswer t u f [0] r) else .wait
  | none => .go [] [] (fun t => modCord t u.b u.c (parkLanes u (flagOf u f.setf f.fsel) u.cord.retired.toNat [0]
      (.waitch (Claims.waitHandle f u) (cutOf s u.blk.core))))

/-- WAITCH in the block leader has that body. -/
theorem waitch_body {f : LForm} {s : State} {u : Issue} (hr : u.resume = none) (hp : participants u f = [0]) (hc : u.c = 0) :
    ∃ body, (∀ s, exec (.waitch f) s = issue (.waitch f) body s) ∧ body u s = waitchAct f s u := by
  have hl : leaderOnly u [0] = true := by simp [leaderOnly, hc]
  refine ⟨_, fun s => (show execWaitch f s = _ from rfl), ?_⟩
  cases hlit : f.lit <;> simp only [waitchAct, Claims.waitHandle, hlit, hr, hp, hl] <;> rfl

/-- WAITCH in the block leader completes. -/
theorem waitchCases_complete (f : LForm) (s : State) (u : Issue) : ∀ e ∈ Claims.waitchCases f s u, e.Completes s u := by
  unfold Claims.waitchCases
  cases ha : waitchAnswer s u.blk (Claims.waitHandle f u) with
  | some r =>
    simp only [List.forall_mem_singleton]
    intro hi h
    simp only [Bool.and_eq_true, beq_iff_eq] at h
    obtain ⟨⟨hp, hc⟩, hd⟩ := h
    obtain ⟨body, hx, hb⟩ := waitch_body (f := f) (s := s) hi.2.2.1 hp hc
    exact exec_go_of hi (hx s) (by rw [hb, waitchAct, ha]; exact if_pos hd)
  | none =>
    simp only [List.forall_mem_singleton]
    intro hi h
    simp only [Bool.and_eq_true, beq_iff_eq] at h
    obtain ⟨hp, hc⟩ := h
    obtain ⟨body, hx, hb⟩ := waitch_body (f := f) (s := s) hi.2.2.1 hp hc
    exact exec_go_of hi (hx s) (by rw [hb, waitchAct, ha]; rfl)

/-- Settles O30: by the bodies of the three, each check before the next. -/
theorem launchAndWaitch : Obligations.LaunchAndWaitch := by
  unfold Obligations.LaunchAndWaitch
  refine ⟨fun f s u => ⟨launchCase_completes f s u, fun g hg h => ⟨fun hp hn => ?lead, fun hp hc hd => ?depth,
    fun hp hc hd ha => ?record, fun hp hc hd ha hh => ?handles⟩, fun b x g o k a rest hx hg ho ha hp hq =>
      exec_launchQueueRoom hx hg ho ha hp hq⟩, fun f s u => ⟨waitchCases_complete f s u, fun r h hp hc ha hd => ?waits⟩⟩
  case lead => exact launch_trap hg h (.inl ⟨hp, hn, rfl⟩)
  case depth => exact hp ▸ launch_trap hg h (.inr ⟨⟨hp, hc⟩, .inl ⟨hd, rfl⟩⟩)
  case record => exact hp ▸ launch_trap hg h (.inr ⟨⟨hp, hc⟩, .inr ⟨hd, .inl ⟨ha, rfl⟩⟩⟩)
  case handles => exact hp ▸ launch_trap hg h (.inr ⟨⟨hp, hc⟩, .inr ⟨hd, .inr ⟨ha, hh, rfl⟩⟩⟩)
  case waits =>
    obtain ⟨body, hx, hb⟩ := waitch_body (f := f) (s := s) h.2.2.1 hp hc
    exact exec_wait_of h (hx s) (by rw [hb, waitchAct, ha]; exact if_neg (by simp [hd]))

/-! ### TQDROP in a region -/

/-- A region at the instruction that the machine fetches. -/
def dropRegion : Region :=
  { entry := 0x10000, ret := 0, count := 0, lastPc := 0x10000, handler := false, lanes := [], s := [], k := [], fp := 0 }

/-- A cord with that region open and one record in its queue. -/
def dropState : State :=
  modCord (State.reset.withFetchWord 64 0) 0 0 (fun c => { c with
    queue := [{ kind := 0, cause := 0x30, ret := 0, pc := 0x10000, smask := 1 }]
    region := some dropRegion })

/-- TQDROP into scalar 12. -/
def dropForm : LForm :=
  { d := 12, a := 0, b := 0, c := 0, pred := 0, pneg := false, ty := 0, mod := 0, fsel := false, setf := false,
    asc := false, bsc := false, mod2 := 0, lit := none }

/-- How many records the open region of the cord has noted that were taken off its queue. -/
def notedDrops : Host.Outcome State Fault Refusal → Option Nat
  | .next t => ((cordOf t 0 0).bind Cord.region).map (fun g => g.popped.length)
  | _ => none

/-- What TQDROP leaves there, by the machine and by the claim. -/
theorem dropState_differs : ∃ u, Claims.Issues (.tqdrop dropForm) dropState u [] []
    ∧ ∃ e ∈ Claims.systemCases dropForm dropState u, e.i = .tqdrop dropForm ∧ e.regs = [] ∧ e.dws = [] ∧ e.holds = true
      ∧ notedDrops (exec e.i dropState) ≠ notedDrops (.next (e.eff (Claims.moved dropState u [] []))) := by
  refine ⟨(issueOf dropState 8).get (by decide +kernel), ⟨(Option.some_get _).symm, by decide +kernel, by decide +kernel, by decide +kernel,
    by decide +kernel⟩, _, List.mem_cons_of_mem _ List.mem_cons_self, rfl, rfl, rfl, rfl, by decide +kernel⟩

/-- Refutes O31: TQDROP in an open region, which lets it issue, notes in it the record that it takes off the queue (R345),
where the claim leaves the region as it was. -/
theorem not_specialRegisters : ¬ Obligations.SpecialRegisters := by
  unfold Obligations.SpecialRegisters
  rintro ⟨-, h⟩
  obtain ⟨u, hi, e, he, hei, hregs, hdws, hh, hne⟩ := dropState_differs
  refine hne (congrArg notedDrops ?_)
  have := h dropForm dropState u e he (by rw [hei, hregs, hdws]; exact hi) hh
  rwa [hregs, hdws] at this

end Sys2Proof.Machine
end

/-! ## Strands that wait, and how they pass -/

section
open Sys2Proof Sys2Proof.Machine

namespace Sys2Proof.Machine

/-! ### Looking again -/

/-- Strands that look again pass where their instruction lets them, and else stay. -/
theorem exec_looks_again {i : Instr} {body : Issue → State → Act} {s : State} {u : Issue} {p : Park} {c : Bool}
    {regs dws : List Nat} {k : State → State} (h : Claims.LooksAgain i s u p) (hx : exec i s = issue i body s)
    (hb : body u s = if c then .go regs dws k else .wait) : exec i s = .next (if c then k s else s) := by
  obtain ⟨hu, hd, hr⟩ := h
  have hr : u.resume.isSome = true := by simp [hr]
  rw [hx]
  cases c with
  | true => exact issue_pass (k := k) hu hd hr hb
  | false => exact issue_stay hu hd hr hb

/-- What passes the decode checks of a long form has fields that its entry admits. -/
theorem fieldsOk_of_decodeTrap {x : DecodeCtx} {i : Instr} {op : Nat} {f : LForm} (h : i.shape = .long op f)
    (hd : decodeTrap x i = none) : (admits x.W i).fieldsOk = true := by
  rw [decodeTrap_long h] at hd
  by_contra hf
  rw [Bool.not_eq_true] at hf
  split at hd
  · cases hd
  · split at hd
    · cases hd
    · rw [if_pos (.inl hf)] at hd
      cases hd

/-- GBAR has no literal. -/
theorem gbar_length {x : DecodeCtx} {f : LForm} (h : decodeTrap x (.gbar f) = none) : (Instr.gbar f).length = 8 := by
  have hf := fieldsOk_of_decodeTrap (i := .gbar f) rfl h
  simp only [admits, plain, Bool.and_eq_true, Option.isNone_iff_eq_none] at hf
  simp only [Instr.length, encode, Instr.shape, hf.1]
  rfl

/-- GBAR looks again at the release of its grid. -/
theorem gbar_looks_again {f : LForm} {s : State} {u : Issue} {g : Grid} {cut : Nat} (hg : gridOf s u.blk.grid = some g)
    (h : Claims.LooksAgain (.gbar f) s u (.gbar cut true)) :
    exec (.gbar f) s = .next (if u.lanes.all (fun l => (u.cord.lane l).gbars ≤ g.barrier) then
        (if releaseDone s u.b u.blk.core 5 cut then
          passBoundary (modCord s u.b u.c (passLanes 8 u.lanes)) u.b u.c u.blk.core 5 true u.lanes else s)
      else if gbarDone s u.b u.blk.grid g then releaseGbar s u.blk.grid else s) := by
  have hlen : u.len = 8 := (issueOf_len h.1).trans (gbar_length h.2.1)
  cases hl : u.lanes.all (fun l => (u.cord.lane l).gbars ≤ g.barrier) with
  | true =>
    rw [if_pos rfl]
    exact exec_looks_again h (show execGbar f s = _ from rfl)
      (by simp only [h.2.2, hg, hl, if_true, hlen]; rfl)
  | false =>
    rw [if_neg (by simp)]
    exact exec_looks_again h (show execGbar f s = _ from rfl)
      (by simp only [h.2.2, hg, hl, Bool.false_eq_true, if_false]; rfl)

/-- WAITCH looks again at its answer. -/
theorem waitch_looks_again {f : LForm} {s : State} {u : Issue} {n cut : Nat}
    (h : Claims.LooksAgain (.waitch f) s u (.waitch n cut)) :
    exec (.waitch f) s = .next (match waitchAnswer s u.blk n with
      | some r => if answerDue u cut u.lanes r then
          takeAnswer (modCord s u.b u.c (passLanes u.len u.lanes)) u f u.lanes r else s
      | none => s) := by
  cases ha : waitchAnswer s u.blk n with
  | some r =>
    dsimp only
    exact exec_looks_again h (show execWaitch f s = _ from rfl)
      (by simp only [h.2.2, ha]; rfl)
  | none =>
    exact exec_looks_again (c := false) (regs := []) (dws := []) (k := id) h (show execWaitch f s = _ from rfl)
      (by simp only [h.2.2, ha, Bool.false_eq_true, if_false])

/-- PHASE with a release begins it once what comes before is performed. -/
theorem phase_looks_again {f : LForm} {s : State} {u : Issue} {cut : Nat} (hr : f.mod2 ≠ 2)
    (h : Claims.LooksAgain (.phase f) s u (.hold cut false)) :
    exec (.phase f) s = .next (if releaseReady s u.b u.c u.blk.core cut u.lanes then
      beginRelease s u f.mod.toNat (fun n => .hold n true) else s) := by
  have hr : phaseRel f = true := by simpa [phaseRel] using hr
  exact exec_looks_again h (show execPhase f s = _ from rfl)
    (by simp only [h.2.2, hr, if_true]; rfl)

/-- PHASE without a release passes once what its strands issued before is performed. -/
theorem phaseAcq_looks_again {f : LForm} {s : State} {u : Issue} {cut : Nat} (hr : f.mod2 = 2)
    (h : Claims.LooksAgain (.phase f) s u (.hold cut false)) :
    exec (.phase f) s = .next (if strandsBefore s u.b u.c cut u.lanes then passPhase s u f else s) := by
  have hr : phaseRel f = false := by simpa [phaseRel] using hr
  exact exec_looks_again h (show execPhase f s = _ from rfl)
    (by simp only [h.2.2, hr, Bool.false_eq_true, if_false]; rfl)

/-- FENCE.P passes once what it has sent is at its homes. -/
theorem fenceP_looks_again {f : LForm} {s : State} {u : Issue} {cut : Nat}
    (h : Claims.LooksAgain (.fenceP f) s u (.hold cut true)) :
    exec (.fenceP f) s = .next (if fenceDone s u.blk.core cut then
      (if f.mod = 0 ∨ f.mod2 = 0 then dropClean (modCord s u.b u.c (passLanes u.len u.lanes)) u.blk.core
      else modCore (modCord s u.b u.c (passLanes u.len u.lanes)) u.blk.core (fun k => { k with fenced := true })) else s) := by
  have hp (t : State) : passFence t u.blk.core (f.mod == 0 || f.mod2 == 0) = if f.mod = 0 ∨ f.mod2 = 0 then dropClean t u.blk.core
      else modCore t u.blk.core (fun k => { k with fenced := true }) := by simp [passFence]
  rw [← hp]
  exact exec_looks_again h (show execFenceP f s = _ from rfl)
    (by simp only [h.2.2]; rfl)

/-! ### Passing -/

/-- What passing leaves of the cord. -/
theorem passLanes_frame (len : Nat) (lanes : List Nat) (c : Cord) :
    (passLanes len lanes c).strands.length = c.strands.length ∧ (passLanes len lanes c).s = c.s
      ∧ (passLanes len lanes c).k = c.k ∧ (passLanes len lanes c).queue = c.queue
      ∧ (passLanes len lanes c).retired = c.retired ∧ (passLanes len lanes c).handler = c.handler
      ∧ (passLanes len lanes c).region = c.region := by
  obtain ⟨ops, f, h⟩ := passTags_eq (c.modLanes lanes (fun t => { t with park := none, pc := t.pc + BitVec.ofNat 64 len })) lanes
  rw [passLanes, h]
  exact ⟨Cord.modLanes_strands_length _ _ _, rfl, rfl, rfl, rfl, rfl, rfl⟩

/-- A strand after some have taken a boundary. -/
theorem boundary_lane (ls : List Nat) (c : Cord) (l : Nat) :
    (boundary ls c).lane l = if l ∈ ls ∧ l < c.strands.length then { c.lane l with epoch := (c.lane l).epoch + 1 }
      else c.lane l := Cord.lane_modLanes c ls _ l

/-- A strand after some have departed from a barrier. -/
theorem depart_lane (n : Nat) (ls : List Nat) {c : Cord} {l : Nat} (hl : l < c.strands.length) :
    (passLanes n ls (boundary ls c)).lane l = if l ∈ ls then
      { c.lane l with park := none, pc := (c.lane l).pc + BitVec.ofNat 64 n, epoch := (c.lane l).epoch + 1 } else c.lane l := by
  have hb : (boundary ls c).strands.length = c.strands.length := Cord.modLanes_strands_length _ _ _
  rw [passLanes_lane, hb, boundary_lane]
  by_cases h : l ∈ ls <;> simp [h, hl]

/-- What passing is, and what it leaves. -/
theorem passing_is (len : Nat) (lanes : List Nat) (c : Cord) (l : Nat) (hl : l < c.strands.length) :
    ((passLanes len lanes c).lane l = if l ∈ lanes then
        { c.lane l with park := none, pc := (c.lane l).pc + BitVec.ofNat 64 len } else c.lane l)
    ∧ ((boundary lanes c).lane l = if l ∈ lanes then { c.lane l with epoch := (c.lane l).epoch + 1 } else c.lane l)
    ∧ ∀ d ∈ [passLanes len lanes c, boundary lanes c], d.strands.length = c.strands.length ∧ d.s = c.s ∧ d.k = c.k
        ∧ d.queue = c.queue ∧ d.retired = c.retired ∧ d.handler = c.handler ∧ d.region = c.region := by
  refine ⟨?_, ?_, ?_⟩
  · simp only [passLanes_lane, hl, and_true]
  · simp only [boundary_lane, hl, and_true]
  · simp only [List.forall_mem_cons]
    exact ⟨passLanes_frame len lanes c, ⟨Cord.modLanes_strands_length _ _ _, rfl, rfl, rfl, rfl, rfl, rfl⟩, by simp⟩

/-! ### The block barrier -/

/-- The parks of the live strands of a block. -/
def livePark (x : Block) : List (Option Park) := x.cords.flatMap (fun c => c.liveLanes.map (fun l => (c.lane l).park))

/-- The strands of a cord that are parked at a barrier depart from it. -/
def departBar (n : Nat) (c : Cord) : Cord := passLanes 8 (c.parkedAt (.bar n)) (boundary (c.parkedAt (.bar n)) c)

/-- What the release of a block barrier does. -/
def releaseBar (s : State) (b : Nat) (x : Block) (n : Nat) : State :=
  coreBoundary (modCore (modBlock s b (fun y => { y with epoch := y.epoch + 1, cords := y.cords.map (departBar n) })) x.core
    (fun k => { k with phase := k.phase + 1 })) x.core

/-- A list whose one value is a. -/
theorem eraseDups_eq_singleton {α : Type} [BEq α] [LawfulBEq α] {l : List α} {a : α} : l.eraseDups = [a] ↔ l ≠ [] ∧ ∀ x ∈ l, x = a := by
  refine ⟨fun h => ⟨?_, fun x hx => ?_⟩, fun ⟨hn, h⟩ => ?_⟩
  · rintro rfl
    simp at h
  · simpa [h] using List.mem_eraseDups.mpr hx
  · cases l with
    | nil => exact absurd rfl hn
    | cons b t =>
      obtain ⟨rfl, ht⟩ := List.forall_mem_cons.mp h
      have hf : t.filter (fun x => !x == b) = [] := by simpa using ht
      rw [List.eraseDups_cons, hf, List.eraseDups_nil]

/-- The release of a block barrier, where every live strand is parked at it. -/
theorem checkBar_release {s : State} {b n : Nat} {x : Block} (hx : s.blocks[b]? = some x)
    (hl : livePark x ≠ []) (h : ∀ p ∈ livePark x, p = some (.bar n)) : checkBar s b = releaseBar s b x n := by
  have he : (x.cords.flatMap (fun c => c.liveLanes.map (fun l => (c.lane l).park))).eraseDups = [some (.bar n)] :=
    eraseDups_eq_singleton.mpr ⟨hl, h⟩
  simp only [checkBar, hx, he]
  rfl

/-- A block barrier that some live strand has not arrived at. -/
theorem checkBar_stays {s : State} {b : Nat} {x : Block} (hx : s.blocks[b]? = some x)
    (h : ∀ n, ∃ p ∈ livePark x, p ≠ some (.bar n)) : checkBar s b = s := by
  simp only [checkBar, hx]
  split
  case _ n he =>
    obtain ⟨p, hp, hn⟩ := h n
    exact absurd ((eraseDups_eq_singleton.mp he).2 p hp) hn
  case _ => rfl

/-- The core of a released block counts a phase. -/
theorem releaseBar_phase (s : State) (b : Nat) (x : Block) (n : Nat) :
    (coreOf (releaseBar s b x n) x.core).phase = (coreOf s x.core).phase + 1 := by
  rw [releaseBar, coreBoundary, coreOf_modCore_same, coreOf_modCore_same]
  split <;> rfl

/-- A released block. -/
theorem releaseBar_block {s : State} {b : Nat} {x : Block} (hx : s.blocks[b]? = some x) (n : Nat) :
    (releaseBar s b x n).blocks[b]? = some { x with epoch := x.epoch + 1, cords := x.cords.map (departBar n) } := by
  simp [releaseBar, hx]

/-- A block barrier releases its strands once all of them have arrived, and before that changes nothing. -/
theorem block_barrier {s : State} {b : Nat} {x : Block} (hx : s.blocks[b]? = some x) :
    let live : List (Nat × Nat) := x.cords.zipIdx.flatMap (fun e => e.1.liveLanes.map (fun l => (e.2, l)))
    let at_ (n : Nat) (e : Nat × Nat) : Prop := (x.cords[e.1]?.map (fun c => (c.lane e.2).park)) = some (some (.bar n))
    (∀ n, live ≠ [] → (∀ e ∈ live, at_ n e) →
      (coreOf (checkBar s b) x.core).phase = (coreOf s x.core).phase + 1
      ∧ ∃ y, (checkBar s b).blocks[b]? = some y ∧ y.epoch = x.epoch + 1 ∧ y.cords.length = x.cords.length
        ∧ ∀ (i l : Nat) (c : Cord), x.cords[i]? = some c → l < c.strands.length → ∃ d, y.cords[i]? = some d
          ∧ d.lane l = if (c.lane l).live = true then
              { c.lane l with park := none, pc := (c.lane l).pc + 8, epoch := (c.lane l).epoch + 1 } else c.lane l)
    ∧ ((∀ n, ∃ e ∈ live, ¬ at_ n e) → checkBar s b = s) := by
  intro live at_
  have hlive : ∀ e, e ∈ live ↔ ∃ c, x.cords[e.1]? = some c ∧ e.2 ∈ c.liveLanes := by
    rintro ⟨i, l⟩
    simp [live, List.mem_zipIdx_iff_getElem?]
  have hmem : ∀ p, p ∈ livePark x ↔ ∃ e ∈ live, x.cords[e.1]?.map (fun c => (c.lane e.2).park) = some p := by
    intro p
    simp only [livePark, List.mem_flatMap, List.mem_map]
    constructor
    · rintro ⟨c, hc, l, hl, rfl⟩
      obtain ⟨i, hi⟩ := List.mem_iff_getElem?.mp hc
      exact ⟨(i, l), (hlive _).mpr ⟨c, hi, hl⟩, by simp [hi]⟩
    · rintro ⟨e, he, hp⟩
      obtain ⟨c, hc, hl⟩ := (hlive e).mp he
      exact ⟨c, List.mem_of_getElem? hc, e.2, hl, by simpa [hc] using hp⟩
  refine ⟨fun n hne hat => ?_, fun h => checkBar_stays hx (fun n => ?_)⟩
  · have hbar : ∀ p ∈ livePark x, p = some (.bar n) := by
      intro p hp
      obtain ⟨e, he, hpe⟩ := (hmem p).mp hp
      exact Option.some.inj (hpe.symm.trans (hat e he))
    have hne : livePark x ≠ [] := by
      obtain ⟨e, he⟩ := List.exists_mem_of_ne_nil _ hne
      exact List.ne_nil_of_mem ((hmem _).mpr ⟨e, he, hat e he⟩)
    rw [checkBar_release hx hne hbar]
    refine ⟨releaseBar_phase s b x n, _, releaseBar_block hx n, rfl, by simp, fun i l c hc hl => ⟨departBar n c, by simp [hc], ?_⟩⟩
    rw [departBar, depart_lane 8 _ hl]
    congr 1
    rw [Cord.mem_parkedAt, Cord.mem_liveLanes, eq_iff_iff]
    refine ⟨fun h => h.1.2, fun h => ⟨⟨hl, h⟩, ?_⟩⟩
    have := hat (i, l) ((hlive _).mpr ⟨c, hc, Cord.mem_liveLanes.mpr ⟨hl, h⟩⟩)
    simpa [at_, hc] using this
  · obtain ⟨e, he, hn⟩ := h n
    obtain ⟨c, hc, hl⟩ := (hlive e).mp he
    exact ⟨_, (hmem _).mpr ⟨e, he, by rw [hc]; rfl⟩, fun hp => hn (by simp only [at_, hc]; exact congrArg some hp)⟩

/-! ### Departures from a wide barrier -/

/-- The lanes of a cord whose parks a barrier names. -/
def departing (at_ : Park → Bool) (c : Cord) : List Nat :=
  c.liveLanes.filter (fun l => (c.lane l).live && ((c.lane l).park.map at_).getD false)

/-- The block whose strands depart. -/
def departBlock (at_ : Park → Bool) (x : Block) : Block :=
  { x with cords := x.cords.map (fun c => passLanes 8 (departing at_ c) (boundary (departing at_ c) c)) }

/-- A core one of whose strands departs. -/
def departCore (s : State) (core : Nat) : State := coreBoundary (countPhase (dropClean s core) core) core

/-- The cores one of whose strands departs. -/
def departCores (s : State) (bs : List Nat) (at_ : Park → Bool) : List Nat :=
  (bs.filterMap (fun i => (s.blocks[i]?).bind (fun x =>
    if x.cords.any (fun c => c.strands.any (fun t => t.live && (t.park.map at_).getD false)) then some x.core else none))).eraseDups

/-- The departures are those of the blocks, then those of the cores. -/
theorem departAll_eq (s : State) (bs : List Nat) (at_ : Park → Bool) : departAll s bs at_
    = (departCores s bs at_).foldl departCore (bs.foldl (fun s i => modBlock s i (departBlock at_)) s) := rfl

/-- What cores depart leaves the blocks and grids. -/
theorem foldl_departCore_frame (ks : List Nat) (s : State) :
    (ks.foldl departCore s).blocks = s.blocks ∧ (ks.foldl departCore s).grids = s.grids := by
  induction ks generalizing s with
  | nil => exact ⟨rfl, rfl⟩
  | cons k ks ih => exact ih (departCore s k)

/-- Blocks changed one after another, each once. -/
theorem foldl_modBlock_blocks {f : Block → Block} {bs : List Nat} (hn : bs.Nodup) (s : State) (i : Nat) :
    (bs.foldl (fun s i => modBlock s i f) s).blocks[i]? = if i ∈ bs then s.blocks[i]?.map f else s.blocks[i]? := by
  induction bs generalizing s with
  | nil => simp
  | cons b bs ih =>
    obtain ⟨hb, hn⟩ := List.nodup_cons.mp hn
    rw [List.foldl_cons, ih hn, modBlock_blocks, List.getElem?_modify]
    by_cases hi : i = b
    · subst hi
      simp [hb]
    · simp [hi, Ne.symm hi]

/-- Blocks changed leave the cores and grids. -/
theorem foldl_modBlock_frame (f : Block → Block) (bs : List Nat) (s : State) :
    (bs.foldl (fun s i => modBlock s i f) s).cores = s.cores ∧ (bs.foldl (fun s i => modBlock s i f) s).grids = s.grids := by
  induction bs generalizing s with
  | nil => exact ⟨rfl, rfl⟩
  | cons b bs ih => exact ih (modBlock s b f)

/-- Another core is not changed. -/
theorem coreOf_modCore_other (s : State) {core k : Nat} (f : CoreSt → CoreSt) (h : k ≠ core) :
    coreOf (modCore s core f) k = coreOf s k := by
  simp [coreOf, tabGet_tabPut_other _ _ h]

/-- A core that departs keeps no clean byte and counts a phase. -/
theorem departCore_same (s : State) (core : Nat) : (coreOf (departCore s core) core).clean = []
    ∧ (coreOf (departCore s core) core).phase = (coreOf s core).phase + 1 := by
  simp only [departCore, coreBoundary, countPhase, dropClean, coreOf_modCore_same]
  split <;> exact ⟨rfl, rfl⟩

/-- A core that departs leaves the others. -/
theorem departCore_other (s : State) {core k : Nat} (h : k ≠ core) : coreOf (departCore s core) k = coreOf s k := by
  simp only [departCore, coreBoundary, countPhase, dropClean, coreOf_modCore_other _ _ h]

/-- Of cores that depart, each once, each keeps no clean byte and counts a phase. -/
theorem foldl_departCore {ks : List Nat} (hn : ks.Nodup) (s : State) {k : Nat} (hk : k ∈ ks) :
    (coreOf (ks.foldl departCore s) k).clean = [] ∧ (coreOf (ks.foldl departCore s) k).phase = (coreOf s k).phase + 1 := by
  have hother : ∀ (l : List Nat) (t : State), k ∉ l → coreOf (l.foldl departCore t) k = coreOf t k := by
    intro l
    induction l with
    | nil => exact fun _ _ => rfl
    | cons c l ih =>
      intro t h
      rw [List.mem_cons, not_or] at h
      rw [List.foldl_cons, ih _ h.2, departCore_other _ h.1]
  induction ks generalizing s with
  | nil => cases hk
  | cons c ks ih =>
    obtain ⟨hc, hn⟩ := List.nodup_cons.mp hn
    rw [List.foldl_cons]
    obtain rfl | hk := List.mem_cons.mp hk
    · rw [hother ks _ hc]
      exact departCore_same s k
    · rw [← departCore_other s (ne_of_mem_of_not_mem hk hc)]
      exact ih hn _ hk

/-- The values of a list, each once. -/
theorem nodup_eraseDups {α : Type} [BEq α] [LawfulBEq α] (l : List α) : l.eraseDups.Nodup := by
  induction h : l.length using Nat.strong_induction_on generalizing l with
  | _ n ih =>
    cases l with
    | nil => simp
    | cons a t =>
      rw [List.eraseDups_cons, List.nodup_cons]
      refine ⟨by simp [List.mem_eraseDups], ih _ ?_ _ rfl⟩
      rw [← h, List.length_cons]
      exact Nat.lt_succ_of_le (List.length_filter_le _ _)

/-- Settles O29: the strands that look again by their bodies, the barriers by what their release does to each strand. -/
theorem waitersPass : Obligations.WaitersPass := by
  unfold Obligations.WaitersPass
  refine ⟨fun f s u => ?looks, passing_is, fun s b x hx => block_barrier hx,
    fun s bs at_ i c l x y hx hy hl hn => ⟨?lane, fun hi hg => ?core, fun g w hw => ?grid⟩⟩
  case looks =>
    refine ⟨fun id cut h => ?_, fun id cut h => ?_, fun g cut hg h => ?_, fun g cut hg h => gbar_looks_again hg h,
      fun n cut h => waitch_looks_again h, fun off h => ?_, fun cut hr h => phase_looks_again hr h,
      fun cut hr h => phaseAcq_looks_again hr h, fun cut h => ?_, fun cut sent h => ?_, fun cut h => ?_,
      fun cut h => fenceP_looks_again h, fun cut h g hg => ?_⟩
    · exact exec_looks_again h (show execBarb f s = _ from rfl) (by simp only [h.2.2]; rfl)
    · exact exec_looks_again h (show execBarb f s = _ from rfl) (by simp only [h.2.2]; rfl)
    · exact exec_looks_again h (show execGbar f s = _ from rfl) (by simp only [h.2.2, hg]; rfl)
    · exact exec_looks_again h (show execBowait f s = _ from rfl) (by simp only [h.2.2]; rfl)
    · exact exec_looks_again h (show execPhase f s = _ from rfl) (by simp only [h.2.2]; rfl)
    · exact exec_looks_again h (show execFenceX f s = _ from rfl) (by simp only [h.2.2]; rfl)
    · exact exec_looks_again h (show execFenceP f s = _ from rfl) (by simp only [h.2.2, fenceReady]; rfl)
    · exact exec_looks_again h (show execLaunch f s = _ from rfl) (by simp only [h.2.2, hg]; rfl)
  case lane =>
    have hb : (departAll s bs at_).blocks[i]? = some (if i ∈ bs then departBlock at_ x else x) := by
      rw [departAll_eq, (foldl_departCore_frame _ _).1, foldl_modBlock_blocks hn, hx]
      split <;> rfl
    by_cases hi : i ∈ bs
    · refine ⟨_, ?_, (depart_lane 8 (departing at_ y) hl).trans ?_⟩
      · rw [cordOf, hb, if_pos hi]
        simp [departBlock, hy]
      · congr 1
        simp [departing, Cord.mem_liveLanes, hl, hi]
    · refine ⟨y, ?_, by simp [hi]⟩
      rw [cordOf, hb, if_neg hi]
      simpa using hy
  case core =>
    have hc : x.core ∈ departCores s bs at_ := by
      rw [departCores, List.mem_eraseDups, List.mem_filterMap]
      refine ⟨i, hi, ?_⟩
      rw [hx, Option.bind_some, if_pos]
      refine List.any_eq_true.mpr ⟨y, List.mem_of_getElem? hy, List.any_eq_true.mpr ⟨y.lane l, ?_, hg⟩⟩
      simp [Cord.lane, hl]
    have hcores : ∀ t : State, t.cores = s.cores → coreOf t x.core = coreOf s x.core := fun t ht => by rw [coreOf, ht]; rfl
    rw [departAll_eq, ← hcores _ (foldl_modBlock_frame (departBlock at_) bs s).1]
    exact foldl_departCore (nodup_eraseDups _) _ hc
  case grid =>
    have hg : ∀ bs at_, (departAll s bs at_).grids = s.grids := fun bs at_ => by
      rw [departAll_eq, (foldl_departCore_frame _ _).2, (foldl_modBlock_frame _ _ _).2]
    refine ⟨{ w with barrier := w.barrier + 1 }, ?_, rfl⟩
    rw [gridOf] at hw
    simp [gridOf, releaseGbar, modGrid, hg, hw]

end Sys2Proof.Machine
end

/-! ## Results of queued instructions -/

section
open Sys2Proof Sys2Proof.Machine

namespace Sys2Proof.Machine

/-- Registers that are written leave all of the cord but its registers. -/
theorem commit_eq (ws : List RegW) (c : Cord) :
    ∃ st s k fp, commit c ws = { c with strands := st, s := s, k := k, fpflags := fp } := by
  rw [commit]
  induction ws generalizing c with
  | nil => exact ⟨c.strands, c.s, c.k, c.fpflags, rfl⟩
  | cons w ws ih =>
    obtain ⟨st, s, k, fp, h⟩ := ih (applyW c w)
    rw [List.foldl_cons, h]
    cases w <;> exact ⟨_, _, _, _, rfl⟩

/-- What registers are kept for is noted at the operations, which stay those that they are. -/
theorem noteLate_ids (own : Option Nat) (ws : List RegW) (c : Cord) :
    (noteLate own ws c).ops.map Op.id = c.ops.map Op.id := by
  simp only [noteLate, List.map_map]
  refine List.map_congr_left (fun o _ => ?_)
  simp only [Function.comp_apply]
  split <;> rfl

/-- An operation that is complete is no longer outstanding. -/
theorem completeOp_ids (x : Cord) (op : Op) (ws : List RegW) :
    (completeOp x op ws).ops.map Op.id = (x.ops.map Op.id).filter (fun n => n != op.id) := by
  rw [completeOp]
  obtain ⟨f, hf⟩ := flagDown_eq _ op.flag
  obtain ⟨st, s, k, fp, hc⟩ := commit_eq (op.kept ws) (noteLate (some op.id) (op.kept ws) x)
  rw [hf, hc, ← noteLate_ids (some op.id) (op.kept ws) x, List.filter_map]
  rfl

/-- A cord that is left as it is leaves the state. -/
theorem modCord_self (s : State) (b c : Nat) : modCord s b c (fun x => x) = s := by
  have h : (fun x : Block => x.modCord c (fun y => y)) = id := by
    funext x
    rw [Block.modCord, show (fun y : Cord => y) = id from rfl, List.modify_id]
    rfl
  rw [modCord, modBlock, h, List.modify_id]

/-- A queued operation is over: it is complete, and its cause is reported. -/
def queuedOver (x : Cord) (op : Op) (ws : List RegW) : Option (Cause × Mask) → Cord
  | some (k, m) => addReport (completeOp x op ws) (reportOf op k (lanesOf m) 0 0)
  | none => completeOp x op ws

/-- What a queued result does to the cord that is there. -/
theorem exec_queuedResultWrite {s : State} {b c o : Nat} {x y : Cord} {op : Op} {ws : List RegW} {cause : Option (Cause × Mask)}
    (hx : cordOf s b c = some x) (ho : opOf x o = some op) (hk : op.kind = .queued ws cause)
    (hy : (if op.piece && !ws.isEmpty then modOp x o (fun p => { p with kind := .queued [] cause, ws := p.ws ++ op.kept ws })
      else if !op.ws.all RegW.isFp then x else queuedOver x op (ws ++ op.ws) cause) = y) :
    exec (.queuedResultWrite b c o) s = .next (modCord s b c (fun _ => y)) := by
  change execQueuedResultWrite b c o s = _
  rw [execQueuedResultWrite]
  congr 1
  refine modCord_congr (fun z hz => ?_)
  obtain rfl := Option.some.inj (hx.symm.trans hz)
  simp only [ho, hk, ← hy]
  cases cause <;> rfl

/-- Settles O24: by the cases of what arrives and of what has arrived before. -/
theorem queuedResults : Obligations.QueuedResults := by
  unfold Obligations.QueuedResults
  refine fun s b c o x op ws cause hx ho hk => ⟨fun hp hw hc => ?_, fun k m hp hw hc => ?_, fun hp hw => ?_,
    fun hp hw hf hc => ?_, fun k m hp hw hf hc => ?_, fun hp hw hf => ?_, completeOp_ids x op ws⟩
  · exact exec_queuedResultWrite hx ho hk (by simp [hp, hw, hc, queuedOver])
  · exact exec_queuedResultWrite hx ho hk (by simp [hp, hw, hc, queuedOver])
  · exact exec_queuedResultWrite hx ho hk (by simp [hp, hw])
  · exact exec_queuedResultWrite hx ho hk (by simp [hw, hf, hc, queuedOver])
  · exact exec_queuedResultWrite hx ho hk (by simp [hw, hf, hc, queuedOver])
  · rw [exec_queuedResultWrite (y := x) hx ho hk (by simp [hw, hf])]
    congr 1
    refine Eq.trans (modCord_congr (fun z hz => ?_)) (modCord_self s b c)
    exact Option.some.inj (hx.symm.trans hz)

end Sys2Proof.Machine
end

/-! ## Short forms and predicate instructions -/

section
open Sys2Proof Sys2Proof.Machine

namespace Sys2Proof.Machine

/-! ### The body that a short form shares with its long instruction -/

/-- The bodies of the instructions that have short forms, and of MAD and FFMA. -/
def longBody : Instr → Issue → State → Act
  | .mov h => movBody h
  | .add h => addBody h
  | .sub h => subBody h
  | .mul h => mulBody h
  | .mulh h => mulhBody h
  | .mad h => madBody h
  | .neg h => negBody h
  | .abs h => absBody h
  | .min h => minBody h
  | .max h => maxBody h
  | .and h => andBody h
  | .or h => orBody h
  | .xor h => xorBody h
  | .not h => notBody h
  | .shl h => shlBody h
  | .shr h => shrBody h
  | .sar h => sarBody h
  | .rot h => rotBody h
  | .popc h => popcBody h
  | .clz h => clzBody h
  | .brev h => brevBody h
  | .fadd h => faddBody h
  | .fsub h => fsubBody h
  | .fmul h => fmulBody h
  | .ffma h => eltBody h (fun x y z => (fmtOf h.ty.toNat).fma h.mod.toNat x y z)
  | .fmin h => fminBody h
  | .fmax h => fmaxBody h
  | .fsat h => fsatBody h
  | _ => fun _ _ => .wait

/-- A short form has the body of its long instruction, with the operands of R45. -/
theorem shortTable_body : ∀ e ∈ Claims.shortTable, ∀ (f : SForm) (s : State),
    exec (e.1 f) s = issue (e.1 f) (longBody (e.2.1 (Claims.longOf f e.2.2))) s := by
  simp only [Claims.shortTable, List.forall_mem_cons]
  refine ⟨?_, ?_, ?_, ?_, ?_, ?_, ?_, ?_, ?_, ?_, ?_, ?_, ?_, ?_, ?_, ?_, ?_, ?_, ?_, ?_, ?_, ?_, ?_, ?_, ?_, ?_, by simp⟩ <;>
    exact fun f s => rfl

/-- CLZ's short form is of words alone. -/
theorem shortTable_clz : ∀ e ∈ Claims.shortTable, ∀ (f : SForm) (x : DecodeCtx), decodeTrap x (e.1 f) = none →
    e.2.1 (Claims.longOf f e.2.2) = .clz (Claims.longOf f e.2.2) → wideNat f.ty.toNat = false := by
  simp only [Claims.shortTable, List.forall_mem_cons, reduceCtorEq, false_implies, implies_true, true_and, forall_const]
  refine ⟨fun f x hd => ?_, by simp⟩
  rw [decodeTrap_short (i := .clzShort f) rfl] at hd
  have ht : tyIn f.ty ty32 = true := by
    by_contra ht
    rw [Bool.not_eq_true] at ht
    have ht : (admits x.W (.clzShort f)).typeOk = false := ht
    rw [if_pos ht] at hd
    cases hd
  have hty : ∀ t : BitVec 4, tyIn t ty32 = true → wideNat t.toNat = false := by decide
  exact hty _ ht

section
variable {h : LForm} {s : State} {u : Issue} {i : Instr}

/-- An instruction with the body of a row of Table 4-2 writes what the row says. -/
theorem arithRows_complete : ∀ e ∈ Claims.arithTable, exec i s = issue i (longBody (e.1 h)) s →
    (Claims.writes i u (Claims.arithWrites h u e.2)).Completes s u := by
  simp only [Claims.arithTable, List.forall_mem_cons]
  refine ⟨?add, ?sub, ?mul, ?mulh, ?mad, ?neg, ?abs, ?min, ?max, by simp⟩ <;> intro hx
  case add => exact completes_of_int hx (fun _ _ _ => rfl)
  case sub => exact completes_of_int hx (fun _ _ _ => rfl)
  case mul => exact completes_of_int hx (fun _ _ _ => rfl)
  case mulh => exact completes_of_int hx (fun _ _ _ => rfl)
  case mad => exact completes_of_int hx (fun _ _ _ => rfl)
  case neg => exact completes_of_int hx (fun _ _ _ => rfl)
  case abs => exact completes_of_int hx (fun x _ _ => (Int.abs_eq_natAbs x).symm)
  case min => exact completes_of_int hx (fun x y _ => (min_def x y).symm)
  case max => exact completes_of_int hx (fun x y _ => (max_def x y).symm)

/-- An instruction with the body of a row of Table 4-3 on all bits writes what the row says. -/
theorem bitRows_complete : ∀ e ∈ Claims.bitTable, exec i s = issue i (longBody (e.1 h)) s →
    (Claims.writes i u (Claims.bitWrites h u e.2)).Completes s u := by
  simp only [Claims.bitTable, List.forall_mem_cons, longBody]
  refine ⟨?and, ?or, ?xor, ?not, ?shl, ?shr, ?sar, ?rot, by simp⟩ <;> intro hx
  case and =>
    refine completes_of_bits hx (fun x y _ hx hy => ?_)
    simp [Nat.mod_eq_of_lt hx, Nat.mod_eq_of_lt hy]
  case or =>
    refine completes_of_bits hx (fun x y _ hx hy => ?_)
    simp [Nat.mod_eq_of_lt hx, Nat.mod_eq_of_lt hy]
  case xor =>
    refine completes_of_bits hx (fun x y _ hx hy => ?_)
    simp [Nat.mod_eq_of_lt hx, Nat.mod_eq_of_lt hy]
  case not =>
    refine completes_of_bits hx (fun x y _ _ _ => ?_)
    rw [BitVec.toNat_not, BitVec.toNat_ofNat]
  case shl => exact completes_of_bits hx (fun _ _ _ _ _ => shlVal_eq ..)
  case shr => exact completes_of_bits hx (fun _ _ _ hx _ => shrVal_eq _ hx)
  case sar => exact completes_of_bits hx (fun _ _ _ hx _ => sarVal_eq _ hx)
  case rot =>
    refine completes_of_bits hx (fun x y _ hx _ => ?_)
    simp only [beq_iff_eq]
    split
    · exact rotlVal_right _ (shiftWidth_pos h) hx
    · exact rotlVal_left _ (shiftWidth_pos h) hx

/-- An instruction with the body of POPC, CLZ or BREV writes what its row says. -/
theorem countRows_complete : ∀ e ∈ Claims.countTable, exec i s = issue i (longBody (e.1 h)) s →
    (decodeTrap (decodeCtx u) i = none → e.1 h = .clz h → wideNat h.ty.toNat = false) →
    (Claims.writes i u (Claims.countWrites h u e.2)).Completes s u := by
  simp only [Claims.countTable, List.forall_mem_cons, longBody]
  refine ⟨?popc, ?clz, ?brev, by simp⟩ <;> intro hx hw
  case popc => exact completes_of_whole hx (fun _ _ => popcVal_eq _)
  case clz =>
    refine completes_of_whole hx (fun hd l => clzVal_eq ?_)
    simpa [valWidth, hw hd trivial] using valA_lt u.cord h h.ty.toNat l
  case brev => exact completes_of_whole hx (fun _ _ => brevVal_eq _)

/-- An instruction with the body of a row of Table 4-5 writes what the row says. -/
theorem floatRows_complete : ∀ e ∈ Claims.floatTable, exec i s = issue i (longBody (e.1 h)) s →
    (Claims.writes i u (Claims.floatWrites h u e.2)).Completes s u := by
  simp only [Claims.floatTable, List.forall_mem_cons]
  refine ⟨?fadd, ?fsub, ?fmul, ?ffma, ?fmin, ?fmax, ?fsat, by simp⟩ <;> intro hx
  case fadd => exact completes_of_elts hx rfl
  case fsub => exact completes_of_elts hx rfl
  case fmul => exact completes_of_elts hx rfl
  case ffma => exact completes_of_elts hx rfl
  case fmin => exact completes_of_elts hx rfl
  case fmax => exact completes_of_elts hx rfl
  case fsat => exact completes_of_elts hx rfl

end

/-- An instruction with the body of a row writes what the row says. -/
theorem longWrites_complete {h : LForm} {s : State} {u : Issue} {i : Instr} {g : (LForm → Instr) × List RegW}
    (hg : g ∈ Claims.longWrites h u) (hx : exec i s = issue i (longBody (g.1 h)) s)
    (hw : decodeTrap (decodeCtx u) i = none → g.1 h = .clz h → wideNat h.ty.toNat = false) :
    (Claims.writes i u g.2).Completes s u := by
  simp only [Claims.longWrites, List.mem_cons, List.mem_append, List.mem_map] at hg
  obtain rfl | ((⟨e, he, rfl⟩ | ⟨e, he, rfl⟩) | ⟨e, he, rfl⟩) | ⟨e, he, rfl⟩ := hg
  · exact completes_of_whole (f := h) (g := fun x _ _ => x) hx (fun _ _ => rfl)
  · exact arithRows_complete e he hx
  · exact bitRows_complete e he hx
  · exact countRows_complete e he hx hw
  · exact floatRows_complete e he hx

/-- Settles O21: a short form issues with the body of its long instruction, whose writes the tables give. -/
theorem shortForms : Obligations.ShortForms := by
  unfold Obligations.ShortForms
  intro e he f s u g hg hc
  refine longWrites_complete hg (i := e.1 f) ?_ (fun hd hz => ?_)
  · rw [hc]
    exact shortTable_body e he f s
  · exact shortTable_clz e he f _ hd (hc _ ▸ hz)

/-! ### The order of float values (R93) -/

/-- A scaled number has a denominator. -/
theorem scale2_den_pos (m : Nat) (x : Int) : 0 < (scale2 m x).2 := by
  unfold scale2
  split
  · exact Nat.one_pos
  · exact Nat.two_pow_pos _

/-- A finite value of an encoding has a denominator. -/
theorem decode_den_pos {F : Fmt} {x : Nat} {s : Bool} {n d : Nat} (h : F.decode x = .fin s n d) : 0 < d := by
  unfold Fmt.decode at h
  dsimp only at h
  split at h
  · cases h
    exact scale2_den_pos _ _
  · split at h
    · split at h <;> cases h
    · split at h <;> cases h
      exact scale2_den_pos _ _

/-- A value whose fraction has a denominator. -/
def FVal.Proper (v : FVal) : Prop := ∀ s n d, v = .fin s n d → 0 < d

/-- Every value of an encoding is such. -/
theorem decode_proper (F : Fmt) (x : Nat) : (F.decode x).Proper := fun _ _ _ h => decode_den_pos h

/-- Fractions in order, by their cross products. -/
theorem cross_le {a b c d : Nat} (hc : 0 < c) (hd : 0 < d) : a * d ≤ b * c ↔ (a : Rat) / c ≤ b / d := by
  rw [div_le_div_iff₀ (by exact_mod_cast hc) (by exact_mod_cast hd)]
  exact_mod_cast Iff.rfl

/-- Finite values in order. -/
theorem leVal_fin {sx sy : Bool} {nx dx ny dy : Nat} (hx : 0 < dx) (hy : 0 < dy) :
    leVal (.fin sx nx dx) (.fin sy ny dy) = true
      ↔ (if sx then -1 else 1) * (nx : Rat) / dx ≤ (if sy then -1 else 1) * (ny : Rat) / dy := by
  have h0 : (0 : Rat) ≤ (nx : Rat) / dx := by positivity
  have h1 : (0 : Rat) ≤ (ny : Rat) / dy := by positivity
  cases sx <;> cases sy <;> simp only [leVal, Bool.false_eq_true, if_false, if_true, one_mul, neg_mul, neg_div,
    decide_eq_true_eq, Bool.and_eq_true, beq_iff_eq, neg_le_neg_iff]
  case false.false => exact cross_le hx hy
  case false.true =>
    have hz : ∀ n d : Nat, 0 < d → ((n : Rat) / d = 0 ↔ n = 0) := fun n d hd => by
      rw [div_eq_zero_iff]
      norm_cast
      omega
    rw [Nat.mul_eq_zero, Nat.mul_eq_zero, or_iff_left hy.ne', or_iff_left hx.ne', ← hz nx dx hx, ← hz ny dy hy]
    constructor
    · rintro ⟨h2, h3⟩
      rw [h2, h3, neg_zero]
    · intro h
      constructor <;> linarith
  case true.false => exact iff_of_true trivial (by linarith)
  case true.true => exact cross_le hy hx

/-- The places of values, the infinities outside every real. -/
theorem leVal_places {x y : FVal} {a b : Int × Rat} (hx : x.Proper) (hy : y.Proper) (ha : Claims.placeOfVal x = some a)
    (hb : Claims.placeOfVal y = some b) : leVal x y = !Claims.before b a := by
  cases x with
  | nan => cases ha
  | inf s =>
    cases y with
    | nan => cases hb
    | inf t =>
      cases ha; cases hb
      cases s <;> cases t <;> simp [leVal, Claims.before]
    | fin t n d =>
      cases ha; cases hb
      cases s <;> simp [leVal, Claims.before]
  | fin s n d =>
    cases y with
    | nan => cases hb
    | inf t =>
      cases ha; cases hb
      cases t <;> simp [leVal, Claims.before]
    | fin t m e =>
      cases ha; cases hb
      rw [Bool.eq_iff_iff, leVal_fin (hx _ _ _ rfl) (hy _ _ _ rfl)]
      simp [Claims.before]

/-- Places are in a total order. -/
theorem before_trichotomy (a b : Int × Rat) : (a = b ∧ Claims.before a b = false ∧ Claims.before b a = false)
    ∨ (a ≠ b ∧ Claims.before a b = true ∧ Claims.before b a = false)
    ∨ (a ≠ b ∧ Claims.before a b = false ∧ Claims.before b a = true) := by
  obtain ⟨i, v⟩ := a
  obtain ⟨j, w⟩ := b
  simp only [Claims.before, decide_eq_true_eq, decide_eq_false_iff_not, Prod.mk.injEq, ne_eq]
  rcases lt_trichotomy i j with h | h | h
  · exact .inr (.inl (by simp [h, h.ne, h.ne', h.not_gt]))
  · subst h
    rcases lt_trichotomy v w with h | h | h
    · exact .inr (.inl (by simp [h, h.ne, h.not_gt]))
    · exact .inl (by simp [h])
    · exact .inr (.inr (by simp [h, h.ne', h.not_gt]))
  · exact .inr (.inr (by simp [h, h.ne, h.ne', h.not_gt]))

/-- A value has no place exactly where it is NaN. -/
theorem placeOfVal_none {x : FVal} : Claims.placeOfVal x = none ↔ x = .nan := by
  cases x <;> simp [Claims.placeOfVal]

/-- FCMP compares the reals that its operands stand for. -/
theorem fcmp_eq {x y : FVal} (hx : x.Proper) (hy : y.Proper) {mod : Nat} (hm : mod < 16) :
    fcmp mod x y = (Claims.fcmpHolds mod x y, Claims.fcmpRaises mod x y) := by
  cases ha : Claims.placeOfVal x with
  | none =>
    obtain rfl := placeOfVal_none.mp ha
    have hle : leVal .nan y = false := rfl
    interval_cases mod <;> simp [fcmp, Claims.fcmpHolds, ha, Claims.fcmpRaises, hle, flagIf]
  | some a =>
    have hnx : x ≠ .nan := fun h => by simp [placeOfVal_none.mpr h] at ha
    cases hb : Claims.placeOfVal y with
    | none =>
      obtain rfl := placeOfVal_none.mp hb
      have hle : leVal .nan x = false := rfl
      interval_cases mod <;> simp [fcmp, Claims.fcmpHolds, ha, hb, Claims.fcmpRaises, hle, flagIf]
    | some b =>
      have hny : y ≠ .nan := fun h => by simp [placeOfVal_none.mpr h] at hb
      have hxy := leVal_places hx hy ha hb
      have hyx := leVal_places hy hx hb ha
      obtain ⟨rfl, h1, h2⟩ | ⟨he, h1, h2⟩ | ⟨he, h1, h2⟩ := before_trichotomy a b <;> rw [h2] at hxy <;> rw [h1] at hyx
      · interval_cases mod <;> simp [fcmp, Claims.fcmpHolds, Claims.fcmpRaises, ha, hb, hxy, hyx, h1, hnx, hny, flagIf]
      · interval_cases mod <;> simp [fcmp, Claims.fcmpHolds, Claims.fcmpRaises, ha, hb, hxy, hyx, he, h1, h2, hnx, hny, flagIf]
      · interval_cases mod <;> simp [fcmp, Claims.fcmpHolds, Claims.fcmpRaises, ha, hb, hxy, hyx, he, h1, h2, hnx, hny, flagIf]

/-! ### Predicate instructions -/

/-- A predicate instruction completes as a test that agrees with its own. -/
theorem completes_of_pred {i : Instr} {f : LForm} {s : State} {u : Issue} {g : Cord → Nat → Bool × FpFlags}
    {r : Nat → Bool × FpFlags} (hx : exec i s = issue i (predBody f g) s)
    (h : decodeTrap (decodeCtx u) i = none → ∀ l, g u.cord l = r l) :
    (Claims.writes i u (Claims.testWrites f u r)).Completes s u := by
  refine completes_of_decoded hx (fun hd => ?_)
  have hg : g u.cord = r := funext (h hd)
  subst hg
  rfl

/-- A test combined with predicate C, as the claims have it. -/
theorem combine_eq (f : LForm) (u : Issue) (l : Nat) (t : Bool) : combine f u.cord l t = Claims.combined f u l t := by
  have h : f.mod2.toNat % 4 < 4 := Nat.mod_lt _ (by decide)
  unfold combine Claims.combined
  generalize f.mod2.toNat % 4 = n at h
  interval_cases n <;> simp

/-- A condition of ICMP. -/
theorem icmp_eq (mod : Nat) (x y : Int) : (match mod with
      | 0 => x == y
      | 1 => x != y
      | 2 => decide (x < y)
      | 3 => decide (x ≤ y)
      | 4 => decide (y < x)
      | _ => decide (y ≤ x)) = Claims.icmpHolds mod x y := by
  unfold Claims.icmpHolds
  split <;> simp [beq_eq_decide, bne]

/-- Settles O19: each test by its meaning over the integers, or over the places of float values. -/
theorem predicateWrites : Obligations.PredicateWrites := by
  unfold Obligations.PredicateWrites
  intro f s u
  simp only [Claims.predicateCases, List.forall_mem_cons]
  refine ⟨?icmp, ?pset, ?pand, ?por, ?pxor, ?pnot, ?fcmp, ?fclass, by simp⟩
  case icmp =>
    refine completes_of_pred (show execIcmp f s = _ from rfl) (fun hd l => ?_)
    have ht : tyIn f.ty tyInt = true := typeOk_of_decodeTrap (i := .icmp f) rfl hd
    have hw : eltBits f.ty.toNat = valWidth f.ty.toNat := by
      have : ∀ t : BitVec 4, tyIn t tyInt = true → eltBits t.toNat = valWidth t.toNat := by decide
      exact this _ ht
    refine (congrArg (fun t => (combine f u.cord l t, (0 : FpFlags))) (icmp_eq f.mod.toNat _ _)).trans ?_
    rw [combine_eq, toInt_eq_readInt _ (hw ▸ valA_lt u.cord f f.ty.toNat l),
      toInt_eq_readInt _ (hw ▸ valB_lt u.cord f f.ty.toNat l)]
  case pset =>
    refine completes_of_pred (show execPset f s = _ from rfl) (fun _ l => ?_)
    simp only [beq_iff_eq] <;> rfl
  case pand => exact completes_of_pred (show execPand f s = _ from rfl) (fun _ _ => rfl)
  case por => exact completes_of_pred (show execPor f s = _ from rfl) (fun _ _ => rfl)
  case pxor =>
    refine completes_of_pred (show execPxor f s = _ from rfl) (fun _ l => ?_)
    simp
  case pnot => exact completes_of_pred (show execPnot f s = _ from rfl) (fun _ _ => rfl)
  case fcmp =>
    refine completes_of_pred (show execFcmp f s = _ from rfl) (fun _ l => ?_)
    simp only [fcmp_eq (decode_proper _ _) (decode_proper _ _) f.mod.isLt, combine_eq]
  case fclass =>
    refine completes_of_pred (show execFclass f s = _ from rfl) (fun _ l => ?_)
    simp only [combine_eq]

end Sys2Proof.Machine
end

/-! ## The instructions of the two queues -/

section
open Sys2Proof Sys2Proof.Machine

namespace Sys2Proof.Machine

/-! ### Issue (R78, R95 to R102) -/

/-- A queued instruction goes to its queue with results that agree with its own. -/
theorem completes_of_queued {q : Nat} {i : Instr} {f : LForm} {s : State} {u : Issue} {cause : Cause}
    {g : Cord → Nat → Queued} {r : Nat → Queued} (hx : exec i s = issue i (queuedBody q f cause g) s)
    (h : decodeTrap (decodeCtx u) i = none → ∀ l, g u.cord l = r l) :
    (Claims.queuedCase q i f s u cause r).Completes s u := by
  intro hi
  refine completes_of_body hx (fun hh => ?_) hi
  have hg : g u.cord = r := funext (h hi.2.1)
  subst hg
  have hh : (!queueFull s u q && !(participants u f).isEmpty) = true := hh
  obtain ⟨hq, hl⟩ := Bool.and_eq_true_iff.mp hh
  rw [Bool.not_eq_true'] at hq hl
  unfold queuedBody
  rw [hq, if_neg Bool.false_ne_true]
  exact if_neg (by rw [newOp, hl]; exact Bool.false_ne_true)

/-- An integer of 32 bits is 0 where its word is. -/
theorem ofNat_word_eq_zero {y : Nat} (hy : y < 2 ^ 32) : BitVec.ofNat 32 y = 0 ↔ y = 0 := by
  rw [← BitVec.toNat_inj, BitVec.toNat_ofNat, Nat.mod_eq_of_lt hy]
  rfl

/-- Integer division, as one of words (R97). -/
theorem divInt_eq (sg : Bool) {x y : Nat} (hx : x < 2 ^ 32) (hy : y < 2 ^ 32) :
    divInt sg x y = (Claims.divWord sg (BitVec.ofNat 32 x) (BitVec.ofNat 32 y)).toNat := by
  unfold divInt Claims.divWord
  simp only [ofNat_word_eq_zero hy, toInt_eq_readInt sg hx, toInt_eq_readInt sg hy, wrapInt_eq]
  split
  · rfl
  · cases sg
    case true =>
      congr 1
      apply BitVec.eq_of_toInt_eq
      rw [if_pos rfl, BitVec.toInt_sdiv, BitVec.toInt_ofInt]
      rfl
    case false =>
      simp only [Claims.readInt, Bool.false_eq_true, if_false]
      rw [← Int.ofNat_tdiv, BitVec.ofInt_natCast, ← BitVec.udiv_def]

/-- The remainder, as one of words (R97). -/
theorem remInt_eq (sg : Bool) {x y : Nat} (hx : x < 2 ^ 32) (hy : y < 2 ^ 32) :
    remInt sg x y = (Claims.remWord sg (BitVec.ofNat 32 x) (BitVec.ofNat 32 y)).toNat := by
  unfold remInt Claims.remWord
  simp only [ofNat_word_eq_zero hy, toInt_eq_readInt sg hx, toInt_eq_readInt sg hy, wrapInt_eq]
  split
  · rw [BitVec.toNat_ofNat, Nat.mod_eq_of_lt hx]
  · cases sg
    case true =>
      congr 1
      simp only [Claims.readInt, if_true]
      rw [← BitVec.toInt_srem, BitVec.ofInt_toInt]
    case false =>
      simp only [Claims.readInt, Bool.false_eq_true, if_false]
      rw [← Int.ofNat_tmod, BitVec.ofInt_natCast, ← BitVec.umod_def]

/-- The functions of the special-function queue go to it. -/
theorem sfuTable_complete (f : LForm) (s : State) (u : Issue) : ∀ e ∈ Claims.sfuTable,
    (Claims.queuedCase 0 (e.1 f) f s u .intDivz (fun l =>
     let r := eachElt f.ty.toNat (fun a _ _ => e.2 f (fmtOf f.ty.toNat) a) (valA u.cord f f.ty.toNat l) 0 0
     { x := r.1, fl := r.2 })).Completes s u := by
  simp only [Claims.sfuTable, List.forall_mem_cons]
  refine ⟨?rcp, ?rsq, ?sqrt, ?exp2, ?log2, ?sin, ?cos, ?tanh, by simp⟩
  case rcp => exact completes_of_queued (show execRcp f s = _ from rfl) (fun _ _ => rfl)
  case rsq => exact completes_of_queued (show execRsq f s = _ from rfl) (fun _ _ => rfl)
  case sqrt => exact completes_of_queued (show execSqrt f s = _ from rfl) (fun _ _ => rfl)
  case exp2 => exact completes_of_queued (show execExp2 f s = _ from rfl) (fun _ _ => rfl)
  case log2 => exact completes_of_queued (show execLog2 f s = _ from rfl) (fun _ _ => rfl)
  case sin => exact completes_of_queued (show execSin f s = _ from rfl) (fun _ _ => rfl)
  case cos => exact completes_of_queued (show execCos f s = _ from rfl) (fun _ _ => rfl)
  case tanh => exact completes_of_queued (show execTanh f s = _ from rfl) (fun _ _ => rfl)

/-- A 4-bit code equals a number's. -/
theorem ty_beq_iff (t : BitVec 4) : (t == 3) = decide (t.toNat = 3) ∧ (t == 1) = (t.toNat == 1) := by
  revert t; decide

/-- The instructions of the two queues go there. -/
theorem queuedCases_complete (f : LForm) (s : State) (u : Issue) : ∀ e ∈ Claims.queuedCases f s u, e.Completes s u := by
  simp only [Claims.queuedCases, List.forall_mem_append, List.forall_mem_cons, List.forall_mem_map]
  refine ⟨⟨?div, ?rem, ?cvt, ?pack, ?unpack, by simp⟩, sfuTable_complete f s u⟩
  case div =>
    refine completes_of_queued (show execDiv f s = _ from rfl) (fun hd l => ?_)
    have ht := typeOk_of_decodeTrap (i := .div f) rfl hd
    simp only [(ty_beq_iff f.ty).1, (ty_beq_iff f.ty).2, decide_eq_true_eq]
    rw [divInt_eq _ (lt_word_of_tyIn (by decide) ht (valA_lt ..)) (lt_word_of_tyIn (by decide) ht (valB_lt ..))]
  case rem =>
    refine completes_of_queued (show execRem f s = _ from rfl) (fun hd l => ?_)
    have ht := typeOk_of_decodeTrap (i := .rem f) rfl hd
    simp only [(ty_beq_iff f.ty).2]
    rw [remInt_eq _ (lt_word_of_tyIn (by decide) ht (valA_lt ..)) (lt_word_of_tyIn (by decide) ht (valB_lt ..))]
  case cvt => exact completes_of_queued (show execCvt f s = _ from rfl) (fun _ _ => rfl)
  case pack => exact completes_of_queued (show execPack f s = _ from rfl) (fun _ _ => rfl)
  case unpack => exact completes_of_queued (show execUnpack f s = _ from rfl) (fun _ _ => rfl)

/-- A queued instruction waits while its queue is full. -/
theorem queuedBody_wait {q : Nat} {f : LForm} {cause : Cause} {g : Cord → Nat → Queued} {s : State} {u : Issue}
    (h : queueFull s u q = true) : queuedBody q f cause g u s = .wait := if_pos h

/-- The instructions of the special-function queue wait while it is full. -/
theorem sfu_waits (f : LForm) (s : State) (u : Issue) :
    ∀ i ∈ [Instr.div f, .rem f, .rcp f, .rsq f, .sqrt f, .exp2 f, .log2 f, .sin f, .cos f, .tanh f],
      Claims.Reaches i s u → queueFull s u 0 = true → exec i s = .next s := by
  simp only [List.forall_mem_cons]
  refine ⟨?div, ?rem, ?rcp, ?rsq, ?sqrt, ?exp2, ?log2, ?sin, ?cos, ?tanh, by simp⟩ <;> intro h hq
  case div => exact exec_wait_of h (show execDiv f s = _ from rfl) (queuedBody_wait hq)
  case rem => exact exec_wait_of h (show execRem f s = _ from rfl) (queuedBody_wait hq)
  case rcp => exact exec_wait_of h (show execRcp f s = _ from rfl) (queuedBody_wait hq)
  case rsq => exact exec_wait_of h (show execRsq f s = _ from rfl) (queuedBody_wait hq)
  case sqrt => exact exec_wait_of h (show execSqrt f s = _ from rfl) (queuedBody_wait hq)
  case exp2 => exact exec_wait_of h (show execExp2 f s = _ from rfl) (queuedBody_wait hq)
  case log2 => exact exec_wait_of h (show execLog2 f s = _ from rfl) (queuedBody_wait hq)
  case sin => exact exec_wait_of h (show execSin f s = _ from rfl) (queuedBody_wait hq)
  case cos => exact exec_wait_of h (show execCos f s = _ from rfl) (queuedBody_wait hq)
  case tanh => exact exec_wait_of h (show execTanh f s = _ from rfl) (queuedBody_wait hq)

/-- The instructions of the conversion queue wait while it is full. -/
theorem conversion_waits (f : LForm) (s : State) (u : Issue) :
    ∀ i ∈ [Instr.cvt f, .pack f, .unpack f, .cvtsc f],
      Claims.Reaches i s u → queueFull s u 1 = true → exec i s = .next s := by
  simp only [List.forall_mem_cons]
  refine ⟨?cvt, ?pack, ?unpack, ?cvtsc, by simp⟩ <;> intro h hq
  case cvt => exact exec_wait_of h (show execCvt f s = _ from rfl) (queuedBody_wait hq)
  case pack => exact exec_wait_of h (show execPack f s = _ from rfl) (queuedBody_wait hq)
  case unpack => exact exec_wait_of h (show execUnpack f s = _ from rfl) (queuedBody_wait hq)
  case cvtsc => exact exec_wait_of h (show execCvtsc f s = _ from rfl) (if_pos hq)

/-! ### The special inputs of the float functions (Table 4-7) -/

/-- The quotient of a NaN is one. -/
theorem divVal_nan (x : FVal) : divVal x .nan = (.nan, 0) := by cases x <;> rfl

section
variable (F : Fmt) (m x : Nat)

/-- 1 / x of a zero, an infinity and NaN. -/
theorem rcp_special : (∀ s d, F.decode x = .fin s 0 d → F.rcp m x = (F.infinity s, fDZ))
    ∧ (∀ s, F.decode x = .inf s → F.rcp m x = (F.mk' s 0 0, 0)) ∧ (F.decode x = .nan → F.rcp m x = (F.defaultNaN, 0)) := by
  refine ⟨fun s d h => ?_, fun s h => ?_, fun h => ?_⟩ <;> rw [Fmt.rcp, h]
  · simp [divVal, Fmt.arith]
  · simp [divVal, Fmt.arith, Fmt.round]
  · rw [divVal_nan, arith_nan]

/-- 1 / √x of a zero, an infinity, NaN and a number below 0. -/
theorem rsq_special : (∀ s d, F.decode x = .fin s 0 d → F.rsq x = (F.infinity s, fDZ))
    ∧ (∀ s, F.decode x = .inf s → F.rsq x = if s then (F.defaultNaN, fNV) else (F.mk' false 0 0, 0))
    ∧ (F.decode x = .nan → F.rsq x = (F.defaultNaN, 0))
    ∧ ∀ n d, F.decode x = .fin true n d → n ≠ 0 → F.rsq x = (F.defaultNaN, fNV) := by
  refine ⟨fun s d h => ?_, fun s h => ?_, fun h => ?_, fun n d h hn => ?_⟩ <;> simp only [Fmt.rsq, h]
  · rfl
  · rfl
  · rfl
  · rw [if_neg hn]
    rfl

/-- √x of a zero, an infinity, NaN and a number below 0. -/
theorem sqrt_special : (∀ s d, F.decode x = .fin s 0 d → F.sqrt m x = (F.mk' s 0 0, 0))
    ∧ (∀ s, F.decode x = .inf s → F.sqrt m x = if s then (F.defaultNaN, fNV) else (F.infinity false, 0))
    ∧ (F.decode x = .nan → F.sqrt m x = (F.defaultNaN, 0))
    ∧ ∀ n d, F.decode x = .fin true n d → n ≠ 0 → F.sqrt m x = (F.defaultNaN, fNV) := by
  refine ⟨fun s d h => ?_, fun s h => ?_, fun h => ?_, fun n d h hn => ?_⟩ <;> simp only [Fmt.sqrt, h]
  · rfl
  · rfl
  · rfl
  · rw [if_neg hn]
    rfl

/-- 2^x of a zero, an infinity and NaN. -/
theorem exp2_special : (∀ s d, F.decode x = .fin s 0 d → F.exp2 x = (F.mk' false F.bias 0, 0))
    ∧ (∀ s, F.decode x = .inf s → F.exp2 x = if s then (F.mk' false 0 0, 0) else (F.infinity false, 0))
    ∧ (F.decode x = .nan → F.exp2 x = (F.defaultNaN, 0)) := by
  refine ⟨fun s d h => ?_, fun s h => ?_, fun h => ?_⟩ <;> simp only [Fmt.exp2, h] <;> rfl

/-- log2 x of a zero, an infinity, NaN and a number below 0. -/
theorem log2_special : (∀ s d, F.decode x = .fin s 0 d → F.log2 x = (F.infinity true, fDZ))
    ∧ (∀ s, F.decode x = .inf s → F.log2 x = if s then (F.defaultNaN, fNV) else (F.infinity false, 0))
    ∧ (F.decode x = .nan → F.log2 x = (F.defaultNaN, 0))
    ∧ ∀ n d, F.decode x = .fin true n d → n ≠ 0 → F.log2 x = (F.defaultNaN, fNV) := by
  refine ⟨fun s d h => ?_, fun s h => ?_, fun h => ?_, fun n d h hn => ?_⟩ <;> simp only [Fmt.log2, h]
  · rfl
  · rfl
  · rfl
  · rw [if_neg hn]
    rfl

/-- sin x and cos x of a zero, an infinity and NaN. -/
theorem sinCos_special :
    (∀ s d, F.decode x = .fin s 0 d → F.sin x = (F.mk' s 0 0, 0) ∧ F.cos x = (F.mk' false F.bias 0, 0))
    ∧ (∀ s, F.decode x = .inf s → F.sin x = (F.defaultNaN, fNV) ∧ F.cos x = (F.defaultNaN, fNV))
    ∧ (F.decode x = .nan → F.sin x = (F.defaultNaN, 0) ∧ F.cos x = (F.defaultNaN, 0)) := by
  refine ⟨fun s d h => ?_, fun s h => ?_, fun h => ?_⟩ <;> simp only [Fmt.sin, Fmt.cos, h] <;> exact ⟨rfl, rfl⟩

/-- tanh x of a zero, an infinity and NaN. -/
theorem tanh_special : (∀ s d, F.decode x = .fin s 0 d → F.tanh x = (F.mk' s 0 0, 0))
    ∧ (∀ s, F.decode x = .inf s → F.tanh x = (F.mk' s F.bias 0, 0))
    ∧ (F.decode x = .nan → F.tanh x = (F.defaultNaN, 0)) := by
  refine ⟨fun s d h => ?_, fun s h => ?_, fun h => ?_⟩ <;> simp only [Fmt.tanh, h] <;> rfl

end

/-- DIV.f32 of special operands (R96). -/
theorem fdiv32_special (m x y : Nat) :
    (∀ s n d t e, fp32.decode x = .fin s n d → n ≠ 0 → fp32.decode y = .fin t 0 e →
        fdiv32 m x y = ((if s = t then 0 else 0x80000000) + 0x7F800000, fDZ))
      ∧ (∀ s d t e, fp32.decode x = .fin s 0 d → fp32.decode y = .fin t 0 e → fdiv32 m x y = (0x7FC00000, fNV))
      ∧ (∀ s t, fp32.decode x = .inf s → fp32.decode y = .inf t → fdiv32 m x y = (0x7FC00000, fNV))
      ∧ (fp32.decode x = .nan ∨ fp32.decode y = .nan → fdiv32 m x y = (0x7FC00000, 0)) := by
  refine ⟨fun s n d t e hx hn hy => ?_, fun s d t e hx hy => ?_, fun s t hx hy => ?_, fun h => ?_⟩
  · rw [fdiv32, hx, hy, divVal, if_pos rfl, if_neg hn]
    cases s <;> cases t <;> rfl
  · rw [fdiv32, hx, hy]
    rfl
  · rw [fdiv32, hx, hy]
    rfl
  · rcases h with h | h <;> rw [fdiv32, h]
    · rfl
    · rw [divVal_nan]
      rfl

/-- The special inputs that a table lists by their encodings. -/
theorem specials_encoded : ∀ e ∈ Claims.specials, e.F.defaultNaN = e.nan ∧ e.F.infinity false = e.inf
    ∧ e.F.infinity true = e.sign + e.inf ∧ e.F.mk' false 0 0 = 0 ∧ e.F.mk' true 0 0 = e.sign
    ∧ e.F.mk' false e.F.bias 0 = e.one ∧ e.F.mk' true e.F.bias 0 = e.sign + e.one
    ∧ (∃ d, e.F.decode 0 = .fin false 0 d) ∧ (∃ d, e.F.decode e.sign = .fin true 0 d)
    ∧ e.F.decode e.inf = .inf false ∧ e.F.decode (e.sign + e.inf) = .inf true := by
  simp only [Claims.specials, List.forall_mem_cons]
  refine ⟨?_, ?_, ?_, by simp⟩ <;>
    exact ⟨by decide, by decide, by decide, by decide, by decide, by decide, by decide, ⟨_, rfl⟩, ⟨_, rfl⟩, by decide, by decide⟩

/-- The special inputs of the float functions give what Table 4-7 says. -/
theorem specials_eq : ∀ e ∈ Claims.specials, ∀ m : Nat,
      e.F.rcp m 0 = (e.inf, fDZ) ∧ e.F.rcp m e.sign = (e.sign + e.inf, fDZ) ∧ e.F.rcp m e.inf = (0, 0)
      ∧ e.F.rcp m (e.sign + e.inf) = (e.sign, 0)
      ∧ e.F.rsq 0 = (e.inf, fDZ) ∧ e.F.rsq e.sign = (e.sign + e.inf, fDZ) ∧ e.F.rsq e.inf = (0, 0)
      ∧ e.F.rsq (e.sign + e.inf) = (e.nan, fNV)
      ∧ e.F.sqrt m 0 = (0, 0) ∧ e.F.sqrt m e.sign = (e.sign, 0) ∧ e.F.sqrt m e.inf = (e.inf, 0)
      ∧ e.F.sqrt m (e.sign + e.inf) = (e.nan, fNV)
      ∧ e.F.exp2 0 = (e.one, 0) ∧ e.F.exp2 e.sign = (e.one, 0) ∧ e.F.exp2 e.inf = (e.inf, 0)
      ∧ e.F.exp2 (e.sign + e.inf) = (0, 0)
      ∧ e.F.log2 0 = (e.sign + e.inf, fDZ) ∧ e.F.log2 e.sign = (e.sign + e.inf, fDZ) ∧ e.F.log2 e.inf = (e.inf, 0)
      ∧ e.F.log2 (e.sign + e.inf) = (e.nan, fNV)
      ∧ e.F.sin 0 = (0, 0) ∧ e.F.sin e.sign = (e.sign, 0) ∧ e.F.cos 0 = (e.one, 0) ∧ e.F.cos e.sign = (e.one, 0)
      ∧ (∀ x ∈ [e.inf, e.sign + e.inf], e.F.sin x = (e.nan, fNV) ∧ e.F.cos x = (e.nan, fNV))
      ∧ e.F.tanh 0 = (0, 0) ∧ e.F.tanh e.sign = (e.sign, 0) ∧ e.F.tanh e.inf = (e.one, 0)
      ∧ e.F.tanh (e.sign + e.inf) = (e.sign + e.one, 0)
      ∧ (∀ x, e.F.decode x = .nan → e.F.rcp m x = (e.nan, 0) ∧ e.F.rsq x = (e.nan, 0) ∧ e.F.sqrt m x = (e.nan, 0)
          ∧ e.F.exp2 x = (e.nan, 0) ∧ e.F.log2 x = (e.nan, 0) ∧ e.F.sin x = (e.nan, 0) ∧ e.F.cos x = (e.nan, 0)
          ∧ e.F.tanh x = (e.nan, 0))
      ∧ ∀ x n d, e.F.decode x = .fin true n d → n ≠ 0 →
          e.F.rsq x = (e.nan, fNV) ∧ e.F.sqrt m x = (e.nan, fNV) ∧ e.F.log2 x = (e.nan, fNV) := by
  intro e he m
  obtain ⟨hnan, hinf, hninf, hz, hnz, hone, hnone, ⟨d, h0⟩, ⟨d', h1⟩, hi, hni⟩ := specials_encoded e he
  refine ⟨?_, ?_, ?_, ?_, ?_, ?_, ?_, ?_, ?_, ?_, ?_, ?_, ?_, ?_, ?_, ?_, ?_, ?_, ?_, ?_, ?_, ?_, ?_, ?_, ?_, ?_, ?_, ?_, ?_,
    fun x h => ?nan, fun x n d h hn => ?neg⟩
  case nan =>
    rw [← hnan]
    obtain ⟨hs, hc⟩ := (sinCos_special e.F x).2.2 h
    exact ⟨(rcp_special e.F m x).2.2 h, (rsq_special e.F x).2.2.1 h, (sqrt_special e.F m x).2.2.1 h,
      (exp2_special e.F x).2.2 h, (log2_special e.F x).2.2.1 h, hs, hc, (tanh_special e.F x).2.2 h⟩
  case neg =>
    rw [← hnan]
    exact ⟨(rsq_special e.F x).2.2.2 n d h hn, (sqrt_special e.F m x).2.2.2 n d h hn, (log2_special e.F x).2.2.2 n d h hn⟩
  · rw [(rcp_special ..).1 _ _ h0, hinf]
  · rw [(rcp_special ..).1 _ _ h1, hninf]
  · rw [(rcp_special ..).2.1 _ hi, hz]
  · rw [(rcp_special ..).2.1 _ hni, hnz]
  · rw [(rsq_special ..).1 _ _ h0, hinf]
  · rw [(rsq_special ..).1 _ _ h1, hninf]
  · rw [(rsq_special ..).2.1 _ hi, hz, if_neg Bool.false_ne_true]
  · rw [(rsq_special ..).2.1 _ hni, hnan, if_pos rfl]
  · rw [(sqrt_special ..).1 _ _ h0, hz]
  · rw [(sqrt_special ..).1 _ _ h1, hnz]
  · rw [(sqrt_special ..).2.1 _ hi, hinf, if_neg Bool.false_ne_true]
  · rw [(sqrt_special ..).2.1 _ hni, hnan, if_pos rfl]
  · rw [(exp2_special ..).1 _ _ h0, hone]
  · rw [(exp2_special ..).1 _ _ h1, hone]
  · rw [(exp2_special ..).2.1 _ hi, hinf, if_neg Bool.false_ne_true]
  · rw [(exp2_special ..).2.1 _ hni, hz, if_pos rfl]
  · rw [(log2_special ..).1 _ _ h0, hninf]
  · rw [(log2_special ..).1 _ _ h1, hninf]
  · rw [(log2_special ..).2.1 _ hi, hinf, if_neg Bool.false_ne_true]
  · rw [(log2_special ..).2.1 _ hni, hnan, if_pos rfl]
  · rw [((sinCos_special ..).1 _ _ h0).1, hz]
  · rw [((sinCos_special ..).1 _ _ h1).1, hnz]
  · rw [((sinCos_special ..).1 _ _ h0).2, hone]
  · rw [((sinCos_special ..).1 _ _ h1).2, hone]
  · simp only [List.forall_mem_cons, ← hnan]
    exact ⟨(sinCos_special ..).2.1 _ hi, (sinCos_special ..).2.1 _ hni, by simp⟩
  · rw [(tanh_special ..).1 _ _ h0, hz]
  · rw [(tanh_special ..).1 _ _ h1, hnz]
  · rw [(tanh_special ..).2.1 _ hi, hone]
  · rw [(tanh_special ..).2.1 _ hni, hnone]

end Sys2Proof.Machine
end

/-! ## Conversions -/

section
open Sys2Proof Sys2Proof.Machine

namespace Sys2Proof.Machine

/-! ### Rounding a real to an integer -/

/-- A number of whole part q and a rest of r / d rounded to an integer in a mode (R91). -/
def roundSplit (m : Nat) (q : Int) (r d : Nat) : Int :=
  match m with
  | 0 => if 2 * r < d then q else if d < 2 * r then q + 1 else if q % 2 = 0 then q else q + 1
  | 1 => if q < 0 then (if r = 0 then q else q + 1) else q
  | 2 => if r = 0 then q else q + 1
  | _ => q

section
variable {v : Rat} {q : Int} {r d : Nat}

/-- The whole part of a fraction. -/
theorem floor_of_split (hr : r < d) (hv : v = q + (r : Rat) / d) : v.floor = q := by
  have hd : (0 : Rat) < d := by exact_mod_cast (Nat.zero_le r).trans_lt hr
  have h1 : (r : Rat) / d < 1 := (div_lt_one hd).mpr (by exact_mod_cast hr)
  have h0 : (0 : Rat) ≤ (r : Rat) / d := by positivity
  have hf : ⌊v⌋ = q := Int.floor_eq_iff.mpr ⟨by rw [hv]; linarith, by rw [hv]; linarith⟩
  exact hf

/-- The integer above a fraction. -/
theorem ceil_of_split (hr : r < d) (hv : v = q + (r : Rat) / d) : v.ceil = if r = 0 then q else q + 1 := by
  have hd : (0 : Rat) < d := by exact_mod_cast (Nat.zero_le r).trans_lt hr
  split
  next h =>
    rw [h, Nat.cast_zero, zero_div, add_zero] at hv
    rw [hv, Rat.ceil_intCast]
  next h =>
    have h1 : (r : Rat) / d < 1 := (div_lt_one hd).mpr (by exact_mod_cast hr)
    have h0 : (0 : Rat) < (r : Rat) / d := div_pos (by exact_mod_cast Nat.pos_of_ne_zero h) hd
    have hge : q < v.ceil := Rat.lt_ceil_iff.mpr (by rw [hv]; linarith)
    have hle : v.ceil ≤ q + 1 := Rat.ceil_le_iff.mpr (by rw [hv]; push_cast; linarith)
    omega

/-- A fraction lies below 0 where its whole part does. -/
theorem neg_of_split (hr : r < d) (hv : v = q + (r : Rat) / d) : v < 0 ↔ q < 0 := by
  rw [← floor_of_split hr hv]
  exact Int.floor_lt_zero.symm

/-- A real rounded, by its whole part and the rest. -/
theorem roundedTo_of_split (m : Nat) (hr : r < d) (hv : v = q + (r : Rat) / d) :
    Claims.roundedTo m v = roundSplit m q r d := by
  have hd : (0 : Rat) < d := by exact_mod_cast (Nat.zero_le r).trans_lt hr
  have hs : v - (q : Rat) = (r : Rat) / d := by rw [hv]; ring
  have hlo : (r : Rat) / d < 1 / 2 ↔ 2 * r < d := by
    rw [div_lt_div_iff₀ hd two_pos]
    exact_mod_cast (by omega : r * 2 < 1 * d ↔ 2 * r < d)
  have hhi : 1 / 2 < (r : Rat) / d ↔ d < 2 * r := by
    rw [div_lt_div_iff₀ two_pos hd]
    exact_mod_cast (by omega : 1 * d < r * 2 ↔ d < 2 * r)
  rcases m with _ | _ | _ | m <;>
    simp only [Claims.roundedTo, roundSplit, ceil_of_split hr hv, floor_of_split hr hv, neg_of_split hr hv, hs, hlo, hhi]

/-- A rounded real is the real itself where there is no rest. -/
theorem roundedTo_exact (m : Nat) (hr : r < d) (hv : v = q + (r : Rat) / d) :
    (Claims.roundedTo m v : Rat) = v ↔ r = 0 := by
  constructor
  · intro h
    have hc : v.ceil = v.floor := by rw [← h, Rat.ceil_intCast, Rat.floor_intCast]
    rw [ceil_of_split hr hv, floor_of_split hr hv] at hc
    by_contra h0
    rw [if_neg h0] at hc
    omega
  · rintro rfl
    rw [Nat.cast_zero, zero_div, add_zero] at hv
    rw [roundedTo_of_split m hr (by rw [hv, Nat.cast_zero, zero_div, add_zero]), hv]
    norm_cast
    rcases m with _ | _ | _ | m <;> simp [roundSplit, hr]

end

/-- A fraction of a sign, split into its whole part and the rest. -/
theorem signed_split (s : Bool) (n : Nat) {d : Nat} (hd : 0 < d) :
    (if s then -1 else 1) * (n : Rat) / d
      = ((if s then (if n % d = 0 then -((n / d : Nat) : Int) else -((n / d : Nat) : Int) - 1) else ((n / d : Nat) : Int) : Int) : Rat)
        + ((if s && n % d ≠ 0 then d - n % d else n % d : Nat) : Rat) / d := by
  have hd' : (d : Rat) ≠ 0 := by exact_mod_cast hd.ne'
  have hn : (n : Rat) = d * (n / d : Nat) + (n % d : Nat) := by exact_mod_cast (Nat.div_add_mod n d).symm
  have hlt := Nat.mod_lt n hd
  rw [hn]
  generalize n / d = q
  generalize n % d = r at *
  cases s
  case false => 
    simp; field_simp
  case true => 
    by_cases h : r = 0
    · simp [h]; field_simp
    · simp [h, Nat.cast_sub hlt.le]; field_simp; ring

/-- A fraction of a sign rounded, as the claims round a real (R91). -/
theorem roundInt_eq (s : Bool) (n : Nat) {d m : Nat} (hd : 0 < d) (hm : m < 4) :
    (if s then -((roundInt n d false m s).1 : Int) else ((roundInt n d false m s).1 : Int))
        = Claims.roundedTo m ((if s then -1 else 1) * (n : Rat) / d)
      ∧ ((roundInt n d false m s).2 = false ↔
        (Claims.roundedTo m ((if s then -1 else 1) * (n : Rat) / d) : Rat) = (if s then -1 else 1) * (n : Rat) / d) := by
  have hlt := Nat.mod_lt n hd
  have hr : (if s && n % d ≠ 0 then d - n % d else n % d) < d := by split <;> simp_all; omega
  rw [roundedTo_exact m hr (signed_split s n hd), roundedTo_of_split m hr (signed_split s n hd)]
  unfold roundInt
  generalize n / d = q
  generalize n % d = r at *
  cases s
  case false =>
    constructor
    · (interval_cases m <;> simp [roundSplit]); omega
    · simp
  case true =>
    by_cases h : r = 0
    · subst h
      constructor
      · (interval_cases m <;> simp [roundSplit, hd]); omega
      · simp
    · constructor
      · interval_cases m <;> simp [roundSplit, h] <;> omega
      · simp [h]
        omega

/-! ### Conversion to an integer type (Table 4-8) -/

/-- An integer is limited exactly where its low bits stand for another. -/
theorem clampInt_eq_self_iff (sg : Bool) {w : Nat} (hw : w ∈ [8, 16, 32, 64]) (i : Int) :
    clampInt sg w i = i ↔ Claims.readInt sg w (BitVec.ofInt w i).toNat = i := by
  have hread : Claims.readInt sg w (BitVec.ofInt w i).toNat = if sg then i.bmod (2 ^ w) else i % 2 ^ w := by
    unfold Claims.readInt
    rw [BitVec.ofNat_toNat, BitVec.setWidth_eq, BitVec.toInt_ofInt, BitVec.toNat_ofInt, Int.toNat_of_nonneg (Int.emod_nonneg _ (by positivity))]
    norm_cast
  rw [hread, clampInt_eq]
  simp only [List.mem_cons, List.not_mem_nil, or_false] at hw
  rcases hw with rfl | rfl | rfl | rfl <;> cases sg <;> simp [minInt, maxInt, Int.bmod_def] <;> omega

/-- A NaN or an infinity converted to an integer type. -/
theorem intFromVal_special (sg wrap : Bool) {w : Nat} (hw : w ∈ [8, 16, 32, 64]) (m : Nat) :
    intFromVal sg w m wrap .nan = (0, fNV)
      ∧ (∀ s, intFromVal sg w m true (.inf s) = (0, fNV))
      ∧ ∀ s, intFromVal sg w m false (.inf s) = (if s then (if sg then 2 ^ (w - 1) else 0)
          else if sg then 2 ^ (w - 1) - 1 else 2 ^ w - 1, fNV) := by
  have hlim : ∀ w ∈ [8, 16, 32, 64], ∀ sg s : Bool, wrapInt w (if s then minInt sg w else maxInt sg w)
      = if s then (if sg then 2 ^ (w - 1) else 0) else if sg then 2 ^ (w - 1) - 1 else 2 ^ w - 1 := by decide
  refine ⟨rfl, fun _ => rfl, fun s => ?_⟩
  rw [← hlim w hw]
  rfl

/-- A finite value converted to an integer type is a real rounded once, and limited or wrapped. -/
theorem intFromVal_fin (sg wrap s : Bool) {w : Nat} (hw : w ∈ [8, 16, 32, 64]) {m : Nat} (n : Nat) {d : Nat} (hd : 0 < d)
    (hm : m < 4) : intFromVal sg w m wrap (.fin s n d) = Claims.toIntType sg w m wrap ((if s then -1 else 1) * (n : Rat) / d) := by
  obtain ⟨hi, hx⟩ := roundInt_eq s n hd hm
  unfold intFromVal Claims.toIntType
  simp only [hi, intFromInt, writeInt_eq, flagIf]
  congr 2
  · cases wrap <;> rfl
  · rw [← Bool.not_eq_true] at hx
    by_cases h : (roundInt n d false m s).2 = true
    · rw [if_pos h, if_pos (fun he => hx.mpr he h)]
    · rw [if_neg h, if_neg (not_not.mpr (hx.mp h))]
  · by_cases h : clampInt sg w (Claims.roundedTo m ((if s then -1 else 1) * (n : Rat) / d)) = Claims.roundedTo m ((if s then -1 else 1) * (n : Rat) / d)
    · rw [h, if_neg (by simp), if_neg (not_not.mpr ((clampInt_eq_self_iff sg hw _).mp h))]
    · rw [if_pos (by simpa using h), if_pos (fun he => h ((clampInt_eq_self_iff sg hw _).mpr he))]

/-- An integer written into an integer type. -/
theorem intFromInt_eq (sg wrap : Bool) (w : Nat) (i : Int) : intFromInt sg w wrap i = Claims.writeInt sg (!wrap) w i := by
  rw [writeInt_eq, intFromInt]
  cases wrap <;> rfl

/-! ### Conversion to a float format (Table 4-8) -/

/-- The floor of a logarithm, of a fraction that is at least a power of 2. -/
theorem floorLog2_of_le {n d t : Nat} (hd : 0 < d) (h : 2 ^ t * d ≤ n) :
    ∃ e : Nat, floorLog2 n d = e ∧ t ≤ e ∧ 2 ^ e * d ≤ n := by
  have hn : n ≠ 0 := fun h0 => by
    rw [h0, Nat.le_zero, Nat.mul_eq_zero] at h
    exact h.elim (Nat.two_pow_pos t).ne' hd.ne'
  have hlog : t + d.log2 ≤ n.log2 := by
    rw [Nat.le_log2 hn, pow_add]
    exact (Nat.mul_le_mul_left _ (Nat.log2_self_le hd.ne')).trans h
  obtain ⟨k, hk⟩ : ∃ k, n.log2 = k + d.log2 := ⟨n.log2 - d.log2, by omega⟩
  have hk0 : ((n.log2 : Int) - d.log2) = (k : Int) := by omega
  unfold floorLog2
  simp only [hk0, scale2, Int.natCast_nonneg, if_true, Int.toNat_natCast, Nat.mul_one]
  split
  next hle => exact ⟨k, rfl, by omega, by rwa [Nat.mul_comm]⟩
  next hle =>
    have hkt : t ≠ k := fun he => hle (by rw [← he, Nat.mul_comm]; exact h)
    refine ⟨k - 1, by omega, by omega, ?_⟩
    have hdlt : d < 2 ^ (d.log2 + 1) := Nat.lt_log2_self
    calc 2 ^ (k - 1) * d ≤ 2 ^ (k - 1) * 2 ^ (d.log2 + 1) := Nat.mul_le_mul_left _ hdlt.le
      _ = 2 ^ n.log2 := by rw [← pow_add]; congr 1; omega
      _ ≤ n := Nat.log2_self_le hn

/-- A rounded fraction is at least its whole part. -/
theorem div_le_roundInt (n d : Nat) (more : Bool) (mode : Nat) (neg : Bool) : n / d ≤ (roundInt n d more mode neg).1 := by
  unfold roundInt
  dsimp only
  split_ifs
  · exact Nat.le_succ _
  · exact le_rfl

/-- A value from a power of 2 on whose exponent field is beyond the largest finite value's overflows (R142). -/
theorem round_beyond {F : Fmt} {n d t : Nat} (mode : Nat) (p : Beyond) (neg more : Bool) (hd : 0 < d) (h : 2 ^ t * d ≤ n)
    (hm : F.m ≤ t) (hmin : F.emin ≤ t) (hbig : F.largest false < (t + F.bias) * 2 ^ F.m) :
    F.round mode p neg n d more = (F.beyond mode p neg, fOF ||| fNX) := by
  obtain ⟨e, he, hte, hle⟩ := floorLog2_of_le hd h
  have hn : n ≠ 0 := fun h0 => by
    rw [h0, Nat.le_zero, Nat.mul_eq_zero] at h
    exact h.elim (Nat.two_pow_pos t).ne' hd.ne'
  have hlo : (if (e : Int) < F.emin then F.emin else (e : Int)) = e := if_neg (by omega)
  have hscale : downscale n d ((e : Int) - F.m) = (n, d * 2 ^ (e - F.m)) := by
    unfold downscale
    rw [if_pos (by omega)]
    congr 3
    omega
  have hmant : 2 ^ F.m ≤ (roundInt n (d * 2 ^ (e - F.m)) more mode neg).1 := by
    refine le_trans ?_ (div_le_roundInt ..)
    rw [Nat.le_div_iff_mul_le (by positivity), Nat.mul_left_comm, ← pow_add, Nat.add_sub_cancel' (hm.trans hte), Nat.mul_comm]
    exact hle
  unfold Fmt.round
  simp only [if_neg hn, he, hlo, hscale]
  refine if_pos ?_
  generalize roundInt n (d * 2 ^ (e - F.m)) more mode neg = r at hmant
  refine hbig.trans_le ?_
  have hnot : ¬ (if r.1 == 2 ^ (F.m + 1) then 2 ^ F.m else r.1) < 2 ^ F.m := by split <;> omega
  rw [if_neg hnot, Fmt.mk']
  have hfield : t + F.bias ≤ ((if r.1 == 2 ^ (F.m + 1) then (e : Int) + 1 else e) + F.bias).toNat := by split <;> omega
  simp only [Bool.toNat_false, Nat.zero_mul, Nat.zero_add]
  exact (Nat.mul_le_mul_right _ hfield).trans (Nat.le_add_right _ _)

/-- NaN, the infinities, and what lies beyond the largest finite value, converted to a float format. -/
theorem fmtFromVal_special : ∀ e ∈ Claims.narrowFormats, ∀ (m : Nat) (s : Bool),
      let sign := if s then e.sign else 0
      fmtFromVal e.F m true .nan = (e.nan, 0) ∧ fmtFromVal e.F m false .nan = (e.nan, 0)
      ∧ fmtFromVal e.F m false (.inf s) = (sign + e.big, 0) ∧ fmtFromVal e.F m true (.inf s) = (sign + e.inf, 0)
      ∧ ∀ n d, 0 < d → e.top * d ≤ n → fmtFromVal e.F m false (.fin s n d) = (sign + e.big, fOF ||| fNX)
          ∧ fmtFromVal e.F m true (.fin s n d) = (sign + e.inf, fOF ||| fNX) := by
  have hcodes : ∀ e ∈ Claims.narrowFormats, e.F.defaultNaN = e.nan
      ∧ (∀ s : Bool, e.F.largest s = (if s then e.sign else 0) + e.big ∧ e.F.infinity s = (if s then e.sign else 0) + e.inf)
      ∧ ∃ t, e.top = 2 ^ t ∧ e.F.m ≤ t ∧ e.F.emin ≤ t ∧ e.F.largest false < (t + e.F.bias) * 2 ^ e.F.m := by
    simp only [Claims.narrowFormats, Claims.specials, List.forall_mem_append, List.forall_mem_cons]
    refine ⟨⟨?_, ?_, ?_, by simp⟩, ?_, ?_, by simp⟩
    · exact ⟨by decide, by decide, 128, by decide⟩
    · exact ⟨by decide, by decide, 16, by decide⟩
    · exact ⟨by decide, by decide, 128, by decide⟩
    · exact ⟨by decide, by decide, 16, by decide⟩
    · exact ⟨by decide, by decide, 9, by decide⟩
  intro e he m s
  obtain ⟨hnan, hs, t, htop, hm, hmin, hbig⟩ := hcodes e he
  obtain ⟨hl, hi⟩ := hs s
  dsimp only
  rw [← hnan, ← hl, ← hi]
  refine ⟨rfl, rfl, rfl, rfl, fun n d hd hn => ?_⟩
  rw [htop] at hn
  exact ⟨round_beyond m .saturate s false hd hn hm hmin hbig, round_beyond m .wrap s false hd hn hm hmin hbig⟩

/-! ### Conversion to the Q4O grid (R99) -/

/-- The grid value at or below a magnitude is a doubling of the first outlier, the last one that is not above. -/
theorem q4Below_spec {k n d lo : Nat} (h : lo * d ≤ n) :
    ∃ j, q4Below k n d lo = lo * 2 ^ j ∧ q4Below k n d lo * d ≤ n ∧ (j = k ∨ n < 2 * q4Below k n d lo * d) := by
  induction k generalizing lo with
  | zero => exact ⟨0, by simp [q4Below], h, .inl rfl⟩
  | succ k ih =>
    unfold q4Below
    split
    next hle =>
      obtain ⟨j, hj, hd, hn⟩ := ih hle
      exact ⟨j + 1, by rw [hj, pow_succ]; ring, hd, hn.imp (by omega) id⟩
    next hlt => exact ⟨0, by simp, h, .inr (by omega)⟩

/-- Beyond 1,024 the grid value below a magnitude is 1,024 or from 2,048 on. -/
theorem q4Below_beyond {n d : Nat} (s : Bool) (h : 1024 * d < n) :
    let lo := q4Below 160 n d (if s then 16 else 8)
    lo * d ≤ n ∧ (lo = 1024 ∨ 2048 ≤ lo) := by
  have hfirst : (if s then 16 else 8) * d ≤ n := by cases s <;> simp <;> omega
  obtain ⟨j, hj, hle, hn⟩ := q4Below_spec (k := 160) hfirst
  obtain ⟨p, hp, hjp⟩ : ∃ p, q4Below 160 n d (if s then 16 else 8) = 2 ^ p ∧ j ≤ p := by
    rw [hj]
    cases s
    case false => exact ⟨3 + j, by rw [pow_add]; rfl, by omega⟩
    case true => exact ⟨4 + j, by rw [pow_add]; rfl, by omega⟩
  refine ⟨hle, ?_⟩
  rw [hp] at hn ⊢
  rcases Nat.lt_trichotomy p 10 with h10 | rfl | h10
  · have h512 : 2 ^ p ≤ 2 ^ 9 := Nat.pow_le_pow_right two_pos (by omega)
    have := Nat.mul_le_mul_right d h512
    rw [Nat.mul_assoc] at hn
    omega
  · exact .inl rfl
  · exact .inr (Nat.pow_le_pow_right (n := 2) two_pos h10)

/-- A magnitude beyond 1,024 rounded to the grid. -/
theorem q4Round_beyond {n d : Nat} (m : Nat) (s : Bool) (h : 1024 * d < n) :
    q4Round m s n d = (if s then -1024 else 1024,
      if m = 1 ∨ (m = 2 ∧ s = true) ∨ (m = 3 ∧ s = false) ∨ (m = 0 ∧ n < 1536 * d) then fNX else fOF ||| fNX) := by
  obtain ⟨hle, hlo⟩ := q4Below_beyond s h
  have h7 : ¬ n ≤ 7 * d := by omega
  have hfirst : ¬ n < (if s then 16 else 8) * d := by cases s <;> simp <;> omega
  unfold q4Round
  simp only [h7, hfirst, if_false]
  generalize q4Below 160 n d (if s then 16 else 8) = lo at hle hlo
  have he : q4Even 1024 = false := by decide
  have hsign : (if s = true then -((1024 : Nat) : Int) else ((1024 : Nat) : Int)) = if s then -1024 else 1024 := rfl
  by_cases hz : (m == 1 || (m == 2 && s) || (m == 3 && !s)) = true
  · have hp : m = 1 ∨ (m = 2 ∧ s = true) ∨ (m = 3 ∧ s = false) ∨ (m = 0 ∧ n < 1536 * d) := by simp at hz; tauto
    simp only [hz, hp, if_true, ite_self]
    rcases hlo with rfl | hlo
    · simp [flagIf, h.ne]
    · simp [show 1024 < lo by omega]
  · rw [Bool.not_eq_true] at hz
    have hp : (m = 1 ∨ (m = 2 ∧ s = true) ∨ (m = 3 ∧ s = false) ∨ (m = 0 ∧ n < 1536 * d)) ↔ m = 0 ∧ n < 1536 * d := by
      cases s <;> simp at hz ⊢ <;> omega
    simp only [hz, hp, Bool.false_eq_true, if_false]
    have h2048 : 2048 ≤ lo → 2048 * d ≤ n := fun hl => (Nat.mul_le_mul_right d hl).trans hle
    by_cases hm : m = 0 ∧ n < 1536 * d
    · obtain rfl : lo = 1024 := hlo.resolve_right (fun hl => by have := h2048 hl; omega)
      obtain ⟨rfl, hlt⟩ := hm
      have hlt' : 2 * n < 3072 * d := by omega
      simp [h.ne, hlt, hlt', flagIf]
    · rw [if_neg hm]
      refine if_pos ?_
      obtain ⟨p, hp, hp2048⟩ : ∃ p, (if lo * d = n then lo else 2 * lo) = p ∧ 2048 ≤ p := by
        refine ⟨_, rfl, ?_⟩
        rcases hlo with rfl | hlo
        · rw [if_neg h.ne]
        · split <;> omega
      have h7 : (s && lo == 7) = false := by simp; omega
      simp only [hp, h7, Bool.false_eq_true, if_false]
      rcases hlo with rfl | hlo
      · have hge : m ≠ 0 ∨ ¬ 2 * n < (1024 + 2048) * d := by omega
        rw [if_neg h.ne] at hp
        subst hp
        simp only [he, Bool.false_eq_true, if_false, bne_iff_ne, ne_eq]
        split_ifs <;> omega
      · split_ifs <;> omega

/-! ### UNPACK (R102) -/

/-- An element of a word is a field of it. -/
theorem elt_eq_extract (x : Word) (w n : Nat) : elt x.toNat w n = (x.extractLsb' (w * n) w).toNat := by
  rw [BitVec.extractLsb'_toNat, Nat.shiftRight_eq_div_pow]
  rfl

/-- An integer is written as an integer. -/
theorem intFromVal_valOfInt (sg : Bool) (w m : Nat) (wrap : Bool) (i : Int) :
    (intFromVal sg w m wrap (valOfInt i)).1 = intFromInt sg w wrap i := by
  have hr : ∀ neg, (roundInt i.natAbs 1 false m neg).1 = i.natAbs := fun neg => by
    rcases m with _ | _ | _ | m <;> simp [roundInt, Nat.mod_one]
  simp only [valOfInt, intFromVal, hr]
  congr 1
  by_cases h : i < 0
  · simp only [h, decide_true, if_true]
    omega
  · simp only [h, decide_false, Bool.false_eq_true, if_false]
    omega

/-- An integer in the range of a type keeps its value. -/
theorem intFromInt_of_range {sg : Bool} {w : Nat} (wrap : Bool) {i : Int} (hlo : minInt sg w ≤ i) (hhi : i ≤ maxInt sg w) :
    intFromInt sg w wrap i = (BitVec.ofInt w i).toNat := by
  have hc : clampInt sg w i = i := by rw [clampInt_eq]; omega
  rw [intFromInt, hc, ite_self, wrapInt_eq]

/-- An integer of fewer than 32 bits is one of 32 bits. -/
theorem readInt_range (sg : Bool) {w : Nat} (x : BitVec w) (hlt : w < 32) :
    minInt sg 32 ≤ Claims.readInt sg w x.toNat ∧ Claims.readInt sg w x.toNat ≤ maxInt sg 32 := by
  have hpow : ∀ k, k ≤ 31 → (2 : Int) ^ k ≤ 2 ^ 31 := fun k hk => pow_le_pow_right₀ (by norm_num) hk
  unfold Claims.readInt minInt maxInt
  rw [BitVec.ofNat_toNat, BitVec.setWidth_eq]
  cases sg
  case false =>
    have hx : (x.toNat : Int) < 2 ^ w := by exact_mod_cast x.isLt
    have := hpow w (by omega)
    simp only [Bool.false_eq_true, if_false]
    omega
  case true =>
    have hlo := BitVec.le_toInt x
    have hhi := BitVec.toInt_lt (x := x)
    have := hpow (w - 1) (by omega)
    simp only [if_true]
    omega

/-- UNPACK extends a narrow integer as its type's sign says. -/
theorem unpackVal_narrow (x : Word) (n : Nat) {dt st w : Nat} {sg : Bool} (hfl : floatTy st = false) (h10 : st ≠ 10)
    (hdt : dt ≠ 3) (hsg : signedTy st = sg) (hsd : signedTy dt = sg) (hw : eltBits st = w) (hlt : w < 32) :
    unpackVal dt st n x.toNat = ((if sg then (x.extractLsb' (w * n) w).signExtend 32
      else (x.extractLsb' (w * n) w).setWidth 32).toNat, false) := by
  subst hsg hw
  obtain ⟨hlo, hhi⟩ := readInt_range (signedTy st) (x.extractLsb' (eltBits st * n) (eltBits st)) hlt
  unfold unpackVal eltVal
  simp only [h10, hfl, hdt, if_false, Bool.false_eq_true, intFromVal_valOfInt, hsd, elt_eq_extract]
  rw [extend_eq_ofInt, toInt_eq_readInt _ (BitVec.isLt _), intFromInt_of_range _ hlo hhi]

/-- UNPACK of an element whose Q4O byte is known. -/
theorem unpackVal_q4 (x : Word) (n : Nat) (dt : Nat) {b : BitVec 8} (h : x.extractLsb' (8 * (n / 2)) 8 = b) :
    unpackVal dt 10 n x.toNat = unpackVal dt 10 (n % 2) b.toNat := by
  have hb : elt x.toNat 8 (n / 2) = elt b.toNat 8 (n % 2 / 2) := by
    rw [elt_eq_extract, h, show n % 2 / 2 = 0 by omega, elt, Nat.mul_zero, pow_zero, Nat.div_one, Nat.mod_eq_of_lt b.isLt]
  have he : eltVal x.toNat 10 n = eltVal b.toNat 10 (n % 2) := by
    simp only [eltVal, if_true, q4Elt, hb, Nat.mod_mod]
  rw [unpackVal, unpackVal, he]

/-- PACK of two values of the grid. -/
theorem packVal_q4 (old : Nat) (h : old < 2 ^ 32) : packVal 10 1 0 false old 0x40266666 0x41F00000
    = (old % 256 + 0x82 * 256 + old / 65536 * 65536, fNX) := by
  have ha : q4FromVal 0 (fp32.decode 0x40266666) = (3, fNX) := by decide +kernel
  have hb : q4FromVal 0 (fp32.decode 0x41F00000) = (32, fNX) := by decide +kernel
  have hr : q4Byte 3 32 = (0x82, fNX) := by decide
  unfold packVal
  simp only [if_true, ha, hb, hr, setElt, elt]
  congr 1
  omega

/-- Values converted to the Q4O grid (Table 4-8). -/
theorem q4FromVal_special (m : Nat) (s : Bool) (hm : m < 4) :
      let sign (q : Int) : Int := if s then -q else q
      q4FromVal m .nan = (0, fNV) ∧ q4FromVal m (.inf s) = (sign 1024, fNV)
      ∧ (∀ n ∈ [0, 1, 2, 3, 4, 5, 6, 7, 16, 32, 64, 128, 256, 512, 1024], q4FromVal m (.fin s n 1) = (sign n, 0))
      ∧ q4FromVal m (.fin false 8 1) = (8, 0)
      ∧ (∀ n d, 0 < d → 1024 * d < n → n < 1536 * d → q4FromVal 0 (.fin s n d) = (sign 1024, fNX))
      ∧ (∀ n d, 0 < d → 1536 * d ≤ n → q4FromVal 0 (.fin s n d) = (sign 1024, fOF ||| fNX))
      ∧ (∀ n d, 0 < d → 1024 * d < n → m ≠ 0 → q4FromVal m (.fin s n d)
          = (sign 1024, if m = 1 ∨ (m = 2 ∧ s = true) ∨ (m = 3 ∧ s = false) then fNX else fOF ||| fNX)) := by
  have hgrid : ∀ m < 4, ∀ s : Bool, ∀ n ∈ [0, 1, 2, 3, 4, 5, 6, 7, 16, 32, 64, 128, 256, 512, 1024],
      q4FromVal m (.fin s n 1) = (if s then -(n : Int) else n, 0) := by decide +kernel
  have h8 : ∀ m < 4, q4FromVal m (.fin false 8 1) = (8, 0) := by decide +kernel
  refine ⟨rfl, rfl, hgrid m hm s, h8 m hm, fun n d _ h hlt => ?_, fun n d _ h => ?_, fun n d _ h h0 => ?_⟩
  · exact (q4Round_beyond 0 s h).trans (by simp [hlt])
  · exact (q4Round_beyond 0 s (by omega)).trans (by simp [show ¬ n < 1536 * d by omega])
  · exact (q4Round_beyond m s h).trans (by simp [h0])

/-- Settles O23: the instructions by the body of their queue, the special inputs by what each function does with a zero, an
infinity and NaN, the conversions by rounding a real once. -/
theorem queuedIssue : Obligations.QueuedIssue := by
  unfold Obligations.QueuedIssue
  refine ⟨queuedCases_complete, fun f s u => ⟨sfu_waits f s u, conversion_waits f s u⟩, ⟨specials_eq, fdiv32_special⟩,
    fun sg wrap w m hw => ?int, fmtFromVal_special, q4FromVal_special, by decide +kernel, by decide +kernel, packVal_q4,
    fun x n => ⟨fun _ => ?byte, fun _ => ?half, fun _ h => ?ill, fun _ h => ?outlier⟩⟩
  case int =>
    obtain ⟨hnan, hinf, hlim⟩ := intFromVal_special sg wrap hw m
    exact ⟨hnan, hinf, hlim, fun s n d hd hm => intFromVal_fin sg wrap s hw n hd hm, intFromInt_eq sg wrap w⟩
  case byte =>
    constructor
    · exact unpackVal_narrow x n rfl (by decide) (by decide) rfl rfl rfl (by decide)
    · rw [unpackVal_narrow x n (w := 8) (sg := false) rfl (by decide) (by decide) rfl rfl rfl (by decide)]
      rw [if_neg Bool.false_ne_true, BitVec.toNat_setWidth_of_le (by decide)]
  case half =>
    constructor
    · exact unpackVal_narrow x n rfl (by decide) (by decide) rfl rfl rfl (by decide)
    · rw [unpackVal_narrow x n (w := 16) (sg := false) rfl (by decide) (by decide) rfl rfl rfl (by decide)]
      rw [if_neg Bool.false_ne_true, BitVec.toNat_setWidth_of_le (by decide)]
  case ill =>
    rw [unpackVal_q4 x n 3 h, unpackVal_q4 x n 1 h]
    have hn := Nat.mod_lt n two_pos
    generalize n % 2 = k at hn
    interval_cases k <;> decide +kernel
  case outlier =>
    have h0 : x.extractLsb' (8 * (2 * n / 2)) 8 = 0x82 := by rw [Nat.mul_div_cancel_left n two_pos, h]
    have h1 : x.extractLsb' (8 * ((2 * n + 1) / 2)) 8 = 0x82 := by rw [show (2 * n + 1) / 2 = n by omega, h]
    rw [unpackVal_q4 x _ 1 h0, unpackVal_q4 x _ 1 h1, unpackVal_q4 x _ 3 h1, Nat.mul_mod_right,
      show (2 * n + 1) % 2 = 1 by omega]
    decide +kernel

end Sys2Proof.Machine
end

/-! ## Cross-lane instructions -/

section
open Sys2Proof Sys2Proof.Machine

namespace Sys2Proof.Machine

/-! ### The tree over the lanes (R121) -/

/-- The union of some flags. -/
def orAll (h : Nat → FpFlags) : Nat → FpFlags
  | 0 => 0
  | n + 1 => h 0 ||| orAll (fun i => h (i + 1)) n

/-- The flags of two runs, one after the other. -/
theorem orAll_add (h : Nat → FpFlags) (a b : Nat) : orAll h (a + b) = orAll h a ||| orAll (fun i => h (i + a)) b := by
  induction a generalizing h with
  | zero => simp [orAll]
  | succ a ih =>
    rw [Nat.succ_add, orAll, orAll, ih, BitVec.or_assoc]
    simp only [Nat.add_assoc, Nat.add_comm a 1]

section
variable (g : Nat → Nat → Nat × FpFlags) (x : Nat → Nat)

/-- The values of the nodes over two leaves each. -/
def pairVal (i : Nat) : Nat := (g (x (2 * i)) (x (2 * i + 1))).1

/-- The flags of the nodes over two leaves each. -/
def pairFlag (i : Nat) : FpFlags := (g (x (2 * i)) (x (2 * i + 1))).2

/-- One level of the tree. -/
theorem pairUp_range (n : Nat) : pairUp g ((List.range (2 * n)).map x)
    = ((List.range n).map (pairVal g x), orAll (pairFlag g x) n) := by
  induction n generalizing x with
  | zero => rfl
  | succ n ih =>
    have h := ih (fun i => x (i + 2))
    have hl : (List.range (2 * (n + 1))).map x = x 0 :: x 1 :: (List.range (2 * n)).map (fun i => x (i + 2)) := by
      rw [Nat.mul_succ, List.range_succ_eq_map, List.range_succ_eq_map]
      simp
    rw [hl, pairUp, h, List.range_succ_eq_map]
    simp [orAll, pairVal, pairFlag, Nat.mul_add, Function.comp_def]
    rfl

/-- The value of a node. -/
theorem nodeOver_succ_fst (k i : Nat) : (Claims.nodeOver g x (k + 1) i).1
    = (g (Claims.nodeOver g x k i).1 (Claims.nodeOver g x k (i + 2 ^ k)).1).1 := rfl

/-- The flags of a node and those below it. -/
theorem nodeOver_succ_snd (k i : Nat) : (Claims.nodeOver g x (k + 1) i).2
    = (Claims.nodeOver g x k i).2 ||| (Claims.nodeOver g x k (i + 2 ^ k)).2
      ||| (g (Claims.nodeOver g x k i).1 (Claims.nodeOver g x k (i + 2 ^ k)).1).2 := rfl

/-- A node is one over the nodes of the level below it. -/
theorem nodeOver_pair (k i : Nat) : (Claims.nodeOver g x (k + 1) (2 * i)).1 = (Claims.nodeOver g (pairVal g x) k i).1
    ∧ (Claims.nodeOver g x (k + 1) (2 * i)).2
      = orAll (fun j => pairFlag g x (j + i)) (2 ^ k) ||| (Claims.nodeOver g (pairVal g x) k i).2 := by
  induction k generalizing i with
  | zero => simp [Claims.nodeOver, pairVal, pairFlag, orAll]
  | succ k ih =>
    have hi : 2 * i + 2 ^ (k + 1) = 2 * (i + 2 ^ k) := by ring
    obtain ⟨h1, h2⟩ := ih i
    obtain ⟨h3, h4⟩ := ih (i + 2 ^ k)
    constructor
    · rw [nodeOver_succ_fst, hi, h1, h3, nodeOver_succ_fst]
    · rw [nodeOver_succ_snd, hi, h1, h2, h3, h4, nodeOver_succ_snd, pow_succ, Nat.mul_two, orAll_add]
      simp only [Nat.add_assoc, Nat.add_comm (2 ^ k) i]
      ac_rfl

/-- The levels of the tree, and its flags. -/
theorem treeLevels_range (m : Nat) : treeLevels g m ((List.range (2 ^ m)).map x)
    = ((List.range (m + 1)).map (fun k => (List.range (2 ^ (m - k))).map (fun i => (Claims.nodeOver g x k (i * 2 ^ k)).1)),
      (Claims.nodeOver g x m 0).2) := by
  induction m generalizing x with
  | zero => rfl
  | succ m ih =>
    have hn (k i : Nat) : (Claims.nodeOver g (pairVal g x) k (i * 2 ^ k)).1 = (Claims.nodeOver g x (k + 1) (i * 2 ^ (k + 1))).1 := by
      rw [← (nodeOver_pair g x k (i * 2 ^ k)).1]
      congr 2
      ring
    have hf := (nodeOver_pair g x m 0).2
    rw [Nat.mul_zero] at hf
    have h0 (i : Nat) : (Claims.nodeOver g x 0 (i * 2 ^ 0)).1 = x i := by rw [pow_zero, Nat.mul_one]; rfl
    rw [treeLevels, hf, pow_succ, Nat.mul_comm, pairUp_range, ih, List.range_succ_eq_map (n := m + 1), List.map_cons, List.map_map]
    simp only [hn, Nat.add_zero, h0, Function.comp_def, Nat.succ_eq_add_one, Nat.add_sub_add_right, Nat.sub_zero, pow_succ, Nat.mul_comm 2]

/-- The root of the tree over 2^m leaves. -/
theorem treeRoot_range (m : Nat) : treeRoot g ((List.range (2 ^ m)).map x) = Claims.nodeOver g x m 0 := by
  have hl : Nat.log2 ((List.range (2 ^ m)).map x).length = m := by
    rw [List.length_map, List.length_range, Nat.log2_two_pow]
  unfold treeRoot
  rw [hl, treeLevels_range, List.range_succ]
  simp [List.getLast?_append]

/-- A node of a level, by its place. -/
theorem treeLevels_node {m k i : Nat} (hk : k ≤ m) (hi : i < 2 ^ (m - k)) (d : Nat) :
    ((treeLevels g m ((List.range (2 ^ m)).map x)).1.getD k []).getD i d = (Claims.nodeOver g x k (i * 2 ^ k)).1 := by
  rw [treeLevels_range]
  simp [List.getD_eq_getElem?_getD, Nat.lt_succ_of_le hk, hi]

/-- The sizes of the nodes of a scan, the largest first (R122). -/
def prefixSizes (n : Nat) : List Nat := ([6, 5, 4, 3, 2, 1, 0] : List Nat).filter (fun k => n.testBit k)

/-- The nodes of a scan have the sizes that make up its length. -/
theorem scanNodes_eq : ∀ n ≤ 64, scanNodes 64 0 n = (prefixSizes n).map (fun k => (k, n / 2 ^ (k + 1) * 2)) := by
  decide +kernel

/-- The nodes of a scan stand in the tree. -/
theorem prefixSizes_fit : ∀ m ∈ [4, 5, 6], ∀ n ≤ 2 ^ m, ∀ k ∈ prefixSizes n, k ≤ m ∧ n / 2 ^ (k + 1) * 2 < 2 ^ (m - k) := by
  decide +kernel

/-- A scan over the first leaves of the tree. -/
theorem scanPrefix_eq {m n : Nat} (hm : m ∈ [4, 5, 6]) (hn : n ≤ 2 ^ m) (ident : Nat) :
    scanPrefix g (treeLevels g m ((List.range (2 ^ m)).map x)).1 ident n = Claims.prefixOver g x ident n := by
  have h64 : n ≤ 64 := by
    simp only [List.mem_cons, List.not_mem_nil, or_false] at hm
    rcases hm with rfl | rfl | rfl <;> omega
  have hvals : (scanNodes 64 0 n).map (fun y => ((treeLevels g m ((List.range (2 ^ m)).map x)).1.getD y.1 []).getD y.2 ident)
      = (prefixSizes n).map (fun k => (Claims.nodeOver g x k (n / 2 ^ (k + 1) * 2 ^ (k + 1))).1) := by
    rw [scanNodes_eq n h64, List.map_map]
    refine List.map_congr_left (fun k hk => ?_)
    obtain ⟨hkm, hi⟩ := prefixSizes_fit m hm n hn k hk
    rw [Function.comp_apply, treeLevels_node g x hkm hi, Nat.mul_assoc, ← pow_succ']
  unfold scanPrefix Claims.prefixOver
  rw [hvals]
  rfl

end

/-! ### What a tree comes to whatever its shape (R121, R122) -/

/-- An operation of nodes that stands for an associative one, on values among which the identity is. -/
structure NodeLaw {α : Type} (g : Nat → Nat → Nat × FpFlags) (ok : Nat → Prop) (rep : Nat → α) (op : α → α → α)
    (ident : Nat) : Prop where
  closed : ∀ x y, ok x → ok y → ok (g x y).1
  hom : ∀ x y, ok x → ok y → rep (g x y).1 = op (rep x) (rep y)
  identOk : ok ident
  assoc : ∀ a b c, op (op a b) c = op a (op b c)
  left : ∀ x, ok x → op (rep ident) (rep x) = rep x
  right : ∀ x, ok x → op (rep x) (rep ident) = rep x

section
variable {α : Type} {g : Nat → Nat → Nat × FpFlags} {ok : Nat → Prop} {rep : Nat → α} {op : α → α → α} {ident : Nat}

/-- What some values come to, combined from left to right. -/
def combined (rep : Nat → α) (op : α → α → α) (ident : Nat) (l : List Nat) : α := (l.map rep).foldl op (rep ident)

variable (law : NodeLaw g ok rep op ident)
include law

/-- Values combined are one value. -/
theorem combined_ok {l : List Nat} (hl : ∀ y ∈ l, ok y) : ∃ y, ok y ∧ combined rep op ident l = rep y := by
  suffices h : ∀ a, ok a → ∃ y, ok y ∧ (l.map rep).foldl op (rep a) = rep y from h ident law.identOk
  induction l with
  | nil => exact fun a ha => ⟨a, ha, rfl⟩
  | cons b l ih =>
    intro a ha
    have hb := hl b (List.mem_cons_self ..)
    obtain ⟨y, hy, he⟩ := ih (fun y hy => hl y (List.mem_cons_of_mem _ hy)) (g a b).1 (law.closed a b ha hb)
    exact ⟨y, hy, by rw [List.map_cons, List.foldl_cons, ← law.hom a b ha hb, he]⟩

/-- Values combined from one on. -/
theorem foldl_rep_eq {l : List Nat} (hl : ∀ y ∈ l, ok y) {a : Nat} (ha : ok a) :
    (l.map rep).foldl op (rep a) = op (rep a) (combined rep op ident l) := by
  induction l generalizing a with
  | nil => exact (law.right a ha).symm
  | cons b l ih =>
    have hb := hl b (List.mem_cons_self ..)
    have hl' : ∀ y ∈ l, ok y := fun y hy => hl y (List.mem_cons_of_mem _ hy)
    rw [combined, List.map_cons, List.foldl_cons, List.foldl_cons, law.left b hb, ← law.hom a b ha hb,
      ih hl' (law.closed a b ha hb), ih hl' hb, law.hom a b ha hb, law.assoc]

/-- One value combined. -/
theorem combined_singleton {y : Nat} (hy : ok y) : combined rep op ident [y] = rep y := law.left y hy

/-- Two runs combined. -/
theorem combined_append {l t : List Nat} (hl : ∀ y ∈ l, ok y) (ht : ∀ y ∈ t, ok y) :
    combined rep op ident (l ++ t) = op (combined rep op ident l) (combined rep op ident t) := by
  obtain ⟨y, hy, he⟩ := combined_ok law hl
  have hc : combined rep op ident (l ++ t) = (t.map rep).foldl op (combined rep op ident l) := by
    rw [combined, List.map_append, List.foldl_append]
    rfl
  rw [hc, he, foldl_rep_eq law ht hy]

/-- Runs combined, each to one value. -/
theorem combined_flatten {β : Type} (ks : List β) (run : β → List Nat) (node : β → Nat)
    (hk : ∀ k ∈ ks, (∀ y ∈ run k, ok y) ∧ ok (node k) ∧ combined rep op ident (run k) = rep (node k)) :
    combined rep op ident (ks.map node) = combined rep op ident (ks.map run).flatten := by
  induction ks with
  | nil => rfl
  | cons k ks ih =>
    have hks := fun y hy => hk y (List.mem_cons_of_mem _ hy)
    obtain ⟨hrun, hnode, he⟩ := hk k (List.mem_cons_self ..)
    rw [List.map_cons, List.map_cons, List.flatten_cons, combined_append law hrun, ← ih hks, he,
      ← List.singleton_append, combined_append law (by simpa using hnode), combined_singleton law hnode]
    · simpa using fun k hk => (hks k hk).2.1
    · simpa using fun y k hk hy => (hks k hk).1 y hy

/-- Nodes combined from left to right, with their flags. -/
theorem foldl_nodes {l : List Nat} (hl : ∀ y ∈ l, ok y) {p : Nat × FpFlags} (hp : ok p.1) :
    rep (l.foldl (fun a v => ((g a.1 v).1, a.2 ||| (g a.1 v).2)) p).1 = (l.map rep).foldl op (rep p.1) := by
  induction l generalizing p with
  | nil => rfl
  | cons b l ih =>
    have hb := hl b (List.mem_cons_self ..)
    rw [List.foldl_cons, List.map_cons, List.foldl_cons, ← law.hom _ _ hp hb]
    exact ih (fun y hy => hl y (List.mem_cons_of_mem _ hy)) (law.closed _ _ hp hb)

/-- Values that do not take part leave what the others come to. -/
theorem combined_filter (part : Nat → Bool) (val : Nat → Nat) (l : List Nat) (hv : ∀ y, part y = true → ok (val y)) :
    combined rep op ident (l.map (fun y => if part y then val y else ident))
      = combined rep op ident ((l.filter part).map val) := by
  have hleaf : ∀ y, ok (if part y then val y else ident) := fun y => by
    split
    next h => exact hv y h
    next => exact law.identOk
  induction l with
  | nil => rfl
  | cons y l ih =>
    have htail : ∀ z ∈ l.map (fun y => if part y then val y else ident), ok z := by simpa using fun y _ => hleaf y
    have hfil : ∀ z ∈ (l.filter part).map val, ok z := by
      simp only [List.mem_map, List.mem_filter]
      rintro _ ⟨z, ⟨_, h⟩, rfl⟩
      exact hv z h
    obtain ⟨z, hz, he⟩ := combined_ok law hfil
    rw [List.map_cons, ← List.singleton_append, combined_append law (by simpa using hleaf y) htail, ih,
      combined_singleton law (hleaf y)]
    cases h : part y
    case false =>
      rw [List.filter_cons_of_neg (by simp [h]), he]
      exact law.left z hz
    case true =>
      rw [List.filter_cons_of_pos h, List.map_cons, ← List.singleton_append (l := (l.filter part).map val),
        combined_append law (by simpa using hv y h) hfil, combined_singleton law (hv y h)]
      rfl

variable {x : Nat → Nat} (hx : ∀ i, ok (x i))
include hx

/-- A node is its leaves combined. -/
theorem nodeOver_combined (k i : Nat) : ok (Claims.nodeOver g x k i).1
    ∧ combined rep op ident ((List.range' i (2 ^ k)).map x) = rep (Claims.nodeOver g x k i).1 := by
  induction k generalizing i with
  | zero => exact ⟨hx i, combined_singleton law (hx i)⟩
  | succ k ih =>
    obtain ⟨h1, e1⟩ := ih i
    obtain ⟨h2, e2⟩ := ih (i + 2 ^ k)
    have hr : List.range' i (2 ^ (k + 1)) = List.range' i (2 ^ k) ++ List.range' (i + 2 ^ k) (2 ^ k) := by
      rw [List.range'_append_1, pow_succ, Nat.mul_two]
    have hok : ∀ (l : List Nat), ∀ y ∈ l.map x, ok y := fun l => by simpa using fun j _ => hx j
    rw [nodeOver_succ_fst, hr, List.map_append, combined_append law (hok _) (hok _), e1, e2, law.hom _ _ h1 h2]
    exact ⟨law.closed _ _ h1 h2, rfl⟩

/-- A scan is its leaves combined. -/
theorem prefixOver_combined {n : Nat} (hn : n ≤ 64) :
    rep (Claims.prefixOver g x ident n).1 = combined rep op ident ((List.range n).map x) := by
  have hruns : ∀ n ≤ 64, ((prefixSizes n).map (fun k => List.range' (n / 2 ^ (k + 1) * 2 ^ (k + 1)) (2 ^ k))).flatten
      = List.range n := by decide +kernel
  have hok : ∀ (l : List Nat), ∀ y ∈ l.map x, ok y := fun l => by simpa using fun j _ => hx j
  have hflat : ((prefixSizes n).map (fun k => (List.range' (n / 2 ^ (k + 1) * 2 ^ (k + 1)) (2 ^ k)).map x)).flatten
      = (List.range n).map x := by
    rw [← hruns n hn, List.map_flatten, List.map_map]
    rfl
  rw [← hflat, ← combined_flatten law (prefixSizes n) _ (fun k => (Claims.nodeOver g x k (n / 2 ^ (k + 1) * 2 ^ (k + 1))).1)
    (fun k _ => ⟨hok _, nodeOver_combined law hx _ _⟩)]
  have hnodes : ∀ y ∈ (prefixSizes n).map (fun k => (Claims.nodeOver g x k (n / 2 ^ (k + 1) * 2 ^ (k + 1))).1), ok y := by
    simpa using fun k _ => (nodeOver_combined law hx _ _).1
  unfold Claims.prefixOver
  rw [← prefixSizes]
  generalize (prefixSizes n).map (fun k => (Claims.nodeOver g x k (n / 2 ^ (k + 1) * 2 ^ (k + 1))).1) = l at hnodes
  cases l with
  | nil => rfl
  | cons v vs =>
    have hv := hnodes v (List.mem_cons_self ..)
    rw [combined, List.map_cons, List.foldl_cons, law.left v hv]
    exact foldl_nodes law (fun y hy => hnodes y (List.mem_cons_of_mem _ hy)) hv

end

/-! ### The integer operations of Table 5-6 -/

/-- An element's integer lies in the range of its type. -/
theorem readInt_bounds (sg : Bool) (w x : Nat) :
    minInt sg w ≤ Claims.readInt sg w x ∧ Claims.readInt sg w x ≤ maxInt sg w := by
  unfold Claims.readInt minInt maxInt
  cases sg
  case false =>
    have hx : ((BitVec.ofNat w x).toNat : Int) < 2 ^ w := by exact_mod_cast (BitVec.ofNat w x).isLt
    simp only [Bool.false_eq_true, if_false]
    omega
  case true =>
    have hlo := BitVec.le_toInt (BitVec.ofNat w x)
    have hhi := BitVec.toInt_lt (x := BitVec.ofNat w x)
    simp only [if_true]
    omega

/-- The low bits of an integer in range stand for it. -/
theorem readInt_wrapInt {sg : Bool} {w : Nat} (hw : w ∈ [8, 16, 32, 64]) {i : Int} (hlo : minInt sg w ≤ i) (hhi : i ≤ maxInt sg w) :
    Claims.readInt sg w (wrapInt w i) = i := by
  rw [wrapInt_eq]
  refine (clampInt_eq_self_iff sg hw i).mp ?_
  rw [clampInt_eq]
  omega

/-- The range of a type holds its ends. -/
theorem minInt_le_maxInt (sg : Bool) (w : Nat) : minInt sg w ≤ maxInt sg w := by
  have hp : (0 : Int) < 2 ^ (w - 1) := by positivity
  have hq : (0 : Int) < 2 ^ w := by positivity
  unfold minInt maxInt
  cases sg
  · simp only [Bool.false_eq_true, if_false]
    omega
  · simp only [if_true]
    omega

section
variable {ty : Nat} (hty : ty ∈ [1, 2, 4, 5])
include hty

/-- The width of an integer type of registers. -/
theorem intWidth : eltBits ty ∈ [8, 16, 32, 64] ∧ (ty == 3) = false ∧ valWidth ty = eltBits ty := by
  have : ∀ ty ∈ [1, 2, 4, 5], eltBits ty ∈ [8, 16, 32, 64] ∧ (ty == 3) = false ∧ valWidth ty = eltBits ty := by
    decide
  exact this ty hty

/-- The identity of the minimum is the end of the range. -/
theorem readInt_nodeId_min : Claims.readInt (signedTy ty) (eltBits ty) (nodeId 1 ty) = maxInt (signedTy ty) (eltBits ty) := by
  obtain ⟨hw, h3, _⟩ := intWidth hty
  have hid : nodeId 1 ty = wrapInt (eltBits ty) (maxInt (signedTy ty) (eltBits ty)) := by simp only [nodeId, h3]; rfl
  rw [hid, readInt_wrapInt hw (minInt_le_maxInt ..) le_rfl]

/-- The identity of the maximum is the other end. -/
theorem readInt_nodeId_max : Claims.readInt (signedTy ty) (eltBits ty) (nodeId 2 ty) = minInt (signedTy ty) (eltBits ty) := by
  obtain ⟨hw, h3, _⟩ := intWidth hty
  have hid : nodeId 2 ty = wrapInt (eltBits ty) (minInt (signedTy ty) (eltBits ty)) := by simp only [nodeId, h3]; rfl
  rw [hid, readInt_wrapInt hw le_rfl (minInt_le_maxInt ..)]

/-- The identity of the sum. -/
theorem nodeId_add : nodeId 0 ty = 0 := by
  simp only [nodeId, (intWidth hty).2.1]
  rfl

/-- The identities of the integer operations are elements of the type. -/
theorem nodeId_lt {mod : Nat} (hm : mod < 3) : nodeId mod ty < 2 ^ eltBits ty := by
  obtain ⟨_, h3, _⟩ := intWidth hty
  have hwrap : ∀ i, wrapInt (eltBits ty) i < 2 ^ eltBits ty := fun i => by rw [wrapInt_eq]; exact BitVec.isLt _
  interval_cases mod
  · rw [nodeId_add hty]
    exact Nat.two_pow_pos _
  · simp only [nodeId, h3]
    exact hwrap _
  · simp only [nodeId, h3]
    exact hwrap _

/-- The minimum. -/
theorem nodeLaw_min : NodeLaw (nodeOp 1 ty) (· < 2 ^ eltBits ty) (Claims.readInt (signedTy ty) (eltBits ty)) min (nodeId 1 ty) := by
  obtain ⟨hw, h3, _⟩ := intWidth hty
  have hread := readInt_nodeId_min hty
  have hop : ∀ x y, x < 2 ^ eltBits ty → y < 2 ^ eltBits ty → nodeOp 1 ty x y
      = (if Claims.readInt (signedTy ty) (eltBits ty) x ≤ Claims.readInt (signedTy ty) (eltBits ty) y then x else y, 0) := by
    intro x y hx hy
    rw [← toInt_eq_readInt _ hx, ← toInt_eq_readInt _ hy]
    simp only [nodeOp, h3, Bool.false_eq_true, if_false]
  refine ⟨fun x y hx hy => ?_, fun x y hx hy => ?_, ?_, fun a b c => min_assoc a b c, fun x _ => ?_, fun x _ => ?_⟩
  · rw [hop x y hx hy]
    dsimp only
    split <;> assumption
  · rw [hop x y hx hy, min_def]
    dsimp only
    split <;> rfl
  · exact nodeId_lt hty (by decide)
  · rw [hread]
    exact min_eq_right (readInt_bounds ..).2
  · rw [hread]
    exact min_eq_left (readInt_bounds ..).2

/-- The maximum. -/
theorem nodeLaw_max : NodeLaw (nodeOp 2 ty) (· < 2 ^ eltBits ty) (Claims.readInt (signedTy ty) (eltBits ty)) max (nodeId 2 ty) := by
  obtain ⟨hw, h3, _⟩ := intWidth hty
  have hread := readInt_nodeId_max hty
  have hop : ∀ x y, x < 2 ^ eltBits ty → y < 2 ^ eltBits ty → nodeOp 2 ty x y
      = (if Claims.readInt (signedTy ty) (eltBits ty) y ≤ Claims.readInt (signedTy ty) (eltBits ty) x then x else y, 0) := by
    intro x y hx hy
    rw [← toInt_eq_readInt _ hx, ← toInt_eq_readInt _ hy]
    simp only [nodeOp, h3, Bool.false_eq_true, if_false]
  refine ⟨fun x y hx hy => ?_, fun x y hx hy => ?_, ?_, fun a b c => max_assoc a b c, fun x _ => ?_, fun x _ => ?_⟩
  · rw [hop x y hx hy]
    dsimp only
    split <;> assumption
  · rw [hop x y hx hy, max_comm, max_def]
    dsimp only
    split <;> rfl
  · exact nodeId_lt hty (by decide)
  · rw [hread]
    exact max_eq_right (readInt_bounds ..).1
  · rw [hread]
    exact max_eq_left (readInt_bounds ..).1

/-- The sum, of which the low bits count. -/
theorem nodeLaw_add : NodeLaw (nodeOp 0 ty) (· < 2 ^ eltBits ty) (BitVec.ofNat (eltBits ty)) (· + ·) (nodeId 0 ty) := by
  obtain ⟨_, h3, _⟩ := intWidth hty
  have hid := nodeId_add hty
  have hbits : ∀ x, x < 2 ^ eltBits ty → BitVec.ofInt (eltBits ty) (toInt (signedTy ty) (eltBits ty) x) = BitVec.ofNat (eltBits ty) x := by
    intro x hx
    rw [toInt_eq_readInt _ hx, Claims.readInt]
    cases signedTy ty
    · rw [if_neg Bool.false_ne_true, BitVec.ofInt_natCast, BitVec.ofNat_toNat, BitVec.setWidth_eq]
    · rw [if_pos rfl, BitVec.ofInt_toInt]
  have hop : ∀ x y, nodeOp 0 ty x y = (wrapInt (eltBits ty) (toInt (signedTy ty) (eltBits ty) x + toInt (signedTy ty) (eltBits ty) y), 0) := by
    intro x y
    simp only [nodeOp, h3, Bool.false_eq_true, if_false]
  refine ⟨fun x y hx hy => ?_, fun x y hx hy => ?_, ?_, BitVec.add_assoc, fun x _ => ?_, fun x _ => ?_⟩
  · rw [hop, wrapInt_eq]
    exact BitVec.isLt _
  · rw [hop, wrapInt_eq, BitVec.ofNat_toNat, BitVec.setWidth_eq, BitVec.ofInt_add, hbits x hx, hbits y hy]
  · exact nodeId_lt hty (by decide)
  · rw [hid]
    exact BitVec.zero_add _
  · rw [hid]
    exact BitVec.add_zero _

end

/-- The bitwise operations. -/
theorem nodeLaw_and : NodeLaw (nodeOp 3 0) (fun _ => True) (BitVec.ofNat 32) (· &&& ·) (nodeId 3 0) :=
  ⟨fun _ _ _ _ => trivial, fun _ _ _ _ => BitVec.ofNat_and, trivial, BitVec.and_assoc, fun _ _ => BitVec.allOnes_and,
    fun _ _ => BitVec.and_allOnes⟩

/-- As `nodeLaw_and`. -/
theorem nodeLaw_or : NodeLaw (nodeOp 4 0) (fun _ => True) (BitVec.ofNat 32) (· ||| ·) (nodeId 4 0) :=
  ⟨fun _ _ _ _ => trivial, fun _ _ _ _ => BitVec.ofNat_or, trivial, BitVec.or_assoc, fun _ _ => BitVec.zero_or,
    fun _ _ => BitVec.or_zero⟩

/-- As `nodeLaw_and`. -/
theorem nodeLaw_xor : NodeLaw (nodeOp 5 0) (fun _ => True) (BitVec.ofNat 32) (· ^^^ ·) (nodeId 5 0) :=
  ⟨fun _ _ _ _ => trivial, fun _ _ _ _ => BitVec.ofNat_xor, trivial, BitVec.xor_assoc, fun _ _ => BitVec.zero_xor,
    fun _ _ => BitVec.xor_zero⟩

/-- A sum of words is the word of the sum. -/
theorem foldl_add_ofNat (w : Nat) (l : List Nat) : (l.map (BitVec.ofNat w)).foldl (· + ·) (0#w) = BitVec.ofNat w l.sum := by
  suffices h : ∀ a, (l.map (BitVec.ofNat w)).foldl (· + ·) (BitVec.ofNat w a) = BitVec.ofNat w (a + l.sum) by
    simpa using h 0
  induction l with
  | nil => simp
  | cons y l ih =>
    intro a
    rw [List.map_cons, List.foldl_cons, ← BitVec.ofNat_add, ih, List.sum_cons, Nat.add_assoc]

/-! ### The instructions -/

/-- The leaves by their places. -/
theorem treeLeaves_eq_getD (u : Issue) (f : LForm) :
    treeLeaves u f = (List.range u.blk.width).map (fun i => (treeLeaves u f).getD i 0) := by
  refine List.ext_getElem (by simp [treeLeaves]) (fun i h₁ h₂ => ?_)
  simp [List.getD_eq_getElem?_getD, List.getElem?_eq_getElem h₁]

/-- A block is 2^4, 2^5 or 2^6 strands wide. -/
theorem width_eq_two_pow {n : Nat} (h : n ∈ [16, 32, 64]) : ∃ m ∈ [4, 5, 6], n = 2 ^ m ∧ Nat.log2 n = m := by
  simp only [List.mem_cons, List.not_mem_nil, or_false] at h
  rcases h with rfl | rfl | rfl
  · exact ⟨4, by decide, by decide, by decide⟩
  · exact ⟨5, by decide, by decide, by decide⟩
  · exact ⟨6, by decide, by decide, by decide⟩

/-- The root of the tree, or a scan, by the values of the participants among the leaves. -/
theorem tree_combined {α : Type} {ok : Nat → Prop} {rep : Nat → α} {op : α → α → α} {f : LForm} {u : Issue}
    {mod ty : Nat} (law : NodeLaw (nodeOp mod ty) ok rep op (nodeId mod ty)) (hmod : f.mod.toNat = mod) (hty : f.ty.toNat = ty)
    (hw : u.blk.width ∈ [16, 32, 64]) (hv : ∀ l, ok (valA u.cord f f.ty.toNat l)) {n r : Nat}
    (hr : n = u.blk.width ∧ r = (treeRoot (nodeOp f.mod.toNat f.ty.toNat) (treeLeaves u f)).1
      ∨ n ≤ u.blk.width ∧ r = (scanPrefix (nodeOp f.mod.toNat f.ty.toNat)
          (treeLevels (nodeOp f.mod.toNat f.ty.toNat) (Nat.log2 u.blk.width) (treeLeaves u f)).1 (nodeId f.mod.toNat f.ty.toNat) n).1) :
    rep r = combined rep op (nodeId mod ty)
      (((List.range n).filter (fun l => (participants u f).contains l)).map (valA u.cord f f.ty.toNat)) := by
  subst hmod hty
  obtain ⟨m, hm, hwm, hlog⟩ := width_eq_two_pow hw
  rw [← combined_filter law _ _ _ (fun l _ => hv l)]
  have hleaf : ∀ l, ok (if (participants u f).contains l then valA u.cord f f.ty.toNat l else nodeId f.mod.toNat f.ty.toNat) :=
    fun l => by
      split
      · exact hv l
      · exact law.identOk
  rcases hr with ⟨rfl, rfl⟩ | ⟨hn, rfl⟩
  · rw [treeLeaves, hwm, treeRoot_range, ← (nodeOver_combined law hleaf m 0).2, List.range_eq_range']
  · have h64 : n ≤ 64 := by
      simp only [List.mem_cons, List.not_mem_nil, or_false] at hw
      omega
    rw [treeLeaves, hlog, hwm, scanPrefix_eq _ _ hm (hwm ▸ hn), prefixOver_combined law hleaf h64]

/-- A lane code of a mode. -/
theorem mode_cases (t : BitVec 4) : t = 0 ∨ t = 1 ∨ t = 2 ∨ (t ≠ 0 ∧ t ≠ 1 ∧ t ≠ 2 ∧ 3 ≤ t.toNat) := by revert t; decide

/-- The lane that SHFL names, as an integer. -/
theorem shflLane_eq_some {mode : BitVec 4} {l n q : Nat} : shflLane mode.toNat l n = some q
    ↔ (if mode = 0 then (n : Int) else if mode = 1 then (l : Int) - n else if mode = 2 then l + n else (l ^^^ n : Nat)) = q := by
  obtain rfl | rfl | rfl | ⟨h0, h1, h2, h3⟩ := mode_cases mode
  · simp [shflLane]
  · simp [shflLane]
    omega
  · simp [shflLane]
    omega
  · obtain ⟨k, hk⟩ := Nat.exists_eq_add_of_le' h3
    simp only [if_neg h0, if_neg h1, if_neg h2, hk, shflLane, Option.some.injEq, Nat.cast_inj]

/-- SHFL names no lane below lane 0. -/
theorem shflLane_eq_none {mode : BitVec 4} {l n : Nat} : shflLane mode.toNat l n = none
    ↔ ¬ 0 ≤ (if mode = 0 then (n : Int) else if mode = 1 then (l : Int) - n else if mode = 2 then l + n else (l ^^^ n : Nat)) := by
  rw [Option.eq_none_iff_forall_ne_some]
  constructor
  · intro h hle
    exact h _ (shflLane_eq_some.mpr (Int.toNat_of_nonneg hle).symm)
  · intro h q hq
    rw [shflLane_eq_some] at hq
    omega

/-- The types that pairs hold. -/
theorem wideTy_eq (t : BitVec 4) : wideTy t = wideNat t.toNat := by revert t; decide

/-- The low word of a mask. -/
theorem lo32_eq (m : Mask) : lo32 m = BitVec.ofNat 32 m.toNat := rfl

/-- The high word of a mask. -/
theorem hi32_eq (m : Mask) : hi32 m = BitVec.ofNat 32 (m.toNat / 2 ^ 32) := by
  apply BitVec.eq_of_toNat_eq
  simp [hi32, Nat.shiftRight_eq_div_pow]

/-- The lane that SHFLP names, as an integer. -/
theorem shflpLane_eq_some {mode : BitVec 4} {l n q : Nat} : shflpLane mode.toNat l n = some q
    ↔ (if mode = 0 then (n : Int) else if mode = 1 then (l : Int) + n else if mode = 2 then (l : Int) - n else (l ^^^ n : Nat)) = q := by
  obtain rfl | rfl | rfl | ⟨h0, h1, h2, h3⟩ := mode_cases mode
  · simp [shflpLane, shflLane]
  · simp [shflpLane]
    omega
  · simp [shflpLane]
    omega
  · obtain ⟨k, hk⟩ := Nat.exists_eq_add_of_le' h3
    simp only [if_neg h0, if_neg h1, if_neg h2, hk, shflpLane, shflLane, Option.some.injEq, Nat.cast_inj]

/-- The lanes that push are the claims'. -/
theorem pusher_eq (f : LForm) (u : Issue) (t : Nat) : pusher u f t = (Claims.pushersOf f u t).getLast? := by
  unfold pusher Claims.pushersOf
  congr 1
  refine List.filter_congr (fun l _ => ?_)
  rw [Bool.eq_iff_iff, beq_iff_eq, beq_iff_eq]
  exact shflpLane_eq_some

/-- An instruction that writes registers completes with writes that agree with its own. -/
theorem completes_of_writes {i : Instr} {s : State} {u : Issue} {body : Issue → State → Act} {ws : List RegW}
    (hx : exec i s = issue i body s) (hb : body u s = goRegs u ws) : (Claims.writes i u ws).Completes s u :=
  completes_of_body hx (fun _ => hb)

/-- As `completes_of_writes`, where the claim has a condition. -/
theorem completes_of_writes_when {i : Instr} {s : State} {u : Issue} {body : Issue → State → Act} {ws : List RegW} {p : Bool}
    (hx : exec i s = issue i body s) (hb : p = true → body u s = goRegs u ws) :
    ({ Claims.writes i u ws with holds := p } : Claims.Case).Completes s u :=
  completes_of_body hx hb

/-- The cross-lane instructions complete. -/
theorem laneCases_complete (f : LForm) (s : State) (u : Issue) : ∀ e ∈ Claims.laneCases f u, e.Completes s u := by
  simp only [Claims.laneCases, List.forall_mem_cons]
  refine ⟨?any, ?all, ?ballot, ?shfl, ?shflp, ?reduce, ?scan, ?first, ?rank, ?mask, ?same, by simp⟩
  case any =>
    refine completes_of_writes_when (show execVote f s = _ from rfl) (fun h => ?_)
    rw [beq_iff_eq] at h
    rw [h]
    rfl
  case all =>
    refine completes_of_writes_when (show execVote f s = _ from rfl) (fun h => ?_)
    rw [beq_iff_eq] at h
    rw [h]
    rfl
  case ballot =>
    refine completes_of_writes_when (show execVote f s = _ from rfl) (fun h => ?_)
    rw [beq_iff_eq] at h
    rw [h, lo32_eq, hi32_eq]
    rfl
  case shfl =>
    refine completes_of_writes (show execShfl f s = _ from rfl) ?_
    rw [← wideTy_eq]
    refine congrArg (fun rs => goRegs u (putAll f (wideTy f.ty) rs)) (List.map_congr_left (fun l _ => ?_))
    refine congrArg (fun q => (l, valA u.cord f f.ty.toNat q)) ?_
    split
    next q hq =>
      rw [shflLane_eq_some] at hq
      simp only [Claims.pullFrom, hq]
      simp
    next hq =>
      have hneg := shflLane_eq_none.mp hq
      simp only [Claims.pullFrom]
      rw [if_neg (fun h => hneg h.1)]
  case shflp =>
    refine completes_of_writes (show execShflp f s = _ from rfl) ?_
    have hsome : ∀ t, (Claims.pushersOf f u t).getLast?.isSome = decide (Claims.pushersOf f u t ≠ []) := fun t => by
      cases Claims.pushersOf f u t <;> simp
    simp only [pusher_eq, hsome, beq_iff_eq, wideTy_eq]
    rfl
  case reduce =>
    refine completes_of_writes (show execReduce f s = _ from rfl) ?_
    simp only [beq_iff_eq, wideTy_eq]
    rfl
  case scan =>
    refine completes_of_writes_when (show execScan f s = _ from rfl) (fun h => ?_)
    rw [beq_iff_eq] at h
    simp only [h, beq_iff_eq, wideTy_eq]
    rfl
  case first =>
    refine completes_of_writes_when (show execMatchLanes f s = _ from rfl) (fun h => ?_)
    rw [beq_iff_eq] at h
    rw [h]
    rfl
  case rank =>
    refine completes_of_writes_when (show execMatchLanes f s = _ from rfl) (fun h => ?_)
    rw [beq_iff_eq] at h
    rw [h]
    rfl
  case mask =>
    refine completes_of_writes_when (show execMatchLanes f s = _ from rfl) (fun h => ?_)
    rw [beq_iff_eq] at h
    rw [h]
    rfl
  case same =>
    refine completes_of_writes_when (show execMatchLanes f s = _ from rfl) (fun h => ?_)
    rw [beq_iff_eq] at h
    rw [h]
    rfl

/-- A sum of what takes part. -/
theorem sum_filter_map (part : Nat → Bool) (val : Nat → Nat) (l : List Nat) :
    ((l.filter part).map val).sum = (l.map (fun y => if part y = true then val y else 0)).sum := by
  induction l with
  | nil => rfl
  | cons y l ih =>
    rw [List.filter_cons, List.map_cons, List.sum_cons, ← ih]
    split
    · rw [List.map_cons, List.sum_cons]
    · rw [Nat.zero_add]

/-- Settles O27: the instructions by their bodies, the tree by its levels, and what it comes to by the laws of each operation. -/
theorem crossLane : Obligations.CrossLane := by
  unfold Obligations.CrossLane
  have hty : ∀ t : BitVec 4, t ∈ ([1, 2, 4, 5] : List (BitVec 4)) → t.toNat ∈ [1, 2, 4, 5] := by decide
  have hval : ∀ (f : LForm) (u : Issue), f.ty ∈ ([1, 2, 4, 5] : List (BitVec 4)) → ∀ l,
      valA u.cord f f.ty.toNat l < 2 ^ eltBits f.ty.toNat := fun f u h l => (intWidth (hty _ h)).2.2 ▸ valA_lt u.cord f f.ty.toNat l
  refine ⟨laneCases_complete, fun f u ht hmod hw => ?sum, ⟨fun f u hw => ?tree, by simp [nodeOp], by decide, by decide, by decide⟩,
    fun f u hw => ?laws⟩
  case sum =>
    have ht' : f.ty ∈ ([1, 2, 4, 5] : List (BitVec 4)) := by rcases ht with h | h <;> rw [h] <;> decide
    have hw32 : eltBits f.ty.toNat = 32 := by rcases ht with h | h <;> rw [h] <;> decide
    have law := nodeLaw_add (hty _ ht')
    rw [hw32] at law
    have hm : f.mod.toNat = 0 := by rw [hmod]; rfl
    refine (tree_combined law hm rfl hw (fun l => hw32 ▸ hval f u ht' l) (.inl ⟨rfl, rfl⟩)).trans ?_
    rw [combined, nodeId_add (hty _ ht'), foldl_add_ofNat, sum_filter_map]
    simp only [List.contains_iff_mem]
  case tree =>
    obtain ⟨m, hm, hwm, hlog⟩ := width_eq_two_pow hw
    have hl := treeLeaves_eq_getD u f
    generalize treeLeaves u f = leaves at hl
    dsimp only
    rw [hlog, hwm]
    rw [hwm] at hl
    have hx : (List.range (2 ^ m)).map (fun i => leaves.getD i 0) = leaves := hl.symm
    refine ⟨?_, fun n ident hn => ?_⟩
    · conv_lhs => rw [← hx]
      exact treeRoot_range ..
    · conv_lhs => rw [← hx]
      exact scanPrefix_eq _ _ hm hn ident
  case laws =>
    intro ty w sg hi lo taken at_ bits_ g levels n r hr
    refine ⟨fun ht hmod => ?_, fun ht hmod => ?_, fun ht hmod => ?_, fun ht hmod => ?_, fun ht hmod => ?_, fun ht hmod => ?_⟩
    · have hm : f.mod.toNat = 1 := by rw [hmod]; rfl
      refine (tree_combined (nodeLaw_min (hty _ ht)) hm rfl hw (hval f u ht) hr).trans ?_
      rw [combined, readInt_nodeId_min (hty _ ht)]
      rfl
    · have hm : f.mod.toNat = 2 := by rw [hmod]; rfl
      refine (tree_combined (nodeLaw_max (hty _ ht)) hm rfl hw (hval f u ht) hr).trans ?_
      rw [combined, readInt_nodeId_max (hty _ ht)]
      rfl
    · have hm : f.mod.toNat = 0 := by rw [hmod]; rfl
      refine (tree_combined (nodeLaw_add (hty _ ht)) hm rfl hw (hval f u ht) hr).trans ?_
      rw [combined, nodeId_add (hty _ ht), foldl_add_ofNat]
    · have ht0 : f.ty.toNat = 0 := by rw [ht]; rfl
      have hm : f.mod.toNat = 3 := by rw [hmod]; rfl
      exact tree_combined nodeLaw_and hm ht0 hw (fun _ => trivial) hr
    · have ht0 : f.ty.toNat = 0 := by rw [ht]; rfl
      have hm : f.mod.toNat = 4 := by rw [hmod]; rfl
      exact tree_combined nodeLaw_or hm ht0 hw (fun _ => trivial) hr
    · have ht0 : f.ty.toNat = 0 := by rw [ht]; rfl
      have hm : f.mod.toNat = 5 := by rw [hmod]; rfl
      exact tree_combined nodeLaw_xor hm ht0 hw (fun _ => trivial) hr

end Sys2Proof.Machine
end

/-! ## An instruction in which no strand takes part -/

section
open Sys2Proof Sys2Proof.Machine

namespace Sys2Proof.Machine

/-- An operation that has noted one register twice as written by a later instruction. -/
def twiceNoted : Op :=
  { id := 0, kind := .request, flag := none, pc := 0, ret := 0, seq := 0, lanes := [], late := [(0, 0), (0, 0)] }

/-- A cord with that operation outstanding. -/
def notedState : State := modCord (State.reset.withFetchWord 64 0) 0 0 (fun c => { c with ops := [twiceNoted] })

/-- LDX of the strands whose p1 is set, of which there are none. -/
def idleForm : LForm :=
  { d := 12, a := 0, b := 1, c := 0, pred := 1, pneg := false, ty := 0, mod := 0, fsel := false, setf := false,
    asc := false, bsc := false, mod2 := 0, lit := none }

/-- What the operations of the cord have noted. -/
def notedRegs : Host.Outcome State Fault Refusal → Option (List (List (Nat × Nat)))
  | .next t => (cordOf t 0 0).map (fun c => c.ops.map Op.late)
  | _ => none

/-- LDX in which no strand takes part does not leave that state as it is. -/
theorem notedState_differs : ∃ u, Claims.Issues (.ldx idleForm) notedState u [] [] ∧ participants u idleForm = []
    ∧ notedRegs (exec (.ldx idleForm) notedState) ≠ notedRegs (.next (Claims.moved notedState u [] [])) := by
  refine ⟨(issueOf notedState 8).get (by decide +kernel), ⟨(Option.some_get _).symm, by decide +kernel, by decide +kernel,
    by decide +kernel, by decide +kernel⟩, by decide +kernel, by decide +kernel⟩

/-- Refutes O37: LDX writes its registers whoever takes part, and a write of none strikes out what an outstanding operation has
noted twice (R57). No run of the machine brings an operation to such a note, but the statement speaks of every state. -/
theorem not_noParticipants : ¬ Obligations.NoParticipants := by
  unfold Obligations.NoParticipants
  intro h
  obtain ⟨u, hi, hp, hne⟩ := notedState_differs
  have hmem : Instr.ldx idleForm ∈ Claims.idleTable idleForm := by decide
  exact hne (congrArg notedRegs (h idleForm notedState u _ hmem (fun he => by cases he) hi hp))

end Sys2Proof.Machine
end

/-! ## Accesses and fences as they issue -/

section
open Sys2Proof Sys2Proof.Machine

namespace Sys2Proof.Machine

/-! ### The checks of addresses -/

/-- Addresses that pass the checks of Table 13-2 go on. -/
theorem checkGlobal_good {eas : List (Nat × Nat)} {canon : Bool} {align : Nat} (h : Claims.globalGood eas canon align = true)
    (k : Act) : checkGlobal eas canon align k = k := by
  simp only [Claims.globalGood, List.all_eq_true, Bool.and_eq_true, Bool.or_eq_true, Bool.not_eq_true', decide_eq_true_eq,
    beq_iff_eq] at h
  have hodd : eas.filter (fun e => e.2 % align != 0) = [] := by
    rw [List.filter_eq_nil_iff]
    exact fun e he => by simp [(h e he).2]
  have hfar : (canon && !(eas.filter (fun e => decide (2 ^ 57 ≤ e.2))).isEmpty) = false := by
    cases canon with
    | false => rfl
    | true =>
      have : eas.filter (fun e => decide (2 ^ 57 ≤ e.2)) = [] := by
        rw [List.filter_eq_nil_iff]
        intro e he
        have := (h e he).1.resolve_left (by decide)
        simpa using this
      rw [this]
      rfl
  unfold checkGlobal
  rw [hodd]
  simp only [hfar, Bool.false_eq_true, if_false, List.isEmpty_nil, Bool.not_true]

/-- The lanes of an access are its participants. -/
@[simp] theorem globals_fst (f : LForm) (u : Issue) : (Claims.globals f u).map Prod.fst = participants u f := by
  rw [Claims.globals, List.map_map]
  exact List.map_id _

/-- An access is empty where no strand takes part. -/
@[simp] theorem globals_isEmpty (f : LForm) (u : Issue) : (Claims.globals f u).isEmpty = (participants u f).isEmpty := by
  rw [Claims.globals, List.isEmpty_map]

/-- As many addresses as participants. -/
@[simp] theorem globals_length (f : LForm) (u : Issue) : (Claims.globals f u).length = (participants u f).length := by
  rw [Claims.globals, List.length_map]

/-- Scratchpad addresses that pass the checks go on with their places. -/
theorem checkLocal_good {s : State} {u : Issue} {f : LForm} (h : Claims.localGood s u f = true)
    (k : List (Nat × Nat × Nat) → Act) : checkLocal s u f k = k (Claims.placesOf s u f) := by
  simp only [Claims.localGood, List.all_eq_true, Bool.and_eq_true, beq_iff_eq] at h
  have hodd : (participants u f).filter (fun l => bits (baseLocal u f l) 31 26 != 0) = [] := by
    rw [List.filter_eq_nil_iff]
    exact fun l hl => by simp [(h l hl).1.1]
  have hmis : (participants u f).filter (fun l => offLocal u f l % accSize f != 0) = [] := by
    rw [List.filter_eq_nil_iff]
    exact fun l hl => by simp [(h l hl).1.2]
  have hout : (participants u f).filter (fun l => (Claims.placeOfLocal s u f l).isNone) = [] := by
    rw [List.filter_eq_nil_iff]
    exact fun l hl => by simp [Option.isSome_iff_ne_none.mp (h l hl).2]
  unfold Claims.placeOfLocal at hout
  unfold checkLocal
  simp only [hodd, hmis, hout]
  rfl

/-- Where the checks pass every participant has a place. -/
theorem placesOf_fst {s : State} {u : Issue} {f : LForm} (h : Claims.localGood s u f = true) :
    (Claims.placesOf s u f).map Prod.fst = participants u f := by
  simp only [Claims.localGood, List.all_eq_true, Bool.and_eq_true] at h
  unfold Claims.placesOf
  rw [List.map_filterMap]
  have : ∀ l ∈ participants u f, ((Claims.placeOfLocal s u f l).map (fun p => (l, p.1, p.2))).map Prod.fst = some l := fun l hl => by
    obtain ⟨p, hp⟩ := Option.isSome_iff_exists.mp (h l hl).2
    rw [hp]
    rfl
  rw [List.filterMap_congr this]
  exact List.filterMap_some

/-- The places are empty where no strand takes part. -/
theorem placesOf_isEmpty {s : State} {u : Issue} {f : LForm} (h : Claims.localGood s u f = true) :
    (Claims.placesOf s u f).isEmpty = (participants u f).isEmpty := by
  rw [← placesOf_fst h, List.isEmpty_map]

/-! ### The instructions -/

/-- What stands first under a key, where what stands there depends on the key alone. -/
theorem find?_filterMap_key {α β γ : Type} [DecidableEq α] {ls : List α} {m : α → Option β} {g : α → β → α × γ} {l : α}
    (hl : l ∈ ls) (hg : ∀ k n, (g k n).1 = k) :
    (ls.filterMap (fun k => (m k).map (g k))).find? (fun h => h.1 == l) = (m l).map (g l) := by
  have hne : ∀ k, k ≠ l → ((m k).map (g k)).any (fun h => h.1 == l) = false := fun k hk => by
    cases m k <;> simp [hg, hk]
  rw [List.find?_filterMap]
  cases hm : m l with
  | none =>
    have hnone : ls.find? (fun k => ((m k).map (g k)).any (fun h => h.1 == l)) = none := by
      rw [List.find?_eq_none]
      intro k _
      by_cases hk : k = l
      · simp [hk, hm]
      · simp [hne k hk]
    rw [hnone]
    rfl
  | some n =>
    have hsome : ls.find? (fun k => ((m k).map (g k)).any (fun h => h.1 == l)) = some l := by
      obtain ⟨k, hk⟩ := Option.isSome_iff_exists.mp (List.find?_isSome.mpr ⟨l, hl, by simp [hm, hg]⟩ :
        (ls.find? (fun k => ((m k).map (g k)).any (fun h => h.1 == l))).isSome = true)
      have hp := List.find?_some hk
      by_contra hc
      have hkl : k ≠ l := fun h => hc (h ▸ hk)
      rw [hne k hkl] at hp
      exact Bool.false_ne_true hp
    rw [hsome]
    simp [hm]

/-- The participants' hits of an LDX or STX (R269): what a lane's address matches depends on the lane alone. -/
theorem tagHits_find (u : Issue) (f : LForm) {l : Nat} (hl : l ∈ participants u f) :
    (tagHits u (Claims.globals f u)).find? (fun h => h.1 == l)
      = (slotMatch u.blk (eaGlobal u f l)).map (fun n => (l, u.b, 256 * n + eaGlobal u f l % 256)) := by
  unfold tagHits Claims.globals
  rw [List.filterMap_map]
  refine find?_filterMap_key (g := fun k n => (k, u.b, 256 * n + eaGlobal u f k % 256)) hl (fun k n => rfl)

/-- As `globals_fst`, of the addresses as the instructions form them. -/
theorem globals_lanes (f : LForm) (u : Issue) :
    ((participants u f).map (fun l => (l, eaGlobal u f l))).map Prod.fst = participants u f := globals_fst f u

/-- An access of some strands whose addresses pass goes on. -/
theorem checkGlobal_issues {f : LForm} {u : Issue} {canon : Bool} {align : Nat}
    (h : (Claims.globalGood (Claims.globals f u) canon align && !(participants u f).isEmpty) = true) (k₁ k₂ : Act) :
    checkGlobal (Claims.globals f u) canon align (if (Claims.globals f u).isEmpty then k₁ else k₂) = k₂ := by
  obtain ⟨hg, hp⟩ := Bool.and_eq_true_iff.mp h
  rw [Bool.not_eq_true'] at hp
  rw [checkGlobal_good hg, globals_isEmpty, hp, if_neg Bool.false_ne_true]

/-- The accesses complete as they issue. -/
theorem accessCases_complete (f : LForm) (s : State) (u : Issue) : ∀ e ∈ Claims.accessCases f s u, e.Completes s u := by
  simp only [Claims.accessCases, List.forall_mem_cons]
  refine ⟨?ld, ?st, ?pref, ?ldc, ?stc, ?ldx, ?stxNone, ?stx, ?cvtsc, ?cvtscRows, by simp⟩
  case ld =>
    refine completes_of_body (show execLd f s = _ from rfl) (fun h => ?_)
    refine (checkGlobal_issues h _ _).trans ?_
    rw [globals_lanes]
    rfl
  case st =>
    refine completes_of_body (show execSt f s = _ from rfl) (fun h => ?_)
    obtain ⟨h, hs⟩ := Bool.and_eq_true_iff.mp h
    rw [Bool.not_eq_true'] at hs
    refine (checkGlobal_issues h _ _).trans ((if_neg (Bool.eq_false_iff.mp hs)).trans ?_)
    rw [globals_lanes]
    rfl
  case pref =>
    refine completes_of_body (show execPref f s = _ from rfl) (fun h => ?_)
    refine (checkGlobal_issues h _ _).trans ?_
    rw [globals_lanes]
    rfl
  case ldc =>
    refine completes_of_body (show execLdc f s = _ from rfl) (fun h => ?_)
    simp only [Bool.and_eq_true, Bool.not_eq_true'] at h
    obtain ⟨⟨hg, hp⟩, hl⟩ := h
    rw [checkLocal_good hg, placesOf_isEmpty hg, hp, if_neg Bool.false_ne_true, hl, placesOf_fst hg]
    simp only [Claims.localAt, List.map_map]
    rfl
  case stc =>
    refine completes_of_body (show execStc f s = _ from rfl) (fun h => ?_)
    simp only [Bool.and_eq_true, Bool.not_eq_true'] at h
    obtain ⟨⟨hg, hp⟩, hl⟩ := h
    rw [checkLocal_good hg, placesOf_isEmpty hg, hp, if_neg Bool.false_ne_true, hl]
    rfl
  case ldx =>
    refine completes_of_body (show execLdx f s = _ from rfl) (fun h => ?_)
    simp only [Bool.and_eq_true, Bool.not_eq_true', Claims.hitsFree] at h
    obtain ⟨⟨hg, hl, hb⟩, hpo⟩ := h
    refine (checkGlobal_good hg _).trans ((if_neg ?_).trans ((if_neg ?_).trans ?_))
    · rw [Bool.not_eq_true', Bool.not_eq_false]
      exact hl
    · rw [Bool.not_eq_true]
      exact hb
    have hws : ∀ ws, ws = Claims.ldxWrites s u f → Act.go (vregsOf ws) [] (fun t =>
          if (tagHits u (Claims.globals f u)).any (fun h => winPoison s h.2.1 h.2.2 (accSize f)) then
            killBraid (modCord t u.b u.c (writeRegs ws)) u.b else modCord t u.b u.c (writeRegs ws))
        = .go (vregsOf (Claims.ldxWrites s u f)) [] (fun t => modCord t u.b u.c (writeRegs (Claims.ldxWrites s u f))) := by
      rintro _ rfl
      simp only [hpo, Bool.false_eq_true, if_false]
    refine hws _ (List.flatMap_congr (fun e he => ?_))
    obtain ⟨l, hl, rfl⟩ := List.mem_map.mp he
    have hfind := tagHits_find u f hl
    cases hm : slotMatch u.blk (eaGlobal u f l) with
    | none =>
      rw [hm] at hfind
      have hfind : (tagHits u (List.map (fun l => (l, eaGlobal u f l)) (participants u f))).find? (fun h => h.1 == l) = none := hfind
      simp only [hfind]
    | some n =>
      rw [hm] at hfind
      have hfind : (tagHits u (List.map (fun l => (l, eaGlobal u f l)) (participants u f))).find? (fun h => h.1 == l)
          = some (l, u.b, 256 * n + eaGlobal u f l % 256) := hfind
      simp only [hfind]
  case stxNone =>
    refine completes_of_body (show execStx f s = _ from rfl) (fun h => ?_)
    obtain ⟨hg, hh⟩ := Bool.and_eq_true_iff.mp h
    exact (checkGlobal_good hg _).trans (if_pos hh)
  case stx =>
    refine completes_of_body (show execStx f s = _ from rfl) (fun h => ?_)
    simp only [Bool.and_eq_true, Bool.not_eq_true'] at h
    obtain ⟨⟨hg, hh⟩, hl⟩ := h
    refine (checkGlobal_good hg _).trans ((if_neg (Bool.eq_false_iff.mp hh)).trans (if_neg ?_))
    rw [Bool.not_eq_true', Bool.not_eq_false]
    exact hl
  case cvtsc =>
    refine completes_of_body (show execCvtsc f s = _ from rfl) (fun h => ?_)
    simp only [Bool.and_eq_true, Bool.not_eq_true'] at h
    obtain ⟨⟨⟨hp, hv⟩, hq⟩, hr⟩ := h
    simp only [hq, hp, hv, hr]
    exact if_neg (Bool.eq_false_iff.mp hp)
  case cvtscRows =>
    refine completes_of_body (show execCvtsc f s = _ from rfl) (fun h => ?_)
    simp only [Bool.and_eq_true, Bool.not_eq_true'] at h
    obtain ⟨⟨⟨⟨hp, hv⟩, hq⟩, hr⟩, hg⟩ := h
    simp only [hq, hp, hv, hr]
    exact checkGlobal_good hg _

/-- PHASE and the fences complete as they issue. -/
theorem fenceCases_complete (f : LForm) (s : State) (u : Issue) : ∀ e ∈ Claims.fenceCases f s u, e.Completes s u := by
  simp only [Claims.fenceCases, List.forall_mem_cons]
  refine ⟨?phase, ?wide, ?quiet, ?open_, ?fenceP, by simp⟩
  case phase =>
    refine completes_of_reaches (show execPhase f s = _ from rfl) (fun hr h => ?_)
    simp only [Bool.and_eq_true, Bool.not_eq_true', decide_eq_true_eq] at h
    obtain ⟨hp, hsc⟩ := h
    have hw : wide f.mod.toNat = false := decide_eq_false (by omega)
    simp only [hr, hp, hw]
    rfl
  case wide =>
    refine completes_of_reaches (show execPhase f s = _ from rfl) (fun hr h => ?_)
    simp only [Bool.and_eq_true, Bool.not_eq_true', decide_eq_true_eq] at h
    obtain ⟨hp, hsc⟩ := h
    have hw : wide f.mod.toNat = true := decide_eq_true hsc
    simp only [hr, hp, hw]
    rfl
  case quiet =>
    refine completes_of_reaches (show execFenceX f s = _ from rfl) (fun hr h => ?_)
    obtain ⟨hp, hq⟩ := Bool.and_eq_true_iff.mp h
    simp only [hr]
    exact if_pos (by rw [Bool.or_eq_true]; exact .inr hq)
  case open_ =>
    refine completes_of_reaches (show execFenceX f s = _ from rfl) (fun hr h => ?_)
    simp only [Bool.and_eq_true, Bool.not_eq_true'] at h
    obtain ⟨hp, hq⟩ := h
    simp only [hr]
    exact if_neg (by rw [Bool.or_eq_true, hp]; rintro (h | h); exact Bool.false_ne_true h; exact Bool.false_ne_true (hq.symm.trans h))
  case fenceP =>
    refine completes_of_reaches (show execFenceP f s = _ from rfl) (fun hr h => ?_)
    simp only [hr]
    exact if_neg (by rw [Bool.not_eq_true]; exact (Bool.not_eq_true' _).mp h)

/-- Settles O38: each body where its checks pass. -/
theorem accessesIssue : Obligations.AccessesIssue := ⟨accessCases_complete, fenceCases_complete⟩

end Sys2Proof.Machine
end

/-! ## Atomics as they issue, and the checks of addresses -/

section
open Sys2Proof Sys2Proof.Machine

namespace Sys2Proof.Machine

/-! ### The atomics -/

/-- A condition that is false is not met. -/
theorem ready_parts {eas : List (Nat × Nat)} {align : Nat} {p q : Bool}
    (h : (Claims.globalGood eas true align && !p && !q) = true) :
    (Claims.globalGood eas true align && !p) = true ∧ ¬ q = true := by
  obtain ⟨h, hq⟩ := Bool.and_eq_true_iff.mp h
  exact ⟨h, by simpa using hq⟩

/-- ATOM, RED and CAS issue as the claims have it. -/
theorem atomicCase_completes {i : Instr} {f : LForm} {s : State} {u : Issue} {kind : OpKind} {regs : List Nat}
    {accs : Issue → List (Nat × Nat) → List Acc} (hx : exec i s = issue i (atomicBody f kind regs accs) s) :
    (Claims.atomicCase i f s u regs kind (accs u (Claims.globals f u))).Completes s u := by
  refine completes_of_body hx (fun h => ?_)
  obtain ⟨h, hs⟩ := ready_parts h
  refine (checkGlobal_issues h _ _).trans ((if_neg ?_).trans ?_)
  · rwa [List.length_map]
  · rw [globals_lanes]
    unfold Claims.atomicCase
    have hcode : (if f.mod2.toNat < 8 then 0 else f.mod.toNat) = orderCode f := rfl
    have hstream : (if f.mod2.toNat < 8 then f.mod.toNat else 0) = stepStream f := rfl
    by_cases hn : orderCode f = 0
    · simp only [hcode, hstream, hn, if_true]
      rfl
    · have hrel : (orderRel (orderCode f) = true) = (orderCode f ≠ 0 ∧ (orderCode f ≤ 5 ∨ 11 ≤ orderCode f)) := by
        simp [orderRel, hn]
      have hb : (orderCode f != 0) = true := bne_iff_ne.mpr hn
      simp only [hcode, hstream, hrel, hb, hn, if_true, if_false]
      rfl

/-- The atomics complete as they issue. -/
theorem atomicCases_complete (f : LForm) (s : State) (u : Issue) : ∀ e ∈ Claims.atomicCases f s u, e.Completes s u := by
  simp only [Claims.atomicCases, List.forall_mem_cons]
  refine ⟨?atom, ?red, ?cas, ?atomr, ?cqpop, ?tst, ?retract, ?tcommit, by simp⟩
  case atom => exact atomicCase_completes (accs := stepAccs f) (show execAtom f s = _ from rfl)
  case red => exact atomicCase_completes (accs := stepAccs f) (show execRed f s = _ from rfl)
  case cas => exact atomicCase_completes (accs := casAccs f) (show execCas f s = _ from rfl)
  case atomr =>
    refine completes_of_body (show execAtomr f s = _ from rfl) (fun h => ?_)
    simp only [Bool.and_eq_true, decide_eq_true_eq] at h
    obtain ⟨⟨⟨⟨hg, hp⟩, hs⟩, h256⟩, hc⟩ := h
    have hl : ((participants u f).map (fun l => (l, eaGlobal u f l))).length = (participants u f).length := List.length_map _
    refine (checkGlobal_issues (Bool.and_eq_true_iff.mpr ⟨hg, hp⟩) _ _).trans ((if_neg ?_).trans ((if_neg ?_).trans ((if_neg ?_).trans ?_)))
    · omega
    · rw [hl]
      simpa using hs
    · omega
    · rw [globals_lanes, hl]
      rfl
  case cqpop =>
    refine completes_of_body (show execCqpop f s = _ from rfl) (fun h => ?_)
    exact if_neg (by simpa using h)
  case tst =>
    refine completes_of_body (show execTst f s = _ from rfl) (fun h => ?_)
    obtain ⟨h, hs⟩ := ready_parts h
    refine (checkGlobal_issues h _ _).trans ((if_neg ?_).trans ?_)
    · rwa [List.length_map]
    · rw [globals_lanes]
      rfl
  case retract =>
    refine completes_of_reaches (show execRetract f s = _ from rfl) (fun hr h => ?_)
    obtain ⟨h, ht⟩ := Bool.and_eq_true_iff.mp h
    obtain ⟨h, hs⟩ := ready_parts h
    simp only [Claims.targetsGood, Bool.and_eq_true, List.isEmpty_iff, Bool.not_eq_true'] at ht
    obtain ⟨⟨⟨ho, hf⟩, hb⟩, hn⟩ := ht
    have ho : (Claims.targetsOf f u (fun _ => u.pc + (f.lit.getD 0).signExtend 64)).filter (fun t => t.2.toNat % 4 != 0) = [] := by
      rw [List.filter_eq_nil_iff]
      exact fun t ht => by simpa using List.all_eq_true.mp ho t ht
    simp only [hr]
    refine (checkGlobal_issues h _ _).trans ?_
    rw [globals_lanes]
    refine (checkTargets_pass ho hf hb).trans ((if_neg (by simpa using hn)).trans ((if_neg ?_).trans rfl))
    rwa [List.length_map]
  case tcommit =>
    refine completes_of_body (show execTcommit f s = _ from rfl) (fun h => ?_)
    obtain ⟨h, hs⟩ := ready_parts h
    refine (checkGlobal_issues h _ _).trans ((if_neg ?_).trans ?_)
    · rwa [List.length_map]
    · rw [globals_lanes]
      rfl

/-- A word from the integer that it stands for. -/
theorem ofInt_toInt_toNat (sg : Bool) (x : Word) : BitVec.ofInt 32 (toInt sg 32 x.toNat) = x := by
  rw [toInt_eq_readInt _ x.isLt, Claims.readInt, BitVec.ofNat_toNat, BitVec.setWidth_eq]
  cases sg
  · rw [if_neg Bool.false_ne_true, BitVec.ofInt_natCast, BitVec.ofNat_toNat, BitVec.setWidth_eq]
  · rw [if_pos rfl, BitVec.ofInt_toInt]

/-- The sum of two words (Table 13-6). -/
theorem wrapInt_toInt_add (sg : Bool) (x y : Word) : wrapInt 32 (toInt sg 32 x.toNat + toInt sg 32 y.toNat) = (x + y).toNat := by
  rw [wrapInt_eq, BitVec.ofInt_add, ofInt_toInt_toNat, ofInt_toInt_toNat]

/-- Two words in the order of their integers. -/
theorem toInt_le_iff (x y : Word) : (toInt true 32 x.toNat ≤ toInt true 32 y.toNat ↔ x.toInt ≤ y.toInt)
    ∧ (toInt false 32 x.toNat ≤ toInt false 32 y.toNat ↔ x.toNat ≤ y.toNat) := by
  have hx : ∀ z : Word, toInt true 32 z.toNat = z.toInt := fun z => by
    rw [toInt_eq_readInt _ z.isLt, Claims.readInt, if_pos rfl, BitVec.ofNat_toNat, BitVec.setWidth_eq]
  exact ⟨by rw [hx, hx], Int.ofNat_le⟩

/-- What a step writes at a word of 32 bits (Table 13-6). -/
theorem newWord_eq {op ty : Nat} (hop : op < 7) (hty : ty = 1 ∨ ty = 2 ∨ (ty = 0 ∧ 3 ≤ op)) (x y : Word) :
    newWord op ty x.toNat y.toNat = (Claims.stepWord op ty x y).toNat := by
  by_cases h3 : 3 ≤ op
  · interval_cases op
    · exact (BitVec.toNat_and ..).symm
    · exact (BitVec.toNat_or ..).symm
    · exact (BitVec.toNat_xor ..).symm
    · rfl
  · have hty : ty = 1 ∨ ty = 2 := by omega
    rcases hty with rfl | rfl
    · interval_cases op
      · exact wrapInt_toInt_add true x y
      · change (if toInt true 32 x.toNat ≤ toInt true 32 y.toNat then x.toNat else y.toNat)
          = (if x.toInt ≤ y.toInt then x else y).toNat
        rw [apply_ite BitVec.toNat]
        simp only [(toInt_le_iff x y).1]
      · change (if toInt true 32 y.toNat ≤ toInt true 32 x.toNat then x.toNat else y.toNat)
          = (if x.toInt ≤ y.toInt then y else x).toNat
        simp only [(toInt_le_iff y x).1]
        rcases lt_trichotomy x.toInt y.toInt with h | h | h
        · rw [if_neg h.not_ge, if_pos h.le]
        · rw [if_pos h.ge, if_pos h.le, BitVec.eq_of_toInt_eq h]
        · rw [if_pos h.le, if_neg h.not_ge]
    · interval_cases op
      · exact wrapInt_toInt_add false x y
      · change (if toInt false 32 x.toNat ≤ toInt false 32 y.toNat then x.toNat else y.toNat)
          = (if x.toNat ≤ y.toNat then x else y).toNat
        rw [apply_ite BitVec.toNat]
        simp only [(toInt_le_iff x y).2]
      · change (if toInt false 32 y.toNat ≤ toInt false 32 x.toNat then x.toNat else y.toNat)
          = (if x.toNat ≤ y.toNat then y else x).toNat
        rw [apply_ite BitVec.toNat]
        simp only [(toInt_le_iff y x).2]
        split <;> split <;> omega

/-- Settles O39: each body where its checks pass, and the operation of each code on words. -/
theorem atomicsIssue : Obligations.AtomicsIssue := by
  unfold Obligations.AtomicsIssue
  refine ⟨atomicCases_complete, fun f a x y hy => ⟨fun k hk h7 hty h3 => ?step, fun h => ?other, fun h => ?same, rfl, fun hw => ?ws⟩⟩
  case step =>
    have hstep : stepNew k a x.toNat = some (newWord (f.mod2.toNat % 8) f.ty.toNat x.toNat (leNat a.data)) := by
      simp only [List.mem_cons, List.not_mem_nil, or_false] at hk
      rcases hk with rfl | rfl <;> rfl
    have htys : f.ty.toNat = 1 ∨ f.ty.toNat = 2 ∨ (f.ty.toNat = 0 ∧ 3 ≤ f.mod2.toNat % 8) := by
      simp only [List.mem_cons, List.not_mem_nil, or_false] at hty
      rcases hty with h | h | h
      · exact .inr (.inr ⟨by rw [h]; rfl, h3 h⟩)
      · exact .inl (by rw [h]; rfl)
      · exact .inr (.inl (by rw [h]; rfl))
    rw [hstep, hy, newWord_eq (by omega) htys]
  case other =>
    have : x.toNat ≠ leNat a.data := fun he => h (BitVec.eq_of_toNat_eq (he.trans hy))
    exact if_neg this
  case same =>
    have : x.toNat = leNat a.data := by rw [h, hy]
    exact if_pos this
  case ws =>
    simp [stepWs, putReg, hw]

/-! ### The checks that fail (Table 13-2, R175) -/

/-- A canonical address is looked for first. -/
theorem checkGlobal_far {eas : List (Nat × Nat)} {align : Nat} {k : Act}
    (h : eas.filter (fun e => decide (2 ^ 57 ≤ e.2)) ≠ []) :
    checkGlobal eas true align k = trapFor .addrCanon (eas.filter (fun e => decide (2 ^ 57 ≤ e.2))) :=
  if_pos (by simpa using h)

/-- Then an aligned one. -/
theorem checkGlobal_odd {eas : List (Nat × Nat)} {canon : Bool} {align : Nat} {k : Act}
    (hf : canon = true → eas.filter (fun e => decide (2 ^ 57 ≤ e.2)) = []) (h : eas.filter (fun e => e.2 % align != 0) ≠ []) :
    checkGlobal eas canon align k = trapFor .alignFault (eas.filter (fun e => e.2 % align != 0)) := by
  have hc : (canon && !(eas.filter (fun e => decide (2 ^ 57 ≤ e.2))).isEmpty) = false := by
    cases canon with
    | false => rfl
    | true => rw [hf rfl]; rfl
  unfold checkGlobal
  simp only [hc, Bool.false_eq_true, if_false]
  exact if_pos (by simpa using h)

/-- An instruction that first checks its global addresses, with the first check that fails. -/
theorem globalTable_checks (f : LForm) (s : State) (u : Issue) (hr : u.resume = none) : ∀ e ∈ Claims.globalTable f,
    ∃ body, exec e.1 s = issue e.1 body s ∧ ∃ k, body u s = checkGlobal (Claims.globals f u) e.2.1 e.2.2 k := by
  simp only [Claims.globalTable, List.forall_mem_cons]
  refine ⟨?_, ?_, ?_, ?_, ?_, ?_, ?_, ?_, ?_, ?_, ?_, ?_, by simp⟩
  · exact ⟨_, (show execLd f s = _ from rfl), _, rfl⟩
  · exact ⟨_, (show execSt f s = _ from rfl), _, rfl⟩
  · exact ⟨_, (show execLdx f s = _ from rfl), _, rfl⟩
  · exact ⟨_, (show execStx f s = _ from rfl), _, rfl⟩
  · exact ⟨_, (show execPref f s = _ from rfl), _, rfl⟩
  · exact ⟨_, (show execAtom f s = _ from rfl), _, rfl⟩
  · exact ⟨_, (show execRed f s = _ from rfl), _, rfl⟩
  · exact ⟨_, (show execCas f s = _ from rfl), _, rfl⟩
  · exact ⟨_, (show execAtomr f s = _ from rfl), _, rfl⟩
  · exact ⟨_, (show execTst f s = _ from rfl), _, rfl⟩
  · refine ⟨_, (show execRetract f s = _ from rfl), ?_⟩
    simp only [hr]
    exact ⟨_, rfl⟩
  · exact ⟨_, (show execTcommit f s = _ from rfl), _, rfl⟩

/-- LDC and STC check their scratchpad addresses first. -/
theorem local_checks (f : LForm) (s : State) (u : Issue) : ∀ i ∈ [Instr.ldc f, .stc f],
    ∃ body, exec i s = issue i body s ∧ ∃ k, body u s = checkLocal s u f k := by
  simp only [List.forall_mem_cons]
  exact ⟨⟨_, (show execLdc f s = _ from rfl), _, rfl⟩, ⟨_, (show execStc f s = _ from rfl), _, rfl⟩, by simp⟩

/-- The first check of a scratchpad address that fails. -/
theorem checkLocal_fails {s : State} {u : Issue} {f : LForm} (k : List (Nat × Nat × Nat) → Act) :
    let ls := participants u f
    let field := ls.filter (fun l => bits (baseLocal u f l) 31 26 != 0)
    let odd := ls.filter (fun l => offLocal u f l % accSize f != 0)
    let out := ls.filter (fun l => (Claims.placeOfLocal s u f l).isNone)
    (field ≠ [] → checkLocal s u f k = .trap .opndField field 0 0)
    ∧ (field = [] → odd ≠ [] → checkLocal s u f k = .trap .alignFault odd 0 0)
    ∧ (field = [] → odd = [] → out ≠ [] → checkLocal s u f k = .trap .scratchRange out 0 0) := by
  refine ⟨fun h => if_pos (by simpa using h), fun h h' => ?_, fun h h' h'' => ?_⟩
  · unfold checkLocal
    simp only [h, List.isEmpty_nil, Bool.not_true, Bool.false_eq_true, if_false]
    exact if_pos (by simpa using h')
  · unfold checkLocal
    simp only [h, h', List.isEmpty_nil, Bool.not_true, Bool.false_eq_true, if_false]
    exact if_pos (by simpa [Claims.placeOfLocal] using h'')

/-- The instructions on a local offset check it first (R175). -/
theorem own_checks (f : LForm) (s : State) (u : Issue) (hr : u.resume = none) (hp : participants u f ≠ []) :
    ∀ e ∈ [(Instr.tdset f, 64), (.tdget f, 64), (.boinit f, 16), (.boarrive f, 16), (.bowait f, 16), (.kick f, 32),
          (.gse f, 32), (.coll f, 32)],
    ∃ body, exec e.1 s = issue e.1 body s ∧ ∃ k, body u s = checkOwn u (participants u f) (scalA u f.a) e.2 e.2 k := by
  have hne : ¬ (participants u f).isEmpty = true := by simpa using hp
  simp only [List.forall_mem_cons]
  refine ⟨⟨_, (show execTdset f s = _ from rfl), _, if_neg hne⟩, ⟨_, (show execTdget f s = _ from rfl), _, if_neg hne⟩,
    ⟨_, (show execBoinit f s = _ from rfl), _, if_neg hne⟩, ⟨_, (show execBoarrive f s = _ from rfl), _, if_neg hne⟩, ?bowait,
    ⟨_, (show execKick f s = _ from rfl), _, if_neg hne⟩, ⟨_, (show execGse f s = _ from rfl), _, if_neg hne⟩,
    ⟨_, (show execColl f s = _ from rfl), _, if_neg hne⟩, by simp⟩
  case bowait =>
    refine ⟨_, (show execBowait f s = _ from rfl), ?_⟩
    simp only [hr]
    exact ⟨_, if_neg hne⟩

/-- Settles O42: the instructions check first, and the checks trap in their order. -/
theorem addressChecks : Obligations.AddressChecks := by
  unfold Obligations.AddressChecks
  refine ⟨fun f s u => ⟨fun e he h => ?global, fun i hi h => ?local_⟩, fun f s u hp e he h => ?own⟩
  case global =>
    obtain ⟨body, hx, k, hb⟩ := globalTable_checks f s u h.2.2.1 e he
    refine ⟨fun hc hfar => exec_trap_of h hx ?_, fun hc hodd => exec_trap_of h hx ?_⟩
    · rw [hb, hc]
      exact checkGlobal_far hfar
    · rw [hb]
      exact checkGlobal_odd hc hodd
  case local_ =>
    obtain ⟨body, hx, k, hb⟩ := local_checks f s u i hi
    obtain ⟨h1, h2, h3⟩ := checkLocal_fails (s := s) (u := u) (f := f) k
    exact ⟨fun hf => exec_trap_of h hx (hb.trans (h1 hf)), fun hf ho => exec_trap_of h hx (hb.trans (h2 hf ho)),
      fun hf ho hr => exec_trap_of h hx (hb.trans (h3 hf ho hr))⟩
  case own =>
    obtain ⟨body, hx, k, hb⟩ := own_checks f s u h.2.2.1 hp e he
    refine ⟨fun hf => exec_trap_of h hx (hb.trans (if_pos ?_)), fun h1 h2 h3 => exec_trap_of h hx (hb.trans ((if_neg ?_).trans (if_pos ?_)))⟩
    · simpa using hf
    · simp [h1, h2]
    · simpa [inWindow] using h3

end Sys2Proof.Machine
end

/-! ## Descriptors, tags, barrier objects and requests -/

section
open Sys2Proof Sys2Proof.Machine

namespace Sys2Proof.Machine

/-! ### Objects of the block's own window -/

/-- What `ownGood` says, part by part. -/
theorem ownGood_iff {s : State} {u : Issue} {f : LForm} {off align size : Nat} : Claims.ownGood s u f off align size = true
    ↔ bits off 31 20 = 0 ∧ off % align = 0 ∧ inWindow u.blk off size = true ∧ (participants u f).isEmpty = false
      ∧ present s u.b off size = true
      ∧ winBlocked s u f 0 ((elected (participants u f)).map (fun l => newAcc u l (packPos u.blk.pos off) size [] [])) = false := by
  simp only [Claims.ownGood, Bool.and_eq_true, beq_iff_eq, Bool.not_eq_true', elected, and_assoc]

/-- An offset that passes goes on. -/
theorem checkOwn_good {s : State} {u : Issue} {f : LForm} {off align size : Nat}
    (h : Claims.ownGood s u f off align size = true) (lanes : List Nat) (k : Act) : checkOwn u lanes off align size k = k := by
  obtain ⟨hb, ha, hw, -⟩ := ownGood_iff.mp h
  unfold checkOwn
  simp [hb, ha, hw]

/-- An access of the elected strand that may be made now is made. -/
theorem withOwn_good {s : State} {u : Issue} {f : LForm} {off align size : Nat}
    (h : Claims.ownGood s u f off align size = true) (k : Act) :
    withOwn s u f (elected (participants u f)) off size k = k := by
  obtain ⟨-, -, -, -, hp, hb⟩ := ownGood_iff.mp h
  unfold withOwn
  simp [hp, hb]

/-- An object instruction whose object may be accessed now goes on. -/
theorem objectBody_good {s : State} {u : Issue} {f : LForm} (h : Claims.ownGood s u f (scalA u f.a) 16 16 = true)
    (k : Issue → Nat → Act) : objectBody f k u s = k u (scalA u f.a) := by
  obtain ⟨-, -, -, hp, -⟩ := ownGood_iff.mp h
  unfold objectBody
  simp only [hp, Bool.false_eq_true, if_false]
  rw [checkOwn_good h, withOwn_good h]

/-! ### PRES -/

/-- PRES reads the bits as they stand where its context neither records nor replays. -/
theorem presLanes_unlogged {u : Issue} {t : State} (h : Claims.unlogged t u.b = true) (slots : List (Nat × Nat)) :
    presLanes u slots t = (slots.map (fun e => (e.1, presVal u.blk e.2)), t) := by
  have hlog : ∀ g, gridOfBlock t u.b = some g → ctxLog (ctxOf t g.part g.ctx) = 0 := fun g hg => by
    simpa [Claims.unlogged, hg] using h
  induction slots with
  | nil => rfl
  | cons e rest ih =>
    obtain ⟨l, slot⟩ := e
    unfold presLanes
    cases hg : gridOfBlock t u.b with
    | none => simp only [ih, List.map_cons]
    | some g =>
      have hfree : ∀ src, timedRead t g.part g.ctx 3 src = .free := fun src => by simp [timedRead, hlog g hg]
      have hrec : ∀ e, recordTimed t u.b e = t := fun e => by
        unfold recordTimed recordFor record
        simp [hg, hlog g hg]
      simp only [hfree, hrec, ih, List.map_cons]

/-- PRES's result for a slot is a lane's absence bit, or 0 for no slot (R183). -/
theorem ofNat_presVal (x : Block) (slot : Nat) : BitVec.ofNat 32 (presVal x slot)
    = (if slot = 0xFFFFFFFF then 0 else if x.presence.getD slot 0 = 0 then 1 else 0 : Word) := by
  unfold presVal
  by_cases hs : slot = 0xFFFFFFFF
  · simp only [hs, if_true]
    rfl
  · by_cases hg : x.presence.getD slot 0 = 0
    · simp only [hs, hg, if_true, if_false]
      rfl
    · simp only [hs, hg, if_false, beq_eq_false_iff_ne.mpr hg]
      rfl

/-- A slot is absent where its count of transfers is not 0 (R183). -/
theorem presVal_absent (x : Block) (slot : Nat) : (slot != 0xFFFFFFFF && presVal x slot == 0)
    = (slot != 0xFFFFFFFF && x.presence.getD slot 0 != 0) := by
  unfold presVal
  by_cases hs : slot = 0xFFFFFFFF
  · simp [hs]
  · by_cases hg : x.presence.getD slot 0 = 0
    · rw [if_neg hs, hg]
      rfl
    · rw [if_neg hs, beq_eq_false_iff_ne.mpr hg, bne_iff_ne.mpr hg]
      rfl

/-- A filtered list is empty where no element passes. -/
theorem isEmpty_filter_not {α : Type} (p : α → Bool) (l : List α) : (!(l.filter p).isEmpty) = l.any p := by
  rw [Bool.eq_iff_iff]
  simp

/-- What PRES does to its cord where it has been taken. -/
def presEffect (f : LForm) (u : Issue) (t : State) : State :=
  let r := presLanes u (Claims.presSlots f u) t
  modCord r.2 u.b u.c (writeRegs (r.1.map (fun e =>
    if f.asc then .s f.d.toNat (BitVec.ofNat 32 e.2) else .v e.1 f.d.toNat (BitVec.ofNat 32 e.2))))

/-- Without a log PRES writes the bits as they stand. -/
theorem presEffect_unlogged {f : LForm} {u : Issue} {t : State} (h : Claims.unlogged t u.b = true) :
    presEffect f u t = modCord t u.b u.c (writeRegs (Claims.presWrites f u)) := by
  unfold presEffect Claims.presWrites
  simp only [presLanes_unlogged h, List.map_map, Function.comp_def, ofNat_presVal]

/-- Retiring leaves the logs as they are. -/
theorem unlogged_moved {s : State} {u : Issue} {regs dws : List Nat} {b : Nat} :
    Claims.unlogged (Claims.moved s u regs dws) b = Claims.unlogged s b := by
  unfold Claims.unlogged Claims.moved
  rw [gridOfBlock_modCord]
  rfl

/-- Settles O40: by the body of each instruction where its object may be accessed, and PRES by its reading of the bits without a log. -/
theorem scratchInstructions : Obligations.ScratchInstructions := by
  unfold Obligations.ScratchInstructions
  intro f s u
  simp only [Claims.scratchCases, List.forall_mem_cons]
  refine ⟨?tdset, ?tdget, ?tdinv, ?lookupS, ?lookup, ?tagset, ?tagclrAll, ?tagclr, ?pres, ?boinit, ?boarrive, ?bowait, ?bowaitPark, by simp⟩
  case tdset =>
    refine completes_of_body (show execTdset f s = _ from rfl) (fun h => ?_)
    simp only [Bool.and_eq_true, Bool.not_eq_true'] at h
    obtain ⟨⟨hg, hc⟩, hd⟩ := h
    obtain ⟨-, -, -, hp, -⟩ := ownGood_iff.mp hg
    simp only [hp, Bool.false_eq_true, if_false]
    rw [checkOwn_good hg, withOwn_good hg]
    simp only [hc, Bool.false_eq_true, if_false]
    exact if_pos hd
  case tdget =>
    refine completes_of_body (show execTdget f s = _ from rfl) (fun hg => ?_)
    obtain ⟨-, -, -, hp, -⟩ := ownGood_iff.mp hg
    simp only [hp, Bool.false_eq_true, if_false]
    rw [checkOwn_good hg, withOwn_good hg]
  case tdinv =>
    refine completes_of_body (show execTdinv f s = _ from rfl) (fun h => ?_)
    exact if_neg (by simpa using h)
  case lookupS =>
    refine completes_of_writes_when (show execLookup f s = _ from rfl) (fun h => ?_)
    obtain ⟨hp, ha⟩ := Bool.and_eq_true_iff.mp h
    refine (if_neg (by simpa using hp)).trans ((if_pos ha).trans ?_)
    unfold lookupVal
    cases slotMatch u.blk (regVal u.cord 0 true true f.a.toNat) <;> rfl
  case lookup =>
    refine completes_of_writes_when (show execLookup f s = _ from rfl) (fun h => ?_)
    obtain ⟨hp, ha⟩ := Bool.and_eq_true_iff.mp h
    refine (if_neg (by simpa using hp)).trans ((if_neg (by simpa using ha)).trans ?_)
    refine congrArg (goRegs u) (List.map_congr_left fun l _ => ?_)
    unfold lookupVal
    cases slotMatch u.blk (regVal u.cord l false true f.a.toNat) <;> rfl
  case tagset =>
    refine completes_of_body (show execTagset f s = _ from rfl) (fun h => ?_)
    simp only [Bool.and_eq_true, decide_eq_true_eq] at h
    obtain ⟨⟨hp, hs⟩, hv⟩ := h
    refine (if_neg (by simpa using hp)).trans ((if_neg (by omega)).trans ((if_neg (by omega)).trans ?_))
    rfl
  case tagclrAll =>
    refine completes_of_body (show execTagclr f s = _ from rfl) (fun h => ?_)
    obtain ⟨hp, hm⟩ := Bool.and_eq_true_iff.mp h
    exact (if_neg (by simpa using hp)).trans (if_pos hm)
  case tagclr =>
    refine completes_of_body (show execTagclr f s = _ from rfl) (fun h => ?_)
    simp only [Bool.and_eq_true, decide_eq_true_eq] at h
    obtain ⟨⟨hp, hm⟩, hs⟩ := h
    exact (if_neg (by simpa using hp)).trans ((if_neg (by simpa using hm)).trans (if_neg (by omega)))
  case pres =>
    intro hi h
    simp only [Bool.and_eq_true, Bool.not_eq_true'] at h
    obtain ⟨⟨⟨hp, hs⟩, hlog⟩, hdet⟩ := h
    refine (exec_go_of hi (show execPres f s = _ from rfl) (k := presEffect f u) ?_).trans
      (congrArg Host.Outcome.next (presEffect_unlogged (by rwa [unlogged_moved])))
    refine (if_neg ?_).trans ((if_neg ?_).trans (if_neg ?_))
    · have : participants u f ≠ [] := by simpa using hp
      cases f.asc <;> simp [elected, this]
    · rw [isEmpty_filter_not, List.any_eq_true]
      rintro ⟨e, he, hbad⟩
      have hin := List.all_eq_true.mp hs e he
      simp only [Bool.or_eq_true, beq_iff_eq, decide_eq_true_eq, Bool.and_eq_true, bne_iff_ne] at hin hbad
      omega
    · rw [Bool.not_eq_true, isEmpty_filter_not]
      simp only [presVal_absent]
      exact hdet
  case boinit =>
    refine completes_of_body (show execBoinit f s = _ from rfl) (fun hg => ?_)
    rw [objectBody_good hg]
    simp only [beq_iff_eq] <;> rfl
  case boarrive =>
    exact completes_of_body (show execBoarrive f s = _ from rfl) (fun hg => objectBody_good hg _)
  case bowait =>
    refine completes_of_reaches (show execBowait f s = _ from rfl) (fun hr h => ?_)
    obtain ⟨hg, hz⟩ := Bool.and_eq_true_iff.mp h
    simp only [hr]
    exact (objectBody_good hg _).trans (if_pos hz)
  case bowaitPark =>
    refine completes_of_reaches (show execBowait f s = _ from rfl) (fun hr h => ?_)
    obtain ⟨hg, hz⟩ := Bool.and_eq_true_iff.mp h
    simp only [hr]
    exact (objectBody_good hg _).trans (if_neg (by simpa [objectZero] using hz))

/-! ### Requests -/

/-- A request whose line may be read, with room in its queue, is handed over. -/
theorem requestBody_good {f : LForm} {e : Engine} {slots : Nat} {k : State → State} {s : State} {u : Issue}
    (he : engineSlots e = slots)
    (h : (Claims.ownGood s u f (scalA u f.a) 32 32 && decide (engineLoad s u.blk.core e < slots)) = true) :
    requestBody f e k u s = .go [] [] (fun t => handOver (k t) u f e ((participants u f).headD 0) (scalA u f.a)) := by
  simp only [Bool.and_eq_true, decide_eq_true_eq] at h
  obtain ⟨hg, hl⟩ := h
  obtain ⟨-, -, -, hp, -⟩ := ownGood_iff.mp hg
  unfold requestBody
  simp only [hp, Bool.false_eq_true, if_false]
  rw [checkOwn_good hg, if_neg (by omega), withOwn_good hg]

/-- The read of a request's bytes, taken: the window needs no translation. -/
def takenRead (s : State) (u : Issue) (f : LForm) (lane off : Nat) : Op :=
  { requestOp s u f lane off with
    accs := [{ newAcc u lane (packPos u.blk.pos off) 32 [] [] with st := .ready }] }

/-- The read of a request asks for no walk. -/
theorem addAccOp_requestOp (s : State) (u : Issue) (f : LForm) (lane off : Nat) :
    addAccOp s u (requestOp s u f lane off) = addOp s u (takenRead s u f lane off) := by
  unfold addAccOp
  simp only
  split <;> rfl

/-- The request that is handed over. -/
def handed (s : State) (u : Issue) (f : LForm) (e : Engine) (lane off : Nat) : Request :=
  { n := cutOf s u.blk.core, engine := e, block := u.b, cord := u.c, lane := lane, pc := u.pc, ret := u.cord.retBefore u.pc,
    seq := cutOf s u.blk.core, off := off, flag := flagOf u f.setf f.fsel, handler := u.cord.handler,
    op := ((cordOf s u.b u.c).map Cord.nextOp).getD 0, table := blockTable s u.b,
    emulated := requestEmulated (blockTable s u.b) e (leNat (winRead s u.b off 32)) }

/-- The state in which a request stands at its engine, before its cord is suspended. -/
def handedState (s : State) (u : Issue) (f : LForm) (e : Engine) (lane off : Nat) : State :=
  modCord (modCore (addOp s u (takenRead s u f lane off)) u.blk.core (fun k => { k with
    kick := if e == .copy then BitVec.ofNat 20 off else k.kick
    requests := k.requests ++ [handed s u f e lane off] })) u.b u.c (fun c => flagUp c (flagOf u f.setf f.fsel))

/-- A request stands at its engine, and its cord is suspended where firmware emulates a format of it. -/
theorem handOver_eq (s : State) (u : Issue) (f : LForm) (e : Engine) (lane off : Nat) :
    handOver s u f e lane off = if (handed s u f e lane off).emulated then
      suspendCord (handedState s u f e lane off) u.b u.c .emulation else handedState s u f e lane off := by
  unfold handOver
  simp only [addAccOp_requestOp]
  rfl

/-- The core of a request as it is handed over. -/
theorem handedState_core (s : State) (u : Issue) (f : LForm) (e : Engine) (lane off : Nat) :
    coreOf (handedState s u f e lane off) u.blk.core =
      { coreOf s u.blk.core with
        seq := (coreOf s u.blk.core).seq + 1
        kick := if e == .copy then BitVec.ofNat 20 off else (coreOf s u.blk.core).kick
        requests := (coreOf s u.blk.core).requests ++ [handed s u f e lane off] } := by
  unfold handedState addOp
  rw [show ∀ t : State, ∀ g, coreOf (modCord t u.b u.c g) u.blk.core = coreOf t u.blk.core from fun _ _ => rfl,
    coreOf_modCore_same, coreOf_modCore_same]
  rfl

/-- A change of the flags leaves the rest of the cord. -/
theorem flagUp_frame (c : Cord) (n : Option Nat) : (flagUp c n).ops = c.ops ∧ (flagUp c n).suspend = c.suspend
    ∧ (flagUp c n).active = c.active := by
  cases n <;> exact ⟨rfl, rfl, rfl⟩

/-- The cord of a request as it is handed over. -/
theorem handedState_cord {s : State} {u : Issue} {c : Cord} (hc : cordOf s u.b u.c = some c) (f : LForm) (e : Engine)
    (lane off : Nat) : ∃ c', cordOf (handedState s u f e lane off) u.b u.c = some c'
      ∧ c'.suspend = c.suspend ∧ c'.active = c.active
      ∧ c'.ops = c.ops ++ [{ takenRead s u f lane off with id := (handed s u f e lane off).op }] := by
  have hid : (handed s u f e lane off).op = c.nextOp := by simp [handed, hc]
  refine ⟨_, cordOf_modCord_of_some (cordOf_modCord_of_some hc _) _, ?_⟩
  obtain ⟨ho, hs, ha⟩ := flagUp_frame (pushOp c (takenRead s u f lane off)) (flagOf u f.setf f.fsel)
  rw [ho, hs, ha, hid]
  exact ⟨rfl, rfl, rfl⟩

/-- Leaving the active slot changes of a core only its count of such moves. -/
theorem coreOf_swapOut (s : State) (b c core : Nat) :
    ∃ n, coreOf (swapOut s b c) core = { coreOf s core with swaps := n } := by
  unfold swapOut
  split
  next x y hx hy =>
    split
    · exact ⟨_, rfl⟩
    · by_cases h : core = x.core
      · subst h
        exact ⟨_, coreOf_modCore_same _ _ _⟩
      · exact ⟨_, coreOf_modCore_other _ _ h⟩
  · exact ⟨_, rfl⟩

/-- Leaving the active slot leaves memory. -/
theorem swapOut_mem (s : State) (b c : Nat) : (swapOut s b c).mem = s.mem := by
  unfold swapOut
  split
  · split <;> rfl
  · rfl

/-- A reason that a cord is held for is among its reasons. -/
theorem mem_hold (c : Cord) (w : SuspendWhy) : w ∈ (c.hold w).suspend := by
  unfold Cord.hold
  by_cases h : c.suspend.contains w = true
  · rw [if_pos h]
    simpa using h
  · rw [if_neg h]
    simp

/-- Settles O41: a request changes its core's queue, the flag and the operations of its cord; the suspension for firmware
comes after and touches neither. -/
theorem requestsHandOver : Obligations.RequestsHandOver := by
  unfold Obligations.RequestsHandOver
  intro f s u
  refine ⟨?_, fun e l off => ⟨handed s u f e l off, ?_⟩⟩
  · simp only [Claims.requestCases, List.forall_mem_cons]
    refine ⟨?kick, ?gse, ?coll, by simp⟩
    case kick => exact completes_of_body (show execKick f s = _ from rfl) (requestBody_good rfl)
    case gse => exact completes_of_body (show execGse f s = _ from rfl) (requestBody_good rfl)
    case coll => exact completes_of_body (show execColl f s = _ from rfl) (requestBody_good rfl)
  · obtain ⟨n, hcore⟩ : ∃ n, coreOf (handOver s u f e l off) u.blk.core
        = { coreOf (handedState s u f e l off) u.blk.core with swaps := n } := by
      rw [handOver_eq]
      split
      · exact coreOf_swapOut _ _ _ _
      · exact ⟨_, rfl⟩
    have hmem : (handOver s u f e l off).mem = s.mem := by
      rw [handOver_eq]
      split
      · exact swapOut_mem _ _ _
      · rfl
    rw [hcore, handedState_core, hmem]
    refine ⟨rfl, rfl, rfl, rfl, rfl, rfl, rfl, rfl, rfl, rfl, rfl, fun c hc => ?_, fun _ => rfl⟩
    obtain ⟨c', hc', hs, ha, ho⟩ := handedState_cord hc f e l off
    rw [handOver_eq]
    cases hem : (handed s u f e l off).emulated
    · exact ⟨c', _, hc', by simp, fun _ => ⟨hs, ha⟩, ho, rfl, rfl, rfl, rfl⟩
    · obtain ⟨n, hout⟩ := cordOf_swapOut (cordOf_modCord_of_some hc' (fun x => Cord.hold x .emulation))
      exact ⟨_, _, hout, fun _ => ⟨mem_hold c' _, rfl⟩, by simp, ho, rfl, rfl, rfl, rfl⟩

end Sys2Proof.Machine
end

/-! ## The matrix instructions -/

section
open Sys2Proof Sys2Proof.Machine

namespace Sys2Proof.Machine

/-- What holds where `p` does cannot fail there. -/
theorem and_not_of_imp {p q : Bool} (h : (!p || q) = true) : (p && !q) = false := by
  cases p
  · rfl
  · simpa using h

/-- What holds unless `p` does cannot fail elsewhere. -/
theorem not_and_not_of_or {p q : Bool} (h : (p || q) = true) : (!p && !q) = false := by
  cases p
  · simpa using h
  · rfl

/-- Where the role checks pass, the instruction goes on with its follower. -/
theorem checkRole_good {s : State} {u : Issue} {paired : Bool} (h : Claims.roleGood s u paired = true) (lanes : List Nat)
    (k : Option Nat → Act) : checkRole s u lanes paired k = k (Claims.folOf s u paired) := by
  simp only [Claims.roleGood, Bool.and_eq_true, Bool.not_eq_true', Bool.or_eq_true] at h
  obtain ⟨hs, hp⟩ := h
  unfold checkRole Claims.folOf
  cases paired
  · simp [hs]
  · obtain ⟨hf, ho⟩ : isFollower u.blk.core = false ∧ (followerOf s u).isSome = true := by simpa using hp
    obtain ⟨n, hn⟩ := Option.isSome_iff_exists.mp ho
    simp [hs, hf, hn]

/-- A follower's array that its leader slaves is busy. -/
theorem checkRole_slaved {s : State} {u : Issue} {paired : Bool} (h : slaved s u.blk.core = true) (lanes : List Nat)
    (k : Option Nat → Act) : checkRole s u lanes paired k = arrTrap lanes .arrayBusy 0 := if_pos h

/-- A paired instruction needs a leader and the block of its follower. -/
theorem checkRole_role {s : State} {u : Issue} (hs : slaved s u.blk.core = false)
    (h : isFollower u.blk.core = true ∨ followerOf s u = none) (lanes : List Nat) (k : Option Nat → Act) :
    checkRole s u lanes true k = arrTrap lanes .arrayRole 0 := by
  unfold checkRole
  rcases h with h | h
  · simp [hs, h]
  · simp [hs, h]

/-- What an array instruction does once its role is good: the checks of its operands in their order. -/
def checksFirst (e : Claims.ArrayCheck) (lanes : List Nat) (v : Act) : Prop :=
  (e.field = true → v = arrTrap lanes .opndField 0)
  ∧ (∀ id, e.field = false → e.invalid = some id → v = arrTrap lanes .descInvalid id)
  ∧ (e.field = false → e.invalid = none → e.formats = true → v = arrTrap lanes .fmtPair 0)
  ∧ (e.field = false → e.invalid = none → e.formats = false → e.outside = true → v = arrTrap lanes .scratchRange 0)

/-- A body that tests a field and then a range checks them in that order. -/
theorem checksFirst_of_field {e : Claims.ArrayCheck} {lanes : List Nat} {v rest : Act} (hi : e.invalid = none) (hf : e.formats = false)
    (hv : v = if e.field = true then arrTrap lanes .opndField 0
      else if e.outside = true then arrTrap lanes .scratchRange 0 else rest) : checksFirst e lanes v := by
  subst hv
  refine ⟨fun h => if_pos h, fun id _ h => ?_, fun _ _ h => ?_, fun h _ _ h' => (if_neg (by simp [h])).trans (if_pos h')⟩
  · simp [hi] at h
  · simp [hf] at h

/-- The operands of MMA and MMAS are checked in the order of Table 9-5. -/
theorem checksFirst_mma {e : Claims.ArrayCheck} {lanes : List Nat} {da db : BitVec 512} {a b : Nat} {v rest : Act}
    (hi : e.invalid = if dValid da = false then some a else if dValid db = false then some b else none)
    (hv : v = if e.field = true then arrTrap lanes .opndField 0
      else if (!dValid da) = true then arrTrap lanes .descInvalid a
      else if (!dValid db) = true then arrTrap lanes .descInvalid b
      else if e.formats = true then arrTrap lanes .fmtPair 0
      else if e.outside = true then arrTrap lanes .scratchRange 0 else rest) : checksFirst e lanes v := by
  subst hv
  unfold checksFirst
  rw [hi]
  cases e.field <;> cases dValid da <;> cases dValid db <;> simp +contextual

/-- The matrix instructions check their role, and then their operands. -/
theorem array_checks (f : LForm) (s : State) (u : Issue) (hp : participants u f ≠ []) : ∀ e ∈ Claims.arrayChecks f s u,
    ∃ body, exec e.i s = issue e.i body s ∧ ∃ k, body u s = checkRole s u (participants u f) e.paired k
      ∧ checksFirst e (participants u f) (k (Claims.folOf s u e.paired)) := by
  have hne : ¬ (participants u f).isEmpty = true := by simpa using hp
  simp only [Claims.arrayChecks, List.forall_mem_cons]
  refine ⟨?mzero, ?maccld, ?mma, ?mmas, ?mdrain, by simp⟩
  case mzero =>
    exact ⟨_, (show execMzero f s = _ from rfl), _, if_neg hne, checksFirst_of_field rfl rfl rfl⟩
  case maccld =>
    exact ⟨_, (show execMaccld f s = _ from rfl), _, if_neg hne, checksFirst_of_field rfl rfl rfl⟩
  case mma =>
    exact ⟨_, (show execMma f s = _ from rfl), _, if_neg hne, checksFirst_mma rfl rfl⟩
  case mmas =>
    exact ⟨_, (show execMmas f s = _ from rfl), _, if_neg hne, checksFirst_mma rfl rfl⟩
  case mdrain =>
    exact ⟨_, (show execMdrain f s = _ from rfl), _, if_neg hne, checksFirst_of_field rfl rfl rfl⟩

/-- MMA and MMAS enter their queue where their checks pass and there is room. -/
theorem mmaBody_good {f : LForm} {s : State} {u : Issue} (kind : ArrKind) (paired : Bool) :
    let x := padOpnd u f.a
    let xb := padOpnd u f.b
    let w := scalA u f.c
    let da := blockDesc s u.b (bits w 9 0)
    let db := blockDesc s u.b (bits w 25 16)
    let em := fmtEmulated (dFmt da)
    let fol := Claims.folOf s u paired
    (!(participants u f).isEmpty && Claims.roleGood s u paired && (if em then followerIdle s fol else arrayRoom s u fol)
        && bits w 15 10 == 0 && bits w 31 26 == 0 && !(f.asc && opndBad x) && !(f.bsc && opndBad xb)
        && dValid da && dValid db && fmtPairOk (dFmt da) (dFmt db)
        && (!f.asc || rowsFit s u.b x 64 (opndRows (halvesOf fol) 32))
        && (!f.bsc || rowsFit s u.b xb 64 (opndRows (halvesOf fol) 64))) = true →
    mmaBody f kind paired u s = .go [] [] (fun t => queueArr t u { newArr t u f kind fol with
        a := x
        b := xb
        aDesc := da
        bDesc := db
        emulated := em
        aRegs := if f.asc then none else some (regOpnd u (participants u f) f.a (32 * halvesOf fol))
        bRegs := if f.bsc then none else some (regOpnd u (participants u f) f.b 64) }) := by
  intro x xb w da db em fol h
  simp only [Bool.and_eq_true, beq_iff_eq, Bool.not_eq_true'] at h
  obtain ⟨⟨⟨⟨⟨⟨⟨⟨⟨⟨⟨hp, hr⟩, hq⟩, hlo⟩, hhi⟩, ha⟩, hb⟩, hda⟩, hdb⟩, hfmt⟩, hra⟩, hrb⟩ := h
  refine (if_neg (by simpa using hp)).trans ((checkRole_good hr _ _).trans ((if_neg ?_).trans ((if_neg ?_).trans
    ((if_neg ?_).trans ((if_neg ?_).trans ((if_neg ?_).trans (if_neg ?_)))))))
  · change ¬ (bits w 15 10 != 0 || bits w 31 26 != 0 || (f.asc && opndBad x) || (f.bsc && opndBad xb)) = true
    rw [ha, hb, hlo, hhi]
    decide
  · change ¬ (!dValid da) = true
    rw [hda]
    decide
  · change ¬ (!dValid db) = true
    rw [hdb]
    decide
  · change ¬ (!fmtPairOk (dFmt da) (dFmt db)) = true
    rw [hfmt]
    decide
  · change ¬ ((f.asc && !rowsFit s u.b x 64 (opndRows (halvesOf fol) 32))
      || (f.bsc && !rowsFit s u.b xb 64 (opndRows (halvesOf fol) 64))) = true
    rw [and_not_of_imp hra, and_not_of_imp hrb]
    decide
  · change ¬ (if em then !followerIdle s fol else !arrayRoom s u fol) = true
    cases hem : em <;> simpa [hem] using hq

/-- The matrix instructions enter their queue. -/
theorem arrayCases_complete (f : LForm) (s : State) (u : Issue) : ∀ e ∈ Claims.arrayCases f s u, e.Completes s u := by
  simp only [Claims.arrayCases, List.forall_mem_cons]
  refine ⟨?mzero, ?maccld, ?mma, ?mmas, ?mdrain, by simp⟩
  case mzero =>
    refine completes_of_body (show execMzero f s = _ from rfl) (fun h => ?_)
    simp only [Bool.and_eq_true] at h
    obtain ⟨⟨hp, hr⟩, hq⟩ := h
    exact (if_neg (by simpa using hp)).trans ((checkRole_good hr _ _).trans (if_neg (by simpa using hq)))
  case maccld =>
    refine completes_of_body (show execMaccld f s = _ from rfl) (fun h => ?_)
    simp only [Bool.and_eq_true, Bool.not_eq_true'] at h
    obtain ⟨⟨⟨⟨hp, hr⟩, hq⟩, hx⟩, hf⟩ := h
    exact (if_neg (by simpa using hp)).trans ((checkRole_good hr _ _).trans ((if_neg (by simpa using hx)).trans
      ((if_neg (by simpa [halvesOf] using hf)).trans (if_neg (by simpa using hq)))))
  case mma => exact completes_of_body (show execMma f s = _ from rfl) (mmaBody_good .mma true)
  case mmas => exact completes_of_body (show execMmas f s = _ from rfl) (mmaBody_good .mmas false)
  case mdrain =>
    refine completes_of_body (show execMdrain f s = _ from rfl) (fun h => ?_)
    simp only [Bool.and_eq_true] at h
    obtain ⟨⟨⟨⟨⟨⟨⟨⟨hp, hr⟩, hq⟩, hy⟩, hx⟩, hd⟩, hb⟩, hfy⟩, hfx⟩ := h
    refine (if_neg (by simpa using hp)).trans ((checkRole_good hr _ _).trans ((if_neg ?_).trans
      ((if_neg ?_).trans (if_neg (by simpa using hq)))))
    · simp only [Bool.or_eq_true, not_or, Bool.not_eq_true]
      refine ⟨⟨⟨by simpa only [Bool.not_not] using not_and_not_of_or hy, Bool.not_eq_true' _ ▸ hx⟩, Bool.not_eq_true' _ ▸ hd⟩, ?_⟩
      refine (congrArg _ ?_).trans (and_not_of_imp hb)
      rw [← decide_not]
      exact decide_eq_decide.mpr Nat.not_lt.symm
    · simp only [Bool.or_eq_true, not_or, Bool.not_eq_true]
      exact ⟨not_and_not_of_or hfy, and_not_of_imp hfx⟩

/-- Settles O43: the matrix instructions check their role first, then their operands in the order of Table 9-5. -/
theorem arrayInstructions : Obligations.ArrayInstructions := by
  unfold Obligations.ArrayInstructions
  refine fun f s u => ⟨arrayCases_complete f s u, fun e he hp hi => ?_⟩
  obtain ⟨body, hx, k, hb, hfield, hid, hfmt, hout⟩ := array_checks f s u hp e he
  have htrap : ∀ {c d}, checkRole s u (participants u f) e.paired k = arrTrap (participants u f) c d →
      exec e.i s = .next (trapAt s u c ((participants u f).take 1) d 0) := fun h => exec_trap_of hi hx (hb.trans h)
  refine ⟨fun h => htrap (checkRole_slaved h _ _), fun h hpair hno => htrap ?_, fun hr => ?_⟩
  · rw [hpair]
    exact checkRole_role h hno _ _
  · have hk := checkRole_good hr (participants u f) k
    exact ⟨fun h => htrap (hk.trans (hfield h)), fun id h h' => htrap (hk.trans (hid id h h')),
      fun h h' h'' => htrap (hk.trans (hfmt h h' h'')), fun h h' h'' h3 => htrap (hk.trans (hout h h' h'' h3))⟩

end Sys2Proof.Machine
end

/-! ## The frame of the register instructions -/

section
open Sys2Proof Sys2Proof.Machine

namespace Sys2Proof.Machine

/-! ### Changes of a cord that keep its registers -/

/-- Whatever a change of strands keeps, it keeps in every lane. -/
theorem modLane_keeps {α : Type} {p : Strand → α} {g : Strand → Strand} (h : ∀ t, p (g t) = p t) (c : Cord) (n l : Nat) :
    p ((c.modLane n g).lane l) = p (c.lane l) := by
  unfold Cord.modLane Cord.lane
  simp only [List.getD_eq_getElem?_getD, List.getElem?_modify]
  split
  · cases c.strands[l]? <;> simp [h]
  · simp

/-- Whatever a change of strands keeps, it keeps in every lane. -/
theorem modLanes_keeps {α : Type} {p : Strand → α} {g : Strand → Strand} (h : ∀ t, p (g t) = p t) (c : Cord) (ls : List Nat)
    (l : Nat) : p ((c.modLanes ls g).lane l) = p (c.lane l) := by
  unfold Cord.modLanes Cord.lane
  simp only [List.getD_eq_getElem?_getD, List.getElem?_mapIdx]
  cases c.strands[l]? with
  | none => rfl
  | some t =>
    by_cases hl : ls.contains l = true
    · simp only [Option.map_some, hl, if_true, Option.getD_some, h]
    · simp only [Option.map_some, hl, Option.getD_some]
      rfl

/-- Another predicate than the one that is written. -/
theorem getLsbD_setPred {p : BitVec 8} {n m : Nat} {x : Bool} (h : m ≠ n) : (setPred p n x).getLsbD m = p.getLsbD m := by
  unfold setPred
  split
  · rfl
  · split
    · simp [h.symm]
    · by_cases hm : m < 8
      · simp [hm, fun e : m = n => h e]
      · simp [BitVec.getLsbD_of_ge p m (by omega)]

end Sys2Proof.Machine

namespace Sys2Proof.Claims.KeepsCord

variable {x y z : Cord} {vs ss ps : List Nat}

/-- A cord keeps itself. -/
theorem refl (x : Cord) : KeepsCord x x vs ss ps :=
  ⟨fun _ _ _ => rfl, fun _ _ => rfl, fun _ _ _ => rfl, rfl, rfl, rfl, rfl, rfl, fun _ => rfl, fun _ => rfl, fun _ h => h⟩

/-- One change after another. -/
theorem trans (h : KeepsCord x y vs ss ps) (h' : KeepsCord y z vs ss ps) : KeepsCord x z vs ss ps where
  v l r hr := (h'.v l r hr).trans (h.v l r hr)
  s r hr := (h'.s r hr).trans (h.s r hr)
  p l n hn := (h'.p l n hn).trans (h.p l n hn)
  k := h'.k.trans h.k
  f := h'.f.trans h.f
  ops := h'.ops.trans h.ops
  trapctl := h'.trapctl.trans h.trapctl
  handler := h'.handler.trans h.handler
  ended l := (h'.ended l).trans (h.ended l)
  tret l := (h'.tret l).trans (h.tret l)
  sticky n hn := h'.sticky n (h.sticky n hn)

/-- A change that leaves the strands, the registers, masks, flags, operations and trap registers. -/
theorem of_eq (hst : y.strands = x.strands) (hs : y.s = x.s) (hk : y.k = x.k) (hf : y.f = x.f) (ho : y.ops = x.ops)
    (hc : y.trapctl = x.trapctl) (hh : y.handler = x.handler) (hp : y.fpflags = x.fpflags) : KeepsCord x y vs ss ps where
  v _ _ _ := by simp only [Cord.lane, hst]
  s _ _ := by simp only [Cord.scal, hs]
  p _ _ _ := by simp only [Cord.lane, hst]
  k := hk
  f := hf
  ops := by rw [ho]
  trapctl := hc
  handler := hh
  ended _ := by simp only [Cord.lane, hst]
  tret _ := by simp only [Cord.lane, hst]
  sticky _ h := by rwa [hp]

end Sys2Proof.Claims.KeepsCord

namespace Sys2Proof.Machine

variable {vs ss ps : List Nat}

/-- Strands changed in what the frames do not speak of. -/
theorem keepsCord_modLanes {g : Strand → Strand}
    (h : ∀ t, (g t).v = t.v ∧ (g t).p = t.p ∧ (g t).ended = t.ended ∧ (g t).tret = t.tret) (c : Cord) (ls : List Nat) :
    Claims.KeepsCord c (c.modLanes ls g) vs ss ps where
  v l r _ := modLanes_keeps (p := fun t => t.reg r) (fun t => by simp only [Strand.reg, (h t).1]) c ls l
  s _ _ := rfl
  p l n _ := modLanes_keeps (p := fun t => t.pred n) (fun t => by simp only [Strand.pred, (h t).2.1]) c ls l
  k := rfl
  f := rfl
  ops := rfl
  trapctl := rfl
  handler := rfl
  ended l := modLanes_keeps (p := Strand.ended) (fun t => (h t).2.2.1) c ls l
  tret l := modLanes_keeps (p := Strand.tret) (fun t => (h t).2.2.2) c ls l
  sticky _ h := h

/-- Retiring moves the strands and counts. -/
theorem keepsCord_retire (u : Issue) (regs dws : List Nat) (c : Cord) : Claims.KeepsCord c (retire u regs dws c) vs ss ps := by
  by_cases hi : u.injected = true
  · rw [retire, if_pos hi]
    exact .refl c
  · obtain ⟨r, z, q, w, h⟩ := retire_frame u regs dws (c := c) (by simpa using hi)
    rw [h]
    refine .trans (.of_eq (y := { c with
      retired := q
      round := w
      region := r
      slow := z
      full := c.full.filter (fun e => !u.lanes.contains e.1) }) rfl rfl rfl rfl rfl rfl rfl rfl)
      (keepsCord_modLanes (g := fun t => { t with pc := t.pc + BitVec.ofNat 64 u.len }) (fun _ => ⟨rfl, rfl, rfl, rfl⟩) _ _)

/-- Serving in the round touches nothing else. -/
theorem keepsCord_markServed (u : Issue) (c : Cord) : Claims.KeepsCord c (markServed u c) vs ss ps := by
  unfold markServed
  split
  · exact .refl c
  · exact .of_eq rfl rfl rfl rfl rfl rfl rfl rfl

/-- A write names one of the destinations. -/
def RegW.Within (vs ss ps : List Nat) : RegW → Prop
  | .v _ r _ => r ∈ vs
  | .p _ n _ => n ∈ ps
  | .s r _ => r ∈ ss
  | .k _ _ => False
  | .fp _ => True

/-- One register that is written. -/
theorem keepsCord_applyW {w : RegW} (h : w.Within vs ss ps) (c : Cord) : Claims.KeepsCord c (applyW c w) vs ss ps := by
  cases w with
  | v n r x =>
    refine ⟨fun l q hq => ?_, fun _ _ => rfl, fun l m _ => ?_, rfl, rfl, rfl, rfl, rfl, fun l => ?_, fun l => ?_, fun _ h => h⟩
    · refine modLane_keeps (p := fun t => t.reg q) (fun t => ?_) _ _ _
      have hne : q ≠ r := fun e => hq (e ▸ h)
      cases t.ended <;> simp [Strand.reg, List.getElem?_set_ne hne.symm]
    · exact modLane_keeps (p := fun t => t.pred m) (fun t => by cases t.ended <;> rfl) _ _ _
    · exact modLane_keeps (p := Strand.ended) (fun t => by cases h : t.ended <;> simp [h]) _ _ _
    · exact modLane_keeps (p := Strand.tret) (fun t => by cases t.ended <;> rfl) _ _ _
  | p n m x =>
    refine ⟨fun l q _ => ?_, fun _ _ => rfl, fun l k hk => ?_, rfl, rfl, rfl, rfl, rfl, fun l => ?_, fun l => ?_, fun _ h => h⟩
    · exact modLane_keeps (p := fun t => t.reg q) (fun t => by cases t.ended <;> rfl) _ _ _
    · refine modLane_keeps (p := fun t => t.pred k) (fun t => ?_) _ _ _
      have hne : k ≠ m := fun e => hk (e ▸ h)
      cases t.ended <;> simp [Strand.pred, getLsbD_setPred hne]
    · exact modLane_keeps (p := Strand.ended) (fun t => by cases h : t.ended <;> simp [h]) _ _ _
    · exact modLane_keeps (p := Strand.tret) (fun t => by cases t.ended <;> rfl) _ _ _
  | s r x =>
    refine ⟨fun _ _ _ => rfl, fun q hq => ?_, fun _ _ _ => rfl, rfl, rfl, rfl, rfl, rfl, fun _ => rfl, fun _ => rfl, fun _ h => h⟩
    have hne : q ≠ r := fun e => hq (e ▸ h)
    simp [Cord.scal, applyW, List.getElem?_set_ne hne.symm]
  | k n x => exact h.elim
  | fp x =>
    refine ⟨fun _ _ _ => rfl, fun _ _ => rfl, fun _ _ _ => rfl, rfl, rfl, rfl, rfl, rfl, fun _ => rfl, fun _ => rfl, fun n h => ?_⟩
    simp [applyW, h]

/-- Registers written in order. -/
theorem keepsCord_commit {ws : List RegW} (h : ∀ w ∈ ws, w.Within vs ss ps) (c : Cord) :
    Claims.KeepsCord c (commit c ws) vs ss ps := by
  unfold commit
  induction ws generalizing c with
  | nil => exact .refl c
  | cons w ws ih =>
    exact (keepsCord_applyW (h w (by simp)) c).trans (ih (fun w hw => h w (by simp [hw])) _)

/-- Registers written at issue: the operations note them. -/
theorem keepsCord_writeRegs {ws : List RegW} (h : ∀ w ∈ ws, w.Within vs ss ps) (c : Cord) :
    Claims.KeepsCord c (writeRegs ws c) vs ss ps := by
  refine .trans ?_ (keepsCord_commit h _)
  refine ⟨fun _ _ _ => rfl, fun _ _ => rfl, fun _ _ _ => rfl, rfl, rfl, ?_, rfl, rfl, fun _ => rfl, fun _ => rfl, fun _ h => h⟩
  simp only [noteLate, List.map_map]
  refine List.map_congr_left (fun o _ => ?_)
  simp

/-! ### The device around a cord -/

/-- The device and a cord but for some registers of it are as they were. -/
def KeepsAround (s t : State) (b c : Nat) (vs ss ps : List Nat) : Prop :=
  Claims.KeepsDevice s t b c
    ∧ ∀ x, cordOf s b c = some x → ∃ y, cordOf t b c = some y ∧ Claims.KeepsCord x y vs ss ps

/-- A state keeps itself. -/
theorem KeepsAround.refl (s : State) (b c : Nat) : KeepsAround s s b c vs ss ps :=
  ⟨⟨fun _ => rfl, fun _ => rfl, fun _ => rfl, fun _ => rfl, rfl, rfl, rfl, rfl, rfl, rfl, rfl, fun _ _ _ => rfl⟩,
    fun x hx => ⟨x, hx, .refl x⟩⟩

/-- One change after another. -/
theorem KeepsAround.trans {s t r : State} {b c : Nat} (h : KeepsAround s t b c vs ss ps) (h' : KeepsAround t r b c vs ss ps) :
    KeepsAround s r b c vs ss ps := by
  obtain ⟨⟨m, w, p, g, ce, co, d, pa, po, mg, o, cs⟩, hx⟩ := h
  obtain ⟨⟨m', w', p', g', ce', co', d', pa', po', mg', o', cs'⟩, hx'⟩ := h'
  refine ⟨⟨fun a => (m' a).trans (m a), fun i => (w' i).trans (w i), fun i => (p' i).trans (p i), fun i => (g' i).trans (g i),
    ce'.trans ce, co'.trans co, d'.trans d, pa'.trans pa, po'.trans po, mg'.trans mg, o'.trans o,
    fun i j h => (cs' i j h).trans (cs i j h)⟩, fun x h => ?_⟩
  obtain ⟨y, hy, hk⟩ := hx x h
  obtain ⟨z, hz, hk'⟩ := hx' y hy
  exact ⟨z, hz, hk.trans hk'⟩

/-- A change of the cord alone that keeps all but those registers. -/
theorem keepsAround_modCord {s : State} {b c : Nat} {f : Cord → Cord} (h : ∀ x, Claims.KeepsCord x (f x) vs ss ps) :
    KeepsAround s (modCord s b c f) b c vs ss ps := by
  have hb {α : Type} (p : Block → α) (hp : ∀ x : Block, p (x.modCord c f) = p x) (i : Nat) :
      ((modCord s b c f).blocks[i]?).map p = (s.blocks[i]?).map p := by
    rw [modCord, modBlock_get]
    split
    · rw [Option.map_map]
      exact congrFun (congrArg Option.map (funext hp)) _
    · rfl
  exact ⟨⟨fun _ => rfl, hb _ fun _ => rfl, hb _ fun _ => rfl, hb _ fun _ => rfl, rfl, rfl, rfl, rfl, rfl, rfl, rfl,
    fun i j hij => cordOf_modCord_other s f hij⟩, fun x hx => ⟨f x, cordOf_modCord_of_some hx f, h x⟩⟩

/-- A change of grids and contexts alone. -/
theorem keepsAround_of_eq {s t : State} (b c : Nat) (hm : t.mem = s.mem) (hb : t.blocks = s.blocks) (hce : t.cells = s.cells)
    (hco : t.cores = s.cores) (hd : t.dies = s.dies) (hpa : t.parts = s.parts) (hpo : t.ports = s.ports)
    (hmg : t.mgmt = s.mgmt) (ho : t.out = s.out) : KeepsAround s t b c vs ss ps := by
  refine ⟨⟨fun _ => by rw [hm], fun _ => by rw [hb], fun _ => by rw [hb], fun _ => by rw [hb], hce, hco, hd, hpa, hpo, hmg, ho,
    fun i j _ => cordOf_congr hb i j⟩, fun x hx => ⟨x, ?_, .refl x⟩⟩
  rwa [cordOf_congr hb]

/-- A precise trap touches the queue, the region, the braid or the context. -/
theorem keepsAround_takeTrap (s : State) (b c : Nat) (k : Cause) (pc : DWord) (ret : Nat) (ls : List Nat) (d a : Nat) :
    KeepsAround s (takeTrap s b c k pc ret ls d a) b c vs ss ps := by
  have hq (x : Cord) (q : List TrapRec) : Claims.KeepsCord x { x with queue := q } vs ss ps :=
    .of_eq rfl rfl rfl rfl rfl rfl rfl rfl
  unfold takeTrap
  split
  · exact .refl s b c
  · simp only
    split
    · exact keepsAround_modCord fun y => .of_eq rfl rfl rfl rfl rfl rfl rfl rfl
    · split
      · unfold fatal fatalOf
        split
        · exact keepsAround_of_eq b c rfl rfl rfl rfl rfl rfl rfl rfl rfl
        · exact .refl s b c
      · unfold queueRec
        split
        · exact .refl s b c
        · split
          · exact .refl s b c
          · split
            · exact keepsAround_modCord fun y => hq y _
            · split
              · exact keepsAround_modCord fun y => .of_eq rfl rfl rfl rfl rfl rfl rfl rfl
              · unfold killBraid
                split
                · exact keepsAround_of_eq b c rfl rfl rfl rfl rfl rfl rfl rfl rfl
                · exact .refl s b c

/-- The trap of an issuing instruction. -/
theorem keepsAround_trapAt (s : State) (u : Issue) (k : Cause) (ls : List Nat) (d a : Nat) :
    KeepsAround s (trapAt s u k ls d a) u.b u.c vs ss ps :=
  (keepsAround_modCord (keepsCord_markServed u)).trans (keepsAround_takeTrap ..)

/-- A region that is to end. -/
theorem keepsAround_markEnding (s : State) (u : Issue) : KeepsAround s (markEnding s u) u.b u.c vs ss ps := by
  refine keepsAround_modCord fun y => ?_
  cases y.slow <;> exact .of_eq rfl rfl rfl rfl rfl rfl rfl rfl

/-! ### The register instructions -/

/-- An instruction body that only writes destinations of `e`, or nothing. -/
def WritesOnly (e : Claims.Dest) (body : Issue → State → Act) : Prop :=
  ∀ u s, body u s = .go [] [] id ∨ ∃ ws, body u s = goRegs u ws ∧ ∀ w ∈ ws, w.Within e.vs e.ss e.ps

/-- An instruction that only writes its destinations. -/
def OnlyWrites (e : Claims.Dest) : Prop :=
  ∃ body, (∀ s, exec e.i s = issue e.i body s) ∧ WritesOnly e body

/-- An instruction that only writes its destinations leaves all else. -/
theorem frame_of_onlyWrites {e : Claims.Dest} (h : OnlyWrites e) {s t : State} {u : Issue} (hu : issueOf s e.i.length = some u)
    (ht : exec e.i s = .next t) : KeepsAround s t u.b u.c e.vs e.ss e.ps := by
  obtain ⟨body, hx, hb⟩ := h
  rw [hx] at ht
  have hgo {regs dws k} (hk : body u s = .go regs dws k) (r : State) : KeepsAround r (k r) u.b u.c e.vs e.ss e.ps := by
    rcases hb u s with h | ⟨ws, h, hw⟩
    · cases hk.symm.trans h
      exact .refl r _ _
    · cases hk.symm.trans h
      exact keepsAround_modCord (keepsCord_writeRegs hw)
  rcases issue_cases hu ht with ⟨_, _, _, _, -, rfl⟩ | rfl | rfl | ⟨k, hk, -⟩ | ⟨regs, dws, k, hk, ⟨-, rfl⟩ | ⟨-, rfl⟩⟩
  · exact keepsAround_trapAt ..
  · exact .refl _ _ _
  · exact keepsAround_markEnding ..
  · rcases hb u s with h | ⟨ws, h, -⟩ <;> cases hk.symm.trans h
  · exact hgo hk s
  · exact (keepsAround_modCord (keepsCord_retire u regs dws)).trans (hgo hk _)

/-- The writes of a register or pair. -/
theorem within_putReg {scalar wide : Bool} {r l x : Nat}
    (h : ∀ n ∈ (if wide then [r, r + 1] else [r]), if scalar then n ∈ ss else n ∈ vs) :
    ∀ w ∈ putReg scalar wide r l x, w.Within vs ss ps := by
  unfold putReg
  cases scalar <;> cases wide <;> simpa [RegW.Within] using h

/-- A flag write is in every frame. -/
theorem within_flags {fl : FpFlags} : ∀ w ∈ (if fl = 0 then [] else [RegW.fp fl]), w.Within vs ss ps := by
  split <;> simp [RegW.Within]

/-- The writes of D. -/
theorem within_putD (i : Instr) (f : LForm) (ty l x : Nat) :
    ∀ w ∈ putD f ty l x, w.Within (Claims.destOf i f (wideNat ty)).vs (Claims.destOf i f (wideNat ty)).ss ps := by
  refine within_putReg ?_
  unfold Claims.destOf
  cases LForm.scalar f <;> simp

/-- The instructions that write D in each target. -/
theorem writesOnly_alu (i : Instr) (f : LForm) (ty : Nat) (g : Cord → Nat → Nat × FpFlags) :
    WritesOnly (Claims.destOf i f (wideNat ty)) (aluBody f ty g) := by
  refine fun u s => .inr ⟨_, rfl, fun w hw => ?_⟩
  simp only [List.mem_flatMap, List.mem_append] at hw
  obtain ⟨l, -, hw | hw⟩ := hw
  · exact within_putD i f ty l _ w hw
  · exact within_flags w hw

/-- The instructions that write predicate D in each participant. -/
theorem writesOnly_pred (i : Instr) (f : LForm) (g : Cord → Nat → Bool × FpFlags) :
    WritesOnly { i := i, ps := [f.d.toNat] } (predBody f g) := by
  refine fun u s => .inr ⟨_, rfl, fun w hw => ?_⟩
  simp only [List.mem_flatMap, List.mem_cons] at hw
  obtain ⟨l, -, rfl | hw⟩ := hw
  · simp [RegW.Within]
  · exact within_flags w hw

/-- A predicate of each lane. -/
theorem within_putPred {n : Nat} {lanes : List Nat} {x : Bool} (h : n ∈ ps) : ∀ w ∈ putPred n lanes x, w.Within vs ss ps := by
  simp [putPred, RegW.Within, h]

/-- A value of each lane. -/
theorem within_putAll {f : LForm} {wide : Bool} {rs : List (Nat × Nat)}
    (h : ∀ n ∈ (if wide then [f.d.toNat, f.d.toNat + 1] else [f.d.toNat]), n ∈ vs) :
    ∀ w ∈ putAll f wide rs, w.Within vs ss ps := by
  intro w hw
  obtain ⟨r, -, hw⟩ := List.mem_flatMap.mp hw
  exact within_putReg (by simpa using h) w hw

/-- The instruction of a destination. -/
theorem destOf_i (i : Instr) (f : LForm) (w : Bool) : (Claims.destOf i f w).i = i := by
  unfold Claims.destOf
  cases LForm.scalar f <;> rfl

/-- A body that only writes D. -/
def WritesD (f : LForm) (body : Issue → State → Act) : Prop :=
  ∀ i, WritesOnly (Claims.destOf i f (wideNat f.ty.toNat)) body

/-- A result in each target goes to D. -/
theorem writesD_alu (f : LForm) (g : Cord → Nat → Nat × FpFlags) : WritesD f (aluBody f f.ty.toNat g) :=
  fun i => writesOnly_alu i f f.ty.toNat g

/-- So does an operation on each element. -/
theorem writesD_elt (f : LForm) (g : Nat → Nat → Nat → Nat × FpFlags) : WritesD f (eltBody f g) :=
  writesD_alu f (fun c l => eachElt f.ty.toNat g (valA c f f.ty.toNat l) (valB c f f.ty.toNat l) (valC c f f.ty.toNat l))

/-- So does an integer operation. -/
theorem writesD_int (f : LForm) (r : Int → Int → Int → Int) : WritesD f (intBody f r) :=
  writesD_elt f (intElt f.ty.toNat (f.mod == 1) r)

/-- So does an operation on the whole value. -/
theorem writesD_whole (f : LForm) (g : Nat → Nat → Nat → Nat) : WritesD f (wholeBody f g) :=
  writesD_alu f (fun c l => (g (valA c f f.ty.toNat l) (valB c f f.ty.toNat l) (valC c f f.ty.toNat l), 0))

/-- An instruction known to have a body that only writes its destinations. -/
theorem onlyWrites_of {e : Claims.Dest} {i : Instr} {body : Issue → State → Act} (hi : e.i = i)
    (hx : ∀ s, exec i s = issue i body s) (hb : WritesOnly e body) : OnlyWrites e :=
  ⟨body, fun s => hi ▸ hx s, hb⟩

/-- An instruction whose body only writes D. -/
theorem onlyWrites_D {i : Instr} {f : LForm} {body : Issue → State → Act} (hx : ∀ s, exec i s = issue i body s)
    (h : WritesD f body) : OnlyWrites (Claims.destOf i f (wideNat f.ty.toNat)) := onlyWrites_of (destOf_i ..) hx (h i)

/-- The integer instructions. -/
theorem onlyWrites_arith (f : LForm) : ∀ e ∈ Claims.arithTable, OnlyWrites (Claims.destOf (e.1 f) f (wideNat f.ty.toNat)) := by
  simp only [Claims.arithTable, List.forall_mem_cons]
  exact ⟨onlyWrites_D (fun s => show execAdd f s = _ from rfl) (writesD_int f _),
    onlyWrites_D (fun s => show execSub f s = _ from rfl) (writesD_int f _),
    onlyWrites_D (fun s => show execMul f s = _ from rfl) (writesD_int f _),
    onlyWrites_D (fun s => show execMulh f s = _ from rfl) (writesD_int f _),
    onlyWrites_D (fun s => show execMad f s = _ from rfl) (writesD_int f _),
    onlyWrites_D (fun s => show execNeg f s = _ from rfl) (writesD_int f _),
    onlyWrites_D (fun s => show execAbs f s = _ from rfl) (writesD_int f _),
    onlyWrites_D (fun s => show execMin f s = _ from rfl) (writesD_int f _),
    onlyWrites_D (fun s => show execMax f s = _ from rfl) (writesD_int f _), by simp⟩

/-- The bitwise instructions and shifts. -/
theorem onlyWrites_bit (f : LForm) : ∀ e ∈ Claims.bitTable, OnlyWrites (Claims.destOf (e.1 f) f (wideNat f.ty.toNat)) := by
  simp only [Claims.bitTable, List.forall_mem_cons]
  exact ⟨onlyWrites_D (fun s => show execAnd f s = _ from rfl) (writesD_whole f _),
    onlyWrites_D (fun s => show execOr f s = _ from rfl) (writesD_whole f _),
    onlyWrites_D (fun s => show execXor f s = _ from rfl) (writesD_whole f _),
    onlyWrites_D (fun s => show execNot f s = _ from rfl) (writesD_whole f _),
    onlyWrites_D (fun s => show execShl f s = _ from rfl) (writesD_whole f _),
    onlyWrites_D (fun s => show execShr f s = _ from rfl) (writesD_whole f _),
    onlyWrites_D (fun s => show execSar f s = _ from rfl) (writesD_whole f _),
    onlyWrites_D (fun s => show execRot f s = _ from rfl) (writesD_whole f _), by simp⟩

/-- The counts and the reversal. -/
theorem onlyWrites_count (f : LForm) : ∀ e ∈ Claims.countTable, OnlyWrites (Claims.destOf (e.1 f) f (wideNat f.ty.toNat)) := by
  simp only [Claims.countTable, List.forall_mem_cons]
  exact ⟨onlyWrites_D (fun s => show execPopc f s = _ from rfl) (writesD_whole f _),
    onlyWrites_D (fun s => show execClz f s = _ from rfl) (writesD_whole f _),
    onlyWrites_D (fun s => show execBrev f s = _ from rfl) (writesD_whole f _), by simp⟩

/-- The float instructions. -/
theorem onlyWrites_float (f : LForm) : ∀ e ∈ Claims.floatTable, OnlyWrites (Claims.destOf (e.1 f) f (wideNat f.ty.toNat)) := by
  simp only [Claims.floatTable, List.forall_mem_cons]
  exact ⟨onlyWrites_D (fun s => show execFadd f s = _ from rfl) (writesD_elt f _),
    onlyWrites_D (fun s => show execFsub f s = _ from rfl) (writesD_elt f _),
    onlyWrites_D (fun s => show execFmul f s = _ from rfl) (writesD_elt f _),
    onlyWrites_D (fun s => show execFfma f s = _ from rfl) (writesD_elt f _),
    onlyWrites_D (fun s => show execFmin f s = _ from rfl) (writesD_elt f _),
    onlyWrites_D (fun s => show execFmax f s = _ from rfl) (writesD_elt f _),
    onlyWrites_D (fun s => show execFsat f s = _ from rfl) (writesD_elt f _), by simp⟩

/-- The moves and the bit fields. -/
theorem onlyWrites_move (f : LForm) : ∀ e ∈ [Instr.mov, Instr.movi, Instr.sel, Instr.bfe, Instr.bfi],
    OnlyWrites (Claims.destOf (e f) f (wideNat f.ty.toNat)) := by
  simp only [List.forall_mem_cons]
  exact ⟨onlyWrites_D (fun s => show execMov f s = _ from rfl) (writesD_whole f _),
    onlyWrites_D (fun s => show execMovi f s = _ from rfl) (writesD_whole f _),
    onlyWrites_D (fun s => show execSel f s = _ from rfl) (writesD_alu f _),
    onlyWrites_D (fun s => show execBfe f s = _ from rfl) (writesD_whole f _),
    onlyWrites_D (fun s => show execBfi f s = _ from rfl) (writesD_whole f _), by simp⟩

/-- An instruction with results of a type of its own. -/
theorem onlyWrites_alu {i : Instr} {f : LForm} {ty : Nat} {g : Cord → Nat → Nat × FpFlags}
    (hx : ∀ s, exec i s = issue i (aluBody f ty g) s) : OnlyWrites (Claims.destOf i f (wideNat ty)) :=
  onlyWrites_of (destOf_i ..) hx (writesOnly_alu i f ty g)

/-- LEA writes a pair. -/
theorem onlyWrites_lea (f : LForm) : OnlyWrites (Claims.destOf (.lea f) f true) :=
  onlyWrites_alu (ty := 5) (fun s => show execLea f s = _ from rfl)

/-- A short form has the frame of its long form. -/
theorem onlyWrites_short {i : Instr} {g : SForm} {two : Bool} {body : Issue → State → Act} (hx : ∀ s, exec i s = issue i body s)
    (h : WritesD (SForm.long g two) body) :
    OnlyWrites { i := i, vs := if wideNat g.ty.toNat then [g.d.toNat, g.d.toNat + 1] else [g.d.toNat] } :=
  ⟨body, hx, h i⟩

/-- The short forms. -/
theorem onlyWrites_shorts (g : SForm) : ∀ e ∈ Claims.shortTable,
    OnlyWrites { i := e.1 g, vs := if wideNat g.ty.toNat then [g.d.toNat, g.d.toNat + 1] else [g.d.toNat] } := by
  simp only [Claims.shortTable, List.forall_mem_cons]
  exact ⟨onlyWrites_short (fun s => show execMovShort g s = _ from rfl) (writesD_whole (SForm.long g false) _),
    onlyWrites_short (fun s => show execAddShort g s = _ from rfl) (writesD_int (SForm.long g true) _),
    onlyWrites_short (fun s => show execSubShort g s = _ from rfl) (writesD_int (SForm.long g true) _),
    onlyWrites_short (fun s => show execMulShort g s = _ from rfl) (writesD_int (SForm.long g true) _),
    onlyWrites_short (fun s => show execMulhShort g s = _ from rfl) (writesD_int (SForm.long g true) _),
    onlyWrites_short (fun s => show execMinShort g s = _ from rfl) (writesD_int (SForm.long g true) _),
    onlyWrites_short (fun s => show execMaxShort g s = _ from rfl) (writesD_int (SForm.long g true) _),
    onlyWrites_short (fun s => show execAndShort g s = _ from rfl) (writesD_whole (SForm.long g true) _),
    onlyWrites_short (fun s => show execOrShort g s = _ from rfl) (writesD_whole (SForm.long g true) _),
    onlyWrites_short (fun s => show execXorShort g s = _ from rfl) (writesD_whole (SForm.long g true) _),
    onlyWrites_short (fun s => show execNotShort g s = _ from rfl) (writesD_whole (SForm.long g false) _),
    onlyWrites_short (fun s => show execNegShort g s = _ from rfl) (writesD_int (SForm.long g false) _),
    onlyWrites_short (fun s => show execAbsShort g s = _ from rfl) (writesD_int (SForm.long g false) _),
    onlyWrites_short (fun s => show execShlShort g s = _ from rfl) (writesD_whole (SForm.long g true) _),
    onlyWrites_short (fun s => show execShrShort g s = _ from rfl) (writesD_whole (SForm.long g true) _),
    onlyWrites_short (fun s => show execSarShort g s = _ from rfl) (writesD_whole (SForm.long g true) _),
    onlyWrites_short (fun s => show execRotShort g s = _ from rfl) (writesD_whole (SForm.long g true) _),
    onlyWrites_short (fun s => show execPopcShort g s = _ from rfl) (writesD_whole (SForm.long g false) _),
    onlyWrites_short (fun s => show execClzShort g s = _ from rfl) (writesD_whole (SForm.long g false) _),
    onlyWrites_short (fun s => show execBrevShort g s = _ from rfl) (writesD_whole (SForm.long g false) _),
    onlyWrites_short (fun s => show execFaddShort g s = _ from rfl) (writesD_elt (SForm.long g true) _),
    onlyWrites_short (fun s => show execFsubShort g s = _ from rfl) (writesD_elt (SForm.long g true) _),
    onlyWrites_short (fun s => show execFmulShort g s = _ from rfl) (writesD_elt (SForm.long g true) _),
    onlyWrites_short (fun s => show execFminShort g s = _ from rfl) (writesD_elt (SForm.long g true) _),
    onlyWrites_short (fun s => show execFmaxShort g s = _ from rfl) (writesD_elt (SForm.long g true) _),
    onlyWrites_short (fun s => show execFsatShort g s = _ from rfl) (writesD_elt (SForm.long g false) _), by simp⟩

/-- An instruction with a word for D and a carry. -/
theorem onlyWrites_withCarry {i : Instr} {f : LForm} {x : Issue → Nat → Nat} {y : Issue → Nat → Bool}
    (hx : ∀ s, exec i s = issue i (fun u _ => goRegs u ((participants u f).flatMap (fun l =>
      putD f 2 l (x u l) ++ [.p l f.c.toNat (y u l)]))) s) :
    OnlyWrites { Claims.destOf i f false with ps := [f.c.toNat] } := by
  refine onlyWrites_of (destOf_i i f false) hx (fun u s => .inr ⟨_, rfl, fun w hw => ?_⟩)
  simp only [List.mem_flatMap, List.mem_append, List.mem_singleton] at hw
  obtain ⟨l, -, hw | rfl⟩ := hw
  · exact within_putD i f 2 l _ w hw
  · simp [RegW.Within]

/-- ADDC and SUBB write D and the carry. -/
theorem onlyWrites_carry (f : LForm) : ∀ e ∈ [Instr.addc, Instr.subb],
    OnlyWrites { Claims.destOf (e f) f false with ps := [f.c.toNat] } := by
  simp only [List.forall_mem_cons]
  exact ⟨onlyWrites_withCarry (fun s => show execAddc f s = _ from rfl),
    onlyWrites_withCarry (fun s => show execSubb f s = _ from rfl), by simp⟩

/-- An instruction whose body writes predicate D in each participant. -/
theorem onlyWrites_pred {i : Instr} {f : LForm} {body : Issue → State → Act} (hx : ∀ s, exec i s = issue i body s)
    (hb : ∃ g, ∀ u s, body u s = predBody f g u s) : OnlyWrites { i := i, ps := [f.d.toNat] } := by
  obtain ⟨g, hb⟩ := hb
  obtain rfl : body = predBody f g := funext fun u => funext fun s => hb u s
  exact ⟨_, hx, writesOnly_pred i f g⟩

/-- The comparisons and the predicate logic. -/
theorem onlyWrites_preds (f : LForm) : ∀ e ∈ [Instr.icmp, Instr.pset, Instr.pand, Instr.por, Instr.pxor, Instr.pnot, Instr.fcmp,
    Instr.fclass], OnlyWrites { i := e f, ps := [f.d.toNat] } := by
  simp only [List.forall_mem_cons]
  exact ⟨onlyWrites_pred (fun s => show execIcmp f s = _ from rfl) ⟨_, fun _ _ => rfl⟩,
    onlyWrites_pred (fun s => show execPset f s = _ from rfl) ⟨_, fun _ _ => rfl⟩,
    onlyWrites_pred (fun s => show execPand f s = _ from rfl) ⟨_, fun _ _ => rfl⟩,
    onlyWrites_pred (fun s => show execPor f s = _ from rfl) ⟨_, fun _ _ => rfl⟩,
    onlyWrites_pred (fun s => show execPxor f s = _ from rfl) ⟨_, fun _ _ => rfl⟩,
    onlyWrites_pred (fun s => show execPnot f s = _ from rfl) ⟨_, fun _ _ => rfl⟩,
    onlyWrites_pred (fun s => show execFcmp f s = _ from rfl) ⟨_, fun _ _ => rfl⟩,
    onlyWrites_pred (fun s => show execFclass f s = _ from rfl) ⟨_, fun _ _ => rfl⟩, by simp⟩

/-- The cross-lane instructions and the others of Table 3-12 and file 17 that only write registers. -/
theorem onlyWrites_rest (f : LForm) (g : SForm) :
    let w := wideNat f.ty.toNat
    let pair := [f.d.toNat, f.d.toNat + 1]
    ∀ e ∈ [({ i := .nop g } : Claims.Dest), { i := .nopLong f },
      { i := .shfl f, vs := if w then pair else [f.d.toNat] },
      { i := .shflp f, vs := if w then pair else [f.d.toNat], ps := if f.mod2 = 1 then [f.c.toNat] else [] },
      { i := .reduce f, vs := if f.mod2 = 1 then [] else if w then pair else [f.d.toNat],
        ss := if f.mod2 = 1 then (if w then pair else [f.d.toNat]) else [], ps := [f.c.toNat] },
      { i := .scan f, vs := if w then pair else [f.d.toNat] },
      { i := .vote f, ss := if f.mod = 2 then pair else [], ps := if f.mod = 2 then [] else [f.d.toNat] },
      { i := .matchLanes f, vs := if f.mod = 2 then pair else if f.mod.toNat < 2 then [f.d.toNat] else [],
        ps := if f.mod.toNat < 3 then [] else [f.d.toNat] },
      { i := .kpop f, ss := [f.d.toNat] }, { i := .chkpt f, ss := pair },
      { i := .tqpeek f, ss := (List.range 12).map (fun n => f.d.toNat + n) },
      { i := .lookup f, vs := if f.asc then [] else [f.d.toNat], ss := if f.asc then [f.d.toNat] else [] }], OnlyWrites e := by
  intro w pair
  simp only [List.forall_mem_cons]
  refine ⟨?nop, ?nopLong, ?shfl, ?shflp, ?reduce, ?scan, ?vote, ?matchLanes, ?kpop, ?chkpt, ?tqpeek, ?lookup, by simp⟩
  case nop => exact ⟨_, fun s => (show execNop g s = _ from rfl), fun u s => .inl rfl⟩
  case nopLong => exact ⟨_, fun s => (show execNopLong f s = _ from rfl), fun u s => .inl rfl⟩
  case shfl =>
    refine ⟨_, fun s => (show execShfl f s = _ from rfl), fun u s => .inr ⟨_, rfl, within_putAll ?_⟩⟩
    rw [wideTy_eq]
    exact fun _ => id
  case shflp =>
    refine ⟨_, fun s => (show execShflp f s = _ from rfl), fun u s => .inr ⟨_, rfl, List.forall_mem_append.mpr ⟨within_putAll ?_, ?_⟩⟩⟩
    · rw [wideTy_eq]
      exact fun _ => id
    · by_cases h : f.mod2 = 1
      · simp [h, RegW.Within]
      · simp only [beq_eq_false_iff_ne.mpr h, Bool.false_eq_true, if_false]
        simp
  case reduce =>
    refine ⟨_, fun s => (show execReduce f s = _ from rfl), fun u s => .inr ⟨_, rfl, List.forall_mem_append.mpr
      ⟨List.forall_mem_append.mpr ⟨?_, within_putPred (by simp)⟩, within_flags⟩⟩⟩
    by_cases h : f.mod2 = 1
    · simp only [h, beq_self_eq_true, if_true]
      refine within_putReg ?_
      rw [wideTy_eq]
      exact fun _ => id
    · simp only [h, if_false, beq_eq_false_iff_ne.mpr h]
      refine within_putAll ?_
      rw [wideTy_eq]
      exact fun _ => id
  case scan =>
    refine ⟨_, fun s => (show execScan f s = _ from rfl), fun u s => .inr ⟨_, rfl, List.forall_mem_append.mpr
      ⟨within_putAll ?_, within_flags⟩⟩⟩
    rw [wideTy_eq]
    exact fun _ => id
  case vote =>
    refine ⟨_, fun s => (show execVote f s = _ from rfl), fun u s => .inr ?_⟩
    by_cases h : f.mod = 2
    · simp only [h, beq_self_eq_true, if_true]
      exact ⟨_, rfl, within_putReg (by simp [pair])⟩
    · simp only [h, if_false, beq_eq_false_iff_ne.mpr h]
      exact ⟨_, rfl, within_putPred (by simp)⟩
  case matchLanes =>
    refine ⟨_, fun s => (show execMatchLanes f s = _ from rfl), fun u s => .inr ?_⟩
    have h2 : f.mod = 2 ↔ f.mod.toNat = 2 := ⟨fun h => by rw [h]; rfl, fun h => BitVec.eq_of_toNat_eq h⟩
    simp only [h2]
    rcases f.mod.toNat with _ | _ | _ | n
    · exact ⟨_, rfl, within_putAll (by simp)⟩
    · exact ⟨_, rfl, within_putAll (by simp)⟩
    · exact ⟨_, rfl, within_putAll (by simp [pair])⟩
    · exact ⟨_, rfl, within_putPred (by simp)⟩
  case kpop => exact ⟨_, fun s => (show execKpop f s = _ from rfl), fun u s => .inr ⟨_, rfl, by simp [RegW.Within]⟩⟩
  case chkpt => exact ⟨_, fun s => (show execChkpt f s = _ from rfl), fun u s => .inr ⟨_, rfl, by simp [scalPair, RegW.Within, pair]⟩⟩
  case tqpeek => exact ⟨_, fun s => (show execTqpeek f s = _ from rfl), fun u s => .inr ⟨_, rfl, by simp [RegW.Within]⟩⟩
  case lookup =>
    refine ⟨_, fun s => (show execLookup f s = _ from rfl), fun u s => ?_⟩
    by_cases hp : (participants u f).isEmpty = true
    · exact .inl (if_pos hp)
    · refine .inr ?_
      by_cases ha : f.asc = true
      · exact ⟨_, (if_neg hp).trans (if_pos ha), by simp [ha, RegW.Within]⟩
      · exact ⟨_, (if_neg hp).trans (if_neg ha), by simp [ha, RegW.Within]⟩

/-- Settles O22: every such instruction only writes its destinations, which is a change of its cord alone; a trap and an
ending region leave the registers. -/
theorem registerFrames : Obligations.RegisterFrames := by
  unfold Obligations.RegisterFrames
  intro f g e he s t u hu ht
  have hw : ∀ e ∈ Claims.destTable f g, OnlyWrites e := by
    simp only [Claims.destTable, List.forall_mem_append, List.forall_mem_map]
    exact ⟨⟨⟨⟨⟨⟨⟨⟨⟨onlyWrites_arith f, onlyWrites_bit f⟩, onlyWrites_count f⟩, onlyWrites_float f⟩, onlyWrites_move f⟩,
      by simpa using onlyWrites_lea f⟩, onlyWrites_carry f⟩, onlyWrites_preds f⟩, onlyWrites_shorts g⟩, onlyWrites_rest f g⟩
  obtain ⟨hd, hc⟩ := frame_of_onlyWrites (hw e he) hu ht
  exact ⟨hd, hc u.cord (issueOf_cord hu)⟩

end Sys2Proof.Machine
end

/-! ## The byte stores: what leaves them

Device memory, the windows, the mailbox buffer and the staging area as one value. Each operation of the model that writes
none of them leaves that value: one equation an operation, in the model's order. -/

section
open Sys2Proof Sys2Proof.Machine

namespace Sys2Proof.Machine

/-- The byte stores of a state: device memory, the windows, the mailbox buffer and the staging area. -/
def bytesOf (s : State) : Mem × List Mem × Mem × Mem := (s.mem, s.blocks.map Block.window, s.mgmt.mbbuf, s.mgmt.staging)

/-- A state with the same memory, blocks and management block. -/
theorem bytesOf_base (s : State) (p po ce la co di gr ct pa pt ou inp se fr) :
    bytesOf (State.mk p s.mem po ce la co di s.blocks gr ct pa pt s.mgmt ou inp se fr) = bytesOf s := rfl

/-- What every step of a fold leaves, the fold leaves. -/
theorem bytesOf_foldl {α : Type} {f : State → α → State} (h : ∀ s a, bytesOf (f s a) = bytesOf s) (l : List α)
    (s : State) : bytesOf (l.foldl f s) = bytesOf s := by
  induction l generalizing s with
  | nil => rfl
  | cons a l ih => rw [List.foldl_cons, ih, h]

/-- A block changed in all but its window. -/
theorem bytesOf_modBlock {f : Block → Block} (h : ∀ x, (f x).window = x.window) (s : State) (b : Nat) :
    bytesOf (modBlock s b f) = bytesOf s := by
  have : (s.blocks.modify b f).map Block.window = s.blocks.map Block.window := by
    refine List.ext_getElem? fun i => ?_
    simp only [List.getElem?_map, List.getElem?_modify]
    split
    · cases s.blocks[i]? <;> simp [h]
    · simp
  simp only [bytesOf, modBlock, this]

/-- A cord changed. -/
theorem bytesOf_modCord (s : State) (b c : Nat) (f : Cord → Cord) : bytesOf (modCord s b c f) = bytesOf s :=
  bytesOf_modBlock (f := fun x => x.modCord c f) (fun _ => rfl) s b

/-- A core changed. -/
theorem bytesOf_modCore (s : State) (core : Nat) (f : CoreSt → CoreSt) : bytesOf (modCore s core f) = bytesOf s := rfl

/-- A core replaced. -/
theorem bytesOf_setCore (s : State) (core : Nat) (f : CoreSt) : bytesOf (setCore s core f) = bytesOf s := rfl

/-- A die changed. -/
theorem bytesOf_modDie (s : State) (core : Nat) (f : Die → Die) : bytesOf (modDie s core f) = bytesOf s := rfl

/-- A context changed. -/
theorem bytesOf_modCtx (s : State) (p c : Nat) (f : Ctx → Ctx) : bytesOf (modCtx s p c f) = bytesOf s := rfl

/-- A partition changed. -/
theorem bytesOf_modPart (s : State) (p : Nat) (f : Part → Part) : bytesOf (modPart s p f) = bytesOf s := rfl

/-- A grid changed. -/
theorem bytesOf_modGrid (s : State) (g : Nat) (f : Grid → Grid) : bytesOf (modGrid s g f) = bytesOf s := rfl

/-- The management block changed in all but its two stores. -/
theorem bytesOf_modMgmt {f : Mgmt → Mgmt} (h : ∀ m, (f m).mbbuf = m.mbbuf ∧ (f m).staging = m.staging) (s : State) :
    bytesOf (modMgmt s f) = bytesOf s := by
  simp only [bytesOf, modMgmt, h]

/-! ### Operations of Ops -/

@[simp] theorem bytesOf_takeFree (s : State) : bytesOf (takeFree s).2 = bytesOf s := rfl

@[simp] theorem bytesOf_swapOut (s : State) (b c : Nat) : bytesOf (swapOut s b c) = bytesOf s := by
  unfold swapOut
  repeat' split
  all_goals simp only [bytesOf_modCord, bytesOf_modCore]

@[simp] theorem bytesOf_fatalOf (s : State) (g : Grid) (status cause pc : Nat) :
    bytesOf (fatalOf s g status cause pc) = bytesOf s := rfl

@[simp] theorem bytesOf_fatal (s : State) (b status cause pc : Nat) : bytesOf (fatal s b status cause pc) = bytesOf s := by
  unfold fatal
  split <;> simp only [bytesOf_fatalOf]

@[simp] theorem bytesOf_killBraid (s : State) (b : Nat) : bytesOf (killBraid s b) = bytesOf s := by
  unfold killBraid
  split <;> simp only [bytesOf_modGrid]

@[simp] theorem bytesOf_queueRec (s : State) (b c : Nat) (r : TrapRec) : bytesOf (queueRec s b c r) = bytesOf s := by
  unfold queueRec
  repeat' split
  all_goals simp only [bytesOf_killBraid, bytesOf_modCord]

@[simp] theorem bytesOf_takeTrap (s : State) (b c : Nat) (cause : Cause) (pc : DWord) (ret : Nat) (lanes : List Nat)
    (detail addr : Nat) : bytesOf (takeTrap s b c cause pc ret lanes detail addr) = bytesOf s := by
  unfold takeTrap
  repeat' split
  all_goals simp only [bytesOf_fatal, bytesOf_modCord, bytesOf_queueRec]

@[simp] theorem bytesOf_markEnding (s : State) (u : Issue) : bytesOf (markEnding s u) = bytesOf s := by
  unfold markEnding
  simp only [bytesOf_modCord]

@[simp] theorem bytesOf_trapAt (s : State) (u : Issue) (cause : Cause) (lanes : List Nat) (detail addr : Nat) :
    bytesOf (trapAt s u cause lanes detail addr) = bytesOf s := by
  unfold trapAt
  simp only [bytesOf_modCord, bytesOf_takeTrap]

@[simp] theorem bytesOf_addOp (s : State) (u : Issue) (o : Op) : bytesOf (addOp s u o) = bytesOf s := by
  unfold addOp
  simp only [bytesOf_modCord, bytesOf_modCore]

@[simp] theorem bytesOf_coreBoundary (s : State) (core : Nat) : bytesOf (coreBoundary s core) = bytesOf s := rfl

@[simp] theorem bytesOf_checkBar (s : State) (b : Nat) : bytesOf (checkBar s b) = bytesOf s := by
  unfold checkBar
  split
  · rfl
  · dsimp only
    split
    · rw [bytesOf_coreBoundary, bytesOf_modCore]
      exact bytesOf_modBlock (by intro y; rfl) s b
    · rfl

@[simp] theorem bytesOf_failOfEnded (s : State) (x : Block) (pc code detail : Nat) :
    bytesOf (failOfEnded s x pc code detail) = bytesOf s := rfl

@[simp] theorem bytesOf_lateOfEnded (s : State) (b : Nat) (r : Report) : bytesOf (lateOfEnded s b r) = bytesOf s := by
  unfold lateOfEnded
  split <;> simp only [bytesOf_failOfEnded]

@[simp] theorem bytesOf_endLates (s : State) (b c : Nat) : bytesOf (endLates s b c) = bytesOf s := by
  unfold endLates
  split
  · rw [bytesOf_modCord, bytesOf_foldl fun s r => bytesOf_lateOfEnded s b r]
  · rfl

@[simp] theorem bytesOf_endStrands (s : State) (b c : Nat) (lanes : List Nat) :
    bytesOf (endStrands s b c lanes) = bytesOf s := by
  unfold endStrands
  dsimp only
  repeat' split
  all_goals simp only [bytesOf_checkBar, bytesOf_endLates, bytesOf_modCord, bytesOf_modCore, bytesOf_modDie]

/-! ### Operations of Translate -/

@[simp] theorem bytesOf_askWalk (s : State) (core : Nat) (w : WalkReq) : bytesOf (askWalk s core w) = bytesOf s := rfl

/-! ### Operations of Snapshot -/

@[simp] theorem bytesOf_observe (s : State) (dw : Nat) (by_ : Option BraidId) :
    bytesOf (observe s dw by_) = bytesOf s := rfl

@[simp] theorem bytesOf_homeRead (s : State) (by_ : Option BraidId) (pa : Nat) :
    bytesOf (homeRead s by_ pa).2 = bytesOf s := by
  unfold homeRead
  dsimp only
  split <;> simp only [bytesOf_observe]

@[simp] theorem bytesOf_takeCell (s : State) (dw : Nat) (owner : BraidId) (region : Option (Nat × Nat)) :
    bytesOf (takeCell s dw owner region) = bytesOf s := rfl

@[simp] theorem bytesOf_markWritten (s : State) (dw : Nat) (offs : List Nat) :
    bytesOf (markWritten s dw offs) = bytesOf s := rfl

@[simp] theorem bytesOf_freeCell (s : State) (dw : Nat) (p : Cell → Bool) : bytesOf (freeCell s dw p) = bytesOf s := rfl

@[simp] theorem bytesOf_modBraid (s : State) (x : BraidId) (f : Braid → Braid) : bytesOf (modBraid s x f) = bytesOf s := rfl

@[simp] theorem bytesOf_unrelaunch (s : State) (x : BraidId) : bytesOf (unrelaunch s x) = bytesOf s := by
  unfold unrelaunch
  split
  · rw [bytesOf_foldl fun s c => bytesOf_freeCell .., bytesOf_modBraid]
  · rfl

@[simp] theorem bytesOf_limitCells (s : State) (x : BraidId) : bytesOf (limitCells s x) = bytesOf s := by
  unfold limitCells
  split <;> simp only [bytesOf_unrelaunch]

@[simp] theorem bytesOf_braidCell (s : State) (x : BraidId) (dw : Nat) : bytesOf (braidCell s x dw) = bytesOf s := by
  unfold braidCell
  dsimp only
  repeat' split
  all_goals simp only [bytesOf_limitCells, bytesOf_takeCell, bytesOf_unrelaunch]

@[simp] theorem bytesOf_fillLine (s : State) (core line : Nat) : bytesOf (fillLine s core line) = bytesOf s := rfl

@[simp] theorem bytesOf_coreRead (s : State) (core b pa : Nat) : bytesOf (coreRead s core b pa).2.2 = bytesOf s := by
  unfold coreRead
  split <;> simp only [bytesOf_fillLine, bytesOf_homeRead]

@[simp] theorem bytesOf_coreReads (core b pa n : Nat) (s : State) : bytesOf (coreReads core b pa n s).2.2 = bytesOf s := by
  induction n generalizing pa s with
  | zero => rfl
  | succ n ih => exact (ih _ _).trans (bytesOf_coreRead ..)

@[simp] theorem bytesOf_publishLine (s : State) (core line block : Nat) :
    bytesOf (publishLine s core line block) = bytesOf s := by
  unfold publishLine
  dsimp only
  split <;> simp only [bytesOf_setCore]

@[simp] theorem bytesOf_displace (s : State) (core block pa : Nat) : bytesOf (displace s core block pa) = bytesOf s := by
  unfold displace
  repeat' split
  all_goals simp only [bytesOf_modBraid, bytesOf_modCore, bytesOf_publishLine]

@[simp] theorem bytesOf_mergeByte (core block seq : Nat) (poison : Bool) (s : State) (e : Nat × Byte) :
    bytesOf (mergeByte core block seq poison s e) = bytesOf s := by
  unfold mergeByte
  simp only [bytesOf_displace, bytesOf_modCore]

@[simp] theorem bytesOf_mergeBytes (s : State) (core block seq : Nat) (es : List (Nat × Byte)) (poison : Bool) :
    bytesOf (mergeBytes s core block seq es poison) = bytesOf s :=
  bytesOf_foldl (fun s e => bytesOf_mergeByte core block seq poison s e) es s

@[simp] theorem bytesOf_mergeStore (s : State) (core block seq pa : Nat) (bs : List Byte) (poison : Bool) :
    bytesOf (mergeStore s core block seq pa bs poison) = bytesOf s := by
  unfold mergeStore
  simp only [bytesOf_mergeBytes]

@[simp] theorem bytesOf_publishAll (s : State) (core : Nat) : bytesOf (publishAll s core) = bytesOf s := by
  unfold publishAll
  rw [bytesOf_modCore, bytesOf_foldl]
  exact fun s x => bytesOf_publishLine s core x.1 x.2

@[simp] theorem bytesOf_publishBefore (s : State) (core : Nat) : bytesOf (publishBefore s core) = bytesOf s := by
  unfold publishBefore
  rw [bytesOf_modCore, bytesOf_foldl]
  exact fun s x => bytesOf_publishLine s core x.1 x.2

@[simp] theorem bytesOf_shareStaged (s : State) (core : Nat) : bytesOf (shareStaged s core) = bytesOf s := by
  unfold shareStaged
  rw [bytesOf_foldl fun s e => bytesOf_modBraid .., bytesOf_setCore]

@[simp] theorem bytesOf_followRelease (s : State) (core block seq : Nat) (pas : List Nat) :
    bytesOf (followRelease s core block seq pas) = bytesOf s := by
  unfold followRelease
  split
  · split
    · exact bytesOf_foldl (fun s l => bytesOf_publishLine s core l block) _ _
    · exact bytesOf_shareStaged s core
  · rfl

@[simp] theorem bytesOf_dropClean (s : State) (core : Nat) : bytesOf (dropClean s core) = bytesOf s := rfl

@[simp] theorem bytesOf_dropLine (s : State) (core line : Nat) : bytesOf (dropLine s core line) = bytesOf s := rfl

@[simp] theorem bytesOf_countPhase (s : State) (core : Nat) : bytesOf (countPhase s core) = bytesOf s := rfl

/-! ### Operations of Control -/
theorem bytesOf_stallAtHeader (s : State) (u : Issue) (h : Header) : bytesOf (stallAtHeader s u h) = bytesOf s := by
  unfold stallAtHeader
  dsimp only
  repeat' split
  all_goals simp only [bytesOf_swapOut, bytesOf_takeFree]

@[simp] theorem bytesOf_askFetches (u : Issue) (ts : List (Nat × DWord)) (s : State) :
    bytesOf (askFetches u ts s) = bytesOf s :=
  bytesOf_foldl (fun _ _ => bytesOf_askWalk ..) _ s

/-! ### Operations of Access -/

@[simp] theorem bytesOf_addAccOp (s : State) (u : Issue) (o : Op) : bytesOf (addAccOp s u o) = bytesOf s := by
  unfold addAccOp
  dsimp only
  split
  · rw [bytesOf_addOp]
  · rw [bytesOf_foldl fun s w => bytesOf_askWalk s u.blk.core w, bytesOf_addOp]

@[simp] theorem bytesOf_send (s : State) (m : Msg) : bytesOf (send s m) = bytesOf s := rfl

@[simp] theorem bytesOf_ringWrite (s : State) (part off : Nat) : bytesOf (ringWrite s part off) = bytesOf s := rfl

@[simp] theorem bytesOf_freeBytes (n : Nat) (s : State) : bytesOf (freeBytes n s).2 = bytesOf s := by
  induction n generalizing s with
  | zero => rfl
  | succ n ih => exact (ih _).trans (bytesOf_takeFree s)

/-! ### Operations of Memory -/

@[simp] theorem bytesOf_reportProt (s : State) (b c : Nat) (o : Op) (lanes : List Nat) (detail va : Nat) :
    bytesOf (reportProt s b c o lanes detail va) = bytesOf s := by
  unfold reportProt
  split <;> simp only [bytesOf_modCord]

@[simp] theorem bytesOf_orphanStore (s : State) (b : Nat) (e : FaultEntry) : bytesOf (orphanStore s b e) = bytesOf s := by
  unfold orphanStore
  split <;> simp only [bytesOf_modGrid]

@[simp] theorem bytesOf_strayEntry (s : State) (b c core : Nat) (o : Op) (a : Acc) (tent : Bool) :
    bytesOf (strayEntry s b c core o a tent).2 = bytesOf s := rfl

@[simp] theorem bytesOf_rejectStore (s : State) (b c core : Nat) (o : Op) (a : Acc) (tent : Bool) (detail : Nat) :
    bytesOf (rejectStore s b c core o a tent detail) = bytesOf s := by
  unfold rejectStore
  split <;> simp only [bytesOf_orphanStore, bytesOf_reportProt, bytesOf_strayEntry]

@[simp] theorem bytesOf_markUncovered (s : State) (b c : Nat) (o : Op) : bytesOf (markUncovered s b c o) = bytesOf s := by
  unfold markUncovered
  split <;> simp only [bytesOf_modCord]

@[simp] theorem bytesOf_accByte (core b : Nat) (a : Acc) (k : Nat) (s : State) :
    bytesOf (accByte core b a k s).2.2 = bytesOf s := by
  unfold accByte
  repeat' split
  all_goals simp only [bytesOf_coreRead]

@[simp] theorem bytesOf_readRest (core b : Nat) (a : Acc) (k n : Nat) (s : State) :
    bytesOf (readRest core b a k n s).2.2 = bytesOf s := by
  induction n generalizing k s with
  | zero => rfl
  | succ n ih => exact (ih _ _).trans (bytesOf_accByte ..)

@[simp] theorem bytesOf_readAcc (s : State) (b core : Nat) (a : Acc) : bytesOf (readAcc s b core a).2 = bytesOf s := by
  unfold readAcc
  repeat' split
  all_goals simp only [bytesOf_freeBytes, bytesOf_readRest]

@[simp] theorem bytesOf_loadOne (s : State) (b c core : Nat) (o : Op) (i : Nat) (ws : Nat → List Byte → List RegW) :
    bytesOf (loadOne s b c core o i ws) = bytesOf s := by
  unfold loadOne
  dsimp only
  repeat' split
  all_goals simp only [bytesOf_killBraid, bytesOf_modCord, bytesOf_readAcc, bytesOf_reportProt]

theorem bytesOf_eachAcc (s : State) (b c o : Nat) {f : State → Op → Nat → State} (h : ∀ s op i, bytesOf
    (f s op i) = bytesOf s) : bytesOf (eachAcc s b c o f) = bytesOf s := by
  unfold eachAcc
  split
  · rfl
  · refine bytesOf_foldl (fun s i => ?_) _ _
    split
    · exact h ..
    · rfl

@[simp] theorem bytesOf_finishOp (s : State) (b c o : Nat) : bytesOf (finishOp s b c o) = bytesOf s := by
  unfold finishOp
  repeat' split
  all_goals simp only [bytesOf_modCord]

@[simp] theorem bytesOf_sendBytes (s : State) (a : Acc) (es : List (Nat × Byte)) :
    bytesOf (sendBytes s a es) = bytesOf s := by
  unfold sendBytes
  split
  · exact bytesOf_send ..
  · exact bytesOf_foldl (fun s e => bytesOf_send ..) es s

@[simp] theorem bytesOf_gotByte (s : State) (b c o i k : Nat) (x : Byte × Bool) :
    bytesOf (gotByte s b c o i k x) = bytesOf s := by
  unfold gotByte
  simp only [bytesOf_modCord]

@[simp] theorem bytesOf_loadAlone (s : State) (b c core o i k : Nat) (a : Acc) :
    bytesOf (loadAlone s b c core o i k a) = bytesOf s := by
  have ht : bytesOf (gotByte (accByte core b a k s).2.2 b c o i k ((accByte core b a k s).1, (accByte core b a k s).2.1))
      = bytesOf s := by
    rw [bytesOf_gotByte, bytesOf_accByte]
  unfold loadAlone
  dsimp only
  split
  · refine (bytesOf_foldl (fun s j => ?_) _ _).trans ht
    rw [bytesOf_modCord, bytesOf_coreRead]
  · split
    · refine (bytesOf_foldl (fun s j => ?_) _ _).trans ht
      rw [bytesOf_gotByte, bytesOf_coreRead]
    · exact ht

@[simp] theorem bytesOf_prefOne (f : LForm) (s : State) (b c core : Nat) (o : Op) (i : Nat) :
    bytesOf (prefOne f s b c core o i) = bytesOf s := by
  unfold prefOne
  dsimp only
  repeat' split
  all_goals simp only [bytesOf_fillLine, bytesOf_modCord]

@[simp] theorem bytesOf_scaleOne (s : State) (b c core : Nat) (o : Op) (i : Nat) :
    bytesOf (scaleOne s b c core o i) = bytesOf s := by
  unfold scaleOne
  dsimp only
  repeat' split
  all_goals simp only [bytesOf_killBraid, bytesOf_modCord, bytesOf_readAcc, bytesOf_reportProt]

@[simp] theorem bytesOf_cvtscReady (s : State) (b c o : Nat) : bytesOf (cvtscReady s b c o) = bytesOf s := by
  unfold cvtscReady
  repeat' split
  all_goals simp only [bytesOf_modCord]

@[simp] theorem bytesOf_setPiece (s : State) (b c o : Nat) : bytesOf (setPiece s b c o) = bytesOf s := by
  unfold setPiece
  simp only [bytesOf_modCord]

@[simp] theorem bytesOf_writePiece (s : State) (b c o i : Nat) : bytesOf (writePiece s b c o i) = bytesOf s := by
  unfold writePiece
  repeat' split
  all_goals simp only [bytesOf_finishOp, bytesOf_modCord]

@[simp] theorem bytesOf_keepLater (s : State) (b c o : Nat) (k : Nat × Nat) :
    bytesOf (keepLater s b c o k) = bytesOf s := by
  unfold keepLater
  simp only [bytesOf_modCord]

@[simp] theorem bytesOf_sendRelease (s : State) (core scope : Nat) : bytesOf (sendRelease s core scope) = bytesOf s := by
  unfold sendRelease
  repeat' split
  all_goals simp only [bytesOf_publishAll, bytesOf_shareStaged]

@[simp] theorem bytesOf_beginRelease (s : State) (u : Issue) (scope : Nat) (park : Nat → Park) :
    bytesOf (beginRelease s u scope park) = bytesOf s := by
  unfold beginRelease
  simp only [bytesOf_modCord, bytesOf_sendRelease]

@[simp] theorem bytesOf_passBoundary (s : State) (b c core scope : Nat) (acq : Bool) (lanes : List Nat) :
    bytesOf (passBoundary s b c core scope acq lanes) = bytesOf s := by
  unfold passBoundary
  split <;> simp only [bytesOf_coreBoundary, bytesOf_dropClean, bytesOf_modCord]

@[simp] theorem bytesOf_passPhase (s : State) (u : Issue) (f : LForm) : bytesOf (passPhase s u f) = bytesOf s := by
  unfold passPhase
  simp only [bytesOf_modCord, bytesOf_passBoundary]

@[simp] theorem bytesOf_sendFence (s : State) (b core : Nat) (vec : Bool) :
    bytesOf (sendFence s b core vec) = bytesOf s := by
  unfold sendFence
  dsimp only
  repeat' split
  all_goals simp only [bytesOf_publishAll, bytesOf_publishBefore, bytesOf_shareStaged]

@[simp] theorem bytesOf_beginFence (s : State) (u : Issue) (vec : Bool) : bytesOf (beginFence s u vec) = bytesOf s := by
  unfold beginFence
  simp only [bytesOf_modCord, bytesOf_sendFence]

@[simp] theorem bytesOf_passFence (s : State) (core : Nat) (vec : Bool) : bytesOf (passFence s core vec) = bytesOf s := by
  unfold passFence
  split <;> simp only [bytesOf_dropClean, bytesOf_modCore]

/-! ### Operations of OrderLog -/

@[simp] theorem bytesOf_useEntry (s : State) (part ctx i : Nat) : bytesOf (useEntry s part ctx i) = bytesOf s := rfl

@[simp] theorem bytesOf_setLast (s : State) (pa size : Nat) (me : Stepper) :
    bytesOf (setLast s pa size me) = bytesOf s := by
  unfold setLast
  rw [bytesOf_foldl]
  exact fun _ _ => rfl

@[simp] theorem bytesOf_foreignRead (pa n : Nat) (s : State) : bytesOf (foreignRead pa n s).2 = bytesOf s := by
  induction n generalizing pa s with
  | zero => rfl
  | succ n ih => exact (ih _ _).trans (bytesOf_homeRead ..)

@[simp] theorem bytesOf_diverged (s : State) (b pc : Nat) : bytesOf (diverged s b pc) = bytesOf s := by
  unfold diverged
  simp only [bytesOf_fatal]

/-! ### Operations of Atomics -/

@[simp] theorem bytesOf_rejectStep (s : State) (b c : Nat) (o : Op) (i detail : Nat) :
    bytesOf (rejectStep s b c o i detail) = bytesOf s := by
  unfold rejectStep
  split <;> simp only [bytesOf_modCord, bytesOf_reportProt]

@[simp] theorem bytesOf_beginStep (s : State) (b c core o i : Nat) : bytesOf (beginStep s b c core o i) = bytesOf s := by
  unfold beginStep
  repeat' split
  all_goals simp only [bytesOf_modCord, bytesOf_sendRelease]

@[simp] theorem bytesOf_meetEntry (s : State) (b : Nat) (used : Option Nat) : bytesOf (meetEntry s b used) = bytesOf s := by
  unfold meetEntry
  split <;> simp only [bytesOf_useEntry]

theorem bytesOf_replayed (s : State) (b c : Nat) (o : Op) (a : Acc) {k : State → State} (h : ∀ s, bytesOf
    (k s) = bytesOf s) : bytesOf (replayed s b c o a k) = bytesOf s := by
  unfold replayed
  split
  · exact bytesOf_diverged ..
  · rfl
  · exact (h _).trans (bytesOf_meetEntry ..)

@[simp] theorem bytesOf_sendGroup (s : State) (b c o pa g : Nat) : bytesOf (sendGroup s b c o pa g) = bytesOf s := by
  unfold sendGroup
  simp only [bytesOf_modCord]

theorem bytesOf_eachCell (s : State) (b c o dw : Nat) {f : State → Nat → Nat → Nat → Op → Nat → State}
    (h : ∀ s b c core p i, bytesOf (f s b c core p i) = bytesOf s) : bytesOf (eachCell s b c o dw f) = bytesOf s := by
  unfold eachCell
  split
  · split
    · refine bytesOf_foldl (fun s i => ?_) _ _
      split
      · exact h ..
      · rfl
    · rfl
  · rfl

theorem bytesOf_runCells (s : State) (b c o dw : Nat) {f : State → Nat → Nat → Nat → Op → Nat → State}
    (h : ∀ s b c core p i, bytesOf (f s b c core p i) = bytesOf s) : bytesOf (runCells s b c o dw f) = bytesOf s := by
  unfold runCells
  rw [bytesOf_finishOp, bytesOf_eachCell _ _ _ _ _ h]

@[simp] theorem bytesOf_commandOne (f : LForm) (s : State) (b c core : Nat) (o : Op) (i : Nat) :
    bytesOf (commandOne f s b c core o i) = bytesOf s := by
  unfold commandOne
  repeat' split
  all_goals simp only [bytesOf_modCord, bytesOf_modCore, bytesOf_reportProt]

@[simp] theorem bytesOf_commandsLeft (s : State) (b c o : Nat) : bytesOf (commandsLeft s b c o) = bytesOf s := by
  unfold commandsLeft
  repeat' split
  all_goals simp only [bytesOf_modCord]

@[simp] theorem bytesOf_sendCommands (s : State) (b c : Nat) : bytesOf (sendCommands s b c) = bytesOf s := by
  unfold sendCommands
  split
  · refine bytesOf_foldl (fun s o => ?_) _ _
    split
    · rw [bytesOf_finishOp, bytesOf_commandsLeft, bytesOf_eachAcc _ _ _ _ fun s op i => bytesOf_commandOne ..]
    · rfl
  · rfl

@[simp] theorem bytesOf_commandDone (s : State) (d : Delegated) : bytesOf (commandDone s d) = bytesOf s := by
  unfold commandDone
  split <;> simp only [bytesOf_finishOp, bytesOf_modCord]

@[simp] theorem bytesOf_popReplies (s : State) (b core : Nat) (taken : List Reply) :
    bytesOf (popReplies s b core taken) = bytesOf s := by
  unfold popReplies
  split <;> simp only [bytesOf_killBraid, bytesOf_modCore]

@[simp] theorem bytesOf_meetReplies (s : State) (b : Nat) (es : List (Nat × ReplyEntry)) :
    bytesOf (meetReplies s b es) = bytesOf s := by
  refine bytesOf_foldl (fun s e => ?_) es s
  split
  · rw [bytesOf_meetEntry, bytesOf_meetEntry]
  · rfl

@[simp] theorem bytesOf_giveReplies (s : State) (b c : Nat) (o : Op) (ws : List RegW) :
    bytesOf (giveReplies s b c o ws) = bytesOf s := by
  unfold giveReplies
  simp only [bytesOf_modCord]

@[simp] theorem bytesOf_popReplayed (s : State) (b c core : Nat) (f : LForm) (o : Op) (x : Ctx) :
    bytesOf (popReplayed s b c core f o x) = bytesOf s := by
  unfold popReplayed
  dsimp only
  repeat' split
  all_goals simp only [bytesOf_diverged, bytesOf_giveReplies, bytesOf_meetReplies, bytesOf_popReplies]

@[simp] theorem bytesOf_sendCommand (s : State) (d : Delegated) : bytesOf (sendCommand s d) = bytesOf s := rfl

@[simp] theorem bytesOf_ownerValue (s : State) (d : Delegated) : bytesOf (ownerValue s d).2 = bytesOf s := rfl

@[simp] theorem bytesOf_takeReply (s : State) (core : Nat) (d : Delegated) : bytesOf (takeReply s core d) = bytesOf s := rfl

@[simp] theorem bytesOf_tstDone (s : State) (b c : Nat) (o : Op) (i : Nat) (f : LForm) (full : Bool) (st : AccState) :
    bytesOf (tstDone s b c o i f full st) = bytesOf s := by
  unfold tstDone
  split <;> simp only [bytesOf_modCord]

@[simp] theorem bytesOf_finishTst (s : State) (b c o : Nat) : bytesOf (finishTst s b c o) = bytesOf s := by
  unfold finishTst
  repeat' split
  all_goals simp only [bytesOf_modCord]

/-! ### Operations of Scratch -/

@[simp] theorem bytesOf_setDesc (s : State) (b id : Nat) (e : BitVec 512) : bytesOf (setDesc s b id e) = bytesOf s := by
  unfold setDesc
  split <;> simp only [bytesOf_modCtx]

@[simp] theorem bytesOf_bowaitReturn (s : State) (u : Issue) (f : LForm) (off : Nat) :
    bytesOf (bowaitReturn s u f off) = bytesOf s := by
  unfold bowaitReturn
  dsimp only
  repeat' split
  all_goals simp only [bytesOf_dropClean, bytesOf_killBraid, bytesOf_modCord]

@[simp] theorem bytesOf_suspendCord (s : State) (b c : Nat) (w : SuspendWhy) :
    bytesOf (suspendCord s b c w) = bytesOf s := by
  unfold suspendCord
  simp only [bytesOf_modCord, bytesOf_swapOut]

@[simp] theorem bytesOf_handOver (s : State) (u : Issue) (f : LForm) (e : Engine) (lane off : Nat) :
    bytesOf (handOver s u f e lane off) = bytesOf s := by
  unfold handOver
  dsimp only
  split <;> simp only [bytesOf_addAccOp, bytesOf_modCord, bytesOf_modCore, bytesOf_suspendCord]

/-! ### Operations of Engines -/

@[simp] theorem bytesOf_engByte (s : State) (core b pa : Nat) : bytesOf (engByte s core b pa).2.2 = bytesOf s := by
  unfold engByte
  repeat' split
  all_goals simp only [bytesOf_homeRead, bytesOf_takeFree]

@[simp] theorem bytesOf_engBytes (s : State) (core b : Nat) (pas : List Nat) :
    bytesOf (engBytes s core b pas).2.2 = bytesOf s := by
  induction pas generalizing s with
  | nil => rfl
  | cons pa pas ih => exact (ih _).trans (bytesOf_engByte ..)

@[simp] theorem bytesOf_askEng (s : State) (core : Nat) (r : Request) (va : Nat) :
    bytesOf (askEng s core r va) = bytesOf s := by
  unfold askEng
  split <;> simp only [bytesOf_askWalk]

@[simp] theorem bytesOf_modPresence (s : State) (b n : Nat) (f : Nat → Nat) : bytesOf (modPresence s b n f) = bytesOf s :=
  bytesOf_modBlock (f := fun x => { x with presence := x.presence.modify n f }) (fun _ => rfl) s b

@[simp] theorem bytesOf_raiseLines (s : State) (ls : List (Nat × Nat)) : bytesOf (raiseLines s ls) = bytesOf s :=
  bytesOf_foldl (fun _ _ => bytesOf_modPresence ..) ls s

@[simp] theorem bytesOf_lowerLines (s : State) (ls : List (Nat × Nat)) : bytesOf (lowerLines s ls) = bytesOf s :=
  bytesOf_foldl (fun _ _ => bytesOf_modPresence ..) ls s

@[simp] theorem bytesOf_modReq (s : State) (core n : Nat) (f : Request → Request) :
    bytesOf (modReq s core n f) = bytesOf s := rfl

@[simp] theorem bytesOf_reportLate (s : State) (b c lane : Nat) (pc : DWord) (ret : Nat) (handler : Bool)
    (cause : Cause) (detail addr : Nat) : bytesOf (reportLate s b c lane pc ret handler cause detail addr) = bytesOf s := by
  unfold reportLate
  repeat' split
  all_goals simp only [bytesOf_failOfEnded, bytesOf_modCord]

@[simp] theorem bytesOf_reqLate (s : State) (r : Request) (cause : Cause) (detail : Nat) :
    bytesOf (reqLate s r cause detail) = bytesOf s := by
  unfold reqLate
  simp only [bytesOf_reportLate]

@[simp] theorem bytesOf_endReq (s : State) (core n : Nat) : bytesOf (endReq s core n) = bytesOf s := rfl

@[simp] theorem bytesOf_clearReqFlag (s : State) (r : Request) (held : Bool) :
    bytesOf (clearReqFlag s r held) = bytesOf s := by
  unfold clearReqFlag
  split <;> simp only [bytesOf_modCord, bytesOf_suspendCord]

@[simp] theorem bytesOf_finishReq (s : State) (core : Nat) (r : Request) : bytesOf (finishReq s core r) = bytesOf s := by
  unfold finishReq
  split <;> simp only [bytesOf_endReq, bytesOf_reqLate]

theorem bytesOf_unpoisoned {s : State} (r : Request) {k : State} (h :
    bytesOf k = bytesOf s) : bytesOf (unpoisoned s r k) = bytesOf s := by
  unfold unpoisoned
  split
  · exact bytesOf_killBraid ..
  · exact h

@[simp] theorem bytesOf_dropRead (s : State) (r : Request) : bytesOf (dropRead s r) = bytesOf s := by
  unfold dropRead
  simp only [bytesOf_modCord]

@[simp] theorem bytesOf_takeRequest (s : State) (core : Nat) (r : Request) (lines : List (Nat × Nat × Nat)) :
    bytesOf (takeRequest s core r lines) = bytesOf s := by
  unfold takeRequest
  simp only [bytesOf_clearReqFlag, bytesOf_dropRead, bytesOf_modReq, bytesOf_raiseLines]

@[simp] theorem bytesOf_gseTotal (s : State) (r : Request) : bytesOf (gseTotal s r).2 = bytesOf s := by
  unfold gseTotal
  split <;> simp only [bytesOf_takeFree]

@[simp] theorem bytesOf_collTotal (s : State) (r : Request) : bytesOf (collTotal s r).2 = bytesOf s := by
  unfold collTotal
  repeat' split
  all_goals simp only [bytesOf_takeFree]

@[simp] theorem bytesOf_countColl (s : State) (r : Request) : bytesOf (countColl s r).2 = bytesOf s := by
  unfold countColl
  dsimp only
  split
  · rfl
  · exact bytesOf_modBlock (f := fun x => { x with colls := tabPut x.colls _ _ }) (fun _ => rfl) s _

@[simp] theorem bytesOf_noteFailed (s : State) (r : Request) (err : Nat) : bytesOf (noteFailed s r err) = bytesOf s := rfl

@[simp] theorem bytesOf_combineRanks (s : State) (here : List (Nat × Nat × Request)) (w : CollWorld) (n : Nat) :
    bytesOf (combineRanks s here w n) = bytesOf s :=
  bytesOf_foldl (fun _ _ => bytesOf_modReq ..) here s

/-! ### Operations of Arrays -/

@[simp] theorem bytesOf_queueArr (s : State) (u : Issue) (o : ArrOp) : bytesOf (queueArr s u o) = bytesOf s := by
  unfold queueArr
  split <;> simp only [bytesOf_modCord, bytesOf_modCore, bytesOf_raiseLines, bytesOf_suspendCord]

@[simp] theorem bytesOf_queueDrain (s : State) (u : Issue) (f : LForm) (o : ArrOp) :
    bytesOf (queueDrain s u f o) = bytesOf s := by
  unfold queueDrain
  simp only [bytesOf_addOp, bytesOf_queueArr]

@[simp] theorem bytesOf_resumeCord (s : State) (b c : Nat) : bytesOf (resumeCord s b c) = bytesOf s := by
  unfold resumeCord
  split <;> simp only [bytesOf_modCord]

@[simp] theorem bytesOf_retireArr (s : State) (core : Nat) (o : ArrOp) : bytesOf (retireArr s core o) = bytesOf s := by
  unfold retireArr
  split <;> simp only [bytesOf_modCord, bytesOf_modCore, bytesOf_resumeCord]

@[simp] theorem bytesOf_poisonKill (s : State) (o : ArrOp) (p : Bool) : bytesOf (poisonKill s o p) = bytesOf s := by
  unfold poisonKill
  split <;> simp only [bytesOf_killBraid]

theorem bytesOf_readScales {s : State} {b core : Nat} {vas : List Nat} {xs : List FVal} {p : Bool} {t : State}
    (h : readScales s b core vas = .ok xs p t) : bytesOf t = bytesOf s := by
  induction vas generalizing s xs p with
  | nil =>
    cases h
    rfl
  | cons va vas ih =>
    unfold readScales at h
    split at h
    · cases h
    · split at h
      · cases h
      · cases h
      · cases h
      · dsimp only at h
        split at h
        next hr =>
          cases h
          exact (ih hr).trans (bytesOf_engBytes ..)
        next hno => exact (hno _ _ _ h).elim

@[simp] theorem bytesOf_arrLate (s : State) (o : ArrOp) (cause : Cause) (detail addr : Nat) :
    bytesOf (arrLate s o cause detail addr) = bytesOf s := by
  unfold arrLate
  simp only [bytesOf_reportLate]

@[simp] theorem bytesOf_askArr (s : State) (core : Nat) (o : ArrOp) (va : Nat) :
    bytesOf (askArr s core o va) = bytesOf s := by
  unfold askArr
  dsimp only
  split <;> simp only [bytesOf_askWalk]

@[simp] theorem bytesOf_performMma (s : State) (core : Nat) (o : ArrOp) : bytesOf (performMma s core o) = bytesOf s := by
  have htiles (l : List (Nat × Nat)) (g : Nat × Nat → CoreSt → CoreSt) (t : State) :
      bytesOf (l.foldl (fun t e => modCore t e.1 (g e)) t) = bytesOf t :=
    bytesOf_foldl (fun t e => bytesOf_modCore t e.1 (g e)) l t
  unfold performMma
  dsimp only
  generalize ((if o.aRegs.isSome = true then [] else rowLines s o.block o.a 64 (opndRows (halvesOf o.fol) 32))
    ++ if o.bRegs.isSome = true then [] else rowLines s o.block o.b 64 (bRows o.bRegs.isSome (halvesOf o.fol))) = lines
  split
  · rw [bytesOf_retireArr, bytesOf_arrLate]
  · split
    · rfl
    · split
      · exact bytesOf_askArr ..
      · rfl
      · rw [bytesOf_retireArr, bytesOf_arrLate]
      next hr =>
        rw [bytesOf_poisonKill, bytesOf_retireArr]
        split
        · rw [bytesOf_arrLate, htiles, bytesOf_readScales hr]
        · rw [htiles, bytesOf_readScales hr]

@[simp] theorem bytesOf_drainRegs (s : State) (o : ArrOp) (ws : List RegW) : bytesOf (drainRegs s o ws) = bytesOf s := by
  unfold drainRegs
  split <;> simp only [bytesOf_finishOp, bytesOf_modCord]

@[simp] theorem bytesOf_raiseDue (s : State) (core : Nat) (o : ArrOp) : bytesOf (raiseDue s core o) = bytesOf s := by
  unfold raiseDue
  simp only [bytesOf_modCore, bytesOf_raiseLines]

@[simp] theorem bytesOf_resumeRequest (s : State) (core n : Nat) : bytesOf (resumeRequest s core n) = bytesOf s := by
  unfold resumeRequest
  repeat' split
  all_goals simp only [bytesOf_modCord, bytesOf_modCore, bytesOf_resumeCord]

/-! ### Operations of Barriers -/

@[simp] theorem bytesOf_arriveWide (s : State) (u : Issue) (f : LForm) (park : Nat → Bool → Park) :
    bytesOf (arriveWide s u f park) = bytesOf s := by
  unfold arriveWide
  simp only [bytesOf_modCord]

@[simp] theorem bytesOf_departAll (s : State) (bs : List Nat) (at_ : Park → Bool) :
    bytesOf (departAll s bs at_) = bytesOf s := by
  unfold departAll
  dsimp only
  rw [bytesOf_foldl, bytesOf_foldl]
  · exact fun s i => bytesOf_modBlock (by intro y; rfl) s i
  · intro s core
    rw [bytesOf_coreBoundary, bytesOf_countPhase, bytesOf_dropClean]

@[simp] theorem bytesOf_releaseGbar (s : State) (g : Nat) : bytesOf (releaseGbar s g) = bytesOf s := by
  unfold releaseGbar
  simp only [bytesOf_departAll, bytesOf_modGrid]

@[simp] theorem bytesOf_modQueue (s : State) (part q : Nat) (f : List Nat → List Nat) :
    bytesOf (modQueue s part q f) = bytesOf s := rfl

@[simp] theorem bytesOf_newHandle (s : State) (b : Nat) : bytesOf (newHandle s b).2 = bytesOf s := by
  unfold newHandle
  split <;> simp only [bytesOf_takeFree]

@[simp] theorem bytesOf_giveHandle (s : State) (b c : Nat) (f : LForm) (grid : Option Nat) (status : Nat) :
    bytesOf (giveHandle s b c f grid status).2 = bytesOf s := by
  unfold giveHandle
  dsimp only
  rw [bytesOf_modCord, bytesOf_modBlock, bytesOf_newHandle]
  exact fun _ => rfl

@[simp] theorem bytesOf_takeAnswer (s : State) (u : Issue) (f : LForm) (lanes : List Nat) (r : Nat × List Nat) :
    bytesOf (takeAnswer s u f lanes r) = bytesOf s := by
  have hs (t : State) (g : List Handle → List Handle) :
      bytesOf (modBlock t u.b (fun x => { x with handles := g x.handles })) = bytesOf t := bytesOf_modBlock (by intro y; rfl) t u.b
  unfold takeAnswer
  dsimp only
  split
  · rw [bytesOf_passBoundary, bytesOf_countPhase, bytesOf_modCord, hs]
  · rw [bytesOf_modCord, hs]

/-! ### Operations of Homes -/

@[simp] theorem bytesOf_writeBack (s : State) (core line : Nat) : bytesOf (writeBack s core line) = bytesOf s :=
  bytesOf_foldl (fun s b => bytesOf_publishLine s core line b) _ s

/-! ### Operations of Faults -/

@[simp] theorem bytesOf_dropWalk (s : State) (core : Nat) (w : WalkReq) : bytesOf (dropWalk s core w) = bytesOf s := rfl

@[simp] theorem bytesOf_readyAccs (s : State) (b c core o : Nat) (parked : Option Nat) :
    bytesOf (readyAccs s b c core o parked) = bytesOf s := by
  unfold readyAccs
  split
  · rfl
  · dsimp only
    split
    · rw [bytesOf_foldl fun s w => bytesOf_askWalk s core w, bytesOf_modCord]
    · rw [bytesOf_modCord]

@[simp] theorem bytesOf_freeFault (s : State) (die i : Nat) : bytesOf (freeFault s die i) = bytesOf s := rfl

@[simp] theorem bytesOf_parkAccs (s : State) (w : WalkSrc) (i : Nat) : bytesOf (parkAccs s w i) = bytesOf s := by
  unfold parkAccs
  split <;> simp only [bytesOf_modCord]

@[simp] theorem bytesOf_dropPref (s : State) (w : WalkSrc) : bytesOf (dropPref s w) = bytesOf s := by
  unfold dropPref
  split <;> simp only [bytesOf_finishOp, bytesOf_modCord]

@[simp] theorem bytesOf_walkFault (s : State) (w : WalkReq) (cause : Nat) : bytesOf (walkFault s w cause) = bytesOf s := by
  unfold walkFault
  dsimp only
  repeat' split
  all_goals simp only [bytesOf_dropPref, bytesOf_modDie, bytesOf_parkAccs]

@[simp] theorem bytesOf_refuseSubmit (s : State) (part ctx code : Nat) :
    bytesOf (refuseSubmit s part ctx code) = bytesOf s := rfl

@[simp] theorem bytesOf_dropSubmit (s : State) (part ctx va : Nat) : bytesOf (dropSubmit s part ctx va) = bytesOf s := rfl

@[simp] theorem bytesOf_dropSubmits (s : State) (part ctx va : Nat) : bytesOf (dropSubmits s part ctx va) = bytesOf s := rfl

@[simp] theorem bytesOf_askSubmit (s : State) (part ctx va : Nat) : bytesOf (askSubmit s part ctx va) = bytesOf s := rfl

@[simp] theorem bytesOf_rejectAcc (s : State) (b c core : Nat) (o : Op) (k cause : Nat) :
    bytesOf (rejectAcc s b c core o k cause) = bytesOf s := by
  unfold rejectAcc
  repeat' split
  all_goals simp only [bytesOf_modCord, bytesOf_modCore, bytesOf_tstDone]

@[simp] theorem bytesOf_closeOp (s : State) (b c o : Nat) : bytesOf (closeOp s b c o) = bytesOf s := by
  unfold closeOp
  split <;> simp only [bytesOf_cvtscReady, bytesOf_finishOp, bytesOf_finishTst]

@[simp] theorem bytesOf_dropFetches (s : State) (core b c : Nat) : bytesOf (dropFetches s core b c) = bytesOf s := rfl

@[simp] theorem bytesOf_toggleCached (s : State) (die i : Nat) : bytesOf (toggleCached s die i) = bytesOf s := rfl

@[simp] theorem bytesOf_slotWrite (s : State) (die k : Nat) (new : CtxSlot) :
    bytesOf (slotWrite s die k new) = bytesOf s := by
  unfold slotWrite
  dsimp only
  repeat' split
  all_goals simp only [bytesOf_modDie]

/-! ### Operations of Grids -/

@[simp] theorem bytesOf_abortTests (s : State) (g : Grid) : bytesOf (abortTests s g) = bytesOf s := by
  unfold abortTests
  split
  · exact bytesOf_foldl (fun s c => bytesOf_modCore ..) _ _
  · rfl

@[simp] theorem bytesOf_unqueue (s : State) (g : Nat) : bytesOf (unqueue s g) = bytesOf s := by
  unfold unqueue
  split <;> simp only [bytesOf_modQueue]

@[simp] theorem bytesOf_leaveQueue (s : State) (gi : Nat) : bytesOf (leaveQueue s gi) = bytesOf s := by
  unfold leaveQueue
  repeat' split
  all_goals simp only [bytesOf_modGrid, bytesOf_unqueue]

@[simp] theorem bytesOf_serveQueue (s : State) (g : Grid) : bytesOf (serveQueue s g) = bytesOf s := rfl

@[simp] theorem bytesOf_retireBraid (s : State) (x : BraidId) : bytesOf (retireBraid s x) = bytesOf s := by
  unfold retireBraid
  rw [bytesOf_modGrid, bytesOf_modBraid, bytesOf_foldl fun s c => bytesOf_freeCell ..]

@[simp] theorem bytesOf_dropBytes (s : State) (core : Nat) (pas : List Nat) :
    bytesOf (dropBytes s core pas) = bytesOf s := rfl

@[simp] theorem bytesOf_publishBraid (s : State) (x : BraidId) : bytesOf (publishBraid s x) = bytesOf s :=
  bytesOf_foldl (fun s c => bytesOf_publishAll s c) _ s

/-! ### Operations of Fetch -/

@[simp] theorem bytesOf_askFetch (s : State) (b c core : Nat) (lanes : List Nat) (pc : DWord) (va : Nat) :
    bytesOf (askFetch s b c core lanes pc va) = bytesOf s := rfl

/-! ### Operations of System -/

@[simp] theorem bytesOf_physRead (s : State) (pa n : Nat) : bytesOf (physRead s pa n).2 = bytesOf s := by
  unfold physRead
  split <;> simp only [bytesOf_foreignRead, bytesOf_freeBytes]

/-! ### Operations of Traps -/

@[simp] theorem bytesOf_closeCell (s : State) (b c : Nat) (x : Cell) : bytesOf (closeCell s b c x) = bytesOf s := by
  unfold closeCell
  dsimp only
  split <;> simp only [bytesOf_base, bytesOf_freeCell]

@[simp] theorem bytesOf_closeCells (s : State) (b c : Nat) : bytesOf (closeCells s b c) = bytesOf s :=
  bytesOf_foldl (fun s x => bytesOf_closeCell s b c x) _ s

@[simp] theorem bytesOf_raiseEnd (s : State) (b c : Nat) (x : Cord) (e : Ending) (r : TrapRec) :
    bytesOf (raiseEnd s b c x e r) = bytesOf s := by
  unfold raiseEnd
  repeat' split
  all_goals simp only [bytesOf_fatal, bytesOf_queueRec]

@[simp] theorem bytesOf_abandon (s : State) (b c : Nat) (x : Cord) (g : Region) (r : TrapRec) (reason : Nat) :
    bytesOf (abandon s b c x g r reason) = bytesOf s := by
  unfold abandon
  split <;> simp only [bytesOf_closeCells, bytesOf_fatal, bytesOf_modCord, bytesOf_queueRec]

@[simp] theorem bytesOf_lookAt (s : State) (b c core l : Nat) (x : Cord) (z : SlowGear) :
    bytesOf (lookAt s b c core l x z) = bytesOf s := by
  unfold lookAt
  split <;> simp only [bytesOf_askFetch, bytesOf_modCord]

@[simp] theorem bytesOf_corrected (s : State) (b c side lane : Nat) (x : Cord) :
    bytesOf (corrected s b c side lane x) = bytesOf s := by
  unfold corrected
  split <;> simp only [bytesOf_modCord, bytesOf_queueRec, bytesOf_takeFree]

@[simp] theorem bytesOf_dropFaults (s : State) (p : Nat → Bool) : bytesOf (dropFaults s p) = bytesOf s := rfl

@[simp] theorem bytesOf_killObserver (g : Grid) (s : State) (y : BraidId) : bytesOf (killObserver g s y) = bytesOf s := by
  unfold killObserver
  repeat' split
  all_goals simp only [bytesOf_fatalOf, bytesOf_modBraid]

@[simp] theorem bytesOf_dropStores (s : State) (bs : List Nat) : bytesOf (dropStores s bs) = bytesOf s := by
  refine bytesOf_foldl (fun s b => ?_) bs s
  split
  · exact bytesOf_modCore ..
  · rfl

/-! ### Operations of Contexts -/

@[simp] theorem bytesOf_tick (s : State) : bytesOf (tick s).2 = bytesOf s := rfl

@[simp] theorem bytesOf_logEvent (s : State) (kind subject detail : Nat) :
    bytesOf (logEvent s kind subject detail) = bytesOf s := by
  have hpush (m : Mgmt) (e : Event) : (m.push e).mbbuf = m.mbbuf ∧ (m.push e).staging = m.staging := by
    unfold Mgmt.push
    split <;> exact ⟨rfl, rfl⟩
  refine Eq.trans ?_ (bytesOf_tick s)
  simp only [logEvent, bytesOf, hpush]

@[simp] theorem bytesOf_fatalCtx (s : State) (part ctx status : Nat) :
    bytesOf (fatalCtx s part ctx status) = bytesOf s := rfl

@[simp] theorem bytesOf_forgetSteps (s : State) (part ctx : Nat) : bytesOf (forgetSteps s part ctx) = bytesOf s := rfl

@[simp] theorem bytesOf_releaseSlots (s : State) (part ctx : Nat) : bytesOf (releaseSlots s part ctx) = bytesOf s := rfl

@[simp] theorem bytesOf_lifeFrom (s : State) (part ctx : Nat) (a b : CtxLife) :
    bytesOf (lifeFrom s part ctx a b) = bytesOf s := rfl

@[simp] theorem bytesOf_keepStaged (s : State) (part ctx : Nat) : bytesOf (keepStaged s part ctx) = bytesOf s := rfl

@[simp] theorem bytesOf_dropWaiting (s : State) (part ctx : Nat) : bytesOf (dropWaiting s part ctx) = bytesOf s := rfl

/-! ### Operations of Mgmt -/

@[simp] theorem bytesOf_setStage (s : State) (stage err : Nat) : bytesOf (setStage s stage err) = bytesOf s := rfl

@[simp] theorem bytesOf_configure (s : State) (p : Nat) : bytesOf (configure s p) = bytesOf s := by
  unfold configure
  split <;> simp only [bytesOf_modPart]

@[simp] theorem bytesOf_keepMaps (s : State) (core : Nat) : bytesOf (keepMaps s core) = bytesOf s := rfl

@[simp] theorem bytesOf_keepCluster (s : State) (c : Nat) : bytesOf (keepCluster s c) = bytesOf s :=
  bytesOf_foldl (fun s i => bytesOf_keepMaps s (4 * c + i)) _ s

@[simp] theorem bytesOf_carryCluster (s : State) (c p : Nat) : bytesOf (carryCluster s c p) = bytesOf s :=
  bytesOf_foldl (fun _ _ => bytesOf_setCore ..) _ s

@[simp] theorem bytesOf_markBad (s : State) (p : Nat) : bytesOf (markBad s p) = bytesOf s := rfl

@[simp] theorem bytesOf_moveToSpare (s : State) (c p : Nat) : bytesOf (moveToSpare s c p) = bytesOf s := by
  rw [moveToSpare, bytesOf_carryCluster, bytesOf_markBad, bytesOf_keepCluster]

@[simp] theorem bytesOf_replaceCluster (s : State) (c : Nat) : bytesOf (replaceCluster s c) = bytesOf s := by
  unfold replaceCluster
  repeat' split
  all_goals simp only [bytesOf_logEvent, bytesOf_moveToSpare]

@[simp] theorem bytesOf_restart (s : State) : bytesOf (restart s) = bytesOf s := by
  unfold restart
  split
  · rw [bytesOf_setStage, bytesOf_modMgmt]
    exact fun _ => ⟨rfl, rfl⟩
  · rfl

@[simp] theorem bytesOf_fluidSubmit (s : State) : bytesOf (fluidSubmit s) = bytesOf s := by
  unfold fluidSubmit
  dsimp only
  split
  · exact bytesOf_modMgmt (by intro m; exact ⟨rfl, rfl⟩) s
  · rw [bytesOf_logEvent, bytesOf_modMgmt]
    exact fun _ => ⟨rfl, rfl⟩

@[simp] theorem bytesOf_fluidWithdraw (s : State) : bytesOf (fluidWithdraw s) = bytesOf s := rfl

@[simp] theorem bytesOf_clearTrip (s : State) : bytesOf (clearTrip s) = bytesOf s := rfl

@[simp] theorem bytesOf_fluidWrite (s : State) (off : Nat) (v : DWord) : bytesOf (fluidWrite s off v) = bytesOf s := by
  unfold fluidWrite
  split
  · exact bytesOf_modMgmt (by intro m; exact ⟨rfl, rfl⟩) s
  · split
    · split
      · exact bytesOf_fluidSubmit s
      · exact bytesOf_fluidWithdraw s
    · split
      · exact bytesOf_modMgmt (by intro m; exact ⟨rfl, rfl⟩) s
      · rfl

@[simp] theorem bytesOf_slotHalf (s : State) (die off : Nat) (v : DWord) : bytesOf (slotHalf s die off v) = bytesOf s := by
  unfold slotHalf
  simp only [bytesOf_slotWrite]

/-! ### Operations of Links -/

@[simp] theorem bytesOf_askRing (s : State) (part r va : Nat) : bytesOf (askRing s part r va) = bytesOf s := by
  unfold askRing
  dsimp only
  split <;> simp only [bytesOf_askWalk]

@[simp] theorem bytesOf_ringRead (s : State) (part r : Nat) (vas : List Nat) :
    bytesOf (ringRead s part r vas).2 = bytesOf s := by
  induction vas generalizing s with
  | nil => rfl
  | cons va vas ih =>
    refine (ih _).trans ?_
    split
    · split
      · exact bytesOf_foreignRead ..
      · exact bytesOf_freeBytes ..
    · rfl

@[simp] theorem bytesOf_modRing (s : State) (part r : Nat) (f : Ring → Ring) :
    bytesOf (modRing s part r f) = bytesOf s := rfl

@[simp] theorem bytesOf_putBack (s : State) (part r : Nat) (w : RingWorld) : bytesOf (putBack s part r w) = bytesOf s := rfl

@[simp] theorem bytesOf_finishLater (s : State) (part r va : Nat) (w : RingWorld) :
    bytesOf (finishLater s part r va w) = bytesOf s := by
  unfold finishLater
  simp only [bytesOf_askRing, bytesOf_putBack]

@[simp] theorem bytesOf_modPort (s : State) (n : Nat) (f : Port → Port) : bytesOf (modPort s n f) = bytesOf s := rfl

@[simp] theorem bytesOf_portSecond (s : State) (port corrected flits : Nat) :
    bytesOf (portSecond s port corrected flits) = bytesOf s := rfl

/-! ### Operations of Power -/

@[simp] theorem bytesOf_takeMap (s : State) (ms : List (Nat × Nat)) : bytesOf (takeMap s ms) = bytesOf s := by
  unfold takeMap
  split
  · rw [bytesOf_foldl, bytesOf_foldl]
    · exact fun s e => bytesOf_keepCluster s e.1
    · exact fun s e => bytesOf_carryCluster s e.1 e.2
  · rfl

@[simp] theorem bytesOf_avoidFailed (s : State) (c : Nat) : bytesOf (avoidFailed s c) = bytesOf s := by
  unfold avoidFailed
  repeat' split
  all_goals simp only [bytesOf_moveToSpare]

@[simp] theorem bytesOf_buildMap (s : State) (w : StartupWorld) : bytesOf (buildMap s w) = bytesOf s := by
  rw [buildMap, bytesOf_foldl bytesOf_avoidFailed, bytesOf_takeMap, bytesOf_foldl bytesOf_markBad]

@[simp] theorem bytesOf_configureAll (s : State) : bytesOf (configureAll s) = bytesOf s :=
  bytesOf_foldl (fun s p => bytesOf_configure s p) _ s

@[simp] theorem bytesOf_startPartitions (s : State) : bytesOf (startPartitions s) = bytesOf s :=
  (bytesOf_base ..).trans (bytesOf_configureAll s)

@[simp] theorem bytesOf_capDie (s : State) (die : Nat) : bytesOf (capDie s die) = bytesOf s := rfl

@[simp] theorem bytesOf_overcap (s : State) (die : Nat) : bytesOf (overcap s die) = bytesOf s := by
  unfold overcap
  dsimp only
  split <;> simp only [bytesOf_logEvent, bytesOf_modDie]

theorem bytesOf_awlFailed (s : State) (core : Nat) {second : State → State} (h : ∀ s, bytesOf (second s) = bytesOf s) :
    bytesOf (awlFailed s core second) = bytesOf s := by
  unfold awlFailed
  split
  · exact bytesOf_modCore ..
  · exact (h _).trans (bytesOf_modCore ..)

/-! ### Operations of Issue -/

@[simp] theorem bytesOf_select (s : State) (x : Sel) (start : Bool) : bytesOf (select s x start) = bytesOf s := by
  unfold select
  split <;> simp only [bytesOf_base, bytesOf_modCord]

/-! ### Operations of Schedule -/

@[simp] theorem bytesOf_tookTurn (s : State) (core side slot : Nat) : bytesOf (tookTurn s core side slot) = bytesOf s := rfl

@[simp] theorem bytesOf_afterIssue (s : State) (b c : Nat) (lanes : List Nat) :
    bytesOf (afterIssue s b c lanes) = bytesOf s := by
  unfold afterIssue
  dsimp only
  split <;> simp only [bytesOf_modCord, bytesOf_swapOut]

@[simp] theorem bytesOf_endTurn (s t : State) (b c core : Nat) (x : Sel) :
    bytesOf (endTurn s t b c core x) = bytesOf t := by
  unfold endTurn
  split
  · split
    · rw [bytesOf_tookTurn, bytesOf_afterIssue]
    · rw [bytesOf_afterIssue]
  · rw [bytesOf_afterIssue]

end Sys2Proof.Machine
end

/-! ## Where stores go -/

section
open Sys2Proof Sys2Proof.Machine

namespace Sys2Proof.Machine

/-! ### Memory and the other cores -/

/-- Memory and every core but one are as they were. -/
structure Beside (core : Nat) (s t : State) : Prop where
  mem : t.mem = s.mem
  cores : ∀ k, k ≠ core → coreOf t k = coreOf s k

namespace Beside

variable {core : Nat} {s t r : State}

/-- Nothing has changed. -/
theorem refl (core : Nat) (s : State) : Beside core s s := ⟨rfl, fun _ _ => rfl⟩

/-- One change after another. -/
theorem trans (h : Beside core s t) (h' : Beside core t r) : Beside core s r :=
  ⟨h'.mem.trans h.mem, fun k hk => (h'.cores k hk).trans (h.cores k hk)⟩

/-- A change of neither memory nor a core. -/
theorem of_eq (hm : t.mem = s.mem) (hc : t.cores = s.cores) : Beside core s t :=
  ⟨hm, fun k _ => by rw [coreOf, coreOf, hc]⟩

/-- What every step of a fold leaves. -/
theorem foldl {α : Type} {f : State → α → State} (h : ∀ s a, Beside core s (f s a)) (l : List α) (s : State) :
    Beside core s (l.foldl f s) := by
  induction l generalizing s with
  | nil => exact refl core s
  | cons a l ih => exact (h s a).trans (ih _)

/-- The core itself changes. -/
theorem modCore (s : State) (core : Nat) (f : CoreSt → CoreSt) : Beside core s (modCore s core f) :=
  ⟨rfl, fun _ hk => coreOf_modCore_other s f hk⟩

/-- The core itself is replaced. -/
theorem setCore (s : State) (core : Nat) (x : CoreSt) : Beside core s (setCore s core x) :=
  ⟨rfl, fun _ hk => coreOf_modCore_other s (fun _ => x) hk⟩

/-- The record of a braid changes. -/
theorem modBraid (s : State) (x : BraidId) (f : Braid → Braid) : Beside core s (modBraid s x f) := of_eq rfl rfl

/-- A cord changes. -/
theorem modCord (s : State) (b c : Nat) (f : Cord → Cord) : Beside core s (modCord s b c f) := of_eq rfl rfl

/-- A line goes home. -/
theorem publishLine (s : State) (core line block : Nat) : Beside core s (publishLine s core line block) := by
  unfold Machine.publishLine
  dsimp only
  split
  · exact refl core s
  · exact setCore ..

/-- What is released at braid scope stays beside the core. -/
theorem shareStaged (s : State) (core : Nat) : Beside core s (shareStaged s core) := by
  unfold Machine.shareStaged
  refine (setCore s core _).trans (foldl ?_ _ _)
  exact fun s e => modBraid ..

/-- Bytes of other braids make place. -/
theorem displace (s : State) (core block pa : Nat) : Beside core s (displace s core block pa) := by
  unfold Machine.displace
  split
  · exact refl core s
  · split
    · exact refl core s
    · split
      · exact publishLine ..
      · exact (modCore ..).trans (modBraid ..)

/-- Bytes merged into the core's lines. -/
theorem mergeBytes (s : State) (core block seq : Nat) (es : List (Nat × Byte)) (p : Bool) :
    Beside core s (mergeBytes s core block seq es p) := by
  refine foldl ?_ es s
  exact fun s e => (displace s core block e.1).trans (modCore ..)

/-- Late bytes follow the release. -/
theorem followRelease (s : State) (core block seq : Nat) (pas : List Nat) :
    Beside core s (followRelease s core block seq pas) := by
  unfold Machine.followRelease
  split
  · split
    · exact foldl (fun s l => publishLine s core l block) _ _
    · exact shareStaged s core
  · exact refl core s

/-- Bytes written into windows. -/
theorem windowBytes (s : State) (b : Nat) (es : List (Nat × Byte)) : Beside core s (windowBytes s b es) := by
  refine foldl (fun s e => ?_) es s
  split
  · exact of_eq rfl rfl
  · exact refl core s

/-- Bytes sent to their owner. -/
theorem sendBytes (s : State) (a : Acc) (es : List (Nat × Byte)) : Beside core s (sendBytes s a es) := by
  unfold Machine.sendBytes
  split
  · exact of_eq rfl rfl
  · refine foldl ?_ es s
    exact fun s e => of_eq rfl rfl

/-- A braid that may not be relaunched any more. -/
theorem unrelaunch (s : State) (x : BraidId) : Beside core s (unrelaunch s x) := by
  unfold Machine.unrelaunch
  split
  · refine (modBraid ..).trans (foldl ?_ _ _)
    exact fun s c => of_eq rfl rfl
  · exact refl core s

/-- A store that was performed without a cell. -/
theorem markUncovered (s : State) (b c : Nat) (o : Op) : Beside core s (markUncovered s b c o) := by
  unfold Machine.markUncovered
  split
  · exact of_eq rfl rfl
  · exact refl core s

/-- A rejected store. -/
theorem rejectStore (s : State) (b c n : Nat) (o : Op) (a : Acc) (tent : Bool) (d : Nat) :
    Beside core s (rejectStore s b c n o a tent d) := by
  unfold Machine.rejectStore
  split
  · unfold orphanStore
    dsimp only
    split <;> exact of_eq rfl rfl
  · unfold reportProt
    split
    · exact refl core s
    · exact of_eq rfl rfl

/-- An access of a plain store. -/
theorem storeOne (tent : Bool) (s : State) (b c core : Nat) (o : Op) (i : Nat) :
    Beside core s (storeOne tent s b c core o i) := by
  have hdone (t : State) (st : AccState) : Beside core t (Machine.modCord t b c (fun x => modOp x o.id (fun p => setAcc p i st))) :=
    of_eq rfl rfl
  unfold Machine.storeOne
  split
  · exact refl core s
  · split
    · exact refl core s
    · dsimp only
      split
      · split
        · exact (windowBytes s b _).trans (hdone _ _)
        · exact refl core s
      · split
        · split
          · exact refl core s
          · exact ((mergeBytes ..).trans (followRelease ..)).trans (hdone _ _)
        · split
          · exact (((of_eq rfl rfl : Beside core s (ringWrite s _ _)).trans (hdone _ _)).trans (markUncovered ..)).trans (unrelaunch ..)
          · exact refl core s
        · split
          · exact (((sendBytes ..).trans (hdone _ _)).trans (markUncovered ..)).trans (unrelaunch ..)
          · exact refl core s
        · exact refl core s
        · split
          · exact hdone _ _
          · exact (hdone _ _).trans (rejectStore ..)

/-- The accesses of an operation in order. -/
theorem eachAcc (s : State) (b c o : Nat) {f : State → Op → Nat → State} (h : ∀ s op i, Beside core s (f s op i)) :
    Beside core s (eachAcc s b c o f) := by
  unfold Machine.eachAcc
  split
  · exact refl core s
  · refine foldl (fun s i => ?_) _ _
    split
    · exact h ..
    · exact refl core s

/-- An operation that is over. -/
theorem finishOp (s : State) (b c o : Nat) : Beside core s (finishOp s b c o) := by
  unfold Machine.finishOp
  split
  · exact refl core s
  · split
    · exact refl core s
    · exact of_eq rfl rfl

/-- What can be performed of a plain store. -/
theorem performStore (s : State) (b c core o : Nat) : Beside core s (performStore s b c core o) := by
  unfold Machine.performStore
  split
  · exact (eachAcc s b c o (fun s op i => storeOne _ s b c core op i)).trans (finishOp ..)
  · exact refl core s

/-- The stores of a block that can be performed at once. -/
theorem settle {x : Block} (s : State) {b : Nat} (h : s.blocks[b]? = some x) : Beside x.core s (settle s b) := by
  unfold Machine.settle
  simp only [h]
  split
  · refine foldl (fun s c => ?_) _ _
    unfold settleCord
    split
    · exact refl x.core s
    · refine foldl ?_ _ _
      exact fun s o => performStore s b c x.core o.id
  · exact refl x.core s

end Beside

/-! ### Issue -/

/-- No byte store and no byte of a core that its home may not have seen has changed. -/
structure Unwritten (s t : State) : Prop where
  bytes : bytesOf t = bytesOf s
  own : ∀ k a, ownByte (coreOf t k) a = ownByte (coreOf s k) a

namespace Unwritten

variable {s t r : State}

/-- Nothing has changed. -/
theorem refl (s : State) : Unwritten s s := ⟨rfl, fun _ _ => rfl⟩

/-- One change after another. -/
theorem trans (h : Unwritten s t) (h' : Unwritten t r) : Unwritten s r :=
  ⟨h'.bytes.trans h.bytes, fun k a => (h'.own k a).trans (h.own k a)⟩

/-- A change of no core. -/
theorem of_cores (hb : bytesOf t = bytesOf s) (hc : t.cores = s.cores) : Unwritten s t :=
  ⟨hb, fun k _ => by rw [coreOf, coreOf, hc]⟩

/-- A change of a cord. -/
theorem modCord (s : State) (b c : Nat) (f : Cord → Cord) : Unwritten s (modCord s b c f) := of_cores (bytesOf_modCord ..) rfl

/-- A change of a core in what it has not stored. -/
theorem modCore (s : State) (core : Nat) {f : CoreSt → CoreSt} (h : ∀ k, (f k).dirty = k.dirty ∧ (f k).outbound = k.outbound) :
    Unwritten s (modCore s core f) := by
  refine ⟨rfl, fun k a => ?_⟩
  by_cases hk : k = core
  · subst hk
    rw [coreOf_modCore_same]
    exact ownByte_congr (by rw [(h _).1]) (by rw [(h _).2])
  · rw [coreOf_modCore_other s f hk]

/-- A cord leaves its active slot. -/
theorem swapOut (s : State) (b c : Nat) : Unwritten s (swapOut s b c) := by
  unfold Machine.swapOut
  split
  · split
    · exact refl s
    · exact (modCord ..).trans (modCore _ _ fun _ => ⟨rfl, rfl⟩)
  · exact refl s

/-- A precise trap. -/
theorem trapAt (s : State) (u : Issue) (k : Cause) (ls : List Nat) (d a : Nat) : Unwritten s (trapAt s u k ls d a) := by
  refine ⟨bytesOf_trapAt .., fun n x => ?_⟩
  obtain ⟨⟨-, -, -, -, -, hc, -⟩, -⟩ := keepsAround_trapAt (vs := []) (ss := []) (ps := []) s u k ls d a
  rw [coreOf, coreOf, hc]

/-- A region that is to end. -/
theorem markEnding (s : State) (u : Issue) : Unwritten s (markEnding s u) := modCord ..

end Unwritten

/-- The walks that are asked for stand with the dies. -/
theorem foldl_askWalk (core : Nat) (ws : List WalkReq) (s : State) :
    ∃ d, ws.foldl (fun s w => askWalk s core w) s = { s with dies := d } := by
  induction ws generalizing s with
  | nil => exact ⟨s.dies, rfl⟩
  | cons w ws ih =>
    obtain ⟨d, h⟩ := ih (askWalk s core w)
    exact ⟨d, h⟩

/-- An operation with accesses is taken as any operation is, but for its walks. -/
theorem addAccOp_eq (s : State) (u : Issue) (o : Op) : ∃ d, addAccOp s u o
    = { addOp s u { o with accs := o.accs.map (startAcc s u.b u.blk.core o.kind) } with dies := d } := by
  unfold addAccOp
  dsimp only
  split
  · exact ⟨_, rfl⟩
  · exact foldl_askWalk ..

/-- An operation that is taken writes nothing. -/
theorem Unwritten.addAccOp (s : State) (u : Issue) (o : Op) : Unwritten s (addAccOp s u o) := by
  obtain ⟨d, h⟩ := addAccOp_eq s u o
  rw [h]
  refine .trans (t := addOp s u { o with accs := o.accs.map (startAcc s u.b u.blk.core o.kind) }) ?_ (.of_cores rfl rfl)
  exact (Unwritten.modCord ..).trans (.modCore _ _ fun _ => ⟨rfl, rfl⟩)

/-- What ST, STC and STX do at issue. -/
def StoreAct (u : Issue) (a : Act) : Prop :=
  (∃ k ls d x, a = .trap k ls d x) ∨ a = awaitTicket u ∨ (∃ ls, a = awaitLines u ls) ∨ a = .go [] [] (fun t => t)
    ∨ ∃ dws o, a = .go [] dws (fun t => settle (addAccOp t u o) u.b)

/-- The checks of global addresses come first. -/
theorem storeAct_checkGlobal {u : Issue} {k : Act} (h : StoreAct u k) (eas : List (Nat × Nat)) (canon : Bool) (n : Nat) :
    StoreAct u (checkGlobal eas canon n k) := by
  unfold checkGlobal
  dsimp only
  split
  · exact .inl ⟨_, _, _, _, rfl⟩
  · split
    · exact .inl ⟨_, _, _, _, rfl⟩
    · exact h

/-- The checks of scratchpad addresses come first. -/
theorem storeAct_checkLocal {s : State} {u : Issue} {f : LForm} {k : List (Nat × Nat × Nat) → Act} (h : ∀ ps, StoreAct u (k ps)) :
    StoreAct u (checkLocal s u f k) := by
  unfold checkLocal
  dsimp only
  split
  · exact .inl ⟨_, _, _, _, rfl⟩
  · split
    · exact .inl ⟨_, _, _, _, rfl⟩
    · split
      · exact .inl ⟨_, _, _, _, rfl⟩
      · exact h _

/-- The stores at issue. -/
theorem stores_act (f : LForm) (s : State) : ∀ i ∈ [Instr.st f, .stc f, .stx f],
    ∃ body, exec i s = issue i body s ∧ ∀ u, StoreAct u (body u s) := by
  simp only [List.forall_mem_cons]
  refine ⟨⟨_, (show execSt f s = _ from rfl), fun u => storeAct_checkGlobal ?_ _ _ _⟩,
    ⟨_, (show execStc f s = _ from rfl), fun u => storeAct_checkLocal fun ps => ?_⟩,
    ⟨_, (show execStx f s = _ from rfl), fun u => storeAct_checkGlobal ?_ _ _ _⟩, by simp⟩
  · split
    · exact .inr (.inr (.inr (.inl rfl)))
    · split
      · exact .inr (.inl rfl)
      · exact .inr (.inr (.inr (.inr ⟨_, _, rfl⟩)))
  · split
    · exact .inr (.inr (.inr (.inl rfl)))
    · split
      · exact .inr (.inr (.inl ⟨_, rfl⟩))
      · exact .inr (.inr (.inr (.inr ⟨_, _, rfl⟩)))
  · split
    · exact .inr (.inr (.inr (.inl rfl)))
    · split
      · exact .inr (.inr (.inl ⟨_, rfl⟩))
      · exact .inr (.inr (.inr (.inr ⟨_, _, rfl⟩)))

/-- What a store leaves at issue. -/
def StoreStays (s t : State) (b core : Nat) : Prop :=
  t.mem = s.mem ∧ (∀ k, k ≠ core → ∀ a, ownByte (coreOf t k) a = ownByte (coreOf s k) a) ∧ (detMode s b = false → Unwritten s t)

/-- What writes nothing stays. -/
theorem Unwritten.stays {s t : State} (h : Unwritten s t) (b core : Nat) : StoreStays s t b core :=
  ⟨congrArg Prod.fst h.bytes, fun k _ => h.own k, fun _ => h⟩

/-- A cord that changes leaves its block on its core. -/
theorem modCord_core {s : State} {b : Nat} {x : Block} (h : s.blocks[b]? = some x) (c : Nat) (f : Cord → Cord) :
    ∃ y, (modCord s b c f).blocks[b]? = some y ∧ y.core = x.core :=
  ⟨x.modCord c f, by simp [modCord, h], rfl⟩

/-- A cord that changes leaves the mode of its context. -/
theorem detMode_modCord (s : State) (b c i : Nat) (f : Cord → Cord) : detMode (modCord s b c f) i = detMode s i := by
  unfold detMode
  rw [gridOfBlock_modCord]
  rfl

/-- A store that is taken, and the stores of its block that can then be performed. -/
theorem storeStays_settle {s r : State} {u : Issue} {o : Op} (hu : s.blocks[u.b]? = some u.blk)
    (h : r = s ∨ ∃ regs dws, r = modCord s u.b u.c (retire u regs dws)) : StoreStays s (settle (addAccOp r u o) u.b) u.b u.blk.core := by
  have hq : Unwritten s (addAccOp r u o) := by
    rcases h with rfl | ⟨regs, dws, rfl⟩
    · exact .addAccOp ..
    · exact (Unwritten.modCord ..).trans (.addAccOp ..)
  obtain ⟨d, ho⟩ := addAccOp_eq r u o
  have hdet : detMode (addAccOp r u o) u.b = detMode s u.b := by
    rw [ho]
    refine (detMode_modCord r u.b u.c u.b _).trans ?_
    rcases h with rfl | ⟨regs, dws, rfl⟩
    · rfl
    · exact detMode_modCord ..
  have hblk : ∃ x, (addAccOp r u o).blocks[u.b]? = some x ∧ x.core = u.blk.core := by
    rw [ho]
    rcases h with rfl | ⟨regs, dws, rfl⟩
    · exact modCord_core hu _ _
    · obtain ⟨y, hy, hc⟩ := modCord_core hu u.c (retire u regs dws)
      obtain ⟨z, hz, hc'⟩ := modCord_core hy u.c (fun c => pushOp c { o with accs := o.accs.map (startAcc _ u.b u.blk.core o.kind) })
      exact ⟨z, hz, hc'.trans hc⟩
  obtain ⟨x, hx, hcore⟩ := hblk
  have hb := Beside.settle _ hx
  rw [hcore] at hb
  refine ⟨hb.mem.trans (congrArg Prod.fst hq.bytes), fun k hk a => ?_, fun hd => ?_⟩
  · rw [hb.cores k hk, hq.own]
  · have : settle (addAccOp r u o) u.b = addAccOp r u o := by
      unfold settle
      simp only [hx, hdet, hd, Bool.false_eq_true, if_false]
    rw [this]
    exact hq

/-- What an issuing store leaves. -/
theorem storeStays_issue {f : LForm} {i : Instr} (hi : i ∈ [Instr.st f, .stc f, .stx f]) {s t : State} {u : Issue}
    (hu : issueOf s i.length = some u) (ht : exec i s = .next t) : StoreStays s t u.b u.blk.core := by
  obtain ⟨body, hx, hb⟩ := stores_act f s i hi
  rw [hx] at ht
  have hgo {regs dws k r} (hk : body u s = .go regs dws k) (hr : r = s ∨ ∃ regs dws, r = modCord s u.b u.c (retire u regs dws)) :
      StoreStays s (k r) u.b u.blk.core := by
    rcases hb u with ⟨_, _, _, _, h⟩ | h | ⟨_, h⟩ | h | ⟨_, o, h⟩ <;> cases hk.symm.trans h
    · rcases hr with rfl | ⟨_, _, rfl⟩
      · exact (Unwritten.refl _).stays ..
      · exact (Unwritten.modCord ..).stays ..
    · exact storeStays_settle (issueOf_block hu) hr
  rcases issue_cases hu ht with ⟨_, _, _, _, -, rfl⟩ | rfl | rfl | ⟨k, hk, rfl⟩ | ⟨regs, dws, k, hk, ⟨-, rfl⟩ | ⟨-, rfl⟩⟩
  · exact (Unwritten.trapAt ..).stays ..
  · exact (Unwritten.refl _).stays ..
  · exact (Unwritten.markEnding ..).stays ..
  · rcases hb u with ⟨_, _, _, _, h⟩ | h | ⟨_, h⟩ | h | ⟨_, o, h⟩ <;> cases hk.symm.trans h
    · exact (Unwritten.modCord ..).stays ..
    · exact ((Unwritten.modCord ..).trans (.swapOut ..)).stays ..
  · exact hgo hk (.inl rfl)
  · exact hgo hk (.inr ⟨_, _, rfl⟩)

/-! ### The operation while its accesses are performed -/

/-- An operation with the places and data of another. -/
def SameAccs (o p : Op) : Prop :=
  p.kind = o.kind ∧ p.seq = o.seq ∧ p.accs.map (fun a => (a.va, a.pa, a.data)) = o.accs.map (fun a => (a.va, a.pa, a.data))

/-- An access of such an operation is one of the other. -/
theorem SameAccs.mem {o p : Op} (h : SameAccs o p) {a : Acc} (ha : a ∈ p.accs) :
    ∃ e ∈ o.accs, e.va = a.va ∧ e.pa = a.pa ∧ e.data = a.data := by
  obtain ⟨-, -, h⟩ := h
  have hm : (a.va, a.pa, a.data) ∈ o.accs.map (fun a => (a.va, a.pa, a.data)) := by
    rw [← h]
    exact List.mem_map_of_mem ha
  obtain ⟨e, he, hea⟩ := List.mem_map.mp hm
  simp only [Prod.mk.injEq] at hea
  exact ⟨e, he, hea⟩

/-- The operation of an id keeps its accesses. -/
def KeepsAccs (b c n : Nat) (s t : State) : Prop :=
  ∀ p, opIn s b c n = some p → ∃ q, opIn t b c n = some q ∧ SameAccs p q

namespace KeepsAccs

variable {b c n : Nat} {s t r : State}

/-- The same operation. -/
theorem of_eq (h : opIn t b c n = opIn s b c n) : KeepsAccs b c n s t := fun p hp => ⟨p, h.trans hp, rfl, rfl, rfl⟩

/-- One change after another. -/
theorem trans (h : KeepsAccs b c n s t) (h' : KeepsAccs b c n t r) : KeepsAccs b c n s r := by
  intro p hp
  obtain ⟨q, hq, hk, hs, ha⟩ := h p hp
  obtain ⟨w, hw, hk', hs', ha'⟩ := h' q hq
  exact ⟨w, hw, hk'.trans hk, hs'.trans hs, ha'.trans ha⟩

/-- A change of no block. -/
theorem of_blocks (h : t.blocks = s.blocks) : KeepsAccs b c n s t := of_eq (by rw [opIn, opIn, cordOf_congr h])

/-- A change of the cord that leaves its operations. -/
theorem modCord {f : Cord → Cord} (h : ∀ x, (f x).ops = x.ops) : KeepsAccs b c n s (Machine.modCord s b c f) := by
  refine of_eq ?_
  rw [opIn, opIn, cordOf_modCord_same]
  cases cordOf s b c with
  | none => rfl
  | some x => simp only [Option.map_some, Option.bind_some, opOf, h]

/-- An access that is marked. -/
theorem setAcc (i : Nat) (st : AccState) :
    KeepsAccs b c n s (Machine.modCord s b c (fun x => modOp x n (fun p => Machine.setAcc p i st))) := by
  intro p hp
  rw [opIn] at hp ⊢
  rw [cordOf_modCord_same]
  cases hx : cordOf s b c with
  | none => simp [hx] at hp
  | some x =>
    rw [hx, Option.bind_some] at hp
    have hid : p.id = n := by simpa using List.find?_some hp
    refine ⟨Machine.setAcc p i st, ?_, rfl, rfl, ?_⟩
    · rw [Option.map_some, Option.bind_some, opOf, modOp, List.find?_map]
      have : ((fun o : Op => o.id == n) ∘ fun o => if (o.id == n) = true then Machine.setAcc o i st else o) = fun o => o.id == n := by
        funext o
        simp only [Function.comp]
        split <;> rfl
      rw [this, show x.ops.find? (fun o => o.id == n) = some p from hp]
      simp [hid]
    · simp only [Machine.setAcc]
      refine List.ext_getElem? fun k => ?_
      simp only [List.getElem?_map, List.getElem?_modify]
      split
      · cases p.accs[k]? <;> rfl
      · cases p.accs[k]? <;> rfl

end KeepsAccs

/-! ### What stays while stores are performed -/

/-- Where a block sits: its braid and its place in it. -/
def seat (x : Block) : Nat × Nat × Nat := (x.grid, x.braid, x.pos)

/-- What of a grid decides whether the ticket unit stages what its braids do. -/
def turnKey (g : Grid) : Nat × Nat × (Nat → Option Bool) := (g.part, g.ctx, fun r => (tabGet g.braids r).map Braid.kept)

/-- The blocks keep their seats, the grids what decides of their turns, and the contexts are as they were. -/
structure Steady (s t : State) : Prop where
  seats : ∀ j : Nat, (t.blocks[j]?).map seat = (s.blocks[j]?).map seat
  turns : ∀ g, (gridOf t g).map turnKey = (gridOf s g).map turnKey
  ctxs : t.ctxs = s.ctxs

namespace Steady

variable {s t r : State}

/-- Nothing has changed. -/
theorem refl (s : State) : Steady s s := ⟨fun _ => rfl, fun _ => rfl, rfl⟩

/-- One change after another. -/
theorem trans (h : Steady s t) (h' : Steady t r) : Steady s r :=
  ⟨fun j => (h'.seats j).trans (h.seats j), fun g => (h'.turns g).trans (h.turns g), h'.ctxs.trans h.ctxs⟩

/-- A change of no block, grid or context. -/
theorem of_eq (hb : t.blocks = s.blocks) (hg : t.grids = s.grids) (hc : t.ctxs = s.ctxs) : Steady s t :=
  ⟨fun _ => by rw [hb], fun _ => by rw [gridOf, gridOf, hg], hc⟩

/-- What every step of a fold leaves. -/
theorem foldl {α : Type} {f : State → α → State} (h : ∀ s a, Steady s (f s a)) (l : List α) (s : State) :
    Steady s (l.foldl f s) := by
  induction l generalizing s with
  | nil => exact refl s
  | cons a l ih => exact (h s a).trans (ih _)

/-- A block that keeps its seat. -/
theorem modBlock (s : State) (b : Nat) {f : Block → Block} (h : ∀ x, seat (f x) = seat x) : Steady s (modBlock s b f) := by
  refine ⟨fun j => ?_, fun _ => rfl, rfl⟩
  rw [modBlock_get]
  split
  · cases s.blocks[j]? <;> simp [h]
  · rfl

/-- A cord changes. -/
theorem modCord (s : State) (b c : Nat) (f : Cord → Cord) : Steady s (modCord s b c f) := modBlock s b (fun _ => rfl)

/-- A grid that keeps its turns. -/
theorem modGrid (s : State) (g : Nat) {f : Grid → Grid} (h : ∀ x, turnKey (f x) = turnKey x) : Steady s (modGrid s g f) := by
  refine ⟨fun _ => rfl, fun k => ?_, rfl⟩
  simp only [gridOf, modGrid_grids, List.getElem?_modify]
  split
  · cases s.grids[k]? <;> simp [h]
  · simp

/-- The record of a braid changes in other things. -/
theorem modBraid (s : State) (x : BraidId) {f : Braid → Braid} (h : ∀ r, (f r).kept = r.kept) : Steady s (modBraid s x f) := by
  refine modGrid s x.1 (fun g => ?_)
  cases hr : tabGet g.braids x.2 with
  | none => rfl
  | some r =>
    simp only [turnKey, Prod.mk.injEq, true_and]
    funext k
    by_cases hk : k = x.2
    · subst hk
      rw [tabGet_tabPut_same, hr, Option.map_some, Option.map_some, h]
    · rw [tabGet_tabPut_other _ _ hk]

/-- A braid that may not be relaunched any more. -/
theorem unrelaunch (s : State) (x : BraidId) : Steady s (unrelaunch s x) := by
  unfold Machine.unrelaunch
  split
  · refine (modBraid s x ?_).trans (foldl ?_ _ _)
    · exact fun _ => rfl
    · exact fun s c => of_eq rfl rfl rfl
  · exact refl s

/-- The seats of all blocks. -/
theorem all (h : Steady s t) : t.blocks.map seat = s.blocks.map seat := by
  refine List.ext_getElem? fun j => ?_
  simp only [List.getElem?_map, h.seats]

/-- The same braid. -/
theorem braidOf (h : Steady s t) (b : Nat) : braidOf t b = braidOf s b := by
  have := h.seats b
  unfold Machine.braidOf
  cases hs : s.blocks[b]? <;> cases ht : t.blocks[b]? <;> simp_all [seat]

/-- The same blocks at the cluster positions. -/
theorem mateAt (h : Steady s t) (b pos : Nat) : mateAt t b pos = mateAt s b pos := by
  have hlen : t.blocks.length = s.blocks.length := by
    rw [← List.length_map (f := seat), h.all, List.length_map]
  unfold Machine.mateAt
  rw [hlen, h.braidOf]
  congr 1
  funext j
  have := h.seats j
  cases hs : s.blocks[j]? <;> cases ht : t.blocks[j]? <;> simp_all [seat]

/-- The same turn of a block's grid. -/
theorem gridOfBlock (h : Steady s t) (b : Nat) : (gridOfBlock t b).map turnKey = (gridOfBlock s b).map turnKey := by
  have := h.seats b
  unfold Machine.gridOfBlock
  cases hs : s.blocks[b]? <;> cases ht : t.blocks[b]? <;> simp_all [seat]
  exact h.turns _

/-- The ticket unit stages the same braids. -/
theorem inTicketUnit (h : Steady s t) (b : Nat) : inTicketUnit t b = inTicketUnit s b := by
  have hd : detMode t b = detMode s b := by
    have := h.gridOfBlock b
    unfold detMode ctxBit ctxOf
    rw [h.ctxs]
    cases hs : Machine.gridOfBlock s b <;> cases ht : Machine.gridOfBlock t b <;> simp_all [turnKey]
  have hk : ((braidRec t (Machine.braidOf t b)).map Braid.kept) = ((braidRec s (Machine.braidOf s b)).map Braid.kept) := by
    rw [h.braidOf]
    have := h.turns (Machine.braidOf s b).1
    unfold braidRec
    cases hs : gridOf s (Machine.braidOf s b).1 <;> cases ht : gridOf t (Machine.braidOf s b).1 <;> simp_all [turnKey]
    exact congrFun this.2.2 _
  rw [Machine.inTicketUnit, Machine.inTicketUnit, hd, hk]

end Steady

/-! ### What performing a store reaches -/

/-- A change that leaves the seats, the turns and the operations of a cord, every byte of a window outside a set, and of a
core the release mark and the own bytes outside a set. -/
structure Reaches (b c core n : Nat) (W : Nat → Nat → Prop) (D : Nat → Prop) (s t : State) : Prop where
  steady : Steady s t
  ops : KeepsAccs b c n s t
  windows : ∀ j a : Nat, ¬ W j a → (t.blocks[j]?).map (fun x => memGet x.window a) = (s.blocks[j]?).map (fun x => memGet x.window a)
  cut : (coreOf t core).relCut = (coreOf s core).relCut
  own : inTicketUnit s b = false → ∀ a, ¬ D a → ownByte (coreOf t core) a = ownByte (coreOf s core) a

/-- The windows of states with the same byte stores. -/
theorem window_of_bytes {s t : State} (h : bytesOf t = bytesOf s) (j : Nat) :
    (t.blocks[j]?).map Block.window = (s.blocks[j]?).map Block.window := by
  simp only [← List.getElem?_map]
  exact congrArg (·[j]?) (congrArg (fun x => x.2.1) h)

/-- A report leaves the operations. -/
theorem addReport_ops (x : Cord) (r : Report) : (addReport x r).ops = x.ops := by
  unfold addReport
  split <;> rfl

namespace Reaches

variable {b c core n : Nat} {W : Nat → Nat → Prop} {D : Nat → Prop} {s t r : State}

/-- Nothing has changed. -/
theorem refl (s : State) : Reaches b c core n W D s s :=
  ⟨.refl s, .of_eq rfl, fun _ _ _ => rfl, rfl, fun _ _ _ => rfl⟩

/-- One change after another. -/
theorem trans (h : Reaches b c core n W D s t) (h' : Reaches b c core n W D t r) : Reaches b c core n W D s r :=
  ⟨h.steady.trans h'.steady, h.ops.trans h'.ops, fun j a ha => (h'.windows j a ha).trans (h.windows j a ha),
    h'.cut.trans h.cut,
    fun hd a ha => (h'.own ((h.steady.inTicketUnit b).trans hd) a ha).trans (h.own hd a ha)⟩

/-- A change of neither a byte store nor a core. -/
theorem of_cores (hs : Steady s t) (ho : KeepsAccs b c n s t) (hb : bytesOf t = bytesOf s) (hc : t.cores = s.cores) :
    Reaches b c core n W D s t := by
  refine ⟨hs, ho, fun j a _ => ?_, by rw [coreOf, coreOf, hc], fun _ a _ => by rw [coreOf, coreOf, hc]⟩
  have := congrArg (Option.map (fun m => memGet m a)) (window_of_bytes hb j)
  simpa [Function.comp_def] using this

/-- A change that leaves blocks, cores and byte stores. -/
theorem of_blocks (hs : Steady s t) (hk : t.blocks = s.blocks) (hb : bytesOf t = bytesOf s) (hc : t.cores = s.cores) :
    Reaches b c core n W D s t := of_cores hs (.of_blocks hk) hb hc

/-- The cord changes in other things than its operations. -/
theorem modCord (s : State) {f : Cord → Cord} (h : ∀ x, (f x).ops = x.ops) :
    Reaches b c core n W D s (Machine.modCord s b c f) :=
  of_cores (.modCord ..) (.modCord h) (bytesOf_modCord ..) rfl

/-- An access of the operation is marked. -/
theorem setAcc (s : State) (i : Nat) (st : AccState) :
    Reaches b c core n W D s (Machine.modCord s b c (fun x => modOp x n (fun p => Machine.setAcc p i st))) :=
  of_cores (.modCord ..) (.setAcc i st) (bytesOf_modCord ..) rfl

/-- What every step of a fold leaves. -/
theorem foldl {α : Type} {f : State → α → State} (l : List α) (h : ∀ t, Steady s t → ∀ a ∈ l, Reaches b c core n W D t (f t a)) :
    Reaches b c core n W D s (l.foldl f s) := by
  refine List.foldlRecOn (motive := Reaches b c core n W D s) _ _ (refl s) (fun t ht a ha => ht.trans (h t ht.steady a ha))

/-- A byte written into a window of the set. -/
theorem winWrite (s : State) {j off : Nat} (x : Byte) (h : W j off) : Reaches b c core n W D s (winWrite s j off [x] []) := by
  refine ⟨.modBlock _ _ (fun _ => rfl), .of_eq ?_, fun k a hk => ?_, rfl, fun _ _ _ => rfl⟩
  · unfold opIn cordOf
    rw [Machine.winWrite, modBlock_get]
    split
    · cases s.blocks[b]? <;> rfl
    · rfl
  · rw [Machine.winWrite, modBlock_get]
    split
    next hj =>
      subst hj
      have ha : a ≠ off := fun e => hk (e ▸ h)
      cases s.blocks[j]? <;> simp [memWrite, memGet_memPut_other ha]
    · rfl

/-- Bytes written into windows of the set. -/
theorem windowBytes (s : State) (es : List (Nat × Byte))
    (h : ∀ e ∈ es, ∀ j, mateAt s b (e.1 / 2 ^ 24) = some j → W j (e.1 % 2 ^ 24)) :
    Reaches b c core n W D s (windowBytes s b es) := by
  refine foldl es fun t ht e he => ?_
  split
  next j hj => exact winWrite t _ (h e he j ((ht.mateAt b _).symm.trans hj))
  · exact refl t

/-- A change of what the ticket unit holds and of the core's lines, its own bytes outside the set kept where the ticket unit
stages nothing. -/
theorem of_core (hs : Steady s t) (hb : t.blocks = s.blocks) (hc : (coreOf t core).relCut = (coreOf s core).relCut)
    (ho : inTicketUnit s b = false → ∀ a, ¬ D a → ownByte (coreOf t core) a = ownByte (coreOf s core) a) :
    Reaches b c core n W D s t := ⟨hs, .of_blocks hb, fun j a _ => by rw [hb], hc, ho⟩

/-- A line that goes home. -/
theorem publishLine (s : State) (line block : Nat) (h : inTicketUnit s b = false → ∀ a, a / 256 = line → D a) :
    Reaches b c core n W D s (publishLine s core line block) := by
  have ho : inTicketUnit s b = false → ∀ a, ¬ D a →
      ownByte (coreOf (Machine.publishLine s core line block) core) a = ownByte (coreOf s core) a :=
    fun hd a ha => ownByte_publishLine (fun e => ha (h hd a e))
  rw [Machine.publishLine] at ho ⊢
  split at ho
  next he =>
    rw [if_pos he]
    exact refl s
  next he =>
    rw [if_neg he]
    exact of_core (.of_eq rfl rfl rfl) rfl (by rw [coreOf_setCore_same]) ho

/-- Bytes of another braid make place. -/
theorem displace (s : State) (pa : Nat) : Reaches b c core n W D s (displace s core b pa) := by
  rw [Machine.displace]
  split
  · exact refl s
  · split
    · exact refl s
    next hm =>
      have hno (hd : inTicketUnit s b = false) : False := hm (by
        rw [inTicketUnit, Bool.or_eq_false_iff] at hd
        simp [hd.1])
      split
      · exact publishLine _ _ _ (fun hd => (hno hd).elim)
      · refine of_core (.trans (t := modCore s core _) (.of_eq rfl rfl rfl) (.modBraid _ _ ?_)) rfl ?_ (fun hd => (hno hd).elim)
        · exact fun _ => rfl
        · rw [coreOf_modBraid, coreOf_modCore_same]

/-- Bytes merged. -/
theorem mergeBytes (s : State) (q : Nat) (es : List (Nat × Byte)) (p : Bool) (h : ∀ e ∈ es, D e.1) :
    Reaches b c core n W D s (mergeBytes s core b q es p) := by
  refine foldl es fun t _ e he => (displace t e.1).trans (of_core (.of_eq rfl rfl rfl) rfl ?_ (fun _ a ha => ?_))
  · rw [mergeByte, coreOf_modCore_same]
  · rw [mergeByte, coreOf_modCore_same]
    exact ownByte_congr (tabGet_tabPut_other _ _ (fun e' => ha (e' ▸ h e he))) rfl

/-- What a release at braid scope shares. -/
theorem shareStaged (s : State) (h : inTicketUnit s b = true) : Reaches b c core n W D s (shareStaged s core) := by
  have hno (hd : inTicketUnit s b = false) : False := Bool.false_ne_true (hd.symm.trans h)
  have hone : Reaches b c core n W D s (setCore s core
      { coreOf s core with dirty := (coreOf s core).dirty.filter (fun e => hasTicket s e.2.block) }) :=
    of_core (.of_eq rfl rfl rfl) rfl (by rw [coreOf_setCore_same]) (fun hd => (hno hd).elim)
  unfold Machine.shareStaged
  refine hone.trans (foldl _ fun t _ e _ => of_core (.modBraid _ _ fun _ => rfl) rfl ?_ (fun _ _ _ => ?_))
  · rw [coreOf_modBraid]
  · rw [coreOf_modBraid]

/-- Late bytes follow the release. -/
theorem followRelease (s : State) (q : Nat) (pas : List Nat)
    (h : q < (coreOf s core).relCut → ∀ x ∈ pas, ∀ a, a / 256 = x / 256 → D a) :
    Reaches b c core n W D s (followRelease s core b q pas) := by
  rw [Machine.followRelease]
  split
  next hq =>
    split
    next ht =>
      refine foldl _ fun t _ l hl => publishLine t l b (fun _ a ha => ?_)
      obtain ⟨x, hx, rfl⟩ := List.mem_map.mp (List.mem_eraseDups.mp hl)
      exact h hq x hx a ha
    next ht =>
      refine shareStaged s ?_
      rw [hasTicket, Bool.or_eq_true, not_or] at ht
      simpa using ht.1
  · exact refl s

/-- A braid that may not be relaunched any more. -/
theorem unrelaunch (s : State) (x : BraidId) : Reaches b c core n W D s (unrelaunch s x) := by
  have hb : (Machine.unrelaunch s x).blocks = s.blocks ∧ (Machine.unrelaunch s x).cores = s.cores := by
    rw [Machine.unrelaunch]
    split
    · exact List.foldlRecOn (motive := fun t : State => t.blocks = s.blocks ∧ t.cores = s.cores) _ _ ⟨rfl, rfl⟩
        (fun t ht _ _ => ht)
    · exact ⟨rfl, rfl⟩
  exact of_blocks (.unrelaunch s x) hb.1 (bytesOf_unrelaunch s x) hb.2

/-- A store that was performed without a cell. -/
theorem markUncovered (s : State) (o : Op) : Reaches b c core n W D s (markUncovered s b c o) := by
  rw [Machine.markUncovered]
  split
  · exact modCord s (fun _ => rfl)
  · exact refl s

/-- A message sent out. -/
theorem sendBytes (s : State) (a : Acc) (es : List (Nat × Byte)) : Reaches b c core n W D s (sendBytes s a es) := by
  have hsend (t : State) (m : Msg) : Reaches b c core n W D t (send t m) := of_blocks (.of_eq rfl rfl rfl) rfl rfl rfl
  rw [Machine.sendBytes]
  split
  · exact hsend ..
  · exact foldl es fun t _ e _ => hsend ..

/-- A rejected store. -/
theorem rejectStore (s : State) (o : Op) (a : Acc) (tent : Bool) (d : Nat) :
    Reaches b c core n W D s (rejectStore s b c core o a tent d) := by
  have horphan (t : State) (e : FaultEntry) : Reaches b c core n W D t (orphanStore t b e) := by
    rw [orphanStore]
    split
    · exact of_blocks (.modGrid _ _ fun _ => rfl) rfl rfl rfl
    · exact refl t
  rw [Machine.rejectStore]
  split
  · exact (of_blocks (.of_eq rfl rfl rfl) rfl rfl rfl : Reaches b c core n W D s (strayEntry s b c core o a tent).2).trans
      (horphan _ _)
  · rw [reportProt]
    split
    · exact refl s
    · exact modCord s (fun x => addReport_ops x _)

/-- A doorbell that rings. -/
theorem ringWrite (s : State) (part off : Nat) : Reaches b c core n W D s (ringWrite s part off) :=
  of_blocks (.of_eq rfl rfl rfl) rfl rfl rfl

end Reaches

/-! ### A plain store performed -/

/-- The bytes of a window that an operation's accesses name. -/
def NamedByte (s : State) (b : Nat) (o : Op) (j x : Nat) : Prop :=
  ∃ e ∈ o.accs, ∃ k, k < e.data.length ∧ onWindow o.kind = true
    ∧ mateAt s b ((e.va + k) / 2 ^ 24) = some j ∧ (e.va + k) % 2 ^ 24 = x

/-- The bytes of a core that an operation's accesses write, and their lines where a release has begun since it issued. -/
def StoredByte (s : State) (core : Nat) (o : Op) (x : Nat) : Prop :=
  ∃ e ∈ o.accs, (e.pa ≤ x ∧ x < e.pa + e.data.length)
    ∨ (o.seq < (coreOf s core).relCut ∧ ∃ k, k < e.data.length ∧ (e.pa + k) / 256 = x / 256)

/-- A byte that an access still writes is one of its data. -/
theorem mem_laneBytes {o : Op} {a : Acc} {e : Nat × Byte} (h : e ∈ laneBytes o a) :
    ∃ k, k < a.data.length ∧ e.1 = a.place o + k := by
  have hm := List.mem_of_mem_filter h
  obtain ⟨k, hk, he⟩ := List.mem_map.mp (List.of_mem_zip hm).1
  exact ⟨k, List.mem_range.mp hk, he.symm⟩

/-- What performing an access of a store reaches. -/
theorem reaches_storeOne {s0 s : State} {b c core : Nat} {o p : Op} (tent : Bool) (i : Nat) (hs : Steady s0 s)
    (hc : (coreOf s core).relCut = (coreOf s0 core).relCut) (hp : SameAccs o p) :
    Reaches b c core p.id (NamedByte s0 b o) (StoredByte s0 core o) s (storeOne tent s b c core p i) := by
  obtain ⟨hkind, hseq, -⟩ := id hp
  unfold storeOne
  split
  · exact .refl s
  next a ha =>
    obtain ⟨e, he, hva, hpa, hdata⟩ := hp.mem (List.mem_of_getElem? ha)
    split
    · exact .refl s
    · dsimp only
      split
      next hw =>
        split
        · refine (Reaches.windowBytes s _ fun x hx j hj => ?_).trans (.setAcc ..)
          obtain ⟨k, hk, hxk⟩ := mem_laneBytes hx
          rw [Acc.place, if_pos hw, ← hva] at hxk
          exact ⟨e, he, k, hdata ▸ hk, hkind ▸ hw, (hs.mateAt b _).symm.trans (hxk ▸ hj), by rw [hxk]⟩
        · exact .refl s
      next hw =>
        have hplace : a.place p = e.pa := by rw [Acc.place, if_neg hw, hpa]
        split
        · split
          · exact .refl s
          · refine ((Reaches.mergeBytes s _ _ _ fun x hx => ?_).trans (.followRelease _ _ _ fun hq x hx y hy => ?_)).trans (.setAcc ..)
            · obtain ⟨k, hk, hxk⟩ := mem_laneBytes hx
              rw [hplace] at hxk
              rw [← hdata] at hk
              exact ⟨e, he, .inl (by omega)⟩
            · obtain ⟨z, hz, rfl⟩ := List.mem_map.mp hx
              obtain ⟨k, hk, hxk⟩ := mem_laneBytes hz
              rw [hplace] at hxk
              refine ⟨e, he, .inr ⟨?_, k, hdata ▸ hk, ?_⟩⟩
              · rw [← hseq, ← hc]
                have hm : Reaches b c core p.id (fun _ _ => True) (fun _ => True) s (mergeBytes s core b p.seq (laneBytes p a) false) :=
                  .mergeBytes s _ _ _ (fun _ _ => trivial)
                exact hm.cut ▸ hq
              · rw [hy, hxk]
        · split
          · exact (((Reaches.ringWrite ..).trans (.setAcc ..)).trans (.markUncovered ..)).trans (.unrelaunch ..)
          · exact .refl s
        · split
          · exact (((Reaches.sendBytes ..).trans (.setAcc ..)).trans (.markUncovered ..)).trans (.unrelaunch ..)
          · exact .refl s
        · exact .refl s
        · split
          · exact .setAcc ..
          · exact (Reaches.setAcc ..).trans (.rejectStore ..)

/-- An operation of an id has it. -/
theorem opIn_id {s : State} {b c n : Nat} {o : Op} (h : opIn s b c n = some o) : o.id = n := by
  obtain ⟨x, -, hx⟩ := Option.bind_eq_some_iff.mp h
  simpa using List.find?_some hx

/-- What performing the accesses of a store reaches. -/
theorem reaches_eachAcc_store {s : State} {b c core n : Nat} {o : Op} (tent : Bool) (h : opIn s b c n = some o) :
    Reaches b c core n (NamedByte s b o) (StoredByte s core o) s
      (eachAcc s b c n (fun s op i => storeOne tent s b c core op i)) := by
  unfold eachAcc
  simp only [h]
  refine List.foldlRecOn (motive := Reaches b c core n (NamedByte s b o) (StoredByte s core o) s) _ _ (.refl s)
    (fun t ht i _ => ht.trans ?_)
  obtain ⟨q, hq, hoq⟩ := ht.ops o h
  simp only [hq]
  exact opIn_id hq ▸ reaches_storeOne tent i ht.steady ht.cut hoq

/-- An operation that is over leaves the cores. -/
theorem finishOp_cores (s : State) (b c n : Nat) : (finishOp s b c n).cores = s.cores := by
  unfold finishOp
  split
  · rfl
  · split <;> rfl

/-- Performing a store writes the windows at the bytes that it names alone. -/
theorem window_performStore {s : State} {b c core n j a : Nat} {o : Op} (h : opIn s b c n = some o) (hn : ¬ NamedByte s b o j a) :
    ((performStore s b c core n).blocks[j]?).map (fun x => memGet x.window a) = (s.blocks[j]?).map (fun x => memGet x.window a) := by
  unfold performStore
  split
  next tent _ =>
    have hf := congrArg (Option.map (fun m => memGet m a)) (window_of_bytes (bytesOf_finishOp
      (eachAcc s b c n (fun s op i => storeOne tent s b c core op i)) b c n) j)
    simp only [Option.map_map, Function.comp_def] at hf
    exact hf.trans ((reaches_eachAcc_store tent h).windows j a hn)
  · rfl

/-- Performing a store of which the ticket unit stages nothing changes of the core's own bytes those that it stores. -/
theorem ownByte_performStore {s : State} {b c core n a : Nat} {o : Op} (h : opIn s b c n = some o)
    (ht : inTicketUnit s b = false) (hn : ¬ StoredByte s core o a) :
    ownByte (coreOf (performStore s b c core n) core) a = ownByte (coreOf s core) a := by
  unfold performStore
  split
  next tent _ =>
    rw [coreOf, finishOp_cores]
    exact (reaches_eachAcc_store tent h).own ht a hn
  · rfl

/-- Settles O35: at issue every act of ST, STC and STX only adds its operation, and the settling of deterministic mode keeps
memory and the other cores; performing an access reaches the bytes that it names, and a line that follows its release. -/
theorem storeFrames : Obligations.StoreFrames := by
  unfold Obligations.StoreFrames
  refine ⟨fun f s t u i hi hu ht => ?_, fun s b c core n o h => ⟨fun a => ?_, fun j a hn => ?_, fun hd a hn => ?_⟩⟩
  · obtain ⟨hm, ho, hd⟩ := storeStays_issue hi hu ht
    exact ⟨fun a => by rw [hm], ho, fun h => ⟨window_of_bytes (hd h).bytes, (hd h).own _⟩⟩
  · rw [(Beside.performStore s b c core n).mem]
  · refine window_performStore h ?_
    rintro ⟨e, he, k, hk, hw, hj⟩
    exact hn e he k hk hw hj
  · refine ownByte_performStore h hd ?_
    rintro ⟨e, he, hin | ⟨hq, k, hk, hl⟩⟩
    · exact (hn e he).1 hin
    · exact (hn e he).2.elim (fun hle => Nat.not_lt.mpr hle hq) (fun hne => hne k hk hl)

end Sys2Proof.Machine
end

/-! ## What an access leaves at issue -/

section
open Sys2Proof Sys2Proof.Machine

namespace Sys2Proof.Machine

/-- A cord whose context records its timed reads at 0x40000000 (R310), with scalar 0 naming no slot. -/
def loggingState : State :=
  modCtx (modCord (State.reset.withFetchWord 64 0) 0 0 (fun c => { c with s := c.s.set 0 0xFFFFFFFF })) 0 0 (fun x =>
    { x with control := 1#128 <<< 116 ||| 0x40000000#128 <<< 64 ||| 0x10#128 })

/-- PRES of the slot in scalar 0, into scalar 12. -/
def presForm : LForm :=
  { d := 12, a := 0, b := 0, c := 0, pred := 0, pneg := false, ty := 0, mod := 0, fsel := false, setf := false,
    asc := true, bsc := false, mod2 := 0, lit := none }

/-- A byte of memory after a step. -/
def byteAfter (a : Nat) : Host.Outcome State Fault Refusal → Option Byte
  | .next t => some (memGet t.mem a)
  | _ => none

/-- PRES writes the entry that records its read into that state's log. -/
theorem loggingState_records :
    (issueOf loggingState (Instr.pres presForm).length).isSome = true
      ∧ byteAfter 0x40000000 (exec (.pres presForm) loggingState) = some 3 ∧ memGet loggingState.mem 0x40000000 = 0 := by
  decide +kernel

/-- Refutes O36: in a context that records its order log, PRES writes the entry of its read into the log's buffer in memory
(R310), and memory is to stay as it is. -/
theorem not_accessFrames : ¬ Obligations.AccessFrames := by
  unfold Obligations.AccessFrames
  intro h
  obtain ⟨hu, ht, hs⟩ := loggingState_records
  obtain ⟨u, hu⟩ := Option.isSome_iff_exists.mp hu
  cases hx : exec (.pres presForm) loggingState with
  | next t =>
    rw [hx] at ht
    have hm := (h.2 presForm loggingState t u _ (List.mem_cons_of_mem _ (List.mem_cons_of_mem _ List.mem_cons_self)) hu hx).1
      0x40000000
    rw [hs] at hm
    exact absurd ((Option.some.inj ht).symm.trans hm) (by decide)
  | _ => rw [hx] at ht; cases ht

end Sys2Proof.Machine
end

/-! ## The byte stores: what keeps their canonical form -/

section
open Sys2Proof Sys2Proof.Machine

namespace Sys2Proof.Machine

/-- Every byte store is in canonical form. -/
def Canonical (v : Mem × List Mem × Mem × Mem) : Prop :=
  Memory.wf v.1 = true ∧ (∀ w ∈ v.2.1, Memory.wf w = true) ∧ Memory.wf v.2.2.1 = true ∧ Memory.wf v.2.2.2 = true

/-- The canonical states are those whose byte stores are canonical. -/
theorem bytesOk_iff (s : State) : Safety.BytesOk s ↔ Canonical (bytesOf s) := by
  simp only [Safety.BytesOk, Safety.MemOk, Safety.WindowsOk, Safety.MgmtOk, Canonical, bytesOf, List.forall_mem_map]

/-- What every step of a fold keeps, the fold keeps. -/
theorem canonical_foldl {α : Type} {f : State → α → State}
    (h : ∀ s a, Canonical (bytesOf s) → Canonical (bytesOf (f s a))) (l : List α) {s : State} (hs : Canonical (bytesOf s)) :
    Canonical (bytesOf (l.foldl f s)) := by
  induction l generalizing s with
  | nil => exact hs
  | cons a l ih => exact ih (h s a hs)

/-- Blocks changed in their own way. -/
theorem canonical_modBlock {f : Block → Block} (hf : ∀ x, Memory.wf x.window = true → Memory.wf (f x).window = true)
    {s : State} (b : Nat) (h : Canonical (bytesOf s)) : Canonical (bytesOf (modBlock s b f)) := by
  obtain ⟨hm, hw, hg⟩ := h
  refine ⟨hm, ?_, hg⟩
  simp only [bytesOf, List.forall_mem_map] at hw ⊢
  intro x hx
  obtain ⟨i, hi⟩ := List.getElem?_of_mem hx
  rw [modBlock_get] at hi
  split at hi
  · obtain ⟨y, hy, rfl⟩ := Option.map_eq_some_iff.mp hi
    exact hf y (hw y (List.mem_of_getElem? hy))
  · exact hw x (List.mem_of_getElem? hi)

/-- Bytes of memory written. -/
theorem canonical_memWrite {s t : State} {pa : Nat} {bs : List Byte} (ht : bytesOf t = (memWrite s.mem pa bs, (bytesOf s).2))
    (h : Canonical (bytesOf s)) : Canonical (bytesOf t) := by
  obtain ⟨hm, hr⟩ := h
  rw [ht]
  exact ⟨wf_memWrite bs _ pa hm, hr⟩

/-- Bytes of memory written, with their poison. -/
theorem canonical_putBytes (s : State) (pa : Nat) (bs : List Byte) (poison : Bool) (h : Canonical (bytesOf s)) :
    Canonical (bytesOf (putBytes s pa bs poison)) := canonical_memWrite (pa := pa) (bs := bs) rfl h

/-- Bytes of a window written. -/
theorem canonical_winWrite (s : State) (b off : Nat) (bs : List Byte) (poison : List Bool) (h : Canonical (bytesOf s)) :
    Canonical (bytesOf (winWrite s b off bs poison)) :=
  canonical_modBlock (fun x => wf_memWrite bs x.window off) b h

/-- The management block changed in its own way. -/
theorem canonical_modMgmt {f : Mgmt → Mgmt} (hf : ∀ m, Memory.wf m.mbbuf = true → Memory.wf m.staging = true →
      Memory.wf (f m).mbbuf = true ∧ Memory.wf (f m).staging = true)
    {s : State} (h : Canonical (bytesOf s)) : Canonical (bytesOf (modMgmt s f)) := by
  obtain ⟨hm, hw, hb, hs⟩ := h
  exact ⟨hm, hw, hf _ hb hs⟩

/-! ### What operations of Snapshot keep -/

theorem canonical_homeWrite (s : State) (by_ : Option BraidId) (pa : Nat) (b : Byte) (poison : Bool)
    (h : Canonical (bytesOf s)) : Canonical (bytesOf (homeWrite s by_ pa b poison)) := by
  unfold homeWrite
  exact canonical_putBytes _ _ _ _ ((bytesOf_observe s (dwOf pa) by_).symm ▸ h)

theorem canonical_homeWrites (s : State) (by_ : Option BraidId) (pa : Nat) (bs : List Byte)
    (h : Canonical (bytesOf s)) : Canonical (bytesOf (homeWrites s by_ pa bs)) := by
  induction bs generalizing s pa with
  | nil => exact h
  | cons b bs ih => exact ih _ _ (canonical_homeWrite s by_ pa b false h)

theorem canonical_retractCell (s : State) (dw : Nat) (p : Cell → Bool) (h : Canonical (bytesOf s)) :
    Canonical (bytesOf (retractCell s dw p)) := by
  unfold retractCell
  split
  · exact h
  · exact canonical_putBytes _ _ _ false h

theorem canonical_ownWrite (s : State) (x : BraidId) (pa : Nat) (bs : List Byte) (poison : Bool)
    (h : Canonical (bytesOf s)) : Canonical (bytesOf (ownWrite s x pa bs poison)) := by
  unfold ownWrite
  grind [bytesOf_markWritten, bytesOf_observe, canonical_putBytes]

theorem canonical_braidWrite (s : State) (x : BraidId) (pa : Nat) (b : Byte) (poison : Bool)
    (h : Canonical (bytesOf s)) : Canonical (bytesOf (braidWrite s x pa b poison)) := by
  unfold braidWrite
  split <;> simp only [bytesOf_braidCell, canonical_homeWrite, canonical_ownWrite, h]

theorem canonical_bypassL1 (s : State) (core pa n : Nat) (h : Canonical (bytesOf s)) :
    Canonical (bytesOf (bypassL1 s core pa n)) := by
  unfold bypassL1
  refine canonical_foldl ?_ _ h
  intro s a h
  simp only [canonical_braidWrite, h]

/-! ### What operations of Memory keep -/

theorem canonical_eachAcc (s : State) (b c o : Nat) {f : State → Op → Nat → State} (hf : ∀ s op i, Canonical
    (bytesOf s) → Canonical (bytesOf (f s op i))) (h : Canonical (bytesOf s)) : Canonical (bytesOf (eachAcc s b c o f)) := by
  unfold eachAcc
  split
  · exact h
  · refine canonical_foldl (fun s i h => ?_) _ h
    split
    · exact hf _ _ _ h
    · exact h

theorem canonical_windowBytes (s : State) (b : Nat) (es : List (Nat × Byte)) (h : Canonical (bytesOf s)) :
    Canonical (bytesOf (windowBytes s b es)) := by
  unfold windowBytes
  refine canonical_foldl ?_ _ h
  intro s a h
  repeat' split
  all_goals simp only [canonical_winWrite, h]

theorem canonical_storeOne (tent : Bool) (s : State) (b c core : Nat) (o : Op) (i : Nat)
    (h : Canonical (bytesOf s)) : Canonical (bytesOf (storeOne tent s b c core o i)) := by
  unfold storeOne
  repeat' split
  all_goals simp only [bytesOf_followRelease, bytesOf_markUncovered, bytesOf_mergeBytes, bytesOf_modCord,
    bytesOf_rejectStore, bytesOf_ringWrite, bytesOf_sendBytes, bytesOf_unrelaunch, canonical_windowBytes, h]

theorem canonical_performStore (s : State) (b c core o : Nat) (h : Canonical (bytesOf s)) :
    Canonical (bytesOf (performStore s b c core o)) := by
  unfold performStore
  split
  · rw [bytesOf_finishOp]
    refine canonical_eachAcc s b c o (fun s op i h => ?_) h
    exact canonical_storeOne _ s b c core op i h
  · exact h

theorem canonical_settleCord (s : State) (b c core : Nat) (h : Canonical (bytesOf s)) :
    Canonical (bytesOf (settleCord s b c core)) := by
  unfold settleCord
  split
  · exact h
  · refine canonical_foldl ?_ _ h
    intro s a h
    simp only [canonical_performStore, h]

theorem canonical_byteAlone (s : State) (b c core o i k : Nat) (h : Canonical (bytesOf s)) :
    Canonical (bytesOf (byteAlone s b c core o i k)) := by
  unfold byteAlone
  dsimp only
  repeat' split
  all_goals simp only [bytesOf_followRelease, bytesOf_gotByte, bytesOf_loadAlone, bytesOf_mergeBytes,
    canonical_windowBytes, h]

theorem canonical_settle (s : State) (b : Nat) (h : Canonical (bytesOf s)) : Canonical (bytesOf (settle s b)) := by
  unfold settle
  split
  · exact h
  · split
    · exact canonical_foldl (fun s c h => canonical_settleCord s b c _ h) _ h
    · exact h

/-! ### What operations of OrderLog keep -/

theorem canonical_record (s : State) (part ctx : Nat) (e : LogEntry) (h : Canonical (bytesOf s)) :
    Canonical (bytesOf (record s part ctx e)) := by
  unfold record
  dsimp only
  repeat' split
  all_goals simp only [bytesOf_modCtx, canonical_putBytes, h]

theorem canonical_recordFor (s : State) (b : Nat) (e : LogEntry) (h : Canonical (bytesOf s)) :
    Canonical (bytesOf (recordFor s b e)) := by
  unfold recordFor
  split <;> simp only [canonical_record, h]

theorem canonical_recordTimed (s : State) (b : Nat) (e : LogEntry) (h : Canonical (bytesOf s)) :
    Canonical (bytesOf (recordTimed s b e)) := by
  unfold recordTimed
  split <;> simp only [canonical_recordFor, h]

theorem canonical_foreignFor (s : State) (part ctx pa : Nat) (h : Canonical (bytesOf s)) :
    Canonical (bytesOf (foreignFor s part ctx pa)) := by
  unfold foreignFor
  dsimp only
  repeat' split
  all_goals simp only [canonical_record, bytesOf_useEntry, h]

theorem canonical_noteOther (s : State) (pa size key : Nat) (h : Canonical (bytesOf s)) :
    Canonical (bytesOf (noteOther s pa size key)) := by
  unfold noteOther
  dsimp only
  split <;> simp only [canonical_foreignFor, bytesOf_modCtx, h]

theorem canonical_noteOthers (s : State) (pa size key : Nat) (h : Canonical (bytesOf s)) :
    Canonical (bytesOf (noteOthers s pa size key)) := by
  unfold noteOthers
  refine canonical_foldl ?_ _ h
  intro s a h
  simp only [canonical_noteOther, h]

theorem canonical_recordEarly (s : State) (part ctx pa : Nat) (h : Canonical (bytesOf s)) :
    Canonical (bytesOf (recordEarly s part ctx pa)) := by
  unfold recordEarly
  dsimp only
  rw [bytesOf_modCtx]
  refine canonical_foldl (fun s e h => canonical_foldl (fun s _ h => canonical_record s part ctx _ h) _ h) _ h

theorem canonical_noteStep (s : State) (b c lane count pa size : Nat) (merged : Bool)
    (h : Canonical (bytesOf s)) : Canonical (bytesOf (noteStep s b c lane count pa size merged)) := by
  unfold noteStep
  grind [bytesOf_modBraid, canonical_noteOthers, canonical_record, canonical_recordEarly, bytesOf_setLast]

theorem canonical_noteForeign (s : State) (pa size : Nat) (h : Canonical (bytesOf s)) :
    Canonical (bytesOf (noteForeign s pa size)) := by
  unfold noteForeign
  simp only [canonical_noteOthers, bytesOf_setLast, h]

theorem canonical_foreignWrite (s : State) (pa : Nat) (bs : List Byte) (h : Canonical (bytesOf s)) :
    Canonical (bytesOf (foreignWrite s pa bs)) := by
  unfold foreignWrite
  simp only [canonical_homeWrites, h]

theorem canonical_foreignStep (s : State) (pa size : Nat) (bs : List Byte) (h : Canonical (bytesOf s)) :
    Canonical (bytesOf (foreignStep s pa size bs)) := by
  unfold foreignStep
  simp only [canonical_foreignWrite, canonical_noteForeign, h]

/-! ### What operations of Atomics keep -/

theorem canonical_bypassFor (s : State) (b core : Nat) (a : Acc) (h : Canonical (bytesOf s)) :
    Canonical (bytesOf (bypassFor s b core a)) := by
  unfold bypassFor
  split <;> simp only [canonical_bypassL1, h]

theorem canonical_performStep (merged : Bool) (s : State) (b c core : Nat) (o : Op) (i : Nat)
    (h : Canonical (bytesOf s)) : Canonical (bytesOf (performStep merged s b c core o i)) := by
  unfold performStep
  grind [bytesOf_braidCell, canonical_bypassFor, bytesOf_dropClean, bytesOf_killBraid, bytesOf_modCord,
    canonical_noteStep, bytesOf_observe, canonical_ownWrite]

theorem canonical_replayed (s : State) (b c : Nat) (o : Op) (a : Acc) {k : State → State} (hk : ∀ s, Canonical
    (bytesOf s) → Canonical (bytesOf (k s))) (h : Canonical (bytesOf s)) : Canonical (bytesOf (replayed s b c o a k)) := by
  unfold replayed
  split
  · exact (bytesOf_diverged ..).symm ▸ h
  · exact h
  · exact hk _ ((bytesOf_meetEntry ..).symm ▸ h)

theorem canonical_runOne (merged : Bool) (s : State) (b c core : Nat) (o : Op) (i : Nat)
    (h : Canonical (bytesOf s)) : Canonical (bytesOf (runOne merged s b c core o i)) := by
  unfold runOne
  split
  · exact h
  · refine canonical_replayed s b c o _ (fun s h => ?_) h
    split
    · exact canonical_performStep merged s b c core o i h
    · exact (bytesOf_rejectStep ..).symm ▸ h
    · exact (bytesOf_rejectStep ..).symm ▸ h
    · exact ((bytesOf_unrelaunch ..).trans (bytesOf_rejectStep ..)).symm ▸ h

theorem canonical_runMember (merged : Bool) (s : State) (m : Member) (h : Canonical (bytesOf s)) :
    Canonical (bytesOf (runMember merged s m)) := by
  unfold runMember
  split <;> simp only [canonical_runOne, h]

theorem canonical_runMembers (s : State) (ms : List Member) (h : Canonical (bytesOf s)) :
    Canonical (bytesOf (runMembers s ms)) := by
  unfold runMembers
  rw [bytesOf_foldl]
  case h => exact fun s e => bytesOf_finishOp s e.1 e.2.1 e.2.2
  exact canonical_foldl (fun s m h => canonical_runMember _ s m h) _ h

theorem canonical_runGroup (s : State) (b c o pa : Nat) (h : Canonical (bytesOf s)) :
    Canonical (bytesOf (runGroup s b c o pa)) := by
  unfold runGroup
  split
  · split
    · exact canonical_runMembers s _ h
    · rw [bytesOf_finishOp]
      exact canonical_foldl (fun s m h => canonical_runMember _ s m h) _ h
  · exact h

theorem canonical_cellNote (s : State) (b c core : Nat) (o : Op) (a : Acc) (h : Canonical (bytesOf s)) :
    Canonical (bytesOf (cellNote s b c core o a)) := by
  unfold cellNote
  repeat' split
  all_goals simp only [canonical_noteStep, bytesOf_rejectStore, h]

theorem canonical_retractStep (s : State) (b c core : Nat) (o : Op) (i : Nat) (h : Canonical (bytesOf s)) :
    Canonical (bytesOf (retractStep s b c core o i)) := by
  unfold retractStep
  split
  · refine canonical_replayed s b c o _ (fun s h => ?_) h
    grind [bytesOf_modCord, bytesOf_observe, bytesOf_freeCell, canonical_cellNote, canonical_retractCell,
      canonical_bypassL1]
  · exact h

theorem canonical_tcommitStep (s : State) (b c core : Nat) (o : Op) (i : Nat) (h : Canonical (bytesOf s)) :
    Canonical (bytesOf (tcommitStep s b c core o i)) := by
  unfold tcommitStep
  split
  · refine canonical_replayed s b c o _ (fun s h => ?_) h
    grind [bytesOf_modCord, bytesOf_observe, bytesOf_freeCell, canonical_cellNote, canonical_bypassL1]
  · exact h

theorem canonical_eachCell (s : State) (b c o dw : Nat) {f : State → Nat → Nat → Nat → Op → Nat → State}
    (hf : ∀ s core op i, Canonical (bytesOf s) → Canonical (bytesOf (f s b c core op i)))
    (h : Canonical (bytesOf s)) : Canonical (bytesOf (eachCell s b c o dw f)) := by
  unfold eachCell
  split
  · split
    · refine canonical_foldl (fun s i h => ?_) _ h
      split
      · exact hf _ _ _ _ h
      · exact h
    · exact h
  · exact h

theorem canonical_takeReplies (s : State) (b c core : Nat) (f : LForm) (ret : Nat) (lanes : List Nat)
    (h : Canonical (bytesOf s)) : Canonical (bytesOf (takeReplies s b c core f ret lanes).2) := by
  unfold takeReplies
  dsimp only
  refine canonical_foldl ?_ _ ?_
  · intro s a h
    repeat' split
    all_goals simp only [canonical_recordTimed, h]
  · simp only [bytesOf_popReplies, h]

theorem canonical_popNow (s : State) (b c core : Nat) (f : LForm) (o : Op) (h : Canonical (bytesOf s)) :
    Canonical (bytesOf (popNow s b c core f o)) := by
  unfold popNow
  split <;> simp only [bytesOf_giveReplies, canonical_takeReplies, h]

theorem canonical_serveCqpop (s : State) (b c core : Nat) (f : LForm) (o : Op) (h : Canonical (bytesOf s)) :
    Canonical (bytesOf (serveCqpop s b c core f o)) := by
  unfold serveCqpop
  repeat' split
  all_goals simp only [canonical_popNow, bytesOf_popReplayed, h]

theorem canonical_serveCqpops (s : State) (b c core : Nat) (h : Canonical (bytesOf s)) :
    Canonical (bytesOf (serveCqpops s b c core)) := by
  unfold serveCqpops
  split
  · exact h
  · refine canonical_foldl ?_ _ h
    intro s a h
    repeat' split
    all_goals simp only [canonical_serveCqpop, h]

theorem canonical_settleAll (s : State) (b : Nat) (h : Canonical (bytesOf s)) : Canonical (bytesOf (settleAll s b)) := by
  unfold settleAll
  dsimp only
  split
  · exact canonical_settle s b h
  · refine canonical_foldl (fun s c h => ?_) _ (canonical_settle s b h)
    exact canonical_serveCqpops _ b c _ ((bytesOf_sendCommands s b c).symm ▸ h)

theorem canonical_delegatedStep (s : State) (core : Nat) (d : Delegated) (h : Canonical (bytesOf s)) :
    Canonical (bytesOf ((delegatedStep s core d).2)) := by
  unfold delegatedStep
  dsimp only
  refine canonical_noteStep _ _ _ _ _ _ _ _ ?_
  split <;> grind [bytesOf_observe, canonical_ownWrite, canonical_bypassL1]

theorem canonical_serveCommand (s : State) (core : Nat) (d : Delegated) (h : Canonical (bytesOf s)) :
    Canonical (bytesOf (serveCommand s core d).after) := by
  unfold serveCommand
  repeat' split
  all_goals grind [bytesOf_sendCommand, bytesOf_ownerValue, canonical_delegatedStep]

theorem canonical_performCommand (s : State) (core : Nat) (d : Delegated) (h : Canonical (bytesOf s)) :
    Canonical (bytesOf (performCommand s core d)) := by
  unfold performCommand
  simp only [bytesOf_commandDone, bytesOf_modCore, canonical_serveCommand, h]

theorem canonical_tstTake (s : State) (b c : Nat) (o : Op) (i : Nat) (f : LForm) (h : Canonical (bytesOf s)) :
    Canonical (bytesOf (tstTake s b c o i f)) := by
  unfold tstTake
  dsimp only
  repeat' split
  all_goals simp only [bytesOf_limitCells, canonical_noteStep, canonical_ownWrite, bytesOf_takeCell, bytesOf_tstDone, h]

theorem canonical_tstFall (s : State) (b c core : Nat) (o : Op) (i : Nat) (f : LForm)
    (h : Canonical (bytesOf s)) : Canonical (bytesOf (tstFall s b c core o i f)) := by
  unfold tstFall
  grind [canonical_bypassL1, canonical_noteStep, canonical_ownWrite, canonical_recordFor, bytesOf_tstDone,
    bytesOf_unrelaunch]

theorem canonical_tstOne (f : LForm) (s : State) (b c core : Nat) (o : Op) (i : Nat)
    (h : Canonical (bytesOf s)) : Canonical (bytesOf (tstOne f s b c core o i)) := by
  unfold tstOne
  split
  · exact h
  · dsimp only
    split
    · split
      · refine canonical_replayed s b c o _ (fun s h => ?_) h
        exact canonical_tstFall _ b c core o i f ((bytesOf_meetEntry ..).symm ▸ h)
      · split
        · refine canonical_replayed _ b c o _ (fun s h => ?_) (canonical_bypassL1 _ _ _ _ h)
          exact canonical_tstTake s b c o i f h
        · simp only [bytesOf_modCord, bytesOf_observe, canonical_bypassL1, h]
    all_goals simp only [bytesOf_unrelaunch, bytesOf_rejectStore, bytesOf_tstDone, h]

theorem canonical_tstWaited (s : State) (b c core : Nat) (o : Op) (i : Nat) (f : LForm)
    (h : Canonical (bytesOf s)) : Canonical (bytesOf (tstWaited s b c core o i f)) := by
  unfold tstWaited
  split
  · exact h
  · split
    · exact h
    · refine canonical_replayed s b c o _ (fun s h => ?_) h
      exact canonical_tstFall s b c core o i f h

/-! ### What operations of Scratch keep -/

theorem canonical_presLanes (u : Issue) (es : List (Nat × Nat)) (s : State) (h : Canonical (bytesOf s)) :
    Canonical (bytesOf ((presLanes u es s).2)) := by
  induction es generalizing s with
  | nil => exact h
  | cons e rest ih =>
    unfold presLanes
    refine ih _ ?_
    split
    · exact h
    · split
      · exact (bytesOf_useEntry ..).symm ▸ h
      · exact (bytesOf_diverged ..).symm ▸ h
      · exact canonical_recordTimed _ _ _ h

theorem canonical_objectUpdate (s : State) (b off remain arrive err : Nat) (h : Canonical (bytesOf s)) :
    Canonical (bytesOf (objectUpdate s b off remain arrive err)) := by
  unfold objectUpdate
  grind [canonical_winWrite]

/-! ### What operations of Engines keep -/

theorem bytesOf_engRead {s t : State} {b core n : Nat} {ls : List (Nat × Nat)} {x : Side} {bs : List Byte}
    {p : List Bool} (hr : engRead s b core ls x n = .ok bs p t) : bytesOf t = bytesOf s := by
  unfold engRead at hr
  repeat' split at hr
  all_goals cases hr
  · exact bytesOf_engBytes s core b _
  · rfl

theorem canonical_engPut (s : State) (b pa : Nat) (x : Byte) (poison : Bool) (h : Canonical (bytesOf s)) :
    Canonical (bytesOf (engPut s b pa x poison)) := by
  unfold engPut
  simp only [bytesOf_braidCell, canonical_ownWrite, h]

theorem canonical_engPuts (s : State) (b : Nat) (poison : List Bool) (es : List (Nat × Byte))
    (h : Canonical (bytesOf s)) : Canonical (bytesOf (engPuts s b poison es)) := by
  induction es generalizing s poison with
  | nil => exact h
  | cons e es ih =>
    unfold engPuts
    refine ih _ _ ?_
    split
    · exact canonical_engPut s b _ _ _ h
    · exact ((bytesOf_unrelaunch ..).trans (bytesOf_send ..)).symm ▸ h

theorem canonical_engWrite {s t : State} {b core : Nat} {x : Side} {bs bs' : List Byte} {p p' : List Bool}
    (hr : engWrite s b core x bs p = .ok bs' p' t) (h : Canonical (bytesOf s)) : Canonical (bytesOf t) := by
  unfold engWrite at hr
  repeat' split at hr
  all_goals cases hr
  · exact canonical_engPuts s b p _ h
  · exact canonical_winWrite s _ _ bs p h

theorem canonical_reqObject (s : State) (r : Request) (remain arrive err : Nat) (h : Canonical (bytesOf s)) :
    Canonical (bytesOf (reqObject s r remain arrive err)) := by
  unfold reqObject
  split <;> simp only [canonical_objectUpdate, h]

theorem canonical_failReq (s : State) (core : Nat) (r : Request) (total err : Nat) (h : Canonical (bytesOf s)) :
    Canonical (bytesOf (failReq s core r total err)) := by
  unfold failReq
  split <;> simp only [bytesOf_endReq, bytesOf_lowerLines, bytesOf_reqLate, canonical_reqObject, h]

theorem canonical_countBytes (s : State) (core : Nat) (r : Request) (x : Side) (n : Nat) (ill : Bool)
    (h : Canonical (bytesOf s)) : Canonical (bytesOf (countBytes s core r x n ill)) := by
  unfold countBytes
  simp only [bytesOf_lowerLines, bytesOf_modReq, canonical_reqObject, h]

theorem bytesOf_rowScale {s t : State} {b core row : Nat} {d : BitVec 512} {bs : List Byte} {p : List Bool}
    (hr : rowScale s b core d row = .ok bs p t) : bytesOf t = bytesOf s := by
  unfold rowScale at hr
  split at hr
  · exact bytesOf_engRead hr
  · cases hr
    rfl

theorem canonical_refuseRequest (s : State) (core : Nat) (r : Request) (total err : Nat)
    (h : Canonical (bytesOf s)) : Canonical (bytesOf (refuseRequest s core r total err)) := by
  unfold refuseRequest
  simp only [canonical_failReq, bytesOf_takeRequest, h]

theorem canonical_moveRun (s : State) (core : Nat) (r : Request) (k i n : Nat) (h : Canonical (bytesOf s)) :
    Canonical (bytesOf (moveRun s core r k i n)) := by
  have hd {t : State} (ht : Canonical (bytesOf t)) (dst : Side) (bs : List Byte) (p : List Bool) (ill : Bool) :
      Canonical (bytesOf (match engWrite t r.block core dst bs p with
        | .need va _ => askEng t core r va
        | .wait => t
        | .bad => failReq t core r (copyTotal r) 4
        | .ok _ _ s =>
          let s := modReq s core r.n (fun q => { q with moved := tabPut q.moved (k * copyUnits r + i) n })
          let s := countBytes s core r dst bs.length ill
          match reqOf s core r.n with
          | some q => if copyTotal q ≤ q.counted then finishReq s core q else s
          | none => s)) := by
    split
    · exact (bytesOf_askEng ..).symm ▸ ht
    · exact ht
    · exact canonical_failReq _ _ _ _ _ ht
    next s' hw =>
      have hm : Canonical (bytesOf (modReq s' core r.n (fun q => { q with moved := tabPut q.moved (k * copyUnits r + i) n }))) :=
        (bytesOf_modReq ..).symm ▸ canonical_engWrite hw ht
      have hc := canonical_countBytes _ core r dst bs.length ill hm
      dsimp only
      split
      · split
        · exact (bytesOf_finishReq ..).symm ▸ hc
        · exact hc
      · exact hc
  unfold moveRun
  dsimp only
  split
  · exact h
  · split
    · exact (bytesOf_askEng ..).symm ▸ h
    · exact h
    · exact canonical_failReq _ _ _ _ _ h
    next hr =>
      have ht := (bytesOf_engRead hr).symm ▸ h
      split
      · exact hd ht _ _ _ _
      · split
        · exact (bytesOf_askEng ..).symm ▸ ht
        · exact ht
        · exact canonical_failReq _ _ _ _ _ ht
        next hs => exact hd ((bytesOf_rowScale hs).symm ▸ ht) _ _ _ _

theorem canonical_moveElement (s : State) (core : Nat) (r : Request) (k x : Nat) (h : Canonical (bytesOf s)) :
    Canonical (bytesOf (moveElement s core r k x)) := by
  have hd {t : State} (ht : Canonical (bytesOf t)) (dst : Side) (bs : List Byte) (p : List Bool) (ill : Bool) :
      Canonical (bytesOf (match engWrite t r.block core dst bs p with
        | .need va _ => askEng t core r va
        | .wait => t
        | .bad => failReq t core r (r.gcount * gseElt r) 4
        | .ok _ _ s =>
          let s := modReq s core r.n (fun q => { q with moved := tabPut q.moved k 1 })
          let s := countBytes s core r dst bs.length ill
          match reqOf s core r.n with
          | some q => if r.gcount ≤ q.moved.length then finishReq s core q else s
          | none => s)) := by
    split
    · exact (bytesOf_askEng ..).symm ▸ ht
    · exact ht
    · exact canonical_failReq _ _ _ _ _ ht
    next s' hw =>
      have hm : Canonical (bytesOf (modReq s' core r.n (fun q => { q with moved := tabPut q.moved k 1 }))) :=
        (bytesOf_modReq ..).symm ▸ canonical_engWrite hw ht
      have hc := canonical_countBytes _ core r dst bs.length ill hm
      dsimp only
      split
      · split
        · exact (bytesOf_finishReq ..).symm ▸ hc
        · exact hc
      · exact hc
  unfold moveElement
  dsimp only
  split
  · exact h
  · split
    · exact canonical_failReq _ _ _ _ _ h
    · split
      · exact (bytesOf_askEng ..).symm ▸ h
      · exact h
      · exact canonical_failReq _ _ _ _ _ h
      next hr =>
        have ht := (bytesOf_engRead hr).symm ▸ h
        split
        · exact hd ht _ _ _ _
        · split
          · exact (bytesOf_askEng ..).symm ▸ ht
          · exact ht
          · exact canonical_failReq _ _ _ _ _ ht
          next hs => exact hd ((bytesOf_rowScale hs).symm ▸ ht) _ _ _ _

theorem canonical_gseMove (s : State) (core : Nat) (r : Request) (k : Nat) (h : Canonical (bytesOf s)) :
    Canonical (bytesOf (gseMove s core r k)) := by
  unfold gseMove
  grind [bytesOf_askEng, bytesOf_engRead, canonical_failReq, bytesOf_killBraid, canonical_moveElement]

theorem canonical_failColl (s : State) (core : Nat) (r : Request) (err : Nat) (h : Canonical (bytesOf s)) :
    Canonical (bytesOf (failColl s core r err)) := by
  unfold failColl
  simp only [bytesOf_collTotal, canonical_failReq, h]

theorem bytesOf_rowScales {s t : State} {b core n : Nat} {d : BitVec 512} {bs : List Byte} {p : List Bool}
    (hr : rowScales s b core d n = .ok bs p t) : bytesOf t = bytesOf s := by
  induction n generalizing t bs p with
  | zero =>
    cases hr
    rfl
  | succ n ih =>
    rw [rowScales] at hr
    split at hr
    next h1 =>
      split at hr
      next h2 =>
        cases hr
        exact (bytesOf_rowScale h2).trans (ih h1)
      next hne => exact absurd hr (hne _ _ _)
    next hne => exact absurd hr (hne _ _ _)

theorem bytesOf_collRead {s t : State} {core n rank : Nat} {r : Request} {vs : List Nat} {ill : Bool} {p : List Bool}
    (hr : collRead s core r n rank = .ok vs ill p t) : bytesOf t = bytesOf s := by
  unfold collRead at hr
  dsimp only at hr
  split at hr
  · cases hr
  · split at hr
    · cases hr
      rfl
    · split at hr
      · cases hr
      · cases hr
      · cases hr
      next h1 =>
        split at hr
        · cases hr
          exact bytesOf_engRead h1
        · split at hr
          · cases hr
          · cases hr
          · cases hr
          next h2 =>
            cases hr
            exact (bytesOf_rowScales h2).trans (bytesOf_engRead h1)

theorem canonical_readSource (s : State) (core : Nat) (r : Request) (n rank : Nat) (h : Canonical (bytesOf s)) :
    Canonical (bytesOf (readSource s core r n rank)) := by
  unfold readSource
  grind [bytesOf_askEng, bytesOf_collRead, canonical_failColl, bytesOf_modReq, canonical_reqObject]

theorem bytesOf_resultScales {s t : State} {core : Nat} {r : Request} {res : List Nat} {bs : List Byte} {p : List Bool}
    (hr : resultScales s core r res = .ok bs p t) : bytesOf t = bytesOf s  := bytesOf_rowScales hr

theorem canonical_writeResult (s : State) (core : Nat) (r : Request) (res : List Nat) (poison : List Bool)
    (h : Canonical (bytesOf s)) : Canonical (bytesOf (writeResult s core r res poison)) := by
  unfold writeResult
  dsimp only
  split
  next d rs p t _ hr =>
    have ht : Canonical (bytesOf t) := (bytesOf_resultScales hr).symm ▸ h
    split
    next => exact (bytesOf_askEng ..).symm ▸ h
    next => exact h
    next => exact canonical_failColl _ _ _ _ h
    next t' hw =>
      have ht' : Canonical (bytesOf t') := by
        split at hw
        · cases hw
          exact ht
        · exact canonical_engWrite hw ht
      have hc := canonical_countBytes t' core r d (collBytes r res rs).length false ht'
      cases reqOf (countBytes t' core r d (collBytes r res rs).length false) core r.n with
      | none => exact hc
      | some q => exact (bytesOf_finishReq ..).symm ▸ hc
  next => exact (bytesOf_askEng ..).symm ▸ h
  next => exact h
  next => exact canonical_failColl _ _ _ _ h

theorem canonical_spoilByte (s : State) (core : Nat) (r : Request) (d : Side) (poison : Bool) (i : Nat) (x : Byte)
    (h : Canonical (bytesOf s)) : Canonical (bytesOf (spoilByte s core r d poison i x)) := by
  unfold spoilByte
  grind [canonical_engWrite, bytesOf_takeFree]

theorem canonical_spoilResult (s : State) (core : Nat) (r : Request) (here : List (Nat × Nat × Request)) (n rank : Nat)
    (h : Canonical (bytesOf s)) : Canonical (bytesOf (spoilResult s core r here n rank)) := by
  unfold spoilResult
  extract_lets res t
  have h : Canonical (bytesOf t) := by
    rw [show bytesOf t = bytesOf s from bytesOf_base ..]
    exact h
  split
  · exact canonical_foldl (fun s e h => canonical_spoilByte s core r _ _ _ _ h) _ h
  · exact h

theorem canonical_failRanks (s : State) (r : Request) (here : List (Nat × Nat × Request)) (n err : Nat)
    (h : Canonical (bytesOf s)) : Canonical (bytesOf (failRanks s r here n err)) := by
  unfold failRanks
  refine canonical_foldl ?_ _ h
  intro s a h
  repeat' split
  all_goals simp only [canonical_failColl, canonical_spoilResult, h]

/-! ### What operations of Arrays keep -/

theorem canonical_padWrite (s : State) (b x n half r y : Nat) (poison : List Bool) (h : Canonical (bytesOf s)) :
    Canonical (bytesOf (padWrite s b x n half r y poison)) := by
  unfold padWrite
  split
  · refine canonical_foldl (fun s c h => ?_) _ h
    exact canonical_winWrite _ _ _ _ _ h
  · exact h

theorem canonical_performDrain (s : State) (core : Nat) (o : ArrOp) (h : Canonical (bytesOf s)) :
    Canonical (bytesOf (performDrain s core o)) := by
  unfold performDrain
  dsimp only
  generalize (if o.mod % 4 = 0 then [] else rowLines s o.block o.a (resRow o.mod) _) = src
  split
  · exact h
  · rw [bytesOf_poisonKill, bytesOf_retireArr, bytesOf_modCord, bytesOf_foldl]
    · rw [bytesOf_lowerLines]
      split
      · exact (bytesOf_drainRegs ..).symm ▸ h
      · exact canonical_foldl (fun s e h => canonical_padWrite s _ _ _ _ _ _ _ h) _ h
    · exact fun s k => bytesOf_modCore ..

theorem canonical_emulateCopy (core n fuel : Nat) (s : State) (h : Canonical (bytesOf s)) :
    Canonical (bytesOf (emulateCopy core n fuel s)) := by
  induction fuel generalizing s with
  | zero => exact h
  | succ fuel ih =>
    rw [emulateCopy]
    split
    · exact h
    · split
      · exact h
      · exact ih _ (canonical_moveRun s core _ _ _ 1 h)

theorem canonical_emulateGse (core n fuel : Nat) (s : State) (h : Canonical (bytesOf s)) :
    Canonical (bytesOf (emulateGse core n fuel s)) := by
  induction fuel generalizing s with
  | zero => exact h
  | succ fuel ih =>
    rw [emulateGse]
    split
    · exact h
    · split
      · exact h
      · split
        · exact ih _ (canonical_gseMove s core _ _ h)
        · exact h

theorem canonical_emulateRest (s : State) (core : Nat) (r : Request) (h : Canonical (bytesOf s)) :
    Canonical (bytesOf (emulateRest s core r)) := by
  unfold emulateRest
  split <;> simp only [canonical_emulateCopy, canonical_emulateGse, h]

/-! ### What operations of Barriers keep -/

theorem canonical_submitRecord (s : State) (part ctx record depth : Nat) (parent : Option (Nat × Nat))
    (h : Canonical (bytesOf s)) : Canonical (bytesOf (submitRecord s part ctx record depth parent)) := by
  unfold submitRecord
  simp only [bytesOf_base, bytesOf_modQueue, h]

theorem canonical_launchRecord (s : State) (b c : Nat) (f : LForm) (g : Grid) (record : Nat)
    (h : Canonical (bytesOf s)) : Canonical (bytesOf (launchRecord s b c f g record)) := by
  unfold launchRecord
  simp only [bytesOf_giveHandle, canonical_submitRecord, h]

theorem canonical_endLaunch (s : State) (b c : Nat) (o : Op) (h : Canonical (bytesOf s)) :
    Canonical (bytesOf (endLaunch s b c o)) := by
  unfold endLaunch
  simp only [bytesOf_modCord, canonical_settle, h]

theorem canonical_offerRecord (s : State) (b c : Nat) (o : Op) (f : LForm) (g : Grid) (bs : List Byte)
    (h : Canonical (bytesOf s)) : Canonical (bytesOf (offerRecord s b c o f g bs)) := by
  unfold offerRecord
  split <;> simp only [canonical_endLaunch, canonical_launchRecord, bytesOf_modCord, h]

theorem canonical_readRecord {s t : State} {b c core : Nat} {o : Op} {f : LForm} {g : Grid}
    (hr : readRecord s b c core o f g = some t) (h : Canonical (bytesOf s)) : Canonical (bytesOf t) := by
  unfold readRecord at hr
  repeat' split at hr
  all_goals grind [canonical_offerRecord, canonical_endLaunch, bytesOf_giveHandle, bytesOf_readAcc]

/-! ### What operations of Homes keep -/

theorem canonical_homeBytes (s : State) (block : Nat) (poison : List Nat) (es : List (Nat × Byte))
    (h : Canonical (bytesOf s)) : Canonical (bytesOf (homeBytes s block poison es)) := by
  induction es generalizing s with
  | nil => exact h
  | cons e es ih => exact ih _ (canonical_braidWrite s _ _ _ _ h)

theorem canonical_laneWrite (s : State) (me : BraidId) (o : Op) (a : Acc) (h : Canonical (bytesOf s)) :
    Canonical (bytesOf (laneWrite s me o a)) := by
  unfold laneWrite
  refine canonical_foldl ?_ _ h
  intro s a h
  simp only [canonical_ownWrite, h]

theorem canonical_regionStore (s : State) (b c : Nat) (o : Op) (a : Acc) (h : Canonical (bytesOf s)) :
    Canonical (bytesOf (regionStore s b c o a)) := by
  unfold regionStore
  dsimp only
  repeat' split
  all_goals simp only [canonical_laneWrite, bytesOf_limitCells, bytesOf_markUncovered, bytesOf_takeCell,
    bytesOf_unrelaunch, h]

theorem canonical_tentativeOne (s : State) (b c core : Nat) (o : Op) (i : Nat) (h : Canonical (bytesOf s)) :
    Canonical (bytesOf (tentativeOne s b c core o i)) := by
  unfold tentativeOne
  repeat' split
  all_goals simp only [bytesOf_braidCell, canonical_bypassL1, canonical_laneWrite, bytesOf_modCord,
    canonical_regionStore, h]

/-! ### What operations of Faults keep -/

theorem canonical_walkFound (s : State) (w : WalkSrc) (ea base size pa entry : Nat)
    (h : Canonical (bytesOf s)) : Canonical (bytesOf (walkFound s w ea base size pa entry)) := by
  unfold walkFound
  exact canonical_memWrite (s := s) (pa := ea) (bs := [_]) rfl h

theorem canonical_afterWalk (s : State) (w : WalkSrc) (parked : Option Nat) (h : Canonical (bytesOf s)) :
    Canonical (bytesOf (afterWalk s w parked)) := by
  unfold afterWalk
  repeat' split
  all_goals simp only [bytesOf_readyAccs, canonical_settleAll, h]

theorem canonical_takeRecord (s : State) (part ctx rec_ : Nat) (h : Canonical (bytesOf s)) :
    Canonical (bytesOf (takeRecord s part ctx rec_)) := by
  unfold takeRecord
  split <;> simp only [bytesOf_refuseSubmit, canonical_submitRecord, h]

theorem canonical_readSubmit (s : State) (part ctx va pa : Nat) (h : Canonical (bytesOf s)) :
    Canonical (bytesOf (readSubmit s part ctx va pa)) := by
  unfold readSubmit
  split <;> simp only [bytesOf_askSubmit, bytesOf_dropSubmit, bytesOf_foreignRead, bytesOf_freeBytes,
    bytesOf_refuseSubmit, canonical_takeRecord, h]

theorem canonical_goSubmit (s : State) (part ctx va : Nat) (h : Canonical (bytesOf s)) :
    Canonical (bytesOf (goSubmit s part ctx va)) := by
  unfold goSubmit
  dsimp only
  split <;> simp only [bytesOf_askSubmit, canonical_readSubmit, h]

theorem canonical_submitWrite (s : State) (part ctx : Nat) (v : DWord) (h : Canonical (bytesOf s)) :
    Canonical (bytesOf (submitWrite s part ctx v)) := by
  unfold submitWrite
  grind [canonical_goSubmit, bytesOf_modPart, bytesOf_refuseSubmit]

theorem canonical_resumeSubmit (s : State) (w : WalkSrc) (h : Canonical (bytesOf s)) :
    Canonical (bytesOf (resumeSubmit s w)) := by
  unfold resumeSubmit
  split
  · exact canonical_foldl (fun s _ h => canonical_goSubmit s _ _ _ h) _ h
  · exact h

theorem canonical_serviceEntry (s : State) (die i : Nat) (h : Canonical (bytesOf s)) :
    Canonical (bytesOf (serviceEntry s die i)) := by
  unfold serviceEntry
  grind [canonical_afterWalk, bytesOf_base, bytesOf_freeFault, bytesOf_modDie, canonical_resumeSubmit,
    canonical_walkFound]

theorem canonical_rejectOp (s : State) (b c o i : Nat) (e : FaultEntry) (h : Canonical (bytesOf s)) :
    Canonical (bytesOf (rejectOp s b c o i e)) := by
  unfold rejectOp
  split
  next x y op _ _ _ =>
    refine canonical_settleAll _ _ ?_
    rw [bytesOf_closeOp]
    have ht : Canonical (bytesOf ((parkedIn op i).foldl (fun t k => rejectAcc t b c x.core op k e.cause) s)) := by
      refine canonical_foldl (fun s k h => ?_) _ h
      exact (bytesOf_rejectAcc ..).symm ▸ h
    split
    · split
      · exact (bytesOf_orphanStore ..).symm ▸ ht
      · exact ht
    · split
      · exact ht
      · exact (bytesOf_reportProt ..).symm ▸ ht
  · exact h

theorem canonical_failEng (s : State) (core n err : Nat) (h : Canonical (bytesOf s)) :
    Canonical (bytesOf (failEng s core n err)) := by
  unfold failEng
  repeat' split
  all_goals simp only [canonical_failColl, canonical_failReq, bytesOf_gseTotal, h]

theorem canonical_rejectEntry (s : State) (die i : Nat) (h : Canonical (bytesOf s)) :
    Canonical (bytesOf (rejectEntry s die i)) := by
  unfold rejectEntry
  grind [bytesOf_dropFetches, bytesOf_dropSubmits, canonical_failEng, bytesOf_freeFault, bytesOf_modCore,
    bytesOf_modPart, bytesOf_refuseSubmit, canonical_rejectOp, bytesOf_takeTrap]

theorem canonical_writeReport (s : State) (die : Nat) (h : Canonical (bytesOf s)) :
    Canonical (bytesOf (writeReport s die)) := by
  unfold writeReport
  dsimp only
  repeat' split
  all_goals simp only [canonical_foreignWrite, bytesOf_modDie, bytesOf_send, h]

/-! ### What operations of Grids keep -/

theorem canonical_deviceWalk {s t : State} {part ctx va pa : Nat} {n : Need} (hr : deviceWalk s part ctx va n = some
    (pa, t)) (h : Canonical (bytesOf s)) : Canonical (bytesOf t) := by
  unfold deviceWalk at hr
  dsimp only at hr
  split at hr
  · cases hr
  · split at hr
    · cases hr
      exact canonical_memWrite (s := s) (pa := _) (bs := [_]) rfl h
    · cases hr

theorem canonical_writeWord {s t : State} {pa x : Nat} (hr : writeWord s pa x = some t)
    (h : Canonical (bytesOf s)) : Canonical (bytesOf t) := by
  unfold writeWord at hr
  repeat' split at hr
  all_goals grind [canonical_foreignStep, bytesOf_send]

theorem canonical_payOwed (s : State) (g : Nat) (h : Canonical (bytesOf s)) : Canonical (bytesOf (payOwed s g)) := by
  unfold payOwed
  split
  · exact h
  · split
    next hw =>
      split
      next ht => exact (bytesOf_modGrid ..).symm ▸ canonical_writeWord ht (canonical_deviceWalk hw h)
      · exact h
    · exact h

theorem canonical_failGrid (s : State) (g code : Nat) (h : Canonical (bytesOf s)) :
    Canonical (bytesOf (failGrid s g code)) := by
  unfold failGrid
  repeat' split
  all_goals simp only [bytesOf_modGrid, canonical_payOwed, bytesOf_unqueue, h]

theorem canonical_waitWord {s t : State} {g : Grid} {va x : Nat} (hr : waitWord s g va = some (x, t))
    (h : Canonical (bytesOf s)) : Canonical (bytesOf t) := by
  unfold waitWord at hr
  repeat' split at hr
  all_goals grind [canonical_deviceWalk, bytesOf_foreignRead, bytesOf_takeFree]

theorem canonical_placeBlock (s : State) (gi : Nat) (g : Grid) (index braid pos core : Nat)
    (h : Canonical (bytesOf s)) : Canonical (bytesOf (placeBlock s gi g index braid pos core)) := by
  unfold placeBlock
  split
  · exact h
  · rw [bytesOf_modGrid, bytesOf_countPhase, bytesOf_dropClean, bytesOf_modCore]
    obtain ⟨hm, hw, hg⟩ := h
    refine ⟨hm, ?_, hg⟩
    simp only [bytesOf, List.map_append, List.forall_mem_append]
    exact ⟨hw, by simp [wf_nil]⟩

theorem canonical_placeBraid (s : State) (gi : Nat) (g : Grid) (braid : Nat) (cs : List Nat)
    (h : Canonical (bytesOf s)) : Canonical (bytesOf (placeBraid s gi g braid cs)) := by
  unfold placeBraid
  refine canonical_foldl ?_ _ h
  intro s a h
  simp only [canonical_placeBlock, h]

theorem canonical_placeAll {gi fuel : Nat} {s t : State} (hr : placeAll gi fuel s = some t)
    (h : Canonical (bytesOf s)) : Canonical (bytesOf t) := by
  induction fuel generalizing s with
  | zero => cases hr; exact h
  | succ fuel ih =>
    rw [placeAll] at hr
    repeat' split at hr
    · cases hr
    · cases hr
      exact h
    · cases hr
    · exact ih hr ((bytesOf_modGrid ..).symm ▸ canonical_placeBraid s gi _ _ _ h)

theorem canonical_placeNext (s : State) (gi : Nat) (any : Bool) (h : Canonical (bytesOf s)) :
    Canonical (bytesOf (placeNext s gi any)) := by
  unfold placeNext
  grind [bytesOf_leaveQueue, bytesOf_modGrid, canonical_placeAll, canonical_placeBraid, bytesOf_serveQueue]

theorem canonical_flushStaged (s : State) (x : BraidId) (h : Canonical (bytesOf s)) :
    Canonical (bytesOf (flushStaged s x)) := by
  unfold flushStaged
  split
  · exact h
  · refine canonical_foldl (fun s e h => canonical_braidWrite s _ _ _ _ h) _ ?_
    rw [bytesOf_modBraid]
    refine canonical_foldl (fun s c h => ?_) _ h
    exact (bytesOf_dropBytes ..).symm ▸ h

theorem canonical_releaseStep (s : State) (x : BraidId) (h : Canonical (bytesOf s)) :
    Canonical (bytesOf (releaseStep s x)) := by
  unfold releaseStep
  repeat' split
  all_goals simp only [bytesOf_modCord, canonical_settleAll, h]

theorem canonical_endGrid (s : State) (g : Nat) (x : Grid) (h : Canonical (bytesOf s)) :
    Canonical (bytesOf (endGrid s g x)) := by
  unfold endGrid
  grind [canonical_failGrid, bytesOf_modGrid, canonical_payOwed]

/-! ### What operations of System keep -/

theorem canonical_cycleLane (s : State) (u : Issue) (g : Grid) (l : Nat) (h : Canonical (bytesOf s)) :
    Canonical (bytesOf (cycleLane s u g l).2) := by
  unfold cycleLane
  dsimp only
  split <;> simp only [bytesOf_diverged, bytesOf_modCord, canonical_recordTimed, bytesOf_takeFree, bytesOf_useEntry, h]

theorem canonical_cycleLanes (u : Issue) (g : Grid) (ls : List Nat) (s : State) (h : Canonical (bytesOf s)) :
    Canonical (bytesOf ((cycleLanes u g ls s).2)) := by
  induction ls generalizing s with
  | nil => exact h
  | cons l ls ih => exact ih _ (canonical_cycleLane s u g l h)

theorem canonical_physWrite (s : State) (pa : Nat) (bs : List Byte) (h : Canonical (bytesOf s)) :
    Canonical (bytesOf (physWrite s pa bs)) := by
  unfold physWrite
  split <;> simp only [canonical_foreignWrite, bytesOf_send, h]

/-! ### What operations of Traps keep -/

theorem canonical_withdraw (s : State) (b c core : Nat) (g : Region) (r : TrapRec) (h : Canonical (bytesOf s)) :
    Canonical (bytesOf (withdraw s b c core g r)) := by
  unfold withdraw
  dsimp only
  have hs : Canonical (bytesOf ((regionCells s b c).foldl (fun s x => retractCell s x.dw (fun y => y.region == some (b,
    c))) s)) :=
    canonical_foldl (fun s x h => canonical_retractCell s _ _ h) _ h
  split <;> simpa only [bytesOf_killBraid, bytesOf_coreBoundary, bytesOf_countPhase, bytesOf_dropClean,
    bytesOf_modCord] using hs

theorem canonical_killBlock (s : State) (b : Nat) (h : Canonical (bytesOf s)) : Canonical (bytesOf (killBlock s b)) := by
  unfold killBlock
  split
  · exact h
  · exact canonical_modBlock (fun _ _ => wf_nil) _ ((bytesOf_modCore ..).symm ▸ h)

theorem canonical_recordWithdrawn (s : State) (g : Grid) (r : Braid) (h : Canonical (bytesOf s)) :
    Canonical (bytesOf (recordWithdrawn s g r)) := by
  unfold recordWithdrawn
  refine canonical_foldl ?_ _ h
  intro s a h
  simp only [canonical_record, h]

theorem canonical_killNow (s : State) (x : BraidId) (g : Grid) (r : Braid) (h : Canonical (bytesOf s)) :
    Canonical (bytesOf (killNow s x g r)) := by
  unfold killNow
  dsimp only
  have h1 : Canonical (bytesOf (dropFaults (if r.relaunchable then dropStores s ((blocksOf s x).map Prod.snd) else s)
      ((blocksOf s x).map Prod.snd).contains)) := by
    rw [bytesOf_dropFaults]
    split
    · exact (bytesOf_dropStores ..).symm ▸ h
    · exact h
  have h2 := canonical_foldl (fun s c h => canonical_retractCell s c.dw (fun y => y.owner == x) h)
    (s.cells.filter (fun c => c.owner == x)) (canonical_foldl canonical_killBlock ((blocksOf s x).map Prod.snd) h1)
  have h3 := canonical_recordWithdrawn _ g r h2
  have hobs (t : State) (y : BraidId) (ht : Canonical (bytesOf t)) : Canonical (bytesOf (killObserver g t y)) :=
    (bytesOf_killObserver ..).symm ▸ ht
  split
  · rw [bytesOf_fatalOf]
    refine canonical_foldl hobs _ ?_
    split
    · exact (bytesOf_modBraid ..).symm ▸ h3
    · rw [bytesOf_fatalOf, bytesOf_modBraid]
      exact h3
  · refine canonical_foldl hobs _ ?_
    split
    · exact (bytesOf_modBraid ..).symm ▸ h3
    · rw [bytesOf_fatalOf, bytesOf_modBraid]
      exact h3

/-! ### What operations of Contexts keep -/

theorem canonical_releaseCells (s : State) (part ctx : Nat) (h : Canonical (bytesOf s)) :
    Canonical (bytesOf (releaseCells s part ctx)) := by
  unfold releaseCells
  refine canonical_foldl ?_ _ h
  intro s a h
  grind [bytesOf_freeCell, canonical_retractCell, bytesOf_takeFree]

theorem canonical_discardBlocks (s : State) (bs : List Nat) (h : Canonical (bytesOf s)) :
    Canonical (bytesOf (discardBlocks s bs)) := by
  unfold discardBlocks
  refine canonical_foldl ?_ _ h
  intro s a h
  simp only [canonical_killBlock, h]

theorem canonical_forcedReset (s : State) (part ctx status : Nat) (h : Canonical (bytesOf s)) :
    Canonical (bytesOf (forcedReset s part ctx status)) := by
  unfold forcedReset
  dsimp only
  refine canonical_foldl ?_ _ ?_
  · intro s a h
    grind [canonical_discardBlocks, bytesOf_dropWaiting, canonical_failGrid, bytesOf_modCtx, bytesOf_modGrid,
      bytesOf_modPart, canonical_releaseCells]
  · grind [canonical_discardBlocks, bytesOf_dropWaiting, canonical_failGrid, bytesOf_modCtx, bytesOf_modGrid,
    bytesOf_modPart, canonical_releaseCells]

theorem canonical_dumpContext (s : State) (part ctx status cause pc : Nat) (h : Canonical (bytesOf s)) :
    Canonical (bytesOf (dumpContext s part ctx status cause pc)) := by
  unfold dumpContext
  extract_lets t bs s' s''
  have hs' : Canonical (bytesOf s') := canonical_forcedReset t.2 part ctx status ((bytesOf_tick s).symm ▸ h)
  rw [bytesOf_logEvent]
  exact hs'

/-! ### What operations of Mgmt keep -/

theorem canonical_resetContext (p : Nat) (s : State) (c : Nat) (h : Canonical (bytesOf s)) :
    Canonical (bytesOf (resetContext p s c)) := by
  unfold resetContext
  repeat' split
  all_goals simp only [canonical_dumpContext, canonical_forcedReset, h]

theorem canonical_partReset (s : State) (p how : Nat) (h : Canonical (bytesOf s)) :
    Canonical (bytesOf (partReset s p how)) := by
  unfold partReset
  extract_lets s1 s2 cls s3 s4 s5
  have h1 : Canonical (bytesOf s1) := canonical_foldl (fun s c h => canonical_resetContext p s c h) _ h
  have h3 : bytesOf s3 = bytesOf s1 := (bytesOf_foldl bytesOf_replaceCluster cls s2).trans (bytesOf_configure s1 p)
  have h4 : bytesOf s4 = bytesOf s3 := bytesOf_foldl (fun s c => bytesOf_modCore s c _) _ s3
  rw [bytesOf_logEvent, bytesOf_modPart, h4, h3]
  exact h1

theorem wf_endCommand {m : Mgmt} (result : Nat) (resp : List Byte) (hb : Memory.wf m.mbbuf = true)
    (hs : Memory.wf m.staging = true) : Memory.wf (endCommand m result resp).mbbuf = true ∧ Memory.wf
    (endCommand m result resp).staging = true  := ⟨wf_memWrite _ _ _ hb, hs⟩

theorem canonical_restartColls (s : State) (part comm : Nat) (h : Canonical (bytesOf s)) :
    Canonical (bytesOf (restartColls s part comm)) := by
  have hw : (restartColls s part comm).blocks.map Block.window = s.blocks.map Block.window := by
    refine List.ext_getElem? fun i => ?_
    simp only [restartColls, List.getElem?_map, List.getElem?_mapIdx]
    cases s.blocks[i]? with
    | none => rfl
    | some x =>
      simp only [Option.map_some]
      split <;> rfl
  have : bytesOf (restartColls s part comm) = bytesOf s := by
    simp only [bytesOf, hw]
    rfl
  exact this.symm ▸ h

theorem wf_mbcmdWrite {m : Mgmt} (v : DWord) (hb : Memory.wf m.mbbuf = true)
    (hs : Memory.wf m.staging = true) : Memory.wf (mbcmdWrite m v).mbbuf = true ∧ Memory.wf (mbcmdWrite m v).staging = true := by
  unfold mbcmdWrite
  split
  · exact ⟨hb, hs⟩
  · dsimp only
    split
    · exact wf_endCommand _ _ hb hs
    · exact ⟨hb, hs⟩

theorem wf_mbbufWrite {m : Mgmt} (off : Nat) (v : DWord) (hb : Memory.wf m.mbbuf = true)
    (hs : Memory.wf m.staging = true) : Memory.wf (mbbufWrite m off v).mbbuf = true ∧ Memory.wf
    (mbbufWrite m off v).staging = true := by
  unfold mbbufWrite
  split
  · exact ⟨hb, hs⟩
  · exact ⟨wf_memWrite _ _ _ hb, hs⟩

theorem canonical_dieWrite (s : State) (die off : Nat) (v : DWord) (h : Canonical (bytesOf s)) :
    Canonical (bytesOf (dieWrite s die off v)) := by
  unfold dieWrite
  repeat' split
  all_goals simp only [bytesOf_modDie, canonical_rejectEntry, canonical_serviceEntry, bytesOf_slotHalf, h]

theorem canonical_hostWrite (s : State) (off : Nat) (v : DWord) (h : Canonical (bytesOf s)) :
    Canonical (bytesOf (hostWrite s off v)) := by
  unfold hostWrite
  repeat' split
  · exact canonical_modMgmt (fun m => wf_mbcmdWrite v) h
  · exact canonical_modMgmt (fun m hb hs => ⟨hb, hs⟩) h
  · exact h
  · exact (bytesOf_clearTrip ..).symm ▸ h
  · exact (bytesOf_modDie ..).symm ▸ h
  · exact h
  · exact (bytesOf_fluidWrite ..).symm ▸ h
  · exact canonical_modMgmt (fun m => wf_mbbufWrite _ v) h
  · exact (bytesOf_ringWrite ..).symm ▸ h
  · exact h

theorem canonical_controlWrite (s : State) (off : Nat) (v : DWord) (h : Canonical (bytesOf s)) :
    Canonical (bytesOf (controlWrite s off v)) := by
  unfold controlWrite
  split <;> simp only [canonical_dieWrite, canonical_hostWrite, h]

theorem canonical_functionWrite (s : State) (part off : Nat) (v : DWord) (h : Canonical (bytesOf s)) :
    Canonical (bytesOf (functionWrite s part off v)) := by
  unfold functionWrite
  dsimp only
  repeat' split
  all_goals simp only [bytesOf_modPart, canonical_submitWrite, h]

theorem canonical_registerWrite (s : State) (who : MgmtWho) (off : Nat) (v : DWord)
    (h : Canonical (bytesOf s)) : Canonical (bytesOf (registerWrite s who off v)) := by
  unfold registerWrite
  repeat' split
  all_goals simp only [canonical_controlWrite, canonical_functionWrite, canonical_hostWrite, bytesOf_ringWrite, h]

/-! ### What operations of Links keep -/

theorem canonical_ringPut (s : State) (part r va : Nat) (bs : List Byte) (h : Canonical (bytesOf s)) :
    Canonical (bytesOf (ringPut s part r va bs)) := by
  induction bs generalizing s va with
  | nil => exact h
  | cons b bs ih =>
    unfold ringPut
    refine ih _ _ ?_
    split
    · split
      · exact canonical_foreignWrite _ _ _ h
      · exact h
    · exact h

theorem canonical_stopRing (s : State) (part r va : Nat) (d : Head) (err : Nat) (h : Canonical (bytesOf s)) :
    Canonical (bytesOf (stopRing s part r va d err))  := canonical_ringPut s part r va _ h

theorem canonical_lookRing (s : State) (part r : Nat) (h : Canonical (bytesOf s)) :
    Canonical (bytesOf (lookRing s part r)) := by
  unfold lookRing
  dsimp only
  repeat' split
  all_goals simp only [bytesOf_askRing, bytesOf_modRing, bytesOf_ringRead, canonical_stopRing, h]

theorem canonical_putCons (s : State) (part r : Nat) (x : Ring) (v : Nat) (h : Canonical (bytesOf s)) :
    Canonical (bytesOf (putCons s part r x v)) := by
  unfold putCons
  dsimp only
  repeat' split
  all_goals simp only [canonical_noteForeign, canonical_ringPut, h]

theorem canonical_closeDesc (s : State) (part r : Nat) (x : Ring) (d : Head) (place status : Nat) (len : Option Nat)
    (h : Canonical (bytesOf s)) : Canonical (bytesOf (closeDesc s part r x d place status len)) := by
  unfold closeDesc
  cases len <;> grind [bytesOf_modRing, canonical_putCons, canonical_ringPut]

theorem canonical_serveDesc {s t : State} {part r place d : Nat} {x : Ring} {m : Head} {w : RingWorld}
    (hr : serveDesc s part r x m place d w = .ok t) (h : Canonical (bytesOf s)) : Canonical (bytesOf t) := by
  unfold serveDesc at hr
  dsimp only at hr
  repeat' split at hr
  all_goals grind [canonical_closeDesc, canonical_ringPut, bytesOf_freeBytes, bytesOf_ringRead]

theorem canonical_outsideStep (s : State) (pa op ty val cmp : Nat) (h : Canonical (bytesOf s)) :
    Canonical (bytesOf (outsideStep s pa op ty val cmp)) := by
  unfold outsideStep
  simp only [bytesOf_foreignRead, canonical_foreignStep, bytesOf_send, h]

theorem canonical_outsideAccess (s : State) (pa : Nat) (a : Outside) (h : Canonical (bytesOf s)) :
    Canonical (bytesOf (outsideAccess s pa a)) := by
  unfold outsideAccess
  split <;> simp only [bytesOf_foreignRead, canonical_foreignWrite, canonical_outsideStep, bytesOf_send, h]

theorem canonical_resumeTraffic (s : State) (h : Canonical (bytesOf s)) : Canonical (bytesOf (resumeTraffic s)) := by
  unfold resumeTraffic
  refine canonical_foldl ?_ _ h
  intro s a h
  simp only [canonical_settleAll, h]

/-! ### What operations of Loader keep -/

theorem canonical_placeData (part ctx : Nat) (os : List DataObject) (s : State) (o : DataObject)
    (h : Canonical (bytesOf s)) : Canonical (bytesOf (placeData part ctx os s o)) := by
  unfold placeData
  refine canonical_foldl ?_ _ h
  intro s a h
  repeat' split
  all_goals simp only [canonical_physWrite, h]

theorem canonical_installWith (s : State) (part ctx : Nat) (o : CodeObject) (v : Version) (code : List (Nat × Byte))
    (h : Canonical (bytesOf s)) : Canonical (bytesOf (installWith s part ctx o v code)) := by
  unfold installWith
  dsimp only
  refine canonical_foldl (fun s d h => canonical_placeData part ctx _ s d h) _ (canonical_foldl (fun s e h => ?_) _ ?_)
  · split
    · exact canonical_foreignWrite s _ _ h
    · exact h
  · exact (bytesOf_modCtx ..).symm ▸ h

theorem canonical_installObject (s : State) (part ctx : Nat) (o : CodeObject) (h : Canonical (bytesOf s)) :
    Canonical (bytesOf (installObject s part ctx o)) := by
  unfold installObject
  simp only [canonical_installWith, h]

theorem canonical_installPortable (s : State) (part ctx : Nat) (o : CodeObject) (p : Portable)
    (h : Canonical (bytesOf s)) : Canonical (bytesOf (installPortable s part ctx o p)) := by
  unfold installPortable
  grind [bytesOf_base, canonical_installWith]

/-! ### What operations of Power keep -/

theorem canonical_recheck (full : Bool) (s : State) (p : Nat) (h : Canonical (bytesOf s)) :
    Canonical (bytesOf (recheck full s p)) := by
  unfold recheck
  dsimp only
  refine canonical_foldl ?_ _ ?_
  · intro s a h
    repeat' split
    all_goals simp only [canonical_failGrid, h]
  · simp only [h]

theorem canonical_outOfService (s : State) (core why : Nat) (h : Canonical (bytesOf s)) :
    Canonical (bytesOf (outOfService s core why)) := by
  unfold outOfService
  dsimp only
  refine canonical_foldl ?_ _ ?_
  · intro s a h
    simp only [canonical_recheck, h]
  · simp only [bytesOf_logEvent, bytesOf_modCore, h]

theorem canonical_takeFuse (s : State) (core side lane : Nat) (h : Canonical (bytesOf s)) :
    Canonical (bytesOf (takeFuse s core side lane)) := by
  unfold takeFuse
  dsimp only
  generalize fused _ lane = f
  split
  · exact canonical_outOfService s core 1 h
  · refine canonical_foldl (fun s p h => canonical_recheck false s p h) _ ?_
    rw [bytesOf_logEvent, bytesOf_modCore]
    exact h

end Sys2Proof.Machine
end

/-! ## The byte stores: what instructions and steps keep -/

section
open Sys2Proof Sys2Proof.Machine

namespace Sys2Proof.Machine

/-! ### Acts and outcomes -/

/-- What an outcome's next state keeps. -/
def Lands (o : Host.Outcome State Fault Refusal) : Prop := ∀ t, o = .next t → Canonical (bytesOf t)

/-- A next state that is canonical. -/
theorem lands_next {t : State} (h : Canonical (bytesOf t)) : Lands (.next t) := by
  rintro _ ⟨⟩
  exact h

/-- What an act does to a state keeps the byte stores canonical. -/
structure Act.Keeps (a : Act) : Prop where
  ask : ∀ k, a = .ask k → ∀ t, Canonical (bytesOf t) → Canonical (bytesOf (k t))
  go : ∀ regs dws k, a = .go regs dws k → ∀ t, Canonical (bytesOf t) → Canonical (bytesOf (k t))

/-- What an act that goes on keeps. -/
theorem keeps_go {regs dws : List Nat} {k : State → State} (h : ∀ t, Canonical (bytesOf t) → Canonical (bytesOf (k t))) :
    (Act.go regs dws k).Keeps := ⟨fun _ => nofun, fun _ _ _ e => by cases e; exact h⟩

/-- What an act that asks for something keeps. -/
theorem keeps_ask {k : State → State} (h : ∀ t, Canonical (bytesOf t) → Canonical (bytesOf (k t))) : (Act.ask k).Keeps :=
  ⟨fun _ e => by (cases e; exact h), fun _ _ _ => nofun⟩

/-- An act that does nothing. -/
theorem keeps_idle {regs dws : List Nat} : (Act.go regs dws (fun t => t)).Keeps := keeps_go fun _ h => h

/-- A trap. -/
theorem keeps_trap {k : Cause} {ls : List Nat} {d a : Nat} : (Act.trap k ls d a).Keeps :=
  ⟨fun _ => nofun, fun _ _ _ => nofun⟩

/-- A wait. -/
theorem keeps_wait : Act.wait.Keeps := ⟨fun _ => nofun, fun _ _ _ => nofun⟩

/-- One of two acts. -/
theorem keeps_ite {p : Prop} [Decidable p] {a b : Act} (ha : a.Keeps) (hb : b.Keeps) : (if p then a else b).Keeps := by
  split
  · exact ha
  · exact hb

/-- Registers written. -/
theorem keeps_goRegs {u : Issue} {ws : List RegW} : (goRegs u ws).Keeps :=
  keeps_go fun _ h => (bytesOf_modCord ..).symm ▸ h

/-- An operation queued. -/
theorem keeps_goOp {u : Issue} {regs dws : List Nat} {o : Op} : (goOp u regs dws o).Keeps :=
  keeps_ite keeps_idle (keeps_go fun _ h => (bytesOf_addOp ..).symm ▸ h)

/-- A wait for lines. -/
theorem keeps_awaitLines {u : Issue} {ls : List (Nat × Nat)} : (awaitLines u ls).Keeps :=
  keeps_ask fun _ h => ((bytesOf_swapOut ..).trans (bytesOf_modCord ..)).symm ▸ h

/-- A wait for the ticket. -/
theorem keeps_awaitTicket {u : Issue} : (awaitTicket u).Keeps := keeps_ask fun _ h => (bytesOf_modCord ..).symm ▸ h

/-- Checked addresses. -/
theorem keeps_checkGlobal {eas : List (Nat × Nat)} {canon : Bool} {align : Nat} {k : Act} (h : k.Keeps) :
    (checkGlobal eas canon align k).Keeps := keeps_ite keeps_trap (keeps_ite keeps_trap h)

/-- Checked scratchpad addresses. -/
theorem keeps_checkLocal {s : State} {u : Issue} {f : LForm} {k : List (Nat × Nat × Nat) → Act} (h : ∀ ps, (k ps).Keeps) :
    (checkLocal s u f k).Keeps := keeps_ite keeps_trap (keeps_ite keeps_trap (keeps_ite keeps_trap (h _)))

/-- A checked offset. -/
theorem keeps_checkOwn {u : Issue} {lanes : List Nat} {x align size : Nat} {k : Act} (h : k.Keeps) :
    (checkOwn u lanes x align size k).Keeps := keeps_ite keeps_trap (keeps_ite keeps_trap h)

/-- An access to the own window. -/
theorem keeps_withOwn {s : State} {u : Issue} {f : LForm} {lanes : List Nat} {off size : Nat} {k : Act} (h : k.Keeps) :
    (withOwn s u f lanes off size k).Keeps := keeps_ite keeps_awaitLines (keeps_ite keeps_wait h)

/-- A checked role. -/
theorem keeps_checkRole {s : State} {u : Issue} {lanes : List Nat} {paired : Bool} {k : Option Nat → Act}
    (h : ∀ f, (k f).Keeps) : (checkRole s u lanes paired k).Keeps := by
  refine keeps_ite keeps_trap (keeps_ite (h none) (keeps_ite keeps_trap ?_))
  split
  · exact keeps_trap
  · exact h _

/-- Checked targets. -/
theorem keeps_checkTargets {u : Issue} {s : State} {ts : List (Nat × DWord)} {k : Act} (h : k.Keeps) :
    (checkTargets u s ts k).Keeps := by
  refine keeps_ite keeps_trap (keeps_ite ?_ (keeps_ite keeps_trap (keeps_ite keeps_wait h)))
  exact keeps_ask fun _ ht => (bytesOf_askFetches ..).symm ▸ ht

/-- An instruction whose act keeps the byte stores canonical. -/
theorem lands_issue {i : Instr} {body : Issue → State → Act} {s : State} (hb : ∀ u, (body u s).Keeps)
    (h : Canonical (bytesOf s)) : Lands (issue i body s) := by
  intro t ht
  cases hu : issueOf s i.length with
  | none => simp only [issue, hu] at ht; cases ht
  | some u =>
    have hb := hb u
    rcases issue_cases hu ht with ⟨_, _, _, _, -, rfl⟩ | rfl | rfl | ⟨k, hk, rfl⟩ | ⟨regs, dws, k, hk, ⟨-, rfl⟩ | ⟨-, rfl⟩⟩
    · exact (bytesOf_trapAt ..).symm ▸ h
    · exact h
    · exact (bytesOf_markEnding ..).symm ▸ h
    · exact hb.ask k hk s h
    · exact hb.go _ _ k hk s h
    · exact hb.go _ _ k hk _ ((bytesOf_modCord ..).symm ▸ h)

/-- An injected instruction whose act keeps the byte stores canonical. -/
theorem lands_inject {i : Instr} {body : Issue → State → Act} {s : State} (hb : ∀ u, (body u s).Keeps)
    (h : Canonical (bytesOf s)) : Lands (inject i body s) := by
  have hrefused : Lands (.next (send s .fwRefused)) := lands_next ((bytesOf_send ..).symm ▸ h)
  unfold inject
  split
  · rintro _ ⟨⟩
  next u _ =>
    split
    · exact hrefused
    · split
      · split
        next hk => exact lands_next ((hb u).go _ _ _ hk s h)
        · exact hrefused
      · exact lands_issue hb h

/-- A mailbox command whose run keeps the byte stores canonical. -/
theorem lands_mailbox {op : Nat} {lenOk : Nat → Bool} {run : List Byte → State → Ran} {s : State}
    (hr : ∀ bs, Canonical (bytesOf (run bs s).2.2)) (h : Canonical (bytesOf s)) : Lands (mailbox op lenOk run s) := by
  have hend (t : State) (ht : Canonical (bytesOf t)) (n : Nat) (bs : List Byte) :
      Canonical (bytesOf (modMgmt t (fun m => endCommand m n bs))) :=
    canonical_modMgmt (fun m => wf_endCommand n bs) ht
  refine lands_next ?_
  dsimp only
  repeat' split
  · exact h
  · exact hend s h ..
  · exact hend s h ..
  · exact hend _ (hr _) ..


/-! ### The acts of instructions that share them -/

/-- A queued instruction. -/
theorem keeps_queuedBody {q : Nat} {f : LForm} {k : Cause} {g : Cord → Nat → Queued} {u : Issue} {s : State} :
    (queuedBody q f k g u s).Keeps := keeps_ite keeps_wait keeps_goOp

/-- A transfer. -/
theorem keeps_transfer {f : LForm} {target : Issue → Nat → DWord} {link ret : Bool} {u : Issue} {s : State} :
    (transfer f target link ret u s).Keeps :=
  keeps_ite keeps_idle (keeps_checkTargets (keeps_go fun _ h => (bytesOf_modCord ..).symm ▸ h))

/-- A mask written. -/
theorem keeps_maskBody {f : LForm} {g : Cord → DWord} {u : Issue} {s : State} : (maskBody f g u s).Keeps := by
  unfold maskBody
  exact keeps_go fun _ h => (bytesOf_modCord ..).symm ▸ h

/-- A trap that moves its strands on. -/
theorem keeps_trapNext {s : State} (h : Canonical (bytesOf s)) {u : Issue} {k : Cause} {ls : List Nat} {d : Nat} :
    (trapNext s u k ls d).Keeps := keeps_ask fun _ _ => ((bytesOf_trapAt ..).trans (bytesOf_modCord ..)).symm ▸ h

/-- A return from the handler. -/
theorem keeps_tretGo {s : State} {u : Issue} {skip : Nat → DWord → Option DWord} : (tretGo s u skip).Keeps :=
  keeps_ite keeps_wait (keeps_go fun _ h => (bytesOf_modCord ..).symm ▸ h)

/-- A store to windows. -/
theorem keeps_goWindowStore {u : Issue} {s : State} {f : LForm} {ps : List (Nat × Nat × Nat)} : (goWindowStore u s f ps).Keeps :=
  keeps_go fun _ h => canonical_settle _ _ ((bytesOf_addAccOp ..).symm ▸ h)

/-- An atomic. -/
theorem keeps_atomicBody {f : LForm} {kind : OpKind} {regs : List Nat} {accs : Issue → List (Nat × Nat) → List Acc} {u : Issue}
    {s : State} : (atomicBody f kind regs accs u s).Keeps := by
  refine keeps_checkGlobal (keeps_ite keeps_idle (keeps_ite keeps_awaitTicket (keeps_go fun t h => ?_)))
  grind [bytesOf_addAccOp, bytesOf_countPhase, bytesOf_coreBoundary, bytesOf_modCord, bytesOf_modCore]

/-- A barrier-object instruction. -/
theorem keeps_objectBody {f : LForm} {k : Issue → Nat → Act} {u : Issue} {s : State} (h : ∀ off, (k u off).Keeps) :
    (objectBody f k u s).Keeps := keeps_ite keeps_idle (keeps_checkOwn (keeps_withOwn (h _)))

/-- A request handed over. -/
theorem keeps_requestBody {f : LForm} {e : Engine} {k : State → State} {u : Issue} {s : State}
    (h : ∀ t, bytesOf (k t) = bytesOf t) : (requestBody f e k u s).Keeps :=
  keeps_ite keeps_idle (keeps_checkOwn (keeps_ite keeps_wait (keeps_withOwn (keeps_go fun t ht =>
    ((bytesOf_handOver ..).trans (h t)).symm ▸ ht))))

/-- MMA and MMAS. -/
theorem keeps_mmaBody {f : LForm} {kind : ArrKind} {paired : Bool} {u : Issue} {s : State} : (mmaBody f kind paired u s).Keeps := by
  refine keeps_ite keeps_idle (keeps_checkRole fun fol => ?_)
  refine keeps_ite keeps_trap (keeps_ite keeps_trap (keeps_ite keeps_trap (keeps_ite keeps_trap (keeps_ite keeps_trap ?_))))
  exact keeps_ite keeps_wait (keeps_go fun _ h => (bytesOf_queueArr ..).symm ▸ h)

/-- A clock of each cord of a core. -/
theorem bytesOf_runClocks (s : State) (core : Nat) : bytesOf (runClocks s core) = bytesOf s := by
  have hw : (runClocks s core).blocks.map Block.window = s.blocks.map Block.window := by
    refine List.ext_getElem? fun i => ?_
    simp only [runClocks, List.getElem?_map, List.getElem?_mapIdx]
    cases s.blocks[i]? with
    | none => rfl
    | some x =>
      simp only [Option.map_some]
      split <;> rfl
  simp only [bytesOf, hw]
  rfl

/-- A request read without poison, or its braid killed. -/
theorem canonical_unpoisoned {s k : State} (r : Request) (h : Canonical (bytesOf s)) (hk : Canonical (bytesOf k)) :
    Canonical (bytesOf (unpoisoned s r k)) := by
  unfold unpoisoned
  split
  · exact (bytesOf_killBraid ..).symm ▸ h
  · exact hk

/-- The staging area changed in its own way. -/
theorem canonical_staging {g : Mgmt → Mem} (hg : ∀ m, Memory.wf m.staging = true → Memory.wf (g m) = true) {s : State}
    (h : Canonical (bytesOf s)) : Canonical (bytesOf (modMgmt s (fun m => { m with staging := g m }))) :=
  canonical_modMgmt (f := fun m => { m with staging := g m }) (fun m hb hs => ⟨hb, hg m hs⟩) h

/-! ### What instructions and steps of Control keep -/

theorem lands_execClauseHeader (x : Header) {s : State} (h : Canonical (bytesOf s)) : Lands (execClauseHeader x s) := by
  unfold execClauseHeader
  split
  · rintro _ ⟨⟩
  · repeat' split
    all_goals refine lands_next ?_
    all_goals grind [bytesOf_trapAt, bytesOf_stallAtHeader, bytesOf_markEnding, bytesOf_modCord]

/-! ### What instructions and steps of Integer keep -/

theorem lands_execNop (f : SForm) {s : State} (h : Canonical (bytesOf s)) : Lands (execNop f s) := by
  refine lands_issue (fun u => ?_) h
  grind [keeps_go]

/-! ### What instructions and steps of Memory keep -/

theorem lands_execCvtsc (f : LForm) {s : State} (h : Canonical (bytesOf s)) : Lands (execCvtsc f s) := by
  refine lands_issue (fun u => ?_) h
  grind [keeps_go, keeps_trap, keeps_wait, bytesOf_addAccOp, keeps_checkGlobal, keeps_goOp]

/-! ### What instructions and steps of Queue keep -/

theorem lands_execQueuedResultWrite (b c o : Nat) {s : State} (h : Canonical (bytesOf s)) :
    Lands (execQueuedResultWrite b c o s) := by
  refine lands_next ?_
  grind [bytesOf_modCord]

/-! ### What instructions and steps of Control keep -/

theorem lands_execExit (f : LForm) {s : State} (h : Canonical (bytesOf s)) : Lands (execExit f s) := by
  refine lands_issue (fun u => ?_) h
  grind [keeps_go, bytesOf_endStrands]

theorem lands_execYield (f : LForm) {s : State} (h : Canonical (bytesOf s)) : Lands (execYield f s) := by
  refine lands_issue (fun u => ?_) h
  grind [keeps_go, bytesOf_swapOut]

/-! ### What instructions and steps of Integer keep -/

theorem lands_execNopLong (f : LForm) {s : State} (h : Canonical (bytesOf s)) : Lands (execNopLong f s) := by
  refine lands_issue (fun u => ?_) h
  grind [keeps_go]

/-! ### What instructions and steps of Control keep -/

theorem lands_execJoin (f : LForm) {s : State} (h : Canonical (bytesOf s)) : Lands (execJoin f s) := by
  refine lands_issue (fun u => ?_) h
  grind [keeps_go, bytesOf_modCord]

theorem lands_execLeave (f : LForm) {s : State} (h : Canonical (bytesOf s)) : Lands (execLeave f s) := by
  refine lands_issue (fun u => ?_) h
  grind [keeps_go, bytesOf_modCord]

theorem lands_execWaitm (f : LForm) {s : State} (h : Canonical (bytesOf s)) : Lands (execWaitm f s) := by
  refine lands_issue (fun u => ?_) h
  grind [keeps_go, bytesOf_modCord]

theorem lands_execKset (f : LForm) {s : State} (h : Canonical (bytesOf s)) : Lands (execKset f s) := by
  refine lands_issue (fun u => ?_) h
  grind [keeps_maskBody]

theorem lands_execKand (f : LForm) {s : State} (h : Canonical (bytesOf s)) : Lands (execKand f s) := by
  refine lands_issue (fun u => ?_) h
  grind [keeps_maskBody]

theorem lands_execKor (f : LForm) {s : State} (h : Canonical (bytesOf s)) : Lands (execKor f s) := by
  refine lands_issue (fun u => ?_) h
  grind [keeps_maskBody]

/-! ### What instructions and steps of CrossLane keep -/

theorem lands_execVote (f : LForm) {s : State} (h : Canonical (bytesOf s)) : Lands (execVote f s) := by
  refine lands_issue (fun u => ?_) h
  grind [keeps_goRegs]

theorem lands_execMatchLanes (f : LForm) {s : State} (h : Canonical (bytesOf s)) : Lands (execMatchLanes f s) := by
  refine lands_issue (fun u => ?_) h
  grind [keeps_goRegs]

/-! ### What instructions and steps of Barriers keep -/

theorem lands_execBar (f : LForm) {s : State} (h : Canonical (bytesOf s)) : Lands (execBar f s) := by
  refine lands_issue (fun u => ?_) h
  grind [keeps_go, keeps_wait, bytesOf_checkBar, bytesOf_modCord]

theorem lands_execBarb (f : LForm) {s : State} (h : Canonical (bytesOf s)) : Lands (execBarb f s) := by
  refine lands_issue (fun u => ?_) h
  grind [keeps_go, keeps_wait, bytesOf_arriveWide, bytesOf_beginRelease, bytesOf_departAll]

theorem lands_execGbar (f : LForm) {s : State} (h : Canonical (bytesOf s)) : Lands (execGbar f s) := by
  refine lands_issue (fun u => ?_) h
  grind [keeps_go, keeps_trap, keeps_wait, bytesOf_arriveWide, bytesOf_beginRelease, bytesOf_modCord,
    bytesOf_passBoundary, bytesOf_releaseGbar]

theorem lands_execLaunch (f : LForm) {s : State} (h : Canonical (bytesOf s)) : Lands (execLaunch f s) := by
  refine lands_issue (fun u => ?_) h
  dsimp only
  split
  · exact keeps_wait
  · refine keeps_ite (keeps_go fun _ ht => ?_) keeps_wait
    exact (bytesOf_beginRelease ..).symm ▸ ht
  · split
    · refine keeps_ite ?_ keeps_wait
      split
      next hr => exact keeps_go fun _ _ => canonical_readRecord hr h
      · exact keeps_wait
    · exact keeps_wait
  · exact keeps_wait
  · refine keeps_ite keeps_trap (keeps_ite keeps_trap (keeps_ite keeps_idle (keeps_ite keeps_trap (keeps_ite keeps_trap ?_))))
    refine keeps_go fun t ht => ?_
    rw [bytesOf_modCord, bytesOf_addAccOp, execLaunch.boundaryHere, bytesOf_coreBoundary, bytesOf_modCord,
      bytesOf_countPhase,
      bytesOf_unrelaunch]
    exact ht

theorem lands_execLaunchQueueRoom (b : Nat) {s : State} (h : Canonical (bytesOf s)) : Lands (execLaunchQueueRoom b s) := by
  refine lands_next ?_
  grind [canonical_endLaunch, canonical_launchRecord]

theorem lands_execWaitch (f : LForm) {s : State} (h : Canonical (bytesOf s)) : Lands (execWaitch f s) := by
  refine lands_issue (fun u => ?_) h
  grind [keeps_go, keeps_trap, keeps_wait, bytesOf_modCord, bytesOf_takeAnswer]

/-! ### What instructions and steps of System keep -/

theorem lands_execMfs (f : LForm) {s : State} (h : Canonical (bytesOf s)) : Lands (execMfs f s) := by
  refine lands_issue (fun u => ?_) h
  grind [keeps_go, keeps_wait, canonical_cycleLanes, bytesOf_modCord]

theorem lands_execMts (f : LForm) {s : State} (h : Canonical (bytesOf s)) : Lands (execMts f s) := by
  refine lands_issue (fun u => ?_) h
  grind [keeps_go, bytesOf_modCord]

theorem lands_execTrap (f : LForm) {s : State} (h : Canonical (bytesOf s)) : Lands (execTrap f s) :=
  lands_issue (fun _ => keeps_ite keeps_idle (keeps_trapNext h)) h

theorem lands_execBkpt (f : LForm) {s : State} (h : Canonical (bytesOf s)) : Lands (execBkpt f s) := by
  refine lands_issue (fun u => keeps_ite keeps_wait (keeps_ite ?_ (keeps_ite (keeps_trapNext h) keeps_idle))) h
  exact keeps_go fun _ ht => (bytesOf_modCord ..).symm ▸ ht

theorem lands_execTret (f : LForm) {s : State} (h : Canonical (bytesOf s)) : Lands (execTret f s) := by
  refine lands_issue (fun u => keeps_ite keeps_trap ?_) h
  split
  · refine keeps_ite ?_ keeps_tretGo
    split
    · exact keeps_tretGo
    · exact keeps_ask fun _ ht => (bytesOf_askWalk ..).symm ▸ ht
  · exact keeps_tretGo

theorem lands_execTqdrop (f : LForm) {s : State} (h : Canonical (bytesOf s)) : Lands (execTqdrop f s) := by
  refine lands_issue (fun u => ?_) h
  grind [keeps_go, bytesOf_modCord]

theorem lands_execRgnend (f : LForm) {s : State} (h : Canonical (bytesOf s)) : Lands (execRgnend f s) := by
  refine lands_issue (fun u => ?_) h
  grind [keeps_go]

theorem lands_execFwsave (f : LForm) {s : State} (h : Canonical (bytesOf s)) : Lands (execFwsave f s) :=
  lands_inject (fun _ => keeps_go fun _ ht => canonical_physWrite _ _ _ ht) h

theorem lands_execFwrest (f : LForm) {s : State} (h : Canonical (bytesOf s)) : Lands (execFwrest f s) := by
  refine lands_inject (fun u => keeps_ite (keeps_go fun _ _ => ?_) keeps_wait) h
  exact ((bytesOf_modCord ..).trans (bytesOf_physRead ..)).symm ▸ h

theorem lands_execFwarr (f : LForm) {s : State} (h : Canonical (bytesOf s)) : Lands (execFwarr f s) := by
  refine lands_inject (fun u => keeps_go fun t ht => ?_) h
  dsimp only
  split
  · exact canonical_physWrite _ _ _ ht
  · exact ((bytesOf_modCore ..).trans (bytesOf_physRead ..)).symm ▸ ht

theorem lands_execFwend (f : LForm) {s : State} (h : Canonical (bytesOf s)) : Lands (execFwend f s) :=
  lands_inject (fun _ => keeps_idle) h

/-! ### What instructions and steps of Memory keep -/

theorem lands_execLd (f : LForm) {s : State} (h : Canonical (bytesOf s)) : Lands (execLd f s) := by
  refine lands_issue (fun u => ?_) h
  grind [keeps_go, bytesOf_addAccOp, keeps_checkGlobal]

theorem lands_execSt (f : LForm) {s : State} (h : Canonical (bytesOf s)) : Lands (execSt f s) := by
  refine lands_issue (fun u => ?_) h
  grind [keeps_go, bytesOf_addAccOp, keeps_awaitTicket, keeps_checkGlobal, canonical_settle]

theorem lands_execLdx (f : LForm) {s : State} (h : Canonical (bytesOf s)) : Lands (execLdx f s) := by
  refine lands_issue (fun u => ?_) h
  grind [keeps_go, keeps_wait, keeps_awaitLines, keeps_checkGlobal, bytesOf_killBraid, bytesOf_modCord]

theorem lands_execStx (f : LForm) {s : State} (h : Canonical (bytesOf s)) : Lands (execStx f s) :=
  lands_issue (fun _ => keeps_checkGlobal (keeps_ite keeps_idle (keeps_ite keeps_awaitLines keeps_goWindowStore))) h

theorem lands_execLdc (f : LForm) {s : State} (h : Canonical (bytesOf s)) : Lands (execLdc f s) := by
  refine lands_issue (fun u => ?_) h
  grind [keeps_go, bytesOf_addAccOp, keeps_awaitLines, keeps_checkLocal]

theorem lands_execStc (f : LForm) {s : State} (h : Canonical (bytesOf s)) : Lands (execStc f s) := by
  refine lands_issue (fun u => keeps_checkLocal fun ps => keeps_ite keeps_idle (keeps_ite keeps_awaitLines ?_)) h
  exact keeps_goWindowStore

theorem lands_execPhase (f : LForm) {s : State} (h : Canonical (bytesOf s)) : Lands (execPhase f s) := by
  refine lands_issue (fun u => ?_) h
  grind [keeps_go, keeps_wait, bytesOf_beginRelease, bytesOf_countPhase, bytesOf_modCord, bytesOf_passBoundary,
    bytesOf_passPhase]

theorem lands_execFenceX (f : LForm) {s : State} (h : Canonical (bytesOf s)) : Lands (execFenceX f s) := by
  refine lands_issue (fun u => ?_) h
  grind [keeps_go, keeps_wait, bytesOf_modCord]

theorem lands_execFenceP (f : LForm) {s : State} (h : Canonical (bytesOf s)) : Lands (execFenceP f s) := by
  refine lands_issue (fun u => ?_) h
  grind [keeps_go, keeps_wait, bytesOf_beginFence, bytesOf_modCord, bytesOf_passFence]

theorem lands_execPref (f : LForm) {s : State} (h : Canonical (bytesOf s)) : Lands (execPref f s) := by
  refine lands_issue (fun u => ?_) h
  grind [keeps_go, bytesOf_addAccOp, keeps_checkGlobal]

/-! ### What instructions and steps of Atomics keep -/

theorem lands_execAtomr (f : LForm) {s : State} (h : Canonical (bytesOf s)) : Lands (execAtomr f s) := by
  refine lands_issue (fun u => ?_) h
  grind [keeps_go, keeps_trap, keeps_wait, bytesOf_addAccOp, keeps_awaitTicket, keeps_checkGlobal, bytesOf_modCore,
    canonical_settleAll, bytesOf_unrelaunch]

theorem lands_execCqpop (f : LForm) {s : State} (h : Canonical (bytesOf s)) : Lands (execCqpop f s) := by
  refine lands_issue (fun u => ?_) h
  grind [keeps_go, bytesOf_addOp, canonical_settleAll, canonical_takeReplies]

theorem lands_execTst (f : LForm) {s : State} (h : Canonical (bytesOf s)) : Lands (execTst f s) := by
  refine lands_issue (fun u => ?_) h
  grind [keeps_go, bytesOf_addAccOp, keeps_awaitTicket, keeps_checkGlobal]

theorem lands_execRetract (f : LForm) {s : State} (h : Canonical (bytesOf s)) : Lands (execRetract f s) := by
  refine lands_issue (fun u => ?_) h
  grind [keeps_go, keeps_wait, bytesOf_addAccOp, keeps_awaitTicket, keeps_checkGlobal, keeps_checkTargets,
    bytesOf_modCord]

theorem lands_execTcommit (f : LForm) {s : State} (h : Canonical (bytesOf s)) : Lands (execTcommit f s) := by
  refine lands_issue (fun u => ?_) h
  grind [keeps_go, bytesOf_addAccOp, keeps_awaitTicket, keeps_checkGlobal]

/-! ### What instructions and steps of Scratch keep -/

theorem lands_execTdset (f : LForm) {s : State} (h : Canonical (bytesOf s)) : Lands (execTdset f s) := by
  refine lands_issue (fun u => ?_) h
  grind [keeps_go, keeps_trap, keeps_wait, keeps_checkOwn, bytesOf_setDesc, keeps_withOwn]

theorem lands_execTdget (f : LForm) {s : State} (h : Canonical (bytesOf s)) : Lands (execTdget f s) := by
  refine lands_issue (fun u => ?_) h
  grind [keeps_go, keeps_checkOwn, canonical_winWrite, keeps_withOwn]

theorem lands_execTdinv (f : LForm) {s : State} (h : Canonical (bytesOf s)) : Lands (execTdinv f s) := by
  refine lands_issue (fun u => ?_) h
  grind [keeps_go, bytesOf_setDesc]

theorem lands_execLookup (f : LForm) {s : State} (h : Canonical (bytesOf s)) : Lands (execLookup f s) := by
  refine lands_issue (fun u => ?_) h
  grind [keeps_go, keeps_goRegs]

theorem lands_execTagset (f : LForm) {s : State} (h : Canonical (bytesOf s)) : Lands (execTagset f s) := by
  refine lands_issue (fun u => keeps_ite keeps_idle (keeps_ite keeps_trap (keeps_ite keeps_trap (keeps_go fun t ht => ?_)))) h
  exact canonical_modBlock (f := fun x => bindTag x _ _) (fun x hx => hx) _ ht

theorem lands_execTagclr (f : LForm) {s : State} (h : Canonical (bytesOf s)) : Lands (execTagclr f s) := by
  refine lands_issue (fun u => ?_) h
  grind [keeps_go, keeps_trap, canonical_modBlock, bytesOf_modBlock]

theorem lands_execPres (f : LForm) {s : State} (h : Canonical (bytesOf s)) : Lands (execPres f s) := by
  refine lands_issue (fun u => ?_) h
  grind [keeps_go, keeps_trap, keeps_awaitLines, bytesOf_modCord, canonical_presLanes]

theorem lands_execKick (f : LForm) {s : State} (h : Canonical (bytesOf s)) : Lands (execKick f s) :=
  lands_issue (fun _ => keeps_requestBody fun _ => rfl) h

theorem lands_execBoinit (f : LForm) {s : State} (h : Canonical (bytesOf s)) : Lands (execBoinit f s) :=
  lands_issue (fun _ => keeps_objectBody fun _ => keeps_go fun _ ht => canonical_winWrite _ _ _ _ _ ht) h

theorem lands_execBoarrive (f : LForm) {s : State} (h : Canonical (bytesOf s)) : Lands (execBoarrive f s) :=
  lands_issue (fun _ => keeps_objectBody fun _ => keeps_go fun _ ht => canonical_objectUpdate _ _ _ _ _ _ ht) h

theorem lands_execBowait (f : LForm) {s : State} (h : Canonical (bytesOf s)) : Lands (execBowait f s) := by
  refine lands_issue (fun u => ?_) h
  split
  · exact keeps_ite (keeps_go fun t ht => ((bytesOf_bowaitReturn ..).trans (bytesOf_modCord ..)).symm ▸ ht) keeps_wait
  · exact keeps_wait
  · refine keeps_objectBody fun off => keeps_ite (keeps_go fun t ht => ?_) (keeps_go fun t ht => ?_)
    · exact (bytesOf_bowaitReturn ..).symm ▸ ht
    · exact (bytesOf_modCord ..).symm ▸ ht

/-! ### What instructions and steps of Arrays keep -/

theorem lands_execMzero (f : LForm) {s : State} (h : Canonical (bytesOf s)) : Lands (execMzero f s) := by
  refine lands_issue (fun u => ?_) h
  grind [keeps_go, keeps_wait, keeps_checkRole, bytesOf_queueArr]

theorem lands_execMdrain (f : LForm) {s : State} (h : Canonical (bytesOf s)) : Lands (execMdrain f s) := by
  refine lands_issue (fun u => keeps_ite keeps_idle (keeps_checkRole fun fol => ?_)) h
  refine keeps_ite keeps_trap (keeps_ite keeps_trap (keeps_ite keeps_wait (keeps_go fun t ht => ?_)))
  dsimp only
  split
  · exact (bytesOf_queueDrain ..).symm ▸ ht
  · exact (bytesOf_queueArr ..).symm ▸ ht

theorem lands_execMaccld (f : LForm) {s : State} (h : Canonical (bytesOf s)) : Lands (execMaccld f s) := by
  refine lands_issue (fun u => keeps_ite keeps_idle (keeps_checkRole fun fol => ?_)) h
  refine keeps_ite keeps_trap (keeps_ite keeps_trap (keeps_ite keeps_wait (keeps_go fun t ht => ?_)))
  exact (bytesOf_queueArr ..).symm ▸ ht

/-! ### What instructions and steps of Scratch keep -/

theorem lands_execColl (f : LForm) {s : State} (h : Canonical (bytesOf s)) : Lands (execColl f s) :=
  lands_issue (fun _ => keeps_requestBody fun _ => bytesOf_unrelaunch ..) h

theorem lands_execGse (f : LForm) {s : State} (h : Canonical (bytesOf s)) : Lands (execGse f s) :=
  lands_issue (fun _ => keeps_requestBody fun _ => rfl) h

/-! ### What instructions and steps of Memory keep -/

theorem lands_execLoadDataReturn (b c o : Nat) {s : State} (h : Canonical (bytesOf s)) :
    Lands (execLoadDataReturn b c o s) := by
  refine lands_next ?_
  grind [bytesOf_cvtscReady, canonical_eachAcc, bytesOf_eachAcc, bytesOf_finishOp, bytesOf_loadOne, bytesOf_prefOne,
    bytesOf_scaleOne, canonical_settle]

/-! ### What instructions and steps of Homes keep -/

theorem lands_execStoreArrivalAtHome (core n : Nat) {s : State} (h : Canonical (bytesOf s)) :
    Lands (execStoreArrivalAtHome core n s) := by
  refine lands_next ?_
  grind [canonical_homeBytes, bytesOf_modCore]

theorem lands_execL1Writeback (core line : Nat) {s : State} (h : Canonical (bytesOf s)) :
    Lands (execL1Writeback core line s) := by
  refine lands_next ?_
  grind [bytesOf_writeBack]

theorem lands_execTentativeStoreArrival (b c o dw : Nat) {s : State} (h : Canonical (bytesOf s)) :
    Lands (execTentativeStoreArrival b c o dw s) := by
  refine lands_next ?_
  split
  · split
    · split
      · exact h
      · refine canonical_settleAll _ _ ((bytesOf_finishOp ..).symm ▸ canonical_foldl (fun s i h => ?_) _ h)
        split
        · split
          · exact canonical_tentativeOne _ _ _ _ _ _ h
          · exact h
        · exact h
    · exact h
  · exact h

theorem lands_execUncoveredStoreReport (b c : Nat) {s : State} (h : Canonical (bytesOf s)) :
    Lands (execUncoveredStoreReport b c s) := by
  refine lands_next ?_
  grind [bytesOf_modCord]

/-! ### What instructions and steps of Atomics keep -/

theorem lands_execAtomicStep (b c o pa : Nat) {s : State} (h : Canonical (bytesOf s)) : Lands (execAtomicStep b c o pa s) := by
  have hstep (op : Op) (x : Block) : Canonical (bytesOf (
      if !groupReady s b c x.core op pa then s
      else
        match (accsAt op pa).head?.bind (fun i => (op.accs[i]?).map Acc.st) with
        | some (.sent g) => runMembers s (groupMembers s pa g)
        | _ => runGroup s b c o pa)) := by
    split
    · exact h
    · split
      · exact canonical_runMembers _ _ h
      · exact canonical_runGroup _ _ _ _ _ h
  refine lands_next ?_
  split
  · refine canonical_settleAll _ _ ?_
    split
    · exact (bytesOf_finishOp ..).symm ▸ canonical_eachCell _ _ _ _ _ (fun s core op i h => canonical_retractStep _ _ _ _ _ _ h) h
    · exact (bytesOf_finishOp ..).symm ▸ canonical_eachCell _ _ _ _ _ (fun s core op i h => canonical_tcommitStep _ _ _ _ _ _ h) h
    · exact hstep ..
    · exact hstep ..
    · exact hstep ..
    · exact h
  · exact h

theorem lands_execRouterMergeWindow (b c o pa : Nat) {s : State} (h : Canonical (bytesOf s)) :
    Lands (execRouterMergeWindow b c o pa s) := by
  refine lands_next ?_
  split
  · split
    · dsimp only
      rw [bytesOf_foldl, bytesOf_sendGroup, bytesOf_takeFree]
      · exact h
      · exact fun s e => bytesOf_sendGroup ..
    · exact h
  · exact h

theorem lands_execTstStep (b c o dw : Nat) {s : State} (h : Canonical (bytesOf s)) : Lands (execTstStep b c o dw s) := by
  refine lands_next ?_
  grind [canonical_eachCell, bytesOf_eachCell, bytesOf_finishTst, canonical_settleAll, canonical_tstOne]

theorem lands_execTstCellWaitTimeout (b c o dw : Nat) {s : State} (h : Canonical (bytesOf s)) :
    Lands (execTstCellWaitTimeout b c o dw s) := by
  refine lands_next ?_
  split
  · split
    · refine canonical_settleAll _ _ ((bytesOf_finishTst ..).symm ▸ canonical_foldl (fun s i h => ?_) _ h)
      split
      · split
        · exact canonical_tstWaited _ _ _ _ _ _ _ h
        · exact h
      · exact h
    · exact h
  · exact h

theorem lands_execDelegatedAtomicPerform (core n : Nat) {s : State} (h : Canonical (bytesOf s)) :
    Lands (execDelegatedAtomicPerform core n s) := by
  refine lands_next ?_
  grind [bytesOf_diverged, bytesOf_meetEntry, canonical_performCommand, canonical_settleAll]

theorem lands_execCqReplyArrival (core n : Nat) {s : State} (h : Canonical (bytesOf s)) :
    Lands (execCqReplyArrival core n s) := by
  refine lands_next ?_
  grind [canonical_settleAll, bytesOf_takeReply]

/-! ### What instructions and steps of Faults keep -/

theorem lands_execPageWalk (w : WalkSrc) {s : State} (h : Canonical (bytesOf s)) : Lands (execPageWalk w s) := by
  refine lands_next ?_
  grind [canonical_afterWalk, bytesOf_base, bytesOf_dropWalk, canonical_resumeSubmit, bytesOf_walkFault,
    canonical_walkFound]

theorem lands_execFaultService (die i : Nat) {s : State} (h : Canonical (bytesOf s)) : Lands (execFaultService die i s) := by
  refine lands_next ?_
  grind [canonical_serviceEntry]

theorem lands_execFaultReject (die i : Nat) {s : State} (h : Canonical (bytesOf s)) : Lands (execFaultReject die i s) := by
  refine lands_next ?_
  grind [canonical_rejectEntry]

theorem lands_execContextSlotWrite (die k : Nat) (d0 d1 : DWord) {s : State} (h : Canonical (bytesOf s)) :
    Lands (execContextSlotWrite die k d0 d1 s) := by
  refine lands_next ?_
  grind [bytesOf_slotWrite]

/-! ### What instructions and steps of Engines keep -/

theorem lands_execCopyRequestAccept (core : Nat) {s : State} (h : Canonical (bytesOf s)) :
    Lands (execCopyRequestAccept core s) := by
  refine lands_next ?_
  split
  · exact h
  next q _ =>
    split
    · exact h
    · refine canonical_unpoisoned _ h ?_
      dsimp only
      split
      · exact canonical_refuseRequest _ _ _ _ _ h
      · split
        · exact h
        · split
          · exact ((bytesOf_finishReq ..).trans (bytesOf_takeRequest ..)).symm ▸ h
          · exact (bytesOf_takeRequest ..).symm ▸ h

theorem lands_execCopyDelivery (core r : Nat) {s : State} (h : Canonical (bytesOf s)) : Lands (execCopyDelivery core r s) := by
  refine lands_next ?_
  grind [canonical_moveRun, bytesOf_takeFree]

theorem lands_execGseRequestAccept (core : Nat) {s : State} (h : Canonical (bytesOf s)) :
    Lands (execGseRequestAccept core s) := by
  refine lands_next ?_
  split
  · exact h
  next q _ =>
    split
    · exact h
    · refine canonical_unpoisoned _ h ?_
      have hk (r : Request) (lines : List (Nat × Nat × Nat)) : Canonical (bytesOf (
          if gseCheck s r != 0 then refuseRequest (gseTotal s r).2 core r (gseTotal s r).1 (gseCheck s r)
          else if !canRaise s (lines.map (fun e => (e.1, e.2.1))) then s
          else takeRequest s core r lines)) := by
        split
        · exact canonical_refuseRequest _ _ _ _ _ ((bytesOf_gseTotal ..).symm ▸ h)
        · split
          · exact h
          · exact (bytesOf_takeRequest ..).symm ▸ h
      exact hk _ _

theorem lands_execGseElementMove (core r k : Nat) {s : State} (h : Canonical (bytesOf s)) :
    Lands (execGseElementMove core r k s) := by
  refine lands_next ?_
  grind [canonical_gseMove]

theorem lands_execCollRequestAccept (core : Nat) {s : State} (h : Canonical (bytesOf s)) :
    Lands (execCollRequestAccept core s) := by
  refine lands_next ?_
  split
  · exact h
  next q _ =>
    split
    · exact h
    · refine canonical_unpoisoned _ h ?_
      have hk (r : Request) (k : State) (hk : Canonical (bytesOf k)) (lines : List (Nat × Nat × Nat)) (p : Prop) [Decidable p] :
          Canonical (bytesOf (
            if collCheck s r != 0 then refuseRequest (collTotal k r).2 core r (collTotal k r).1 (collCheck s r)
            else if !canRaise s (lines.map (fun e => (e.1, e.2.1))) then s
            else if p then reqObject (takeRequest k core r lines) r 0 1 0 else takeRequest k core r lines)) := by
        split
        · exact canonical_refuseRequest _ _ _ _ _ ((bytesOf_collTotal ..).symm ▸ hk)
        · split
          · exact h
          · split
            · exact canonical_reqObject _ _ _ _ _ ((bytesOf_takeRequest ..).symm ▸ hk)
            · exact (bytesOf_takeRequest ..).symm ▸ hk
      have hc : Canonical (bytesOf (countColl s (readRequest s q)).2) := (bytesOf_countColl ..).symm ▸ h
      exact hk _ _ hc _ _

theorem lands_execCollectivePerform (core r : Nat) (w : CollWorld) {s : State} (h : Canonical (bytesOf s)) :
    Lands (execCollectivePerform core r w s) := by
  refine lands_next ?_
  grind [bytesOf_combineRanks, canonical_failColl, canonical_failRanks, canonical_readSource, canonical_writeResult]

/-! ### What instructions and steps of Arrays keep -/

theorem lands_execArrayMmaPerform (core : Nat) {s : State} (h : Canonical (bytesOf s)) :
    Lands (execArrayMmaPerform core s) := by
  refine lands_next ?_
  grind [bytesOf_performMma]

theorem lands_execArrayZeroLoadPerform (core : Nat) {s : State} (h : Canonical (bytesOf s)) :
    Lands (execArrayZeroLoadPerform core s) := by
  refine lands_next ?_
  split
  · exact h
  · split
    · rw [bytesOf_retireArr, bytesOf_foldl]
      · exact h
      · exact fun s k => bytesOf_modCore ..
    · dsimp only
      split
      · exact h
      · rw [bytesOf_poisonKill, bytesOf_retireArr, bytesOf_foldl]
        · exact h
        · exact fun s e => bytesOf_modCore ..

theorem lands_execArrayDrainPerform (core : Nat) {s : State} (h : Canonical (bytesOf s)) :
    Lands (execArrayDrainPerform core s) := by
  refine lands_next ?_
  grind [canonical_performDrain, bytesOf_raiseDue]

theorem lands_execFirmwareEmulation (b c o : Nat) {s : State} (h : Canonical (bytesOf s)) :
    Lands (execFirmwareEmulation b c o s) := by
  refine lands_next ?_
  grind [canonical_emulateRest, bytesOf_performMma, bytesOf_resumeRequest]

/-! ### What instructions and steps of Faults keep -/

theorem lands_execHostSubmit (part ctx : Nat) (v : DWord) {s : State} (h : Canonical (bytesOf s)) :
    Lands (execHostSubmit part ctx v s) := by
  refine lands_next ?_
  grind [canonical_submitWrite]

/-! ### What instructions and steps of Grids keep -/

theorem lands_execLaunchRecordAccept (part q : Nat) {s : State} (h : Canonical (bytesOf s)) :
    Lands (execLaunchRecordAccept part q s) := by
  refine lands_next ?_
  grind [bytesOf_abortTests, canonical_failGrid, bytesOf_modCtx, bytesOf_modGrid]

theorem lands_execLaunchWaitSatisfied (g k : Nat) {s : State} (h : Canonical (bytesOf s)) :
    Lands (execLaunchWaitSatisfied g k s) := by
  refine lands_next ?_
  grind [canonical_failGrid, bytesOf_modGrid, canonical_waitWord]

theorem lands_execBlockPlacement (g : Nat) {s : State} (h : Canonical (bytesOf s)) : Lands (execBlockPlacement g s) := by
  refine lands_next ?_
  grind [canonical_placeNext]

theorem lands_execAvoidedPlacementTimeout (g : Nat) {s : State} (h : Canonical (bytesOf s)) :
    Lands (execAvoidedPlacementTimeout g s) := by
  refine lands_next ?_
  grind [canonical_placeNext]

theorem lands_execBlockRetire (b : Nat) {s : State} (h : Canonical (bytesOf s)) : Lands (execBlockRetire b s) := by
  refine lands_next ?_
  grind [canonical_modBlock, bytesOf_modBlock, bytesOf_retireBraid]

theorem lands_execStagedStepRelease (g : Nat) {s : State} (h : Canonical (bytesOf s)) : Lands (execStagedStepRelease g s) := by
  refine lands_next ?_
  grind [canonical_flushStaged, bytesOf_publishBraid, canonical_releaseStep]

theorem lands_execGridComplete (g : Nat) {s : State} (h : Canonical (bytesOf s)) : Lands (execGridComplete g s) := by
  have hp (cs : List Nat) : Canonical (bytesOf (cs.foldl publishAll s)) :=
    canonical_foldl (fun s c h => (bytesOf_publishAll s c).symm ▸ h) _ h
  refine lands_next ?_
  split
  · exact h
  next x _ =>
    dsimp only
    split
    · exact canonical_payOwed _ _ h
    · split
      · exact h
      · split
        · split
          · exact canonical_endGrid _ _ _ (hp _)
          · exact hp _
        · exact canonical_endGrid _ _ _ h

/-! ### What instructions and steps of Contexts keep -/

theorem lands_execControlWordsWrite (part ctx : Nat) (d0 d1 : DWord) {s : State} (h : Canonical (bytesOf s)) :
    Lands (execControlWordsWrite part ctx d0 d1 s) := by
  refine lands_next ?_
  grind [bytesOf_modCtx]

theorem lands_execPreemptRequest (part ctx : Nat) {s : State} (h : Canonical (bytesOf s)) :
    Lands (execPreemptRequest part ctx s) := by
  refine lands_next ?_
  grind [bytesOf_lifeFrom]

theorem lands_execContextSave (part ctx : Nat) {s : State} (h : Canonical (bytesOf s)) :
    Lands (execContextSave part ctx s) := by
  refine lands_next ?_
  grind [bytesOf_keepStaged, bytesOf_lifeFrom]

theorem lands_execPreemptDeadlineExpiry (part ctx : Nat) {s : State} (h : Canonical (bytesOf s)) :
    Lands (execPreemptDeadlineExpiry part ctx s) := by
  refine lands_next ?_
  grind [canonical_forcedReset]

theorem lands_execContextRestore (part ctx : Nat) {s : State} (h : Canonical (bytesOf s)) :
    Lands (execContextRestore part ctx s) := by
  refine lands_next ?_
  grind [bytesOf_lifeFrom]

/-! ### What instructions and steps of Traps keep -/

theorem lands_execCordSuspend (b c : Nat) (why : SuspendWhy) {s : State} (h : Canonical (bytesOf s)) :
    Lands (execCordSuspend b c why s) := by
  refine lands_next ?_
  grind [bytesOf_modCord]

theorem lands_execDebuggerRelease (b c : Nat) {s : State} (h : Canonical (bytesOf s)) : Lands (execDebuggerRelease b c s) := by
  refine lands_next ?_
  grind [bytesOf_modCord]

/-! ### What instructions and steps of Contexts keep -/

theorem lands_execHangDeadlineExpiry (b c : Nat) {s : State} (h : Canonical (bytesOf s)) :
    Lands (execHangDeadlineExpiry b c s) := by
  refine lands_next ?_
  grind [bytesOf_fatal, bytesOf_modCord]

theorem lands_execReplayForeignTimeout (part ctx : Nat) {s : State} (h : Canonical (bytesOf s)) :
    Lands (execReplayForeignTimeout part ctx s) := by
  refine lands_next ?_
  grind [bytesOf_fatalCtx]

/-! ### What instructions and steps of Traps keep -/

theorem lands_execTrapDelivery (b c : Nat) {s : State} (h : Canonical (bytesOf s)) : Lands (execTrapDelivery b c s) := by
  refine lands_next ?_
  grind [bytesOf_fatal, bytesOf_modCord]

theorem lands_execImpreciseFaultReport (b c n : Nat) {s : State} (h : Canonical (bytesOf s)) :
    Lands (execImpreciseFaultReport b c n s) := by
  refine lands_next ?_
  grind [bytesOf_fatal, bytesOf_modCord, bytesOf_queueRec]

theorem lands_execLateFaultRecord (b c n : Nat) {s : State} (h : Canonical (bytesOf s)) :
    Lands (execLateFaultRecord b c n s) := by
  refine lands_next ?_
  grind [bytesOf_fatal, bytesOf_lateOfEnded, bytesOf_modCord, bytesOf_queueRec]

theorem lands_execRegionEnd (b c : Nat) {s : State} (h : Canonical (bytesOf s)) : Lands (execRegionEnd b c s) := by
  refine lands_next ?_
  repeat' split
  all_goals grind [bytesOf_closeCells, bytesOf_modCord, bytesOf_raiseEnd, canonical_settle]

theorem lands_execRegionCountLimit (b c : Nat) {s : State} (h : Canonical (bytesOf s)) :
    Lands (execRegionCountLimit b c s) := by
  refine lands_next ?_
  grind [bytesOf_modCord]

theorem lands_execRegionWithdrawal (b c : Nat) {s : State} (h : Canonical (bytesOf s)) :
    Lands (execRegionWithdrawal b c s) := by
  refine lands_next ?_
  repeat' split
  all_goals grind [bytesOf_abandon, canonical_withdraw]

theorem lands_execSlowGearStep (b c : Nat) {s : State} (h : Canonical (bytesOf s)) : Lands (execSlowGearStep b c s) := by
  refine lands_next ?_
  grind [bytesOf_lookAt, bytesOf_modCord]

theorem lands_execTwinMismatch (b c side lane : Nat) (resolved : Bool) {s : State} (h : Canonical (bytesOf s)) :
    Lands (execTwinMismatch b c side lane resolved s) := by
  refine lands_next ?_
  grind [bytesOf_corrected, bytesOf_killBraid]

theorem lands_execBraidKill (g braid : Nat) {s : State} (h : Canonical (bytesOf s)) : Lands (execBraidKill g braid s) := by
  refine lands_next ?_
  grind [canonical_killNow, bytesOf_modBraid]

/-! ### What instructions and steps of Contexts keep -/

theorem lands_execFatalErrorDump (part ctx : Nat) {s : State} (h : Canonical (bytesOf s)) :
    Lands (execFatalErrorDump part ctx s) := by
  refine lands_next ?_
  grind [canonical_dumpContext]

/-! ### What instructions and steps of Loader keep -/

theorem lands_execCodeObjectLoad (part ctx : Nat) (o : CodeObject) {s : State} (h : Canonical (bytesOf s)) :
    Lands (execCodeObjectLoad part ctx o s) := by
  refine lands_next ?_
  split
  · exact h
  · split
    · cases o.portable with
      | none => exact h
      | some p => exact canonical_installPortable _ _ _ _ _ h
    · split
      · exact h
      · exact canonical_installObject _ _ _ _ h

theorem lands_execCodeVersionRemove (part ctx v : Nat) {s : State} (h : Canonical (bytesOf s)) :
    Lands (execCodeVersionRemove part ctx v s) := by
  refine lands_next ?_
  grind [bytesOf_modCtx]

/-! ### What instructions and steps of Mgmt keep -/

theorem lands_execI3cPrivateWrite (off : Nat) (v : DWord) {s : State} (h : Canonical (bytesOf s)) :
    Lands (execI3cPrivateWrite off v s) := by
  refine lands_next ?_
  grind [canonical_modMgmt, bytesOf_modMgmt, canonical_registerWrite]

theorem lands_execManagementRegisterWrite (who : MgmtWho) (off : Nat) (v : DWord) {s : State}
    (h : Canonical (bytesOf s)) : Lands (execManagementRegisterWrite who off v s) := by
  refine lands_next ?_
  grind [canonical_registerWrite]

/-! ### What instructions and steps of Links keep -/

theorem lands_execRingDoorbell (part r : Nat) {s : State} (h : Canonical (bytesOf s)) : Lands (execRingDoorbell part r s) := by
  refine lands_next ?_
  grind [canonical_lookRing, bytesOf_modRing]

theorem lands_execRingDescriptorFinish (part r : Nat) (w : RingWorld) {s : State} (h : Canonical (bytesOf s)) :
    Lands (execRingDescriptorFinish part r w s) := by
  refine lands_next ?_
  grind [bytesOf_finishLater, bytesOf_putBack, bytesOf_ringRead, canonical_serveDesc]

/-! ### What instructions and steps of Mgmt keep -/

theorem lands_execFunctionLevelReset (n : Nat) {s : State} (h : Canonical (bytesOf s)) :
    Lands (execFunctionLevelReset n s) := by
  refine lands_next ?_
  grind [canonical_partReset]

/-! ### What instructions and steps of Links keep -/

theorem lands_execHostMemoryAccess (pa : Nat) (a : Outside) {s : State} (h : Canonical (bytesOf s)) :
    Lands (execHostMemoryAccess pa a s) := by
  refine lands_next ?_
  grind [canonical_outsideAccess, bytesOf_send]

theorem lands_execPeerAccessArrival (peer pa : Nat) (a : Outside) {s : State} (h : Canonical (bytesOf s)) :
    Lands (execPeerAccessArrival peer pa a s) := by
  refine lands_next ?_
  split
  · exact h
  · exact h
  · split
    · exact canonical_outsideAccess _ _ _ h
    · exact h

theorem lands_execPortRecoveryEnter (port window : Nat) {s : State} (h : Canonical (bytesOf s)) :
    Lands (execPortRecoveryEnter port window s) := by
  refine lands_next ?_
  grind [bytesOf_modPort, bytesOf_send]

theorem lands_execPortRecovered (port : Nat) {s : State} (h : Canonical (bytesOf s)) : Lands (execPortRecovered port s) := by
  refine lands_next ?_
  grind [bytesOf_modPort, canonical_resumeTraffic, bytesOf_send]

theorem lands_execPortRecoveryExpiry (port : Nat) {s : State} (h : Canonical (bytesOf s)) :
    Lands (execPortRecoveryExpiry port s) := by
  refine lands_next ?_
  grind [bytesOf_logEvent, bytesOf_modPort, canonical_resumeTraffic]

theorem lands_execGradeRecompute (port corrected flits : Nat) {s : State} (h : Canonical (bytesOf s)) :
    Lands (execGradeRecompute port corrected flits s) := by
  refine lands_next ?_
  dsimp only
  split
  · rw [bytesOf_logEvent, bytesOf_modPort, bytesOf_portSecond]
    exact h
  · rw [bytesOf_modPort, bytesOf_portSecond]
    exact h

/-! ### What instructions and steps of Power keep -/

theorem lands_execSensorSample (core : Nat) (tj : Int) (p : PowerSample) {s : State} (h : Canonical (bytesOf s)) :
    Lands (execSensorSample core tj p s) := by
  refine lands_next ?_
  rw [bytesOf_modDie, bytesOf_modCore, bytesOf_runClocks]
  exact h

theorem lands_execDroopEvent (core : Nat) {s : State} (h : Canonical (bytesOf s)) : Lands (execDroopEvent core s) := by
  refine lands_next ?_
  grind [bytesOf_modCore]

theorem lands_execHardwareTrip (cause die reading : Nat) {s : State} (h : Canonical (bytesOf s)) :
    Lands (execHardwareTrip cause die reading s) := by
  refine lands_next ?_
  dsimp only
  split
  · exact canonical_modMgmt (fun m hb hs => ⟨hb, hs⟩) h
  · exact h

theorem lands_execPowerOn (sigOk : Bool) {s : State} (_ : Canonical (bytesOf s)) : Lands (execPowerOn sigOk s) := by
  refine lands_next ⟨wf_nil, ?_, wf_nil, wf_nil⟩
  simp [bytesOf, powerUp, State.reset]

theorem lands_execStartupStageAdvance (w : StartupWorld) {s : State} (h : Canonical (bytesOf s)) :
    Lands (execStartupStageAdvance w s) := by
  refine lands_next ?_
  grind [bytesOf_buildMap, bytesOf_configureAll, bytesOf_setStage, bytesOf_startPartitions]

theorem lands_execAwlTestStart (core : Nat) {s : State} (h : Canonical (bytesOf s)) : Lands (execAwlTestStart core s) := by
  refine lands_next ?_
  grind [bytesOf_modCore]

theorem lands_execAwlTestComplete (core : Nat) (r : AwlResult) {s : State} (h : Canonical (bytesOf s)) :
    Lands (execAwlTestComplete core r s) := by
  have hf {k : State → State} (hk : ∀ s, Canonical (bytesOf s) → Canonical (bytesOf (k s))) :
      Canonical (bytesOf (awlFailed s core k)) := by
    unfold awlFailed
    split
    · exact (bytesOf_modCore ..).symm ▸ h
    · exact hk _ ((bytesOf_modCore ..).symm ▸ h)
  refine lands_next ?_
  split
  · exact h
  · split
    · exact (bytesOf_modCore ..).symm ▸ h
    · exact (bytesOf_modCore ..).symm ▸ h
    · exact hf fun s h => (bytesOf_modCore ..).symm ▸ h
    · exact hf fun s h => canonical_outOfService _ _ _ h

theorem lands_execFieldFuseApply (core side lane : Nat) {s : State} (h : Canonical (bytesOf s)) :
    Lands (execFieldFuseApply core side lane s) := by
  refine lands_next ?_
  grind [canonical_takeFuse]

/-! ### What instructions and steps of System keep -/

theorem lands_execUnassignedOpcode (w : UWord) {s : State} (h : Canonical (bytesOf s)) : Lands (execUnassignedOpcode w s) :=
  lands_inject (fun _ => keeps_trap) h

/-! ### What instructions and steps of Homes keep -/

theorem lands_execL1LineEviction (core line : Nat) {s : State} (h : Canonical (bytesOf s)) :
    Lands (execL1LineEviction core line s) := by
  refine lands_next ?_
  grind [bytesOf_dropLine, bytesOf_writeBack]

/-! ### What instructions and steps of Power keep -/

theorem lands_execUncorrectableEccError (w : EccWhere) {s : State} (h : Canonical (bytesOf s)) :
    Lands (execUncorrectableEccError w s) := by
  refine lands_next ?_
  split
  · exact h
  · exact (bytesOf_modCore ..).symm ▸ h
  · exact canonical_modMgmt (fun m hb hs => ⟨hb, hs⟩) h
  · exact canonical_modMgmt (fun m hb hs => ⟨hb, hs⟩) h

/-! ### What instructions and steps of Contexts keep -/

theorem lands_execContextCreation (part ctx : Nat) (d0 d1 : DWord) (intlk : Bool) {s : State}
    (h : Canonical (bytesOf s)) : Lands (execContextCreation part ctx d0 d1 intlk s) := by
  refine lands_next ?_
  dsimp only
  split
  · rw [bytesOf_modCtx, bytesOf_forgetSteps, bytesOf_foldl]
    · exact h
    · exact fun s d => bytesOf_modDie ..
  · exact h

theorem lands_execContextDestruction (part ctx : Nat) {s : State} (h : Canonical (bytesOf s)) :
    Lands (execContextDestruction part ctx s) := by
  refine lands_next ?_
  split
  · exact (bytesOf_releaseSlots s part ctx).symm ▸ h
  · exact h

/-! ### What instructions and steps of Loader keep -/

theorem lands_execReOptimisedTranslationInstall (part ctx old base len : Nat) {s : State}
    (h : Canonical (bytesOf s)) : Lands (execReOptimisedTranslationInstall part ctx old base len s) := by
  refine lands_next ?_
  grind [bytesOf_base, bytesOf_modCtx]

/-! ### What instructions and steps of Links keep -/

theorem lands_execPortLinkUp (port : Nat) {s : State} (h : Canonical (bytesOf s)) : Lands (execPortLinkUp port s) := by
  refine lands_next ?_
  grind [bytesOf_modPort, canonical_resumeTraffic]

/-! ### What instructions and steps of Faults keep -/

theorem lands_execFaultReportWrite {s : State} (h : Canonical (bytesOf s)) : Lands (execFaultReportWrite s) :=
  lands_next (canonical_foldl (fun _ _ h => canonical_writeReport _ _ h) _ h)

theorem lands_execTlbInvalidate {s : State} (h : Canonical (bytesOf s)) : Lands (execTlbInvalidate s) := lands_next h

/-! ### What instructions and steps of Mgmt keep -/

theorem lands_execVersion {s : State} (h : Canonical (bytesOf s)) : Lands (execVersion s) := by
  refine lands_mailbox (fun bs => ?_) h
  grind

theorem lands_execFwUpload {s : State} (h : Canonical (bytesOf s)) : Lands (execFwUpload s) := by
  refine lands_mailbox (fun bs => ?_) h
  dsimp only
  split
  · exact h
  · exact canonical_staging (fun m => wf_memWrite _ m.staging _) h

theorem lands_execFwCommit {s : State} (h : Canonical (bytesOf s)) : Lands (execFwCommit s) := by
  refine lands_mailbox (fun bs => ?_) h
  dsimp only
  split
  · exact h
  · split
    · rw [bytesOf_restart]
      exact canonical_modMgmt (f := fun m => { m with images := _ }) (fun m hb hs => ⟨hb, hs⟩) h
    · exact canonical_staging (fun _ _ => wf_nil) h

theorem lands_execPartSet {s : State} (h : Canonical (bytesOf s)) : Lands (execPartSet s) := by
  refine lands_mailbox (fun bs => ?_) h
  grind [canonical_modMgmt, bytesOf_modMgmt]

theorem lands_execPartReset {s : State} (h : Canonical (bytesOf s)) : Lands (execPartReset s) := by
  unfold execPartReset
  split
  · exact lands_next h
  · refine lands_mailbox (fun bs => ?_) h
    dsimp only
    repeat' split
    · exact h
    · exact h
    · exact canonical_partReset _ _ _ h

theorem lands_execDevSet {s : State} (h : Canonical (bytesOf s)) : Lands (execDevSet s) := by
  refine lands_mailbox (fun bs => ?_) h
  grind [canonical_modMgmt, bytesOf_modMgmt]

theorem lands_execCommSet {s : State} (h : Canonical (bytesOf s)) : Lands (execCommSet s) := by
  refine lands_mailbox (fun bs => ?_) h
  grind [bytesOf_modPart, canonical_restartColls]

theorem lands_execRingSet {s : State} (h : Canonical (bytesOf s)) : Lands (execRingSet s) := by
  refine lands_mailbox (fun bs => ?_) h
  grind [bytesOf_modPart]

theorem lands_execAttest {s : State} (h : Canonical (bytesOf s)) : Lands (execAttest s) := by
  refine lands_mailbox (fun bs => ?_) h
  grind

theorem lands_execEventRead {s : State} (h : Canonical (bytesOf s)) : Lands (execEventRead s) := by
  refine lands_mailbox (fun bs => ?_) h
  grind [canonical_modMgmt, bytesOf_modMgmt]

theorem lands_execI3cPrivateRead {s : State} (h : Canonical (bytesOf s)) : Lands (execI3cPrivateRead s) := by
  refine lands_next ?_
  grind [canonical_modMgmt, bytesOf_modMgmt, bytesOf_send]

theorem lands_execTriprecClear {s : State} (h : Canonical (bytesOf s)) : Lands (execTriprecClear s) := by
  refine lands_next ?_
  grind [bytesOf_clearTrip]

theorem lands_execFluidTableSubmit {s : State} (h : Canonical (bytesOf s)) : Lands (execFluidTableSubmit s) := by
  refine lands_next ?_
  grind [bytesOf_fluidSubmit]

theorem lands_execFluidTableWithdraw {s : State} (h : Canonical (bytesOf s)) : Lands (execFluidTableWithdraw s) := by
  refine lands_next ?_
  grind [bytesOf_fluidWithdraw]

/-! ### What instructions and steps of Links keep -/

theorem lands_execRingPoll {s : State} (h : Canonical (bytesOf s)) : Lands (execRingPoll s) :=
  lands_next (canonical_foldl (fun _ _ h => canonical_lookRing _ _ _ ((bytesOf_modRing ..).symm ▸ h)) _ h)

/-! ### What instructions and steps of Power keep -/

theorem lands_execPowerCapCompute {s : State} (h : Canonical (bytesOf s)) : Lands (execPowerCapCompute s) :=
  lands_next (canonical_foldl (fun _ _ h => (bytesOf_capDie ..).symm ▸ h) _ h)

theorem lands_execClockStep {s : State} (h : Canonical (bytesOf s)) : Lands (execClockStep s) :=
  lands_next (canonical_foldl (fun _ _ h => (bytesOf_modDie ..).symm ▸ h) _ h)

theorem lands_execPersistentOvercap {s : State} (h : Canonical (bytesOf s)) : Lands (execPersistentOvercap s) :=
  lands_next (canonical_foldl (fun _ _ h => (bytesOf_overcap ..).symm ▸ h) _ h)

/-! ### What steps keep -/

/-- Every instruction and every step of the device keeps the byte stores canonical. -/
theorem lands_exec (i : Instr) {s : State} (h : Canonical (bytesOf s)) : Lands (exec i s) := by
  unfold exec
  cases i with
  | movShort f | addShort f | subShort f | mulShort f | mulhShort f | minShort f | maxShort f | andShort f
  | orShort f | xorShort f | notShort f | negShort f | absShort f | shlShort f | shrShort f | sarShort f | rotShort f
  | popcShort f | clzShort f | brevShort f | faddShort f | fsubShort f | fmulShort f | fminShort f | fmaxShort f
  | fsatShort f | mov f | movi f | sel f | add f | sub f | addc f | subb f | mul f | mulh f | mad f | neg f | abs f
  | min f | max f | and f | or f | xor f | not f | shl f | shr f | sar f | rot f | popc f | clz f | brev f | bfe f
  | bfi f | lea f | icmp f | pset f | pand f | por f | pxor f | pnot f | fadd f | fsub f | fmul f | ffma f | fmin f
  | fmax f | fsat f | fcmp f | fclass f | kpop f | shfl f | shflp f | reduce f | scan f | tqpeek f | chkpt f =>
    refine lands_issue (fun _ => ?_) h
    exact keeps_goRegs
  | div f | rem f | rcp f | rsq f | sqrt f | exp2 f | log2 f | sin f | cos f | tanh f | cvt f | pack f | unpack f =>
    refine lands_issue (fun _ => ?_) h
    exact keeps_queuedBody
  | bra f | brx f | call f | callx f | ret f =>
    refine lands_issue (fun _ => ?_) h
    exact keeps_transfer
  | kmov f =>
    refine lands_issue (fun _ => ?_) h
    exact keeps_ite keeps_goRegs keeps_maskBody
  | atom f | cas f | red f =>
    refine lands_issue (fun _ => ?_) h
    exact keeps_atomicBody
  | mma f | mmas f =>
    refine lands_issue (fun _ => ?_) h
    exact keeps_mmaBody
  | clauseHeader _ => exact lands_execClauseHeader _ h
  | nop _ => exact lands_execNop _ h
  | cvtsc _ => exact lands_execCvtsc _ h
  | queuedResultWrite _ _ _ => exact lands_execQueuedResultWrite _ _ _ h
  | exit _ => exact lands_execExit _ h
  | yield _ => exact lands_execYield _ h
  | nopLong _ => exact lands_execNopLong _ h
  | join _ => exact lands_execJoin _ h
  | leave _ => exact lands_execLeave _ h
  | waitm _ => exact lands_execWaitm _ h
  | kset _ => exact lands_execKset _ h
  | kand _ => exact lands_execKand _ h
  | kor _ => exact lands_execKor _ h
  | vote _ => exact lands_execVote _ h
  | matchLanes _ => exact lands_execMatchLanes _ h
  | bar _ => exact lands_execBar _ h
  | barb _ => exact lands_execBarb _ h
  | gbar _ => exact lands_execGbar _ h
  | launch _ => exact lands_execLaunch _ h
  | launchQueueRoom _ => exact lands_execLaunchQueueRoom _ h
  | waitch _ => exact lands_execWaitch _ h
  | mfs _ => exact lands_execMfs _ h
  | mts _ => exact lands_execMts _ h
  | trap _ => exact lands_execTrap _ h
  | bkpt _ => exact lands_execBkpt _ h
  | tret _ => exact lands_execTret _ h
  | tqdrop _ => exact lands_execTqdrop _ h
  | rgnend _ => exact lands_execRgnend _ h
  | fwsave _ => exact lands_execFwsave _ h
  | fwrest _ => exact lands_execFwrest _ h
  | fwarr _ => exact lands_execFwarr _ h
  | fwend _ => exact lands_execFwend _ h
  | ld _ => exact lands_execLd _ h
  | st _ => exact lands_execSt _ h
  | ldx _ => exact lands_execLdx _ h
  | stx _ => exact lands_execStx _ h
  | ldc _ => exact lands_execLdc _ h
  | stc _ => exact lands_execStc _ h
  | phase _ => exact lands_execPhase _ h
  | fenceX _ => exact lands_execFenceX _ h
  | fenceP _ => exact lands_execFenceP _ h
  | pref _ => exact lands_execPref _ h
  | atomr _ => exact lands_execAtomr _ h
  | cqpop _ => exact lands_execCqpop _ h
  | tst _ => exact lands_execTst _ h
  | retract _ => exact lands_execRetract _ h
  | tcommit _ => exact lands_execTcommit _ h
  | tdset _ => exact lands_execTdset _ h
  | tdget _ => exact lands_execTdget _ h
  | tdinv _ => exact lands_execTdinv _ h
  | lookup _ => exact lands_execLookup _ h
  | tagset _ => exact lands_execTagset _ h
  | tagclr _ => exact lands_execTagclr _ h
  | pres _ => exact lands_execPres _ h
  | kick _ => exact lands_execKick _ h
  | boinit _ => exact lands_execBoinit _ h
  | boarrive _ => exact lands_execBoarrive _ h
  | bowait _ => exact lands_execBowait _ h
  | mzero _ => exact lands_execMzero _ h
  | mdrain _ => exact lands_execMdrain _ h
  | maccld _ => exact lands_execMaccld _ h
  | coll _ => exact lands_execColl _ h
  | gse _ => exact lands_execGse _ h
  | loadDataReturn _ _ _ => exact lands_execLoadDataReturn _ _ _ h
  | storeArrivalAtHome _ _ => exact lands_execStoreArrivalAtHome _ _ h
  | l1Writeback _ _ => exact lands_execL1Writeback _ _ h
  | tentativeStoreArrival _ _ _ _ => exact lands_execTentativeStoreArrival _ _ _ _ h
  | uncoveredStoreReport _ _ => exact lands_execUncoveredStoreReport _ _ h
  | atomicStep _ _ _ _ => exact lands_execAtomicStep _ _ _ _ h
  | routerMergeWindow _ _ _ _ => exact lands_execRouterMergeWindow _ _ _ _ h
  | tstStep _ _ _ _ => exact lands_execTstStep _ _ _ _ h
  | tstCellWaitTimeout _ _ _ _ => exact lands_execTstCellWaitTimeout _ _ _ _ h
  | delegatedAtomicPerform _ _ => exact lands_execDelegatedAtomicPerform _ _ h
  | cqReplyArrival _ _ => exact lands_execCqReplyArrival _ _ h
  | pageWalk _ => exact lands_execPageWalk _ h
  | faultService _ _ => exact lands_execFaultService _ _ h
  | faultReject _ _ => exact lands_execFaultReject _ _ h
  | contextSlotWrite _ _ _ _ => exact lands_execContextSlotWrite _ _ _ _ h
  | copyRequestAccept _ => exact lands_execCopyRequestAccept _ h
  | copyDelivery _ _ => exact lands_execCopyDelivery _ _ h
  | gseRequestAccept _ => exact lands_execGseRequestAccept _ h
  | gseElementMove _ _ _ => exact lands_execGseElementMove _ _ _ h
  | collRequestAccept _ => exact lands_execCollRequestAccept _ h
  | collectivePerform _ _ _ => exact lands_execCollectivePerform _ _ _ h
  | arrayMmaPerform _ => exact lands_execArrayMmaPerform _ h
  | arrayZeroLoadPerform _ => exact lands_execArrayZeroLoadPerform _ h
  | arrayDrainPerform _ => exact lands_execArrayDrainPerform _ h
  | firmwareEmulation _ _ _ => exact lands_execFirmwareEmulation _ _ _ h
  | hostSubmit _ _ _ => exact lands_execHostSubmit _ _ _ h
  | launchRecordAccept _ _ => exact lands_execLaunchRecordAccept _ _ h
  | launchWaitSatisfied _ _ => exact lands_execLaunchWaitSatisfied _ _ h
  | blockPlacement _ => exact lands_execBlockPlacement _ h
  | avoidedPlacementTimeout _ => exact lands_execAvoidedPlacementTimeout _ h
  | blockRetire _ => exact lands_execBlockRetire _ h
  | stagedStepRelease _ => exact lands_execStagedStepRelease _ h
  | gridComplete _ => exact lands_execGridComplete _ h
  | controlWordsWrite _ _ _ _ => exact lands_execControlWordsWrite _ _ _ _ h
  | preemptRequest _ _ => exact lands_execPreemptRequest _ _ h
  | contextSave _ _ => exact lands_execContextSave _ _ h
  | preemptDeadlineExpiry _ _ => exact lands_execPreemptDeadlineExpiry _ _ h
  | contextRestore _ _ => exact lands_execContextRestore _ _ h
  | cordSuspend _ _ _ => exact lands_execCordSuspend _ _ _ h
  | debuggerRelease _ _ => exact lands_execDebuggerRelease _ _ h
  | hangDeadlineExpiry _ _ => exact lands_execHangDeadlineExpiry _ _ h
  | replayForeignTimeout _ _ => exact lands_execReplayForeignTimeout _ _ h
  | trapDelivery _ _ => exact lands_execTrapDelivery _ _ h
  | impreciseFaultReport _ _ _ => exact lands_execImpreciseFaultReport _ _ _ h
  | lateFaultRecord _ _ _ => exact lands_execLateFaultRecord _ _ _ h
  | regionEnd _ _ => exact lands_execRegionEnd _ _ h
  | regionCountLimit _ _ => exact lands_execRegionCountLimit _ _ h
  | regionWithdrawal _ _ => exact lands_execRegionWithdrawal _ _ h
  | slowGearStep _ _ => exact lands_execSlowGearStep _ _ h
  | twinMismatch _ _ _ _ _ => exact lands_execTwinMismatch _ _ _ _ _ h
  | braidKill _ _ => exact lands_execBraidKill _ _ h
  | fatalErrorDump _ _ => exact lands_execFatalErrorDump _ _ h
  | codeObjectLoad _ _ _ => exact lands_execCodeObjectLoad _ _ _ h
  | codeVersionRemove _ _ _ => exact lands_execCodeVersionRemove _ _ _ h
  | i3cPrivateWrite _ _ => exact lands_execI3cPrivateWrite _ _ h
  | managementRegisterWrite _ _ _ => exact lands_execManagementRegisterWrite _ _ _ h
  | ringDoorbell _ _ => exact lands_execRingDoorbell _ _ h
  | ringDescriptorFinish _ _ _ => exact lands_execRingDescriptorFinish _ _ _ h
  | functionLevelReset _ => exact lands_execFunctionLevelReset _ h
  | hostMemoryAccess _ _ => exact lands_execHostMemoryAccess _ _ h
  | peerAccessArrival _ _ _ => exact lands_execPeerAccessArrival _ _ _ h
  | portRecoveryEnter _ _ => exact lands_execPortRecoveryEnter _ _ h
  | portRecovered _ => exact lands_execPortRecovered _ h
  | portRecoveryExpiry _ => exact lands_execPortRecoveryExpiry _ h
  | gradeRecompute _ _ _ => exact lands_execGradeRecompute _ _ _ h
  | sensorSample _ _ _ => exact lands_execSensorSample _ _ _ h
  | droopEvent _ => exact lands_execDroopEvent _ h
  | hardwareTrip _ _ _ => exact lands_execHardwareTrip _ _ _ h
  | powerOn _ => exact lands_execPowerOn _ h
  | startupStageAdvance _ => exact lands_execStartupStageAdvance _ h
  | awlTestStart _ => exact lands_execAwlTestStart _ h
  | awlTestComplete _ _ => exact lands_execAwlTestComplete _ _ h
  | fieldFuseApply _ _ _ => exact lands_execFieldFuseApply _ _ _ h
  | unassignedOpcode _ => exact lands_execUnassignedOpcode _ h
  | l1LineEviction _ _ => exact lands_execL1LineEviction _ _ h
  | uncorrectableEccError _ => exact lands_execUncorrectableEccError _ h
  | contextCreation _ _ _ _ _ => exact lands_execContextCreation _ _ _ _ _ h
  | contextDestruction _ _ => exact lands_execContextDestruction _ _ h
  | reOptimisedTranslationInstall _ _ _ _ _ => exact lands_execReOptimisedTranslationInstall _ _ _ _ _ h
  | portLinkUp _ => exact lands_execPortLinkUp _ h
  | faultReportWrite => exact lands_execFaultReportWrite h
  | tlbInvalidate => exact lands_execTlbInvalidate h
  | version => exact lands_execVersion h
  | fwUpload => exact lands_execFwUpload h
  | fwCommit => exact lands_execFwCommit h
  | partSet => exact lands_execPartSet h
  | partReset => exact lands_execPartReset h
  | devSet => exact lands_execDevSet h
  | commSet => exact lands_execCommSet h
  | ringSet => exact lands_execRingSet h
  | attest => exact lands_execAttest h
  | eventRead => exact lands_execEventRead h
  | i3cPrivateRead => exact lands_execI3cPrivateRead h
  | triprecClear => exact lands_execTriprecClear h
  | fluidTableSubmit => exact lands_execFluidTableSubmit h
  | fluidTableWithdraw => exact lands_execFluidTableWithdraw h
  | ringPoll => exact lands_execRingPoll h
  | powerCapCompute => exact lands_execPowerCapCompute h
  | clockStep => exact lands_execClockStep h
  | persistentOvercap => exact lands_execPersistentOvercap h

/-- What comes before anything else. -/
theorem bytesOf_dueNext {s t : State} (h : dueNext s = some t) : bytesOf t = bytesOf s := by
  unfold dueNext at h
  split at h <;> cases h
  · exact bytesOf_diverged ..
  · exact bytesOf_swapOut ..
  · exact bytesOf_modCord ..

/-- The second word of a pair. -/
theorem lands_secondWord {o : Host.Outcome State Fault Refusal} (h : Lands o) (j : Instr) (x : Sel) :
    Lands (secondWord j x o) := by
  cases o with
  | next s => exact lands_exec j ((bytesOf_base ..).symm ▸ h s rfl)
  | fault | refused => rintro _ ⟨⟩

/-- A marked pair. -/
theorem lands_runPair (x : Sel) (u : Issue) (w w' : Word) {s : State} (h : Canonical (bytesOf s)) :
    Lands (runPair x u w w' s) := by
  unfold runPair
  split
  · exact lands_next ((bytesOf_trapAt ..).symm ▸ h)
  · split
    · exact lands_next ((bytesOf_trapAt ..).symm ▸ h)
    · split
      · exact lands_next h
      · split
        · exact lands_next ((bytesOf_markEnding ..).symm ▸ h)
        · exact lands_secondWord (lands_exec _ h) _ _

/-- Fetched words. -/
theorem lands_runWords (x : Sel) (u : Issue) (ws : List Word) {s : State} (h : Canonical (bytesOf s)) :
    Lands (runWords x u ws s) := by
  unfold runWords
  split
  · exact lands_next h
  · split
    · exact lands_runPair _ _ _ _ h
    · split
      · split
        · exact lands_next h
        · exact lands_exec _ h
      · exact lands_next ((bytesOf_trapAt ..).symm ▸ h)

/-- What is selected. -/
theorem lands_runSel (x : Sel) {s : State} (h : Canonical (bytesOf s)) : Lands (runSel x s) := by
  unfold runSel
  split
  · exact lands_next h
  · split
    · exact lands_next ((bytesOf_askFetch ..).symm ▸ h)
    · exact lands_next ((bytesOf_killBraid ..).symm ▸ h)
    · exact lands_runWords _ _ _ h

/-- The offer of an issue slot. -/
theorem lands_turn (core : Nat) (l : List (Nat × Nat)) {s : State} (h : Canonical (bytesOf s)) : Lands (turn core l s) := by
  induction l generalizing s with
  | nil => exact lands_next h
  | cons e rest ih =>
    unfold turn
    split
    · exact ih h
    next x _ =>
      have hx := lands_runSel x ((bytesOf_select s x true).symm ▸ h)
      split
      next t ht =>
        split
        · exact lands_next ((bytesOf_endTurn ..).symm ▸ hx t ht)
        · exact ih (hx t ht)
      · exact hx

/-- What the outside world brings. -/
theorem lands_takeInput {s : State} (h : Canonical (bytesOf s)) : Lands (takeInput s) := by
  unfold takeInput
  split
  · exact lands_next h
  · unfold runInput
    split
    · exact lands_exec _ h
    · split
      · exact lands_exec _ h
      · exact lands_next ((bytesOf_send ..).symm ▸ h)
    · exact lands_next h

/-- A choice. -/
theorem lands_takeChoice (c : Choice) {s : State} (h : Canonical (bytesOf s)) : Lands (takeChoice c s) := by
  cases c with
  | input => exact lands_takeInput h
  | event i => exact lands_exec i h
  | issue core side => exact lands_turn _ _ h
  | look x => exact lands_runSel x ((bytesOf_select s x false).symm ▸ h)
  | store b c o =>
    refine lands_next ?_
    split
    · exact canonical_settleAll _ _ (canonical_performStore _ _ _ _ _ h)
    · exact h
  | begin b c o i =>
    refine lands_next ?_
    split
    · exact (bytesOf_beginStep ..).symm ▸ h
    · exact h
  | piece b c o => exact lands_next ((bytesOf_setPiece ..).symm ▸ h)
  | writeOne b c o i => exact lands_next ((bytesOf_writePiece ..).symm ▸ h)
  | keep b c o k => exact lands_next ((bytesOf_keepLater ..).symm ▸ h)
  | byte b c o i k =>
    refine lands_next ?_
    split
    · exact canonical_settleAll _ _ (canonical_byteAlone _ _ _ _ _ _ _ h)
    · exact h
  | toggleTlb die i => exact lands_next ((bytesOf_toggleCached ..).symm ▸ h)

/-- A step with power. -/
theorem lands_stepLit {s : State} (h : Canonical (bytesOf s)) : Lands (stepLit s) := by
  unfold stepLit
  split
  next t ht => exact lands_next ((bytesOf_dueNext ht).symm ▸ h)
  · unfold pickNext
    split
    · exact lands_next h
    · exact lands_takeChoice _ h
    · exact lands_takeChoice _ ((bytesOf_base ..).symm ▸ h)

/-- A step without power. -/
theorem lands_stepDark {s : State} (h : Canonical (bytesOf s)) : Lands (stepDark s) := by
  unfold stepDark
  split
  · exact lands_next h
  · split
    · exact lands_exec _ ((bytesOf_base ..).symm ▸ h)
    · exact lands_next h

/-- Settles O8: every instruction and every step of the device keeps the byte stores canonical, since each writes them with
the stores' own writing functions. -/
theorem memoryStaysCanonical : Obligations.MemoryStaysCanonical := by
  intro s t h hs
  rw [bytesOk_iff] at h ⊢
  have hl : Lands (step s) := by
    unfold step
    split
    · exact lands_stepLit h
    · exact lands_stepDark h
  exact hl t hs

end Sys2Proof.Machine
end

/-! ## Loads at their home and in windows (O44) -/

section
open Sys2Proof Sys2Proof.Machine

namespace Sys2Proof.Machine

/-- Bytes of an access that it has neither read alone nor noted are what the core sees. -/
theorem readRest_eq_coreReads (core b : Nat) {a : Acc} (hg : a.got = []) (he : a.early = []) (n k : Nat) (s : State) :
    readRest core b a k n s = coreReads core b (a.pa + k) n s := by
  induction n generalizing k s with
  | zero => rfl
  | succ n ih =>
    have hb : accByte core b a k s = coreRead s core b (a.pa + k) := by simp [accByte, hg, he, tabGet]
    simp only [readRest, coreReads, hb, ih, Nat.add_assoc]

/-- A byte that an access has read alone stays what it was. -/
theorem readRest_got (core b : Nat) {a : Acc} {k : Nat} {x : Byte × Bool} (hx : tabGet a.got k = some x) {n j : Nat} (s : State)
    (hj : j ≤ k) (hk : k < j + n) : (readRest core b a j n s).1[k - j]? = some x.1 := by
  induction n generalizing j s with
  | zero => omega
  | succ n ih =>
    obtain rfl | hlt := hj.eq_or_lt
    · simp [readRest, accByte, hx]
    · obtain ⟨m, hm⟩ : ∃ m, k - j = m + 1 := ⟨k - j - 1, by omega⟩
      have hr := ih (j := j + 1) (accByte core b a j s).2.2 hlt (by omega)
      rw [show k - (j + 1) = m by omega] at hr
      simpa only [readRest, hm, List.getElem?_cons_succ] using hr

/-- A byte that was noted before a cell came stays what it was. -/
theorem readRest_early (core b : Nat) {a : Acc} {x : Byte × Bool} {s : State} (hg : tabGet a.got 0 = none)
    (hx : tabGet a.early 0 = some x) (hc : underCell s core b a.pa = true) {n : Nat} (hn : 0 < n) :
    (readRest core b a 0 n s).1[0]? = some x.1 := by
  obtain ⟨m, rfl⟩ : ∃ m, n = m + 1 := ⟨n - 1, by omega⟩
  simp [readRest, accByte, hg, hx, hc]

/-- A loaded byte and a loaded halfword are extended as their type says (Table 13-4). -/
theorem extend_narrow {w : Nat} (sg : Prop) [Decidable sg] (z : BitVec w) :
    (if sg then wrapInt 32 (toInt true w z.toNat) else z.toNat) = if sg then (z.signExtend 32).toNat else z.toNat := by
  have hz : toInt true w z.toNat = z.toInt := by
    rw [BitVec.toInt_eq_msb_cond, toInt, Bool.true_and, BitVec.msb_eq_getLsbD_last, BitVec.testBit_toNat]
    rfl
  rw [hz, wrapInt_eq, BitVec.signExtend]

/-- An access of a load that is read at its home. -/
theorem loadOne_home {s : State} {b c core : Nat} {o : Op} {i : Nat} {a : Acc} {ws : Nat → List Byte → List RegW}
    (ha : o.accs[i]? = some a) (hst : a.st = .ready) (hb : blocked s b c o a = false) (hw : onWindow o.kind = false)
    (hr : reachOf s b a.pa a.size true = .home) (hp : (readRest core b a 0 a.size s).2.1 = false)
    (hl : l1Room s core a.pa a.size = true) :
    loadOne s b c core o i ws = modCord (readRest core b a 0 a.size s).2.2 b c (fun x =>
      modOp (writeOp x o (ws a.lane (readRest core b a 0 a.size s).1)) o.id (fun p => setAcc p i .done)) := by
  simp [loadOne, ha, hst, hb, hw, readAcc, hr, hl, hp]

/-- An access of a load that reads a window. -/
theorem loadOne_window {s : State} {b c core : Nat} {o : Op} {i : Nat} {a : Acc} {ws : Nat → List Byte → List RegW}
    (ha : o.accs[i]? = some a) (hst : a.st = .ready) (hb : blocked s b c o a = false) (hw : onWindow o.kind = true)
    (hg : a.got = []) {j : Nat} (hj : mateAt s b (a.va / 2 ^ 24) = some j) (hpr : present s j (a.va % 2 ^ 24) a.size = true)
    (hp : winPoison s j (a.va % 2 ^ 24) a.size = false) :
    loadOne s b c core o i ws = modCord s b c (fun x =>
      modOp (writeOp x o (ws a.lane (winRead s j (a.va % 2 ^ 24) a.size))) o.id (fun p => setAcc p i .done)) := by
  have hread : readWin s b a = .bytes (winRead s j (a.va % 2 ^ 24) a.size) false := by
    simp only [readWin, hj, hpr, if_true, hg, List.foldl_nil, hp, List.any_nil, Bool.or_false]
  simp [loadOne, ha, hst, hb, hw, hread]

/-- Settles O44: each read is what `readRest` gives byte by byte. -/
theorem loadsRead : Obligations.LoadsRead := by
  intro s b c core o i a ws ha hst hb
  refine ⟨fun hw hr hp hl => loadOne_home ha hst hb hw hr hp hl, fun hg he => readRest_eq_coreReads core b hg he _ _ _,
    fun k x hx hk => readRest_got core b hx s (Nat.zero_le _) (by omega), fun x hg hx hc hn => readRest_early core b hg hx hc hn,
    fun hw hg j hj hpr hp => loadOne_window ha hst hb hw hg hj hpr hp, fun f x hf => ?_, fun f x y hf => ?_⟩
  · have hz : leNat [x] = x.toNat := rfl
    simp only [loadWords, hf, beq_iff_eq, hz, extend_narrow (w := 8)]
  · have hz : leNat [x, y] = (y ++ x).toNat := by
      simp only [leNat, BitVec.toNat_append, Nat.shiftLeft_eq]
      rw [Nat.mul_comm _ (2 ^ 8), ← Nat.two_pow_add_eq_or_of_lt x.isLt]
      omega
    simp only [loadWords, hf, beq_iff_eq, hz, extend_narrow (w := 16)]

end Sys2Proof.Machine
end

/-! ## Steps at their home (O45) -/

section
open Sys2Proof Sys2Proof.Machine Sys2Proof.Claims

namespace Sys2Proof.Machine

/-! ### What leaves memory and the blocks alone -/

/-- Memory, the blocks and the log bits of every context stand. -/
structure Passive (s t : State) : Prop where
  mem : t.mem = s.mem
  blocks : t.blocks = s.blocks
  log : ∀ p k, ctxLog (ctxOf t p k) = ctxLog (ctxOf s p k)

/-- No context records a log where the log bits stand. -/
theorem Passive.noLog {s t : State} (h : Passive s t) (hn : NoLog s) : NoLog t := fun p k => (h.log p k).trans_ne (hn p k)

namespace Passive

variable {s t r : State}

/-- Nothing has changed. -/
theorem refl (s : State) : Passive s s := ⟨rfl, rfl, fun _ _ => rfl⟩

/-- One change after another. -/
theorem trans (h : Passive s t) (h' : Passive t r) : Passive s r :=
  ⟨h'.mem.trans h.mem, h'.blocks.trans h.blocks, fun p k => (h'.log p k).trans (h.log p k)⟩

/-- The contexts stand. -/
theorem of_eq (hm : t.mem = s.mem) (hb : t.blocks = s.blocks) (hc : t.ctxs = s.ctxs) : Passive s t :=
  ⟨hm, hb, fun p k => by rw [ctxOf, hc, ctxOf]⟩

/-- A fold of such steps. -/
theorem foldl {α : Type} {f : State → α → State} (h : ∀ s a, Passive s (f s a)) (l : List α) (s : State) :
    Passive s (l.foldl f s) := by
  induction l generalizing s with
  | nil => exact refl s
  | cons a l ih => exact (h s a).trans (ih _)

/-- A fold of such steps where no context records. -/
theorem foldl_noLog {α : Type} {f : State → α → State} (h : ∀ s a, NoLog s → Passive s (f s a)) (l : List α) (s : State)
    (hn : NoLog s) : Passive s (l.foldl f s) := by
  induction l generalizing s with
  | nil => exact refl s
  | cons a l ih => exact (h s a hn).trans (ih _ ((h s a hn).noLog hn))

/-- A context changed but for its control words. -/
theorem modCtx (s : State) (p k : Nat) {f : Ctx → Ctx} (h : ∀ x, (f x).control = x.control) : Passive s (modCtx s p k f) := by
  refine ⟨rfl, rfl, fun p' k' => ?_⟩
  by_cases hk : ctxKey p' k' = ctxKey p k
  · rw [ctxOf, hk, Machine.modCtx, tabGet_tabPut_same, Option.getD_some, ctxLog, h, ctxOf, ctxOf, hk, ctxLog]
  · rw [ctxOf, Machine.modCtx, tabGet_tabPut_other _ _ hk, ctxOf]

/-- A log entry where no context records. -/
theorem record (hn : NoLog s) (p k : Nat) (e : LogEntry) : Passive s (record s p k e) := by
  have hl : (ctxLog (ctxOf s p k) != 1 || (ctxOf s p k).logFull) = true := by simp [hn p k]
  simp only [Machine.record, hl, if_true, refl]

/-- A step that others have not seen. -/
theorem foreignFor (hn : NoLog s) (p k pa : Nat) : Passive s (foreignFor s p k pa) := by
  unfold Machine.foreignFor
  extract_lets t x
  have ht : Passive s t := record hn ..
  split
  · split
    · exact ht.trans (modCtx t p k fun _ => rfl)
    · exact ht
  · exact ht

/-- What the other contexts note. -/
theorem noteOthers (hn : NoLog s) (pa size key : Nat) : Passive s (noteOthers s pa size key) := by
  refine foldl_noLog (fun s k hn => ?_) _ s hn
  unfold noteOther
  extract_lets p c x
  split
  · exact modCtx _ _ _ fun _ => rfl
  · exact foreignFor hn ..

/-- The early steps of a context recorded. -/
theorem recordEarly (hn : NoLog s) (p k pa : Nat) : Passive s (recordEarly s p k pa) := by
  unfold Machine.recordEarly
  extract_lets es t
  have ht : Passive s t := foldl_noLog (fun s _ hn => foldl_noLog (fun s _ hn => record hn ..) _ s hn) es s hn
  exact ht.trans (modCtx _ _ _ fun _ => rfl)

/-- The last steppers of a word. -/
theorem setLast (s : State) (pa size : Nat) (me : Stepper) : Passive s (setLast s pa size me) := by
  refine foldl ?_ _ s
  exact fun _ _ => of_eq rfl rfl rfl

/-- A step noted where no context records. -/
theorem noteStep (hn : NoLog s) (b c lane count pa size : Nat) (merged : Bool) :
    Passive s (noteStep s b c lane count pa size merged) := by
  unfold Machine.noteStep
  split
  · exact refl s
  · extract_lets src me t else_ u v
    have ht : Passive s t := recordEarly hn ..
    have hu : Passive s u := (ht.trans (noteOthers (ht.noLog hn) ..)).trans (of_eq rfl rfl rfl)
    have hv : Passive s v := hu.trans (setLast ..)
    split
    · exact hv
    · exact hv.trans (record (hv.noLog hn) ..)

/-- A braid that may no longer be placed anew. -/
theorem unrelaunch (s : State) (x : BraidId) : Passive s (unrelaunch s x) := by
  unfold Machine.unrelaunch
  split
  · have hk : Passive s (modBraid s x (fun r => { r with relaunchable := false })) := of_eq rfl rfl rfl
    refine hk.trans (foldl ?_ _ _)
    exact fun _ _ => of_eq rfl rfl rfl
  · exact refl s

/-- A cell of a braid. -/
theorem braidCell (s : State) (x : BraidId) (dw : Nat) : Passive s (braidCell s x dw) := by
  unfold Machine.braidCell
  split
  · exact refl s
  · split
    · exact unrelaunch s x
    · extract_lets t
      have ht : Passive s t := by
        unfold t limitCells
        split
        · exact unrelaunch s x
        · exact refl s
      split
      · exact ht.trans (of_eq rfl rfl rfl)
      · exact ht

/-- A braid to be killed. -/
theorem killBraid (s : State) (b : Nat) : Passive s (killBraid s b) := by
  unfold Machine.killBraid
  split
  · exact of_eq rfl rfl rfl
  · exact refl s

end Passive

/-! ### What writes bytes of memory -/

/-- Memory stays canonical, the blocks and the log bits stand, and so does every byte of memory that `D` does not name. -/
structure WritesIn (D : Nat → Prop) (s t : State) : Prop where
  wf : Memory.wf s.mem = true → Memory.wf t.mem = true
  mem : ∀ a, ¬D a → memGet t.mem a = memGet s.mem a
  blocks : t.blocks = s.blocks
  log : ∀ p k, ctxLog (ctxOf t p k) = ctxLog (ctxOf s p k)

namespace WritesIn

variable {D : Nat → Prop} {s t r : State}

/-- What leaves memory alone. -/
theorem of_passive (h : Passive s t) : WritesIn D s t := ⟨fun hw => h.mem ▸ hw, fun a _ => by rw [h.mem], h.blocks, h.log⟩

/-- One change after another. -/
theorem trans (h : WritesIn D s t) (h' : WritesIn D t r) : WritesIn D s r :=
  ⟨fun hw => h'.wf (h.wf hw), fun a ha => (h'.mem a ha).trans (h.mem a ha), h'.blocks.trans h.blocks, fun p k => (h'.log p k).trans (h.log p k)⟩

/-- A fold of such steps. -/
theorem foldl {α : Type} {f : State → α → State} (l : List α) (h : ∀ s, ∀ a ∈ l, WritesIn D s (f s a)) (s : State) :
    WritesIn D s (l.foldl f s) := by
  induction l generalizing s with
  | nil => exact of_passive (.refl s)
  | cons a l ih =>
    exact (h s a (List.mem_cons_self ..)).trans (ih (fun s x hx => h s x (List.mem_cons_of_mem _ hx)) _)

/-- Bytes written. -/
theorem putBytes (s : State) (pa : Nat) (bs : List Byte) (p : Bool) (h : ∀ a, pa ≤ a → a < pa + bs.length → D a) :
    WritesIn D s (putBytes s pa bs p) := by
  refine ⟨wf_memWrite bs s.mem pa, fun a ha => memGet_memWrite_other bs s.mem pa ?_, rfl, fun _ _ => rfl⟩
  by_contra hc
  exact ha (h a (by omega) (by omega))

/-- Bytes that a braid writes at their home. -/
theorem ownWrite (s : State) (x : BraidId) (pa : Nat) (bs : List Byte) (p : Bool) (h : ∀ a, pa ≤ a → a < pa + bs.length → D a) :
    WritesIn D s (ownWrite s x pa bs p) := by
  unfold Machine.ownWrite
  extract_lets t
  have ht : WritesIn D s t := (of_passive (.of_eq rfl rfl rfl) : WritesIn D s (observe s _ _)).trans (putBytes _ pa bs p h)
  split
  · exact ht.trans (of_passive (.of_eq rfl rfl rfl))
  · exact ht

/-- A byte that a braid writes. -/
theorem braidWrite (s : State) (x : BraidId) {pa : Nat} (y : Byte) (p : Bool) (h : D pa) :
    WritesIn D s (braidWrite s x pa y p) := by
  have hd : ∀ a, pa ≤ a → a < pa + [y].length → D a := fun a h1 h2 => by
    rw [List.length_singleton] at h2
    exact (show a = pa by omega) ▸ h
  unfold Machine.braidWrite
  split
  · exact (of_passive (.braidCell ..)).trans (ownWrite _ x pa [y] p hd)
  · exact (of_passive (.of_eq rfl rfl rfl) : WritesIn D s (observe s _ _)).trans (putBytes _ pa [y] p hd)

/-- What a core holds of a word goes home: bytes of the word only. -/
theorem bypassL1 (s : State) (core pa n : Nat) (h : ∀ a, pa ≤ a → a < pa + n → D a) : WritesIn D s (bypassL1 s core pa n) := by
  unfold Machine.bypassL1
  extract_lets c inWord goes out own t
  have hin : ∀ a, inWord a = true → D a := fun a ha => by
    simp only [inWord, Bool.and_eq_true, decide_eq_true_eq] at ha
    exact h a ha.1 ha.2
  refine (of_passive (.of_eq rfl rfl rfl) : WritesIn D s t).trans (foldl _ (fun s e he => braidWrite s _ _ _ (hin _ ?_)) t)
  obtain he | he := List.mem_append.mp he
  · obtain ⟨o, -, ho⟩ := List.mem_flatMap.mp he
    obtain ⟨x, hx, rfl⟩ := List.mem_map.mp ho
    exact (List.mem_filter.mp hx).2
  · obtain ⟨x, hx, rfl⟩ := List.mem_map.mp he
    exact (Bool.and_eq_true_iff.mp (List.mem_filter.mp hx).2).1

end WritesIn

/-! ### The step -/

/-- Bytes that a braid writes at their home stand in memory. -/
theorem ownWrite_mem (s : State) (x : BraidId) (pa : Nat) (bs : List Byte) (p : Bool) :
    (ownWrite s x pa bs p).mem = memWrite s.mem pa bs := by
  unfold ownWrite
  extract_lets t
  split <;> rfl

/-- A run of written bytes reads back. -/
theorem memRead_memWrite {m : Mem} (h : Memory.wf m = true) (a : Nat) (bs : List Byte) :
    memRead (memWrite m a bs) a bs.length = bs := by
  refine List.ext_getElem (by simp [memRead]) fun i _ hi => ?_
  simp only [memRead, List.getElem_map, List.getElem_range]
  exact memGet_memWrite_same bs m a i h hi

/-- What an operation that bypasses L1 sends home first. -/
theorem bypassFor_eq (s : State) (b core : Nat) (a : Acc) :
    bypassFor s b core a = bypassL1 s core (bypassed s b a).1 (bypassed s b a).2 := by
  unfold bypassFor bypassed
  split <;> rfl

/-- What the word of a step holds afterwards: what the operation makes of it, where it writes. -/
def steppedMem (m : Mem) (k : OpKind) (a : Acc) (old : Nat) : Mem :=
  match stepNew k a old with
  | some y => memWrite m a.pa (leBytes a.size y)
  | none => m

/-- What a step leaves in memory and in its cord. -/
theorem performStep_leaves (merged : Bool) {s : State} (hn : NoLog s) (b c core : Nat) {o : Op} {i : Nat} {a : Acc}
    (ha : o.accs[i]? = some a) :
    let s0 := bypassL1 s core (bypassed s b a).1 (bypassed s b a).2
    let old := leNat (memRead s0.mem a.pa a.size)
    let t := performStep merged s b c core o i
    t.mem = steppedMem s0.mem o.kind a old
      ∧ t.blocks = (modCord s b c (fun x =>
        modOp (writeOp x o (stepWs o.kind a.lane old)) o.id (fun p => setAcc p i .done))).blocks := by
  extract_lets s0 old t
  obtain ⟨u, ht⟩ : ∃ u, performStep merged s b c core o i = u := ⟨_, rfl⟩
  suffices h : u.mem = steppedMem s0.mem o.kind a old ∧ u.blocks = (modCord s b c (fun x =>
      modOp (writeOp x o (stepWs o.kind a.lane old)) o.id (fun p => setAcc p i .done))).blocks by
    subst ht
    exact h
  unfold performStep at ht
  rw [ha] at ht
  dsimp -zeta only at ht
  extract_lets me s1 bs poison s2 s3 ws s4 s5 s6 at ht
  have h0 : WritesIn (fun _ => True) s s0 := .bypassL1 s core _ _ fun _ _ _ => trivial
  have h1 : Passive s0 s1 := by
    unfold s1
    rw [bypassFor_eq]
    exact .braidCell ..
  have hold : leNat bs = old := by rw [show bs = memRead s1.mem a.pa a.size from rfl, h1.mem]
  have h2 : Passive s0 s2 := h1.trans (.of_eq rfl rfl rfl)
  have h3 : s3.mem = steppedMem s0.mem o.kind a old ∧ WritesIn (fun _ => True) s0 s3 := by
    unfold s3 steppedMem
    rw [hold]
    cases stepNew o.kind a old with
    | none => exact ⟨h2.mem, .of_passive h2⟩
    | some y =>
      exact ⟨(ownWrite_mem ..).trans (congrArg (memWrite · _ _) h2.mem),
        (WritesIn.of_passive h2).trans (.ownWrite _ _ _ _ _ fun _ _ _ => trivial)⟩
  obtain ⟨hm3, hw3⟩ := h3
  have h4 : Passive s3 s4 := .noteStep (fun p k => ((h0.trans hw3).log p k).trans_ne (hn p k)) ..
  have h6 : s6.mem = s5.mem ∧ s6.blocks = s5.blocks := by
    unfold s6
    split <;> exact ⟨rfl, rfl⟩
  have h5 : s5.mem = s3.mem := h4.mem
  have hb5 : s5.blocks = (modCord s b c (fun x =>
      modOp (writeOp x o (stepWs o.kind a.lane old)) o.id (fun p => setAcc p i .done))).blocks := by
    have hb : s4.blocks = s.blocks := h4.blocks.trans (h0.trans hw3).blocks
    rw [modCord_blocks, modCord_blocks, hb, ← hold]
  have hend : Passive s6 (if (poison && !ws.isEmpty) = true then killBraid s6 b else s6) := by
    split
    · exact .killBraid ..
    · exact .refl s6
  exact ht ▸ ⟨by rw [hend.mem, h6.1, h5, hm3], by rw [hend.blocks, h6.2, hb5]⟩

/-- Settles O45: the word that a step writes is the last of memory that it changes. -/
theorem stepsAtHome : Obligations.StepsAtHome := by
  intro merged s b c core o i a hm hn ha w s0 old t
  obtain ⟨hmem, hblk⟩ := performStep_leaves merged hn b c core ha
  have h0 : WritesIn (fun ad => w.1 ≤ ad ∧ ad < w.1 + w.2) s s0 := .bypassL1 s core w.1 w.2 fun _ h1 h2 => ⟨h1, h2⟩
  refine ⟨fun y hy => ?_, fun hy => ?_, fun ad had => ?_, fun ad had => h0.mem ad (by omega), fun x hx => ?_⟩
  · have hw : Memory.wf s0.mem = true := h0.wf hm
    have := memRead_memWrite hw a.pa (leBytes a.size y)
    rw [leBytes_length] at this
    rw [hmem, steppedMem, hy, this]
  · rw [hmem, steppedMem, hy]
  · rw [hmem, steppedMem]
    split
    · exact memGet_memWrite_other _ _ _ (by rwa [leBytes_length])
    · rfl
  · refine ⟨_, (cordOf_congr hblk b c).trans (cordOf_modCord_of_some hx _), fun l r => rfl⟩

end Sys2Proof.Machine
end

/-! ## The steps of operations and of delegated atomics (O46) -/

section
open Sys2Proof Sys2Proof.Machine Sys2Proof.Claims

namespace Sys2Proof.Machine

/-! ### Lists sorted by a key -/

/-- Insertion keeps what is in a list. -/
theorem sortByKey_insert_perm {α : Type} (key : α → Nat) (x : α) (l : List α) : (sortByKey.insert key x l).Perm (x :: l) := by
  induction l with
  | nil => exact .refl _
  | cons y t ih =>
    unfold sortByKey.insert
    split
    · exact (ih.cons y).trans (.swap x y t)
    · exact .refl _

/-- Insertion keeps a list sorted. -/
theorem sortByKey_insert_pairwise {α : Type} (key : α → Nat) (x : α) {l : List α}
    (h : l.Pairwise (fun x y => key x ≤ key y)) : (sortByKey.insert key x l).Pairwise (fun x y => key x ≤ key y) := by
  induction l with
  | nil => exact List.pairwise_singleton _ x
  | cons y t ih =>
    obtain ⟨hy, ht⟩ := List.pairwise_cons.mp h
    unfold sortByKey.insert
    split
    case isTrue hlt =>
      refine List.pairwise_cons.mpr ⟨fun z hz => ?_, ih ht⟩
      obtain rfl | hz := List.mem_cons.mp ((sortByKey_insert_perm key x t).mem_iff.mp hz)
      · exact hlt.le
      · exact hy z hz
    case isFalse hge =>
      refine List.pairwise_cons.mpr ⟨fun z hz => ?_, h⟩
      obtain rfl | hz := List.mem_cons.mp hz
      · omega
      · have := hy z hz
        omega

/-- A list sorted by a key has the same members, in the order of their keys. -/
theorem sortByKey_sorted {α : Type} (key : α → Nat) (l : List α) :
    (sortByKey key l).Perm l ∧ (sortByKey key l).Pairwise (fun x y => key x ≤ key y) := by
  unfold sortByKey
  induction l with
  | nil => exact ⟨.refl _, .nil⟩
  | cons x t ih =>
    rw [List.foldr_cons]
    exact ⟨(sortByKey_insert_perm key x _).trans (ih.1.cons x), sortByKey_insert_pairwise key x ih.2⟩

/-! ### Outstanding operations -/

/-- LOAD_DATA_RETURN, by the kind of its operation. -/
theorem exec_loadDataReturn {s : State} {b c o : Nat} {x : Block} {op : Op} (hx : s.blocks[b]? = some x)
    (ho : opIn s b c o = some op) :
    (∀ f, op.kind = .load f ∨ op.kind = .loadC f → exec (.loadDataReturn b c o) s = .next
        (settle (finishOp (eachAcc s b c o (fun s op i => loadOne s b c x.core op i (loadWs f))) b c o) b))
      ∧ (∀ f, op.kind = .pref f → exec (.loadDataReturn b c o) s = .next
        (settle (finishOp (eachAcc s b c o (fun s op i => prefOne f s b c x.core op i)) b c o) b))
      ∧ ∀ f e src old, op.kind = .cvtsc f e src old → exec (.loadDataReturn b c o) s = .next
        (settle (cvtscReady (eachAcc s b c o (fun s op i => scaleOne s b c x.core op i)) b c o) b) := by
  have he : ∀ t, execLoadDataReturn b c o s = .next t → exec (.loadDataReturn b c o) s = .next t := fun _ h => h
  refine ⟨fun f hk => ?_, fun f hk => ?_, fun f e src old hk => ?_⟩
  · obtain hk | hk := hk <;> exact he _ (by simp only [execLoadDataReturn, hx, ho, hk])
  · exact he _ (by simp only [execLoadDataReturn, hx, ho, hk])
  · exact he _ (by simp only [execLoadDataReturn, hx, ho, hk])

/-- The accesses of a doubleword that may step do so in turn. -/
theorem eachCell_goes {s : State} {b c o dw : Nat} {x : Block} {op : Op} (hx : s.blocks[b]? = some x)
    (ho : opIn s b c o = some op) (hg : runGoes s b c x.core op (accsAtDw op dw) = true)
    (f : State → Nat → Nat → Nat → Op → Nat → State) :
    eachCell s b c o dw f = inTurn s b c o (accsAtDw op dw) (fun s p i => f s b c x.core p i) := by
  simp only [eachCell, hx, ho, hg, if_true]
  rfl

/-- ATOMIC_STEP of an atomic. -/
theorem exec_atomicStep {s : State} {b c o pa : Nat} {x : Block} {op : Op} (hx : s.blocks[b]? = some x)
    (ho : opIn s b c o = some op) {f : LForm} (hk : op.kind ∈ [.atom f, .cas f, .red f])
    (hg : groupReady s b c x.core op pa = true) :
    (∀ g, ((accsAt op pa).head?.bind (fun i => (op.accs[i]?).map Acc.st)) = some (.sent g) →
        exec (.atomicStep b c o pa) s = .next (settleAll (runMembers s (groupMembers s pa g)) b))
      ∧ ((accsAt op pa).head?.bind (fun i => (op.accs[i]?).map Acc.st) = some .ready →
        exec (.atomicStep b c o pa) s = .next (settleAll (runGroup s b c o pa) b)) := by
  have he : exec (.atomicStep b c o pa) s = .next (settleAll
      (match (accsAt op pa).head?.bind (fun i => (op.accs[i]?).map Acc.st) with
        | some (.sent g) => runMembers s (groupMembers s pa g)
        | _ => runGroup s b c o pa) b) := by
    change execAtomicStep b c o pa s = _
    simp only [List.mem_cons, List.not_mem_nil, or_false] at hk
    obtain hk | hk | hk := hk <;> simp only [execAtomicStep, hx, ho, hk, hg] <;> rfl
  refine ⟨fun g hst => ?_, fun hst => ?_⟩
  · rw [he, hst]
  · rw [he, hst]

/-- ATOMIC_STEP of RETRACT and TCOMMIT. -/
theorem exec_atomicStep_cell {s : State} {b c o pa : Nat} {x : Block} {op : Op} (hx : s.blocks[b]? = some x)
    (ho : opIn s b c o = some op) (hg : runGoes s b c x.core op (accsAtDw op (dwOf pa)) = true) :
    (∀ f, op.kind = .retract f → exec (.atomicStep b c o pa) s = .next (settleAll (finishOp
        (inTurn s b c o (accsAtDw op (dwOf pa)) (fun s p i => retractStep s b c x.core p i)) b c o) b))
      ∧ ∀ f, op.kind = .tcommit f → exec (.atomicStep b c o pa) s = .next (settleAll (finishOp
        (inTurn s b c o (accsAtDw op (dwOf pa)) (fun s p i => tcommitStep s b c x.core p i)) b c o) b) := by
  have he : ∀ t, execAtomicStep b c o pa s = .next t → exec (.atomicStep b c o pa) s = .next t := fun _ h => h
  constructor <;> exact fun f hk => he _ (by simp only [execAtomicStep, hx, ho, hk, runCells, eachCell_goes hx ho hg])

/-- TST_STEP and TST_CELL_WAIT_TIMEOUT. -/
theorem exec_tst {s : State} {b c o dw : Nat} {x : Block} {op : Op} (hx : s.blocks[b]? = some x)
    (ho : opIn s b c o = some op) {f : LForm} (hk : op.kind = .tst f) :
    (runGoes s b c x.core op (accsAtDw op dw) = true → exec (.tstStep b c o dw) s = .next (settleAll (finishTst
        (inTurn s b c o (accsAtDw op dw) (fun s p i => tstOne f s b c x.core p i)) b c o) b))
      ∧ exec (.tstCellWaitTimeout b c o dw) s = .next (settleAll (finishTst
        (inTurn s b c o (accsAtDw op dw) (fun s p i =>
          if (p.accs[i]?.map Acc.st) = some (.sent 0) then tstWaited s b c x.core p i f else s)) b c o) b) := by
  constructor
  · intro hg
    change execTstStep b c o dw s = _
    simp only [execTstStep, ho, hk, eachCell_goes hx ho hg]
  · change execTstCellWaitTimeout b c o dw s = _
    simp only [execTstCellWaitTimeout, hx, ho, hk, beq_iff_eq]
    rfl

/-- TENTATIVE_STORE_ARRIVAL. -/
theorem exec_tentativeStoreArrival {s : State} {b c o dw : Nat} {x : Block} {op : Op} (hx : s.blocks[b]? = some x)
    (ho : opIn s b c o = some op) {f : LForm} (hk : op.kind = .store f true) (ht : hasTicket s b = true) :
    exec (.tentativeStoreArrival b c o dw) s = .next (settleAll (finishOp (inTurn s b c o (accsAtDw op dw) (fun s p i =>
      if tentativeReady s b c p i then tentativeOne s b c x.core p i else s)) b c o) b) := by
  change execTentativeStoreArrival b c o dw s = _
  simp only [execTentativeStoreArrival, hx, ho, hk, ht]
  rfl

/-- The members of a group step in the order of their source keys. -/
theorem groupMembers_sorted (s : State) (pa g : Nat) : ∃ l : List (Nat × Member),
    l.Perm (sentTo s pa g) ∧ l.Pairwise (fun x y => x.1 ≤ y.1) ∧ groupMembers s pa g = l.map Prod.snd :=
  have h := sortByKey_sorted Prod.fst (sentTo s pa g)
  ⟨_, h.1, h.2, rfl⟩

/-- A group takes operations as long as it has at most 64 members. -/
theorem joinGroup_bounds (pa n : Nat) (l : List (Nat × Nat × Op)) :
    (∀ e ∈ joinGroup pa n l, e ∈ l) ∧ n + ((joinGroup pa n l).map (fun e => (accsAt e.2.2 pa).length)).sum ≤ max 64 n := by
  induction l generalizing n with
  | nil => exact ⟨fun _ h => h, by simp [joinGroup]⟩
  | cons e t ih =>
    unfold joinGroup
    extract_lets k
    split
    case isTrue hle =>
      obtain ⟨hm, hs⟩ := ih (n + k)
      refine ⟨fun y hy => ?_, ?_⟩
      · obtain rfl | hy := List.mem_cons.mp hy
        · exact List.mem_cons_self ..
        · exact List.mem_cons_of_mem _ (hm y hy)
      · rw [List.map_cons, List.sum_cons]
        omega
    case isFalse =>
      obtain ⟨hm, hs⟩ := ih n
      exact ⟨fun y hy => List.mem_cons_of_mem _ (hm y hy), hs⟩

/-- ROUTER_MERGE_WINDOW: an operation is forwarded with some of those that it may merge with. -/
theorem exec_routerMergeWindow {s : State} {b c o pa : Nat} {op : Op} (ho : opIn s b c o = some op)
    (hk : mergeKey op.kind ≠ none) (hp : placeOf pa = .homed) (hd : detMode s b = false) (hr : inReplay s b = false)
    (hm : mergeable s b pa op (b, c, op) = true) :
    ∃ met : List (Nat × Nat × Op), exec (.routerMergeWindow b c o pa) s
        = .next (met.foldl (fun t e => sendGroup t e.1 e.2.1 e.2.2.id pa (s.free + 1))
          (sendGroup { s with free := s.free + 1 } b c o pa (s.free + 1)))
      ∧ (∀ e ∈ met, mergeable s b pa op e = true ∧ ¬(e.1 = b ∧ e.2.1 = c ∧ e.2.2.id = o))
      ∧ (accsAt op pa).length + (met.map (fun e => (accsAt e.2.2 pa).length)).sum ≤ max 64 (accsAt op pa).length := by
  have hgo : ((mergeKey op.kind).isSome && placeOf pa == .homed && !detMode s b && !inReplay s b
      && mergeable s b pa op (b, c, op)) = true := by
    simp [Option.isSome_iff_ne_none.mpr hk, hp, hd, hr, hm]
  let others := (allOps s).filter (fun e => !(e.1 == b && e.2.1 == c && e.2.2.id == o) && mergeable s b pa op e)
  let met := (others.zipIdx.filter (fun e => (takeFree s).1.getLsbD (e.2 % 64))).map Prod.fst
  obtain ⟨hj, hs⟩ := joinGroup_bounds pa (accsAt op pa).length met
  refine ⟨joinGroup pa (accsAt op pa).length met, ?_, fun e he => ?_, hs⟩
  · change execRouterMergeWindow b c o pa s = _
    simp only [execRouterMergeWindow, ho, hgo, if_true]
    rfl
  · obtain ⟨y, hy, rfl⟩ := List.mem_map.mp (hj e he)
    have hy := (List.mem_filter.mp (List.fst_mem_of_mem_zipIdx (List.mem_filter.mp hy).1)).2
    rw [Bool.and_eq_true] at hy
    refine ⟨hy.2, fun ⟨hb, hc, ho⟩ => ?_⟩
    simp [hb, hc, ho] at hy

/-! ### Delegated atomics -/

/-- DELEGATED_ATOMIC_PERFORM: a command is performed, or its cord has left its log. -/
theorem exec_delegatedAtomicPerform {s : State} {core n : Nat} {d : Delegated}
    (hd : (coreOf s core).commands.find? (fun e => e.n == n && !e.perf) = some d) (hw : commandWaits s core d = false) :
    (commandReplay s core d = .diverge → exec (.delegatedAtomicPerform core n) s
        = .next (settleAll (diverged s d.block 0) d.block))
      ∧ ∀ used, commandReplay s core d = .go used →
        let r := serveCommand (meetEntry s d.block used) core d
        exec (.delegatedAtomicPerform core n) s = .next (settleAll
          (commandDone (modCore r.after core (fun k => { k with commands := k.commands.map (fun e =>
            if e.n = n then { e with perf := true, value := r.value, status := r.status, poison := r.poison }
            else e) })) d) d.block) := by
  have hn : d.n = n := by
    have := List.find?_some hd
    simp only [Bool.and_eq_true, beq_iff_eq] at this
    exact this.1
  refine ⟨fun hr => ?_, fun used hr => ?_⟩
  · change execDelegatedAtomicPerform core n s = _
    simp only [execDelegatedAtomicPerform, hd, hw, hr]
    rfl
  · change execDelegatedAtomicPerform core n s = _
    simp only [execDelegatedAtomicPerform, hd, hw, hr, performCommand, hn, beq_iff_eq]
    rfl

/-- What a delegated step writes at a word that holds `old`, if it writes (R226). -/
def delegatedNew (d : Delegated) (size old : Nat) : Option Nat :=
  if d.op = 7 then (if old = d.cmp.toNat % 2 ^ (8 * size) then some d.val.toNat else none)
  else some (newWord d.op d.ty old d.val.toNat)

/-- What a delegated step leaves in memory. -/
theorem delegatedStep_mem {s : State} (core : Nat) {d : Delegated} (hn : NoLog s) {size : Nat}
    (hz : size = if d.ty = 4 ∨ d.ty = 5 then 8 else 4) :
    let s0 := bypassL1 s core d.pa size
    (delegatedStep s core d).2.mem = match delegatedNew d size (leNat (memRead s0.mem d.pa size)) with
      | some y => memWrite s0.mem d.pa (leBytes size y)
      | none => s0.mem := by
  subst hz
  extract_lets s0
  obtain ⟨r, hr⟩ : ∃ r, delegatedStep s core d = r := ⟨_, rfl⟩
  rw [hr]
  unfold delegatedStep at hr
  extract_lets size me s1 old poison s2 y s3 at hr
  have h0 : WritesIn (fun _ => True) s s0 := .bypassL1 s core _ _ fun _ _ _ => trivial
  have h2 : Passive s0 s2 := .of_eq rfl rfl rfl
  have h3 : WritesIn (fun _ => True) s0 s3 ∧ s3.mem = match y with
      | some y => memWrite s0.mem d.pa (leBytes size y)
      | none => s0.mem := by
    unfold s3
    cases y with
    | none => exact ⟨.of_passive h2, h2.mem⟩
    | some y => exact ⟨(WritesIn.of_passive h2).trans (.ownWrite _ _ _ _ _ fun _ _ _ => trivial), ownWrite_mem ..⟩
  have hl : NoLog s3 := fun p k => ((h0.trans h3.1).log p k).trans_ne (hn p k)
  rw [← hr]
  exact (Passive.noteStep hl ..).mem.trans h3.2

/-- What a command at a homed word answers and leaves there. -/
theorem serveCommand_homed {s : State} (core : Nat) {d : Delegated} (hp : placeOf d.pa = .homed) (hn : NoLog s)
    (hm : Safety.MemOk s) :
    let size := if d.ty = 4 ∨ d.ty = 5 then 8 else 4
    let old := leNat (memRead (bypassL1 s core d.pa size).mem d.pa size)
    (serveCommand s core d).value = BitVec.ofNat 64 old ∧ (serveCommand s core d).status = 0
      ∧ (d.op ≠ 7 → memRead (serveCommand s core d).after.mem d.pa size
          = leBytes size (newWord d.op d.ty old d.val.toNat))
      ∧ (d.op = 7 → memRead (serveCommand s core d).after.mem d.pa size
          = if old = d.cmp.toNat % 2 ^ (8 * size) then leBytes size d.val.toNat
            else memRead (bypassL1 s core d.pa size).mem d.pa size) := by
  intro size old
  have hs : serveCommand s core d
      = ⟨BitVec.ofNat 64 old, 0, (delegatedStep s core d).1.2, (delegatedStep s core d).2⟩ := by
    simp only [serveCommand, hp]
    rfl
  have hw : Memory.wf (bypassL1 s core d.pa size).mem = true :=
    (WritesIn.bypassL1 s core d.pa size (D := fun _ => True) fun _ _ _ => trivial).wf hm
  have hr : ∀ y, memRead (memWrite (bypassL1 s core d.pa size).mem d.pa (leBytes size y)) d.pa size = leBytes size y :=
    fun y => by simpa only [leBytes_length] using memRead_memWrite hw d.pa (leBytes size y)
  have hmem := delegatedStep_mem core hn (d := d) (size := size) rfl
  rw [hs]
  refine ⟨rfl, rfl, fun ho => ?_, fun ho => ?_⟩
  · rw [hmem, delegatedNew, if_neg ho]
    exact hr _
  · rw [hmem, delegatedNew, if_pos ho]
    by_cases hc : old = d.cmp.toNat % 2 ^ (8 * size)
    · rw [if_pos hc, if_pos hc]
      exact hr _
    · rw [if_neg hc, if_neg hc]

/-- A command to host memory goes to its owner. -/
theorem serveCommand_host {s : State} (core : Nat) {d : Delegated} (hp : placeOf d.pa = .host) :
    (serveCommand s core d).after.out = s.out ++ [.command d.pa d.op d.ty d.val d.cmp d.tag]
      ∧ (hostServes d.op d.ty = false → (serveCommand s core d).status = 3 ∧ (serveCommand s core d).value = 0) := by
  simp only [serveCommand, hp]
  cases hostServes d.op d.ty with
  | true => exact ⟨rfl, nofun⟩
  | false => exact ⟨rfl, fun _ => ⟨rfl, rfl⟩⟩

/-- A reply as it arrives: over a port that is lost it comes with STATUS 2. -/
theorem arrived_place (s : State) (d : Delegated) :
    (∀ i, placeOf d.pa = .peer i → reachPeer s i (d.pa % 2 ^ 44) = .reject 8 → (arrived s d).status = 2)
      ∧ (placeOf d.pa = .homed ∨ placeOf d.pa = .host → arrived s d = d) := by
  refine ⟨fun i hp hr => ?_, fun hp => ?_⟩
  · simp only [arrived, hp, hr, if_true]
  · obtain hp | hp := hp <;> simp only [arrived, hp]

/-- CQ_REPLY_ARRIVAL: the reply waits, returns its credit, or joins the queue. -/
theorem exec_cqReplyArrival {s : State} {core n : Nat} {d : Delegated}
    (hd : (coreOf s core).commands.find? (fun e => e.n == n && e.perf) = some d) :
    (overRecovery s d = true → exec (.cqReplyArrival core n) s = .next s)
      ∧ (overRecovery s d = false → exec (.cqReplyArrival core n) s
        = .next (settleAll (takeReply s core (arrived s d)) d.block)) := by
  constructor <;> intro ho <;> change execCqReplyArrival core n s = _ <;> simp only [execCqReplyArrival, hd, ho] <;> rfl

/-- A reply that has arrived differs in its value, status and poison only. -/
theorem arrived_eq (s : State) (d : Delegated) : ∃ v t p, arrived s d = { d with value := v, status := t, poison := p } := by
  unfold arrived
  split
  · split
    · exact ⟨_, _, _, rfl⟩
    · exact ⟨_, _, _, rfl⟩
  · exact ⟨_, _, _, rfl⟩

/-- What a reply does that its cord no longer takes, and one that it takes. -/
theorem takeReply_arrived (s : State) (core : Nat) (d : Delegated) : let r := arrived s d
    (replyDropped s d = true → takeReply s core r = modCore s core (fun k => { k with
        commands := k.commands.filter (fun e => e.n != d.n), credits := k.credits + 1 }))
      ∧ (replyDropped s d = false → takeReply s core r = modCore s core (fun k => { k with
        commands := k.commands.filter (fun e => e.n != d.n),
        cq := k.cq ++ [{ block := d.block, cord := d.cord, n := d.seq * 64 + d.lane, value := r.value, tag := d.tag,
                         status := r.status, slot := d.slot, poison := r.poison }] })) := by
  intro r
  obtain ⟨v, t, p, hr⟩ : ∃ v t p, r = { d with value := v, status := t, poison := p } := arrived_eq s d
  have hd : replyDropped s r = replyDropped s d := by rw [hr]; rfl
  constructor <;> intro h <;> simp only [takeReply, hd, h] <;> rw [hr] <;> rfl

/-- Settles O46: every step of an operation and of a delegated atomic, by the kind of its operation and the place of its
word. -/
theorem operationSteps : Obligations.OperationSteps := by
  refine ⟨fun s b c o pa x op hx ho => ?_, fun s core n d => ⟨fun hd hw => exec_delegatedAtomicPerform hd hw,
    fun hp hn hm => serveCommand_homed core hp hn hm, fun hp => serveCommand_host core hp, arrived_place s d, fun hd => ?_⟩⟩
  · obtain ⟨hload, hpref, hcvt⟩ := exec_loadDataReturn hx ho
    exact ⟨hload, hpref, hcvt, fun f hk hg => exec_atomicStep hx ho hk hg,
      fun f hk hg => (exec_atomicStep_cell hx ho hg).1 f hk, fun f hk hg => (exec_atomicStep_cell hx ho hg).2 f hk,
      fun f hk => exec_tst hx ho hk, fun f hk ht => exec_tentativeStoreArrival hx ho hk ht, groupMembers_sorted s pa,
      fun hk hp hd hr hm => exec_routerMergeWindow ho hk hp hd hr hm⟩
  · obtain ⟨hwait, harr⟩ := exec_cqReplyArrival hd
    obtain ⟨hdrop, hkeep⟩ := takeReply_arrived s core d
    exact ⟨hwait, fun ho hr => by rw [harr ho, hdrop hr], fun ho hr => by rw [harr ho, hkeep hr]⟩

end Sys2Proof.Machine
end

/-! ## What the homes and snapshots do (O47) -/

section
open Sys2Proof Sys2Proof.Machine

namespace Sys2Proof.Machine

/-! ### Bytes that arrive -/

/-- What a byte that a braid writes leaves, and the byte in memory. -/
theorem braidWrite_mem (s : State) (x : BraidId) (pa : Nat) (y : Byte) (p : Bool) :
    (braidWrite s x pa y p).mem = memPut s.mem pa y := by
  unfold braidWrite
  split
  · rw [ownWrite_mem, (Passive.braidCell ..).mem]
    rfl
  · rfl

/-- A braid that may no longer be placed anew leaves the cores alone. -/
theorem unrelaunch_cores (s : State) (x : BraidId) : (unrelaunch s x).cores = s.cores := by
  unfold unrelaunch
  split
  · exact List.foldlRecOn (motive := fun t : State => t.cores = s.cores) _ _ rfl (fun _ ht _ _ => ht)
  · rfl

/-- A cell of a braid leaves the cores alone. -/
theorem braidCell_cores (s : State) (x : BraidId) (dw : Nat) : (braidCell s x dw).cores = s.cores := by
  unfold braidCell
  split
  · rfl
  · split
    · exact unrelaunch_cores s x
    · extract_lets t
      have ht : t.cores = s.cores := by
        unfold t limitCells
        split
        · exact unrelaunch_cores s x
        · rfl
      split
      · exact ht
      · exact ht

/-- What a braid writes at its home leaves the cores alone. -/
theorem ownWrite_cores (s : State) (x : BraidId) (pa : Nat) (bs : List Byte) (p : Bool) : (ownWrite s x pa bs p).cores = s.cores := by
  unfold ownWrite
  extract_lets t
  split <;> rfl

/-- A byte that a braid writes leaves the cores alone. -/
theorem braidWrite_cores (s : State) (x : BraidId) (pa : Nat) (y : Byte) (p : Bool) : (braidWrite s x pa y p).cores = s.cores := by
  unfold braidWrite
  split
  · exact (ownWrite_cores ..).trans (braidCell_cores ..)
  · rfl

/-- Bytes that arrive at their homes leave the cores and the blocks alone. -/
theorem homeBytes_frame (block : Nat) (ps : List Nat) (es : List (Nat × Byte)) (s : State) :
    (homeBytes s block ps es).cores = s.cores ∧ (homeBytes s block ps es).blocks = s.blocks := by
  induction es generalizing s with
  | nil => exact ⟨rfl, rfl⟩
  | cons e es ih =>
    obtain ⟨hc, hb⟩ := ih (braidWrite s (braidOf s block) e.1 e.2 (ps.contains e.1))
    exact ⟨hc.trans (braidWrite_cores ..), hb.trans (WritesIn.braidWrite (D := fun _ => True) s _ _ _ trivial).blocks⟩

/-- A byte that does not arrive stands. -/
theorem homeBytes_other (block : Nat) (ps : List Nat) {es : List (Nat × Byte)} {a : Nat} (h : a ∉ es.map Prod.fst) (s : State) :
    memGet (homeBytes s block ps es).mem a = memGet s.mem a := by
  induction es generalizing s with
  | nil => rfl
  | cons e es ih =>
    obtain ⟨he, hes⟩ := not_or.mp (fun hc => h (List.mem_cons.mpr hc))
    refine (ih hes _).trans ?_
    rw [braidWrite_mem]
    exact memGet_memPut_other he

/-- Bytes that arrive, no two at one address, stand in memory. -/
theorem homeBytes_get (block : Nat) (ps : List Nat) {es : List (Nat × Byte)} (hn : (es.map Prod.fst).Nodup) {s : State}
    (hm : Memory.wf s.mem = true) : ∀ x ∈ es, memGet (homeBytes s block ps es).mem x.1 = x.2 := by
  induction es generalizing s with
  | nil => exact nofun
  | cons e es ih =>
    obtain ⟨he, hes⟩ := List.nodup_cons.mp hn
    intro x hx
    have hw : Memory.wf (braidWrite s (braidOf s block) e.1 e.2 (ps.contains e.1)).mem = true :=
      braidWrite_mem s _ _ _ _ ▸ wf_memPut hm _ _
    obtain rfl | hx := List.mem_cons.mp hx
    · refine (homeBytes_other block ps he _).trans ?_
      rw [braidWrite_mem]
      exact memGet_memPut_same (lo := 0) hm
    · exact ih hes hw x hx

/-- STORE_ARRIVAL_AT_HOME: the bytes go home, and are no longer under way. -/
theorem exec_storeArrivalAtHome {s : State} {core n : Nat} {o : Outbound}
    (ho : (coreOf s core).outbound.find? (fun e => e.n == n) = some o) (hb : outboundBehind (coreOf s core) o = false) :
    exec (.storeArrivalAtHome core n) s = .next (homeBytes (modCore s core (fun k =>
      { k with outbound := k.outbound.filter (fun e => e.n != n) })) o.block o.poison o.bytes) := by
  change execStoreArrivalAtHome core n s = _
  simp only [execStoreArrivalAtHome, ho, hb]
  rfl

/-! ### Lines that are written back -/

/-- What a table does not hold. -/
theorem tabGet_eq_none_iff {α : Type} {t : Tab α} {a : Nat} : tabGet t a = none ↔ ∀ x ∈ t, x.1 ≠ a := by
  induction t with
  | nil => simp [tabGet]
  | cons e t ih =>
    rw [tabGet, List.forall_mem_cons]
    split
    case isTrue h => simp [h]
    case isFalse h => simp [h, ih]

/-- An unpublished byte has left its core for its home. -/
def SentHome (k : CoreSt) (e : Nat × Dirty) : Prop :=
  tabGet k.dirty e.1 = none ∧ ∃ o ∈ k.outbound, o.block = e.2.block ∧ (e.1, e.2.byte) ∈ o.bytes

/-- What publishing a line leaves in its core. -/
theorem publishLine_core (s : State) (core line block : Nat) :
    let es := publishable s (coreOf s core) line block
    let k := coreOf (publishLine s core line block) core
    k.dirty = (coreOf s core).dirty.filter (fun e => !(es.map Prod.fst).contains e.1)
      ∧ (∀ o ∈ (coreOf s core).outbound, o ∈ k.outbound)
      ∧ ∀ e ∈ es, ∃ o ∈ k.outbound, o.block = block ∧ (e.1, e.2.byte) ∈ o.bytes := by
  intro es k
  by_cases he : es = []
  · have hk : k = coreOf s core := by
      simp only [k, publishLine, show publishable s (coreOf s core) line block = [] from he, List.isEmpty_nil, if_true]
    simp [hk, he]
  · simp only [k, publishLine]
    rw [if_neg (by simpa using he), coreOf_setCore_same]
    refine ⟨rfl, fun o ho => List.mem_append_left _ ho, fun e hm =>
      ⟨_, List.mem_append_right _ (List.mem_singleton_self _), rfl, ?_⟩⟩
    exact List.mem_map_of_mem hm

/-- What may be published of a block is of it. -/
theorem mem_publishable {s : State} {k : CoreSt} {line b : Nat} {e : Nat × Dirty} (h : e ∈ publishable s k line b) :
    e ∈ k.dirty ∧ e.2.block = b := by
  unfold publishable at h
  split at h
  · obtain ⟨hm, hp⟩ := List.mem_filter.mp h
    rw [Bool.and_eq_true, beq_iff_eq, beq_iff_eq] at hp
    exact ⟨hm, hp.2⟩
  · cases h

/-- A block whose bytes a core holds stays outside the ticket unit. -/
theorem inTicketUnit_publishLine (s : State) (core line block b : Nat) :
    inTicketUnit (publishLine s core line block) b = inTicketUnit s b := by
  refine Steady.inTicketUnit ?_ b
  unfold publishLine
  extract_lets c es kept
  split
  · exact .refl s
  · exact .of_eq rfl rfl rfl

/-- A fold of publications sends home every byte whose block is among them. -/
theorem foldl_publishLine {core line : Nat} {e : Nat × Dirty} (hl : e.1 / 256 = line) (bs : List Nat) {s : State}
    (hn : ((coreOf s core).dirty.map Prod.fst).Nodup) (ht : inTicketUnit s e.2.block = false)
    (he : SentHome (coreOf s core) e ∨ e ∈ (coreOf s core).dirty ∧ e.2.block ∈ bs) :
    SentHome (coreOf (bs.foldl (fun s b => publishLine s core line b) s) core) e := by
  induction bs generalizing s with
  | nil =>
    obtain he | ⟨-, he⟩ := he
    · exact he
    · cases he
  | cons b bs ih =>
    obtain ⟨hd, ho, hs⟩ := publishLine_core s core line b
    refine ih ?_ ((inTicketUnit_publishLine ..).trans ht) ?_
    · rw [hd]
      exact hn.sublist (List.filter_sublist.map _)
    · obtain ⟨hg, o, hmem, hob⟩ | ⟨hmem, hb⟩ := he
      · refine .inl ⟨?_, o, ho o hmem, hob⟩
        rw [hd, tabGet_eq_none_iff]
        exact fun x hx => tabGet_eq_none_iff.mp hg x (List.mem_filter.mp hx).1
      · by_cases hbe : e.2.block = b
        · have hp : e ∈ publishable s (coreOf s core) line b := by
            simp [publishable, hasTicket, ← hbe, ht, hmem, hl]
          obtain ⟨o, hom, hob, hbs⟩ := hs e hp
          refine .inl ⟨?_, o, hom, hob.trans hbe.symm, hbs⟩
          rw [hd, tabGet_eq_none_iff]
          rintro x hx hxe
          have hc := (List.mem_filter.mp hx).2
          rw [hxe] at hc
          simp [List.mem_map_of_mem (f := Prod.fst) hp] at hc
        · refine .inr ⟨?_, (List.mem_cons.mp hb).resolve_left hbe⟩
          rw [hd, List.mem_filter]
          refine ⟨hmem, ?_⟩
          simp only [Bool.not_eq_true', List.contains_eq_mem, decide_eq_false_iff_not]
          intro hk
          obtain ⟨x, hx, hxe⟩ := List.mem_map.mp hk
          obtain ⟨hxd, hxb⟩ := mem_publishable hx
          exact hbe (List.inj_on_of_nodup_map hn hxd hmem hxe ▸ hxb)

/-- A line written back leaves memory and the blocks alone. -/
theorem writeBack_frame (s : State) (core line : Nat) :
    (writeBack s core line).mem = s.mem ∧ (writeBack s core line).blocks = s.blocks := by
  unfold writeBack
  refine List.foldlRecOn (motive := fun t : State => t.mem = s.mem ∧ t.blocks = s.blocks) _ _ ⟨rfl, rfl⟩ fun t ht b _ => ?_
  unfold publishLine
  extract_lets c es kept
  split <;> exact ht

/-- An unpublished byte of a line that is written back is sent home, where the ticket unit does not stage its block. -/
theorem writeBack_sends {s : State} {core line : Nat} (hn : ((coreOf s core).dirty.map Prod.fst).Nodup) {e : Nat × Dirty}
    (he : e ∈ (coreOf s core).dirty) (hl : e.1 / 256 = line) (ht : inTicketUnit s e.2.block = false) :
    SentHome (coreOf (writeBack s core line) core) e := by
  refine foldl_publishLine hl _ hn ht (.inr ⟨he, ?_⟩)
  exact List.mem_eraseDups.mpr (List.mem_map.mpr ⟨e, List.mem_filter.mpr ⟨he, by simpa using hl⟩, rfl⟩)

/-- An evicted line has no clean byte. -/
theorem dropLine_clean (s : State) (core : Nat) {line a : Nat} (h : a / 256 = line) :
    tabGet (coreOf (dropLine s core line) core).clean a = none := by
  rw [dropLine, coreOf_modCore_same, tabGet_eq_none_iff]
  rintro x hx rfl
  simp [h] at hx

/-- Settles O47: the bytes that arrive are put into memory one by one, and a line is published block by block. -/
theorem homesAndSnapshots : Obligations.HomesAndSnapshots := by
  intro s core n line
  obtain ⟨hwm, hwb⟩ := writeBack_frame s core line
  refine ⟨fun o ho hb hm hn => ⟨_, exec_storeArrivalAtHome ho hb, fun x hx => homeBytes_get _ _ hn (s := modCore s core _) hm x hx,
    fun a ha => homeBytes_other _ _ ha _, ?_, (homeBytes_frame ..).2⟩,
    ⟨_, rfl, hwm, hwb, fun hn e he hl ht => writeBack_sends hn he hl ht⟩, ⟨_, rfl, hwm, hwb, fun a ha => dropLine_clean _ _ ha⟩⟩
  rw [coreOf, (homeBytes_frame ..).1, ← coreOf, coreOf_modCore_same]

end Sys2Proof.Machine
end

/-! ## Translation and its faults (O48) -/

section
open Sys2Proof Sys2Proof.Machine

namespace Sys2Proof.Machine

/-! ### Bits and dies -/

/-- The bits of a field as a quotient and a remainder. -/
theorem bits_eq (x hi lo : Nat) : Sys2Proof.bits x hi lo = x / 2 ^ lo % 2 ^ (hi + 1 - lo) := by
  rw [Sys2Proof.bits, Nat.shiftRight_eq_div_pow]

/-- The number in some bytes. -/
theorem leNat_lt (bs : List Byte) : leNat bs < 256 ^ bs.length := by
  induction bs with
  | nil => exact Nat.one_pos
  | cons b bs ih =>
    have := b.isLt
    rw [leNat, List.length_cons, pow_succ]
    omega

/-- A die that was changed. -/
theorem dieOf_modDie_same (s : State) (d : Nat) (f : Die → Die) : dieOf (modDie s d f) d = f (dieOf s d) := by
  rw [dieOf, modDie_dies, tabGet_tabPut_same, Option.getD_some]

/-! ### Submissions and walks -/

/-- HOST_SUBMIT, by what the context and the address are. -/
theorem exec_hostSubmit (s : State) (part ctx : Nat) (v : DWord) :
    ((ctxOf s part ctx).life = .absent → exec (.hostSubmit part ctx v) s = .next (refuseSubmit s part ctx 3))
      ∧ ((ctxOf s part ctx).life ≠ .absent → (v.toNat % 128 ≠ 0 ∨ 2 ^ 57 ≤ v.toNat) →
        exec (.hostSubmit part ctx v) s = .next (refuseSubmit s part ctx 2))
      ∧ ((ctxOf s part ctx).life ≠ .absent → v.toNat % 128 = 0 → v.toNat < 2 ^ 57 → exec (.hostSubmit part ctx v) s
        = .next (goSubmit (modPart s part (fun p => { p with submits := p.submits ++ [(ctx, v.toNat)] })) part ctx v.toNat)) := by
  have hv := v.isLt
  have hhi : Sys2Proof.bits v.toNat 63 57 = v.toNat / 2 ^ 57 := by
    rw [bits_eq, Nat.mod_eq_of_lt]
    omega
  have hlo : Sys2Proof.bits v.toNat 6 0 = v.toNat % 128 := by
    rw [bits_eq, Nat.pow_zero, Nat.div_one]
    rfl
  have he : exec (.hostSubmit part ctx v) s = .next (submitWrite s part ctx v) := rfl
  rw [he]
  unfold submitWrite
  rw [hhi, hlo]
  refine ⟨fun hl => ?_, fun hl hb => ?_, fun hl h1 h2 => ?_⟩
  · rw [if_pos (by simp [hl])]
  · rw [if_neg (by simpa using hl), if_pos]
    simp only [Bool.or_eq_true, bne_iff_ne]
    omega
  · rw [if_neg (by simpa using hl), if_neg]
    simp only [Bool.or_eq_true, bne_iff_ne]
    omega

/-- PAGE_WALK of an asker that is still there. -/
theorem exec_pageWalk {s : State} {w : WalkSrc} {q : WalkReq}
    (hq : (dieOf s (dieOfCore (srcCore s w))).walks.find? (fun e => e.src == w) = some q) :
    let s0 := dropWalk s (srcCore s w) q
    (srcLive s0 w = true → ∀ ea base size pa e, walkOf s0 w = .page ea base size pa e →
        exec (.pageWalk w) s = .next (resumeSubmit (afterWalk (walkFound s0 w ea base size pa e) w none) w))
      ∧ (srcLive s0 w = true → ∀ k, walkOf s0 w = .fault k → exec (.pageWalk w) s = .next (walkFault s0 q k)) := by
  constructor
  · intro hl ea base size pa e hw
    change execPageWalk w s = _
    simp only [execPageWalk, hq, hl, hw]
    rfl
  · intro hl k hw
    change execPageWalk w s = _
    simp only [execPageWalk, hq, hl, hw]
    rfl

/-! ### Faults -/

/-- FAULT_SERVICE of an entry whose asker is still there. -/
theorem exec_faultService {s : State} {die i : Nat} {e : FaultEntry} (he : tabGet (dieOf s die).faults i = some e)
    (h0 : e.state = 0) :
    (srcLive s e.src = true → ∀ ea base size pa x, walkOf s e.src = .page ea base size pa x →
        exec (.faultService die i) s
          = .next (resumeSubmit (afterWalk (freeFault (walkFound s e.src ea base size pa x) die i) e.src (some i)) e.src))
      ∧ (srcLive s e.src = true → ∀ k, walkOf s e.src = .fault k → exec (.faultService die i) s
          = .next (modDie s die (fun d => { d with
              faults := tabPut d.faults i { e with cause := k, base := (faultPage s e.src).1, size := (faultPage s e.src).2 }
              reports := d.reports ++ [(i, e.ctx, e.va / 2 ^ 16 % 2 ^ 41)] }))) := by
  constructor
  · intro hl ea base size pa x hw
    change execFaultService die i s = _
    simp only [execFaultService, serviceEntry, he, h0, hl, hw]
    rfl
  · intro hl k hw
    change execFaultService die i s = _
    simp only [execFaultService, serviceEntry, he, h0, hl, hw, reportEntry, bits_eq]
    rfl

/-- FAULT_REJECT of a fetch and of an operation. -/
theorem exec_faultReject {s : State} {die i : Nat} {e : FaultEntry} (he : tabGet (dieOf s die).faults i = some e)
    (h0 : e.state = 0) :
    (∀ b c va x, e.src = .fetch b c va → cordOf s b c = some x → exec (.faultReject die i) s = .next
        (takeTrap (dropFetches (freeFault s die i) e.core b c) b c .fetchFault (BitVec.ofNat 64 e.pc)
          (x.retBefore (BitVec.ofNat 64 e.pc)) (lanesOf e.smask) e.cause 0))
      ∧ ∀ b c o va, e.src = .op b c o va →
        exec (.faultReject die i) s = .next (rejectOp (freeFault s die i) b c o i e) := by
  constructor
  · intro b c va x hs hx
    change execFaultReject die i s = _
    simp only [execFaultReject, rejectEntry, he, h0, hs, hx]
    rfl
  · intro b c o va hs
    change execFaultReject die i s = _
    simp only [execFaultReject, rejectEntry, he, h0, hs]
    rfl

/-- A freed entry of the fault buffer wakes what waited for room. -/
theorem freeFault_die (s : State) (die i : Nat) : (dieOf (freeFault s die i) die).faults = tabDel (dieOf s die).faults i
    ∧ (dieOf (freeFault s die i) die).waiting = []
    ∧ ∀ w ∈ (dieOf s die).waiting, w ∈ (dieOf (freeFault s die i) die).walks := by
  rw [freeFault, dieOf_modDie_same]
  exact ⟨rfl, rfl, fun w hw => List.mem_append_right _ hw⟩

/-- A report written to its fault queue. -/
theorem writeReport_room {s : State} {die i slot vpage : Nat} {rest : List (Nat × Nat × Nat)}
    (hr : (dieOf s die).reports = (i, slot, vpage) :: rest)
    (hq : (dieOf s die).fqProd - (dieOf s die).fqCons < 2 ^ (dieOf s die).fqSize) :
    writeReport s die = send (modDie
      (foreignWrite s ((dieOf s die).fqBase + 8 * ((dieOf s die).fqProd % 2 ^ (dieOf s die).fqSize))
        (leBytes 8 (i + slot * 2 ^ 16 + vpage * 2 ^ 23)))
      die (fun d => { d with reports := rest, fqProd := d.fqProd + 1 })) (.signal die) := by
  have hw : reportWord i slot vpage = i + slot * 2 ^ 16 + vpage * 2 ^ 23 := by
    unfold reportWord
    omega
  have hf : ¬2 ^ (dieOf s die).fqSize ≤ (dieOf s die).fqProd - (dieOf s die).fqCons := not_le.mpr hq
  rw [← hw]
  simp only [writeReport, hr, if_neg hf]

/-! ### Invalidation and context slots -/

/-- What an invalidation leaves of the cached translations (R376). -/
theorem invalidate_tlb (d : Die) : (invalidate d).invCmd = 0 ∧ ∀ e ∈ (invalidate d).tlb, e ∈ d.tlb
    ∧ ¬(e.slot = d.invCtx ∧ (d.invLen = 0 ∧ e.base < 2 ^ 57 ∧ 0 < e.base + e.size
      ∨ d.invLen ≠ 0 ∧ e.base < d.invVa + 65536 * d.invLen ∧ d.invVa < e.base + e.size)) := by
  refine ⟨rfl, fun e he => ?_⟩
  obtain ⟨hm, hp⟩ := List.mem_filter.mp he
  refine ⟨hm, fun ⟨hs, hr⟩ => ?_⟩
  by_cases hz : d.invLen = 0 <;> simp [hs, hz] at hp hr <;> omega

/-- The entry of a table each of whose values has changed. -/
theorem tabGet_map {α β : Type} (f : α → β) (t : Tab α) (a : Nat) :
    tabGet (t.map (fun e => (e.1, f e.2))) a = (tabGet t a).map f := by
  induction t with
  | nil => rfl
  | cons e t ih =>
    rw [List.map_cons, tabGet, tabGet, ih]
    split <;> rfl

/-- TLB_INVALIDATE on each die. -/
theorem exec_tlbInvalidate (s : State) : ∃ t, exec .tlbInvalidate s = .next t ∧ t.mem = s.mem
    ∧ ∀ d, (dieOf t d).invCmd ≠ 1 ∧ ∀ e ∈ (dieOf t d).tlb, e ∈ (dieOf s d).tlb ∧
      ((dieOf s d).invCmd = 1 → ¬(e.slot = (dieOf s d).invCtx ∧ ((dieOf s d).invLen = 0 ∧ e.base < 2 ^ 57 ∧ 0 < e.base + e.size
        ∨ (dieOf s d).invLen ≠ 0 ∧ e.base < (dieOf s d).invVa + 65536 * (dieOf s d).invLen
          ∧ (dieOf s d).invVa < e.base + e.size))) := by
  refine ⟨_, rfl, rfl, fun d => ?_⟩
  have hd : dieOf { s with dies := s.dies.map (fun e => (e.1, if e.2.invCmd = 1 then invalidate e.2 else e.2)) } d
      = if (dieOf s d).invCmd = 1 then invalidate (dieOf s d) else dieOf s d := by
    rw [dieOf, tabGet_map (fun x : Die => if x.invCmd = 1 then invalidate x else x), dieOf]
    cases tabGet s.dies d with
    | none => rfl
    | some x => rfl
  rw [hd]
  split
  case isTrue h1 =>
    obtain ⟨hc, ht⟩ := invalidate_tlb (dieOf s d)
    exact ⟨by simp [hc], fun e he => ⟨(ht e he).1, fun _ => (ht e he).2⟩⟩
  case isFalse h1 => exact ⟨h1, fun e he => ⟨he, fun h => absurd h h1⟩⟩

/-- CONTEXT_SLOT_WRITE of a slot whose context is not resident. -/
theorem exec_contextSlotWrite {s : State} {die k : Nat} (d0 d1 : DWord) (hk : k < 128)
    (hr : residentOn s die (((tabGet (dieOf s die).slots k).getD {}).part) (((tabGet (dieOf s die).slots k).getD {}).ctx) = false) :
    ∃ t, exec (.contextSlotWrite die k d0 d1) s = .next t
      ∧ tabGet (dieOf t die).slots k = some
          { valid := d0.getLsbD 0, root := d0.toNat / 4096 % 2 ^ 40 * 4096, part := d1.toNat / 64 % 8, ctx := d1.toNat % 64 }
      ∧ (∀ j, j ≠ k → tabGet (dieOf t die).slots j = tabGet (dieOf s die).slots j)
      ∧ ∀ e ∈ (dieOf t die).tlb, e ∈ (dieOf s die).tlb
        ∧ (tabGet (dieOf t die).slots k ≠ some ((tabGet (dieOf s die).slots k).getD {}) → e.slot ≠ k) := by
  have hslot : slotOf d0 d1 =
      { valid := d0.getLsbD 0, root := d0.toNat / 4096 % 2 ^ 40 * 4096, part := d1.toNat / 64 % 8, ctx := d1.toNat % 64 } := by
    simp only [slotOf, bits_eq, Nat.pow_zero, Nat.div_one]
    rfl
  rw [← hslot]
  have he : exec (.contextSlotWrite die k d0 d1) s = .next (slotWrite s die k (slotOf d0 d1)) := rfl
  rw [he]
  unfold slotWrite
  extract_lets old
  rw [if_neg (by omega), if_neg (by rw [hr]; simp)]
  refine ⟨_, rfl, ?_, fun j hj => ?_, fun e hm => ?_⟩
  · rw [dieOf_modDie_same]
    exact tabGet_tabPut_same ..
  · rw [dieOf_modDie_same]
    exact tabGet_tabPut_other _ _ hj
  · rw [dieOf_modDie_same] at hm ⊢
    dsimp only at hm ⊢
    rw [tabGet_tabPut_same]
    split at hm
    case isTrue hn => exact ⟨hm, fun h => absurd (congrArg some (eq_of_beq hn)) h⟩
    case isFalse hn => exact ⟨(List.mem_filter.mp hm).1, fun _ => by simpa using (List.mem_filter.mp hm).2⟩

/-! ### What a walk reads at a level -/

/-- A walk at a level, by the entry that it reads (R209, R210, R211, Table 11-4). -/
theorem walkFrom_level (m : Mem) (va sh w table : Nat) (n : Need) (leafOk : Bool) (below : List (Nat × Nat × Bool)) :
    let ea := table + 8 * (va / 2 ^ sh % 2 ^ w)
    let e := leNat (memRead m ea 8)
    (e.testBit 0 = false → walkFrom m va n ((sh, w, leafOk) :: below) table = .fault 0)
      ∧ (e.testBit 0 = true → (e.testBit 7 = true ∨ e.testBit 2 = true ∨ 2 ^ 52 ≤ e) →
          walkFrom m va n ((sh, w, leafOk) :: below) table = .fault 3)
      ∧ (e.testBit 0 = true → e.testBit 7 = false → e.testBit 2 = false → e < 2 ^ 52 → e.testBit 1 = true →
          leafOk = true → e / 256 * 256 % 2 ^ sh = 0 →
          (n = .write → e.testBit 3 = false → walkFrom m va n ((sh, w, leafOk) :: below) table = .fault 1)
          ∧ (n = .fetch → e.testBit 4 = false → walkFrom m va n ((sh, w, leafOk) :: below) table = .fault 2)
          ∧ (n = .read ∨ (n = .write ∧ e.testBit 3 = true) ∨ (n = .fetch ∧ e.testBit 4 = true) →
              walkFrom m va n ((sh, w, leafOk) :: below) table
                = .page ea (va / 2 ^ sh * 2 ^ sh) (2 ^ sh) (e / 256 * 256) e)) := by
  intro ea e
  have hlt : e < 2 ^ 64 := by
    have := leNat_lt (memRead m ea 8)
    rw [show (memRead m ea 8).length = 8 by simp [memRead]] at this
    exact this
  have hhi : Sys2Proof.bits e 63 52 = e / 2 ^ 52 := by
    rw [bits_eq, Nat.mod_eq_of_lt]
    omega
  have hres : entryReserved e = true ↔ e.testBit 7 = true ∨ e.testBit 2 = true ∨ 2 ^ 52 ≤ e := by
    simp only [entryReserved, hhi, Bool.or_eq_true, bne_iff_ne, bit]
    rw [or_assoc, or_comm, or_assoc]
    refine or_congr .rfl (or_congr .rfl ?_)
    omega
  have hpa : e < 2 ^ 52 → Sys2Proof.bits e 51 8 * 256 = e / 256 * 256 := fun h => by
    rw [bits_eq, Nat.mod_eq_of_lt]
    · rfl
    · omega
  have hw : walkFrom m va n ((sh, w, leafOk) :: below) table
      = if !bit e 0 then .fault 0
        else if entryReserved e then .fault 3
        else if bit e 1 then
          if !leafOk || Sys2Proof.bits e 51 8 * 256 % 2 ^ sh != 0 then .fault 3
          else match leafFault e n with
            | some c => .fault c
            | none => .page ea (va / 2 ^ sh * 2 ^ sh) (2 ^ sh) (Sys2Proof.bits e 51 8 * 256) e
        else
          match below with
          | [] => .fault 3
          | [_] => walkFrom m va n below (Sys2Proof.bits e 51 8 * 256)
          | _ :: _ => if Sys2Proof.bits e 51 8 * 256 % 4096 != 0 then .fault 3
            else walkFrom m va n below (Sys2Proof.bits e 51 8 * 256) :=
    (walkFrom.eq_def ..).trans rfl
  rw [hw]
  clear_value e ea
  refine ⟨fun h0 => ?_, fun h0 hr => ?_, fun h0 h7 h2 hs h1 hl ha => ?_⟩
  · rw [if_pos (by simp [bit, h0])]
  · rw [if_neg (by simp [bit, h0]), if_pos (hres.mpr hr)]
  · have hnr : ¬entryReserved e = true := by
      rw [hres]
      simp only [h7, h2, Bool.false_eq_true, false_or]
      omega
    rw [if_neg (by simp [bit, h0]), if_neg hnr, if_pos (by simp [bit, h1]), hpa hs, if_neg (by simp [hl, ha])]
    refine ⟨fun hn h3 => ?_, fun hn h4 => ?_, fun hn => ?_⟩
    · simp [hn, leafFault, bit, h3]
    · simp [hn, leafFault, bit, h4]
    · obtain rfl | ⟨rfl, h3⟩ | ⟨rfl, h4⟩ := hn
      · rfl
      · simp [leafFault, bit, h3]
      · simp [leafFault, bit, h4]

/-- Settles O48: the steps by the state of their entry, and a walk by the entry that it reads. -/
theorem translationSteps : Obligations.TranslationSteps := by
  refine ⟨fun s => ⟨exec_hostSubmit s, fun w q hq => exec_pageWalk hq, fun die i e he h0 => ?_, rfl,
    fun die i slot vpage rest hr hq => writeReport_room hr hq, exec_tlbInvalidate s,
    fun die k d0 d1 hk hr => exec_contextSlotWrite d0 d1 hk hr⟩, walkFrom_level⟩
  obtain ⟨hpage, hfault⟩ := exec_faultService he h0
  obtain ⟨hfetch, hop⟩ := exec_faultReject he h0
  exact ⟨hpage, hfault, hfetch, hop, freeFault_die s die i⟩

end Sys2Proof.Machine
end

/-! ## Requests that the engines accept (O49) -/

section
open Sys2Proof Sys2Proof.Machine Sys2Proof.Claims

namespace Sys2Proof.Machine

/-- A request whose line is present, and what is read of it is not poisoned. -/
structure DueRequest (s : State) (core : Nat) (e : Engine) (q : Request) : Prop where
  next : nextRequest s core e = some q
  due : requestDue s q = true
  clean : winPoison s q.block q.off 32 = false

/-- Poison in a request kills its braid (R348). -/
theorem exec_accept_poisoned {s : State} {core : Nat} {q : Request} {e : Engine} {i : Instr}
    (hi : e = .copy ∧ i = Instr.copyRequestAccept core ∨ e = .gse ∧ i = Instr.gseRequestAccept core
      ∨ e = .coll ∧ i = Instr.collRequestAccept core)
    (hn : nextRequest s core e = some q) (hd : requestDue s q = true) (hp : winPoison s q.block q.off 32 = true) :
    exec i s = .next (killBraid s q.block) := by
  obtain ⟨rfl, rfl⟩ | ⟨rfl, rfl⟩ | ⟨rfl, rfl⟩ := hi
  · change execCopyRequestAccept core s = _
    simp only [execCopyRequestAccept, hn, hd, unpoisoned, hp]
    rfl
  · change execGseRequestAccept core s = _
    simp only [execGseRequestAccept, hn, hd, unpoisoned, hp]
    rfl
  · change execCollRequestAccept core s = _
    simp only [execCollRequestAccept, hn, hd, unpoisoned, hp]
    rfl

/-- COPY_REQUEST_ACCEPT: a copy that a check refuses, and one that is taken. -/
theorem exec_copyRequestAccept {s : State} {core : Nat} {q : Request} (h : DueRequest s core .copy q) :
    let r := readRequest s q
    (copyCheck s r ≠ 0 → exec (.copyRequestAccept core) s = .next
        (failReq (takeRequest s core (native r) []) core (native r) (copyTotal r) (copyCheck s r)))
      ∧ (copyCheck s r = 0 → room s (copyLines s r) = true →
        exec (.copyRequestAccept core) s = .next (if copyTotal r = 0
          then finishReq (takeRequest s core r (copyLines s r)) core r else takeRequest s core r (copyLines s r))) := by
  obtain ⟨hn, hd, hp⟩ := h
  constructor
  · intro hc
    change execCopyRequestAccept core s = _
    simp only [execCopyRequestAccept, hn, hd, unpoisoned, hp, bne_iff_ne.mpr hc]
    rfl
  · intro hc hr
    change execCopyRequestAccept core s = _
    simp only [room] at hr
    simp only [execCopyRequestAccept, hn, hd, unpoisoned, hp, hc, hr]
    rfl

/-- GSE_REQUEST_ACCEPT. -/
theorem exec_gseRequestAccept {s : State} {core : Nat} {q : Request} (h : DueRequest s core .gse q) :
    let r := readRequest s q
    (gseCheck s r ≠ 0 → exec (.gseRequestAccept core) s = .next
        (failReq (takeRequest (gseTotal s r).2 core (native r) []) core (native r) (gseTotal s r).1 (gseCheck s r)))
      ∧ (gseCheck s r = 0 → room s (gseLines s r) = true →
        exec (.gseRequestAccept core) s = .next (takeRequest s core r (gseLines s r))) := by
  obtain ⟨hn, hd, hp⟩ := h
  constructor
  · intro hc
    change execGseRequestAccept core s = _
    simp only [execGseRequestAccept, hn, hd, unpoisoned, hp, bne_iff_ne.mpr hc]
    rfl
  · intro hc hr
    have he : exec (.gseRequestAccept core) s = .next (if !room s (gseLines s (readRequest s q)) then s
        else takeRequest s core (readRequest s q) (gseLines s (readRequest s q))) := by
      change execGseRequestAccept core s = _
      simp only [execGseRequestAccept, hn, hd, unpoisoned, hp, hc]
      rfl
    rw [he, hr]
    rfl

/-- COLL_REQUEST_ACCEPT. -/
theorem exec_collRequestAccept {s : State} {core : Nat} {q : Request} (h : DueRequest s core .coll q) :
    let k := countColl s (readRequest s q)
    let r : Request := { readRequest s q with ordinal := k.1 }
    let reads := collReads r (reqComm s r).length ((reqRank s r).getD 0)
    (collCheck s r ≠ 0 → exec (.collRequestAccept core) s = .next
        (failReq (takeRequest (collTotal k.2 r).2 core (native r) []) core (native r) (collTotal k.2 r).1 (collCheck s r)))
      ∧ (collCheck s r = 0 → room s (collLines s r) = true →
        exec (.collRequestAccept core) s = .next (if reads = 0 then reqObject (takeRequest k.2 core r (collLines s r)) r 0 1 0
          else takeRequest k.2 core r (collLines s r))) := by
  intro k r reads
  obtain ⟨hn, hd, hp⟩ := h
  constructor
  · intro hc
    change execCollRequestAccept core s = _
    simp only [r, k] at hc
    simp only [execCollRequestAccept, hn, hd, unpoisoned, hp, bne_iff_ne.mpr hc]
    rfl
  · intro hc hr
    have he : exec (.collRequestAccept core) s = .next (if !room s (collLines s r) then s
        else if reads = 0 then reqObject (takeRequest k.2 core r (collLines s r)) r 0 1 0
          else takeRequest k.2 core r (collLines s r)) := by
      change execCollRequestAccept core s = _
      simp only [r, k] at hc
      simp only [execCollRequestAccept, hn, hd, unpoisoned, hp, hc]
      rfl
    rw [he, hr]
    rfl

/-- The count that a collective takes in its communicator (R194). -/
theorem countColl_rank {s : State} {q : Request} {x : Block} {k : Nat} (hx : s.blocks[q.block]? = some x)
    (hk : tabGet x.colls (q.field 199 192) = some k) :
    (reqRank s q = none → countColl s q = (0, s))
      ∧ (reqRank s q ≠ none → countColl s q = (k, modBlock s q.block (fun y =>
        { y with colls := tabPut y.colls (q.field 199 192) (k + 1) }))) := by
  constructor
  · intro hr
    simp [countColl, hr]
  · intro hr
    simp [countColl, hr, hx, hk]

/-- Settles O49: each engine accepts its oldest request by the same checks. -/
theorem requestsAccepted : Obligations.RequestsAccepted := by
  intro s core q
  refine ⟨⟨rfl, rfl, rfl⟩, fun e i hi hn hd hp => exec_accept_poisoned hi hn hd hp,
    fun hp => ⟨fun hn hd => exec_copyRequestAccept ⟨hn, hd, hp⟩, fun hn hd => exec_gseRequestAccept ⟨hn, hd, hp⟩,
      fun hn hd => exec_collRequestAccept ⟨hn, hd, hp⟩⟩, ?_⟩
  rintro x ms k hx hk rfl
  exact countColl_rank hx hk

end Sys2Proof.Machine
end

/-! ## The engines at work (O50) -/

section
open Sys2Proof Sys2Proof.Machine Sys2Proof.Claims

namespace Sys2Proof.Machine

/-! ### The units of a copy -/

/-- How many runs of a copy end behind a unit. -/
def runsBehind (runs : Tab Nat) (i : Nat) : Nat := runs.countP (fun e => decide (i < e.1 + e.2))

/-- Fewer runs end behind the end of one that covers a unit. -/
theorem runsBehind_lt {runs : Tab Nat} {i : Nat} {e : Nat × Nat} (he : e ∈ runs) (hi : i < e.1 + e.2) :
    runsBehind runs (e.1 + e.2) < runsBehind runs i := by
  induction runs with
  | nil => cases he
  | cons x l ih =>
    have hle : ∀ l : Tab Nat, runsBehind l (e.1 + e.2) ≤ runsBehind l i := fun l =>
      List.countP_mono_left fun y _ hy => by simp only [decide_eq_true_eq] at hy ⊢; omega
    unfold runsBehind
    rw [List.countP_cons, List.countP_cons]
    obtain rfl | he := List.mem_cons.mp he
    · have := hle l
      unfold runsBehind at this
      simp only [lt_irrefl, decide_false, Bool.false_eq_true, if_false, hi, decide_true, if_true]
      omega
    · have := ih he
      unfold runsBehind at this
      by_cases hx : e.1 + e.2 < x.1 + x.2
      · simp only [hx, decide_true, if_true, show i < x.1 + x.2 by omega]
        omega
      · simp only [hx, decide_false, Bool.false_eq_true, if_false]
        omega

/-- The unit that a search from `i` finds is the first from there that no run covers. -/
theorem freeUnit_spec {runs : Tab Nat} {fuel i : Nat} (hf : runsBehind runs i < fuel) :
    i ≤ freeUnit runs fuel i ∧ (∀ e ∈ runs, ¬(e.1 ≤ freeUnit runs fuel i ∧ freeUnit runs fuel i < e.1 + e.2))
      ∧ ∀ u, i ≤ u → (∀ e ∈ runs, ¬(e.1 ≤ u ∧ u < e.1 + e.2)) → freeUnit runs fuel i ≤ u := by
  induction fuel generalizing i with
  | zero => omega
  | succ fuel ih =>
    unfold freeUnit
    split
    next e he =>
      have hmem := List.mem_of_find?_eq_some he
      have hcov := List.find?_some he
      simp only [Bool.and_eq_true, decide_eq_true_eq] at hcov
      obtain ⟨hge, hfree, hleast⟩ := ih (i := e.1 + e.2) (by have := runsBehind_lt hmem hcov.2; omega)
      refine ⟨by omega, hfree, fun u hu hun => hleast u ?_ hun⟩
      have := hun e hmem
      omega
    next hn =>
      rw [List.find?_eq_none] at hn
      exact ⟨le_rfl, fun e he h => hn e he (by simpa using h), fun u hu _ => hu⟩

/-- A search over a whole table finds a unit that has not been delivered, and none before it from its start. -/
theorem freeUnit_undelivered (q : Request) (i : Nat) : let r := freeUnit q.moved (q.moved.length + 1) i
    undelivered q r ∧ ∀ u, i ≤ u → undelivered q u → r ≤ u :=
  have h := freeUnit_spec (runs := q.moved) (fuel := q.moved.length + 1) (i := i) (Nat.lt_succ_of_le List.countP_le_length)
  ⟨h.2.1, h.2.2⟩

/-- Where the run that begins at a unit stops: at the next run, or at the end of its row. -/
def runStop (q : Request) (i : Nat) : Nat :=
  (q.moved.filter (fun e => i < e.1)).foldl (fun a e => Nat.min a e.1) ((i / copyUnits q + 1) * copyUnits q)

/-- The least of a number and those of a list. -/
theorem foldl_min_spec (l : List (Nat × Nat)) (a : Nat) :
    l.foldl (fun a e => Nat.min a e.1) a ≤ a ∧ (∀ e ∈ l, l.foldl (fun a e => Nat.min a e.1) a ≤ e.1)
      ∧ ∀ i, i < a → (∀ e ∈ l, i < e.1) → i < l.foldl (fun a e => Nat.min a e.1) a := by
  induction l generalizing a with
  | nil => exact ⟨le_rfl, nofun, fun _ h _ => h⟩
  | cons x l ih =>
    obtain ⟨hle, hmem, hlt⟩ := ih (Nat.min a x.1)
    refine ⟨hle.trans (Nat.min_le_left ..), fun e he => ?_, fun i hi hl => hlt i ?_ fun e he => hl e (List.mem_cons_of_mem _ he)⟩
    · obtain rfl | he := List.mem_cons.mp he
      · exact hle.trans (Nat.min_le_right ..)
      · exact hmem e he
    · exact Nat.lt_min.mpr ⟨hi, hl x (List.mem_cons_self ..)⟩

/-- A run that begins at an undelivered unit: it stays in its row, and none of its units has been delivered. -/
theorem runStop_spec {q : Request} {i : Nat} (hi : undelivered q i) (hu : 0 < copyUnits q) :
    i < runStop q i ∧ runStop q i ≤ (i / copyUnits q + 1) * copyUnits q
      ∧ ∀ j, i ≤ j → j < runStop q i → undelivered q j := by
  obtain ⟨hle, hmem, hlt⟩ := foldl_min_spec (q.moved.filter (fun e => i < e.1)) ((i / copyUnits q + 1) * copyUnits q)
  refine ⟨hlt i ?_ fun e he => by simpa using (List.mem_filter.mp he).2, hle, fun j hij hj e he hc => ?_⟩
  · rw [Nat.add_mul, Nat.one_mul]
    exact Nat.lt_div_mul_add hu
  · by_cases hei : i < e.1
    · have : runStop q i ≤ e.1 := hmem e (List.mem_filter.mpr ⟨he, by simpa using hei⟩)
      omega
    · exact hi e he (by omega)

/-- The unit at which the next run of a copy begins, where the search starts at a free value. -/
def runStart (q : Request) (x : Nat) : Nat :=
  let all := copyUnits q * q.rows
  let pick := freeUnit q.moved (q.moved.length + 1) (if all = 0 then 0 else x % all)
  if all ≤ pick then freeUnit q.moved (q.moved.length + 1) 0 else pick

/-- While a unit has not been delivered the next run begins at such a unit. -/
theorem runStart_spec {q : Request} (x : Nat) (h : ∃ u, u < copyUnits q * q.rows ∧ undelivered q u) :
    runStart q x < copyUnits q * q.rows ∧ undelivered q (runStart q x) := by
  obtain ⟨u, hu, hun⟩ := h
  unfold runStart
  extract_lets all pick
  split
  · obtain ⟨hfree, hleast⟩ := freeUnit_undelivered q 0
    exact ⟨(hleast u (Nat.zero_le _) hun).trans_lt hu, hfree⟩
  · exact ⟨by omega, (freeUnit_undelivered q _).1⟩

/-- COPY_DELIVERY: a run of undelivered units of one row is moved. -/
theorem exec_copyDelivery {s : State} {core n : Nat} {q : Request} (hq : reqOf s core n = some q) (ha : q.accepted = true)
    (hf : q.finished = false) (he : q.engine = .copy) (h : ∃ u, u < copyUnits q * q.rows ∧ undelivered q u) :
    ∃ row i k, row < q.rows ∧ 0 < k ∧ k ≤ 64 ∧ i + k ≤ copyUnits q
      ∧ (∀ j, j < k → undelivered q (row * copyUnits q + i + j))
      ∧ exec (.copyDelivery core n) s = .next (moveRun { s with free := s.free + 1 } core q row i k) := by
  let x := (takeFree s).1.toNat
  have hu : 0 < copyUnits q := by
    obtain ⟨u, hu, -⟩ := h
    exact Nat.pos_of_mul_pos_right (Nat.zero_lt_of_lt hu)
  obtain ⟨hi, hun⟩ := runStart_spec x h
  obtain ⟨i, hix⟩ : ∃ i, runStart q x = i := ⟨_, rfl⟩
  rw [hix] at hi hun
  obtain ⟨hlt, hle, hrun⟩ := runStop_spec hun hu
  have hdm : i / copyUnits q * copyUnits q + i % copyUnits q = i := Nat.div_add_mod' i _
  have hmod : i % copyUnits q < copyUnits q := Nat.mod_lt _ hu
  rw [Nat.add_mul, Nat.one_mul] at hle
  refine ⟨i / copyUnits q, i % copyUnits q, Nat.min (runStop q i - i) (1 + x / 2 ^ 40 % 64),
    Nat.div_lt_of_lt_mul hi, ?_, ?_, ?_, fun j hj => hrun _ ?_ ?_, ?_⟩
  · exact Nat.lt_min.mpr ⟨by omega, by omega⟩
  · exact (Nat.min_le_right ..).trans (by omega)
  · have := Nat.min_le_left (runStop q i - i) (1 + x / 2 ^ 40 % 64)
    change _ + min _ _ ≤ _
    omega
  · omega
  · have := Nat.min_le_left (runStop q i - i) (1 + x / 2 ^ 40 % 64)
    have hj : j < min (runStop q i - i) (1 + x / 2 ^ 40 % 64) := hj
    change _ < runStop q i
    omega
  · change execCopyDelivery core n s = _
    subst hix
    simp only [execCopyDelivery, hq, ha, hf, he]
    rfl

/-! ### Gathers, collectives and firmware -/

/-- GSE_ELEMENT_MOVE: an element moves once. -/
theorem exec_gseElementMove {s : State} {core n k : Nat} {q : Request} (hq : reqOf s core n = some q) (ha : q.accepted = true)
    (hf : q.finished = false) (he : q.engine = .gse) (hk : k < q.gcount) (hm : tabGet q.moved k = none) :
    exec (.gseElementMove core n k) s = .next (gseMove s core q k) := by
  change execGseElementMove core n k s = _
  simp only [execGseElementMove, hq, ha, hf, he, hm, not_le.mpr hk, decide_false]
  rfl

/-- COLLECTIVE_PERFORM, by the state of the collective. -/
theorem exec_collectivePerform {s : State} {core n : Nat} {q : Request} (hq : reqOf s core n = some q) (ha : q.accepted = true)
    (hf : q.finished = false) (he : q.engine = .coll) (w : CollWorld) :
    (∀ res, q.result = some res → exec (.collectivePerform core n w) s = .next (writeResult s core q res.1 res.2))
      ∧ (q.result = none → reqRank s q = none → exec (.collectivePerform core n w) s = .next (failColl s core q 6))
      ∧ ∀ rank, q.result = none → reqRank s q = some rank → let v := heardWorld s q w
        (collError s q (collLocal s q) v ≠ 0 → exec (.collectivePerform core n w) s
          = .next (failRanks s q (collLocal s q) (reqComm s q).length (collError s q (collLocal s q) v)))
        ∧ (collError s q (collLocal s q) v = 0 → q.source = none → exec (.collectivePerform core n w) s
          = .next (readSource s core q (reqComm s q).length rank))
        ∧ (collError s q (collLocal s q) v = 0 → q.source.isSome = true →
          collWhole (collLocal s q) v (reqComm s q).length = true → exec (.collectivePerform core n w) s
          = .next (combineRanks s (collLocal s q) v (reqComm s q).length)) := by
  have hx : ∀ t, execCollectivePerform core n w s = .next t → exec (.collectivePerform core n w) s = .next t := fun _ h => h
  refine ⟨fun res hr => hx _ ?_, fun hr hk => hx _ ?_, fun rank hr hk => ⟨fun hc => hx _ ?_, fun hc hs => hx _ ?_,
    fun hc hs hw => hx _ ?_⟩⟩
  · simp only [execCollectivePerform, hq, ha, hf, he, hr]
    rfl
  · simp only [execCollectivePerform, hq, ha, hf, he, hr, hk]
    rfl
  · simp only [execCollectivePerform, hq, ha, hf, he, hr, hk, bne_iff_ne.mpr hc]
    rfl
  · simp only [execCollectivePerform, hq, ha, hf, he, hr, hk, hc, hs]
    rfl
  · rw [← Option.isNone_eq_false_iff] at hs
    simp only [execCollectivePerform, hq, ha, hf, he, hr, hk, hc, hs, hw]
    rfl

/-- FIRMWARE_EMULATION of an emulated request of the cord. -/
theorem exec_firmwareEmulation_request {s : State} {b c n : Nat} {x : Block} {q : Request} (hx : s.blocks[b]? = some x)
    (hq : (coreOf s x.core).requests.find? (fun r => r.n == n && r.emulated && r.accepted && (r.block == b && r.cord == c))
      = some q) :
    exec (.firmwareEmulation b c n) s = .next (resumeRequest (emulateRest s x.core q) x.core n) := by
  change execFirmwareEmulation b c n s = _
  simp only [execFirmwareEmulation, hx, hq]

/-- Settles O50: a run of a copy begins at a unit that no run covers and stops before the next one; the rest by the state of
the request. -/
theorem enginesWork : Obligations.EnginesWork := by
  intro s core n q hq ha hf
  refine ⟨fun he h => exec_copyDelivery hq ha hf he h, fun k he hk hm => exec_gseElementMove hq ha hf he hk hm,
    fun w he => exec_collectivePerform hq ha hf he w, ?_⟩
  rintro b c x hx rfl - - - - hfind
  exact exec_firmwareEmulation_request hx hfind

end Sys2Proof.Machine
end

/-! ## The arrays at work (O51) -/

section
open Sys2Proof Sys2Proof.Machine

namespace Sys2Proof.Machine

/-! ### What leaves memory and the cores alone -/

/-- Memory and the cores stand. -/
structure CoresStand (s t : State) : Prop where
  mem : t.mem = s.mem
  cores : t.cores = s.cores

namespace CoresStand

variable {s t r : State}

/-- Nothing has changed. -/
theorem refl (s : State) : CoresStand s s := ⟨rfl, rfl⟩

/-- One change after another. -/
theorem trans (h : CoresStand s t) (h' : CoresStand t r) : CoresStand s r := ⟨h'.mem.trans h.mem, h'.cores.trans h.cores⟩

/-- A core of such a state. -/
theorem coreOf (h : CoresStand s t) (k : Nat) : coreOf t k = Machine.coreOf s k := by
  rw [Machine.coreOf, h.cores, Machine.coreOf]

/-- A fold of such steps. -/
theorem foldl {α : Type} {f : State → α → State} (h : ∀ s a, CoresStand s (f s a)) (l : List α) (s : State) :
    CoresStand s (l.foldl f s) := by
  induction l generalizing s with
  | nil => exact refl s
  | cons a l ih => exact (h s a).trans (ih _)

/-- A cord changed. -/
theorem modCord (s : State) (b c : Nat) (f : Cord → Cord) : CoresStand s (modCord s b c f) := ⟨rfl, rfl⟩

/-- Lines lowered. -/
theorem lowerLines (s : State) (ls : List (Nat × Nat)) : CoresStand s (lowerLines s ls) := by
  refine foldl ?_ ls s
  exact fun _ _ => ⟨rfl, rfl⟩

/-- A cord that goes on once nothing of it is emulated. -/
theorem resumeCord (s : State) (b c : Nat) : CoresStand s (resumeCord s b c) := by
  unfold Machine.resumeCord
  split
  · exact refl s
  · exact modCord ..

/-- A braid to be killed. -/
theorem killBraid (s : State) (b : Nat) : CoresStand s (killBraid s b) := by
  unfold Machine.killBraid
  split
  · exact ⟨rfl, rfl⟩
  · exact refl s

/-- A braid to be killed for its poison. -/
theorem poisonKill (s : State) (o : ArrOp) (p : Bool) : CoresStand s (poisonKill s o p) := by
  unfold Machine.poisonKill
  split
  · exact killBraid ..
  · exact refl s

/-- An operation that is over. -/
theorem finishOp (s : State) (b c o : Nat) : CoresStand s (finishOp s b c o) := by
  unfold Machine.finishOp
  split
  · exact refl s
  · split
    · exact refl s
    · exact modCord ..

/-- Registers that a drain brings. -/
theorem drainRegs (s : State) (o : ArrOp) (ws : List RegW) : CoresStand s (drainRegs s o ws) := by
  unfold Machine.drainRegs
  split
  · exact refl s
  · exact (modCord ..).trans (finishOp ..)

/-- A row written to the scratchpad. -/
theorem padWrite (s : State) (b x n h r y : Nat) (p : List Bool) : CoresStand s (padWrite s b x n h r y p) := by
  unfold Machine.padWrite
  split
  · refine foldl ?_ _ s
    exact fun _ _ => ⟨rfl, rfl⟩
  · exact refl s

end CoresStand

/-! ### The queue of an array and the tiles of its cores -/

/-- An operation that leaves its queue: nothing else of the cores changes. -/
theorem retireArr_core (s : State) (core : Nat) (o : ArrOp) :
    CoresStand (modCore s core (fun k => { k with array := k.array.filter (fun p => p.n != o.n) })) (retireArr s core o) := by
  unfold retireArr
  extract_lets t u
  have hu : CoresStand t u := .modCord ..
  split
  · exact hu.trans (.resumeCord ..)
  · exact hu

/-- A core of a state in which an operation has left its queue. -/
theorem coreOf_retireArr (s : State) (core : Nat) (o : ArrOp) :
    coreOf (retireArr s core o) core = { coreOf s core with array := (coreOf s core).array.filter (fun p => p.n != o.n) }
      ∧ ∀ k, k ≠ core → coreOf (retireArr s core o) k = coreOf s k := by
  have h := retireArr_core s core o
  exact ⟨(h.coreOf core).trans (coreOf_modCore_same ..), fun k hk => (h.coreOf k).trans (coreOf_modCore_other _ _ hk)⟩

/-- The cores of a list changed by something that does no more the second time. -/
theorem coreOf_foldl_modCore {f : CoreSt → CoreSt} (hf : ∀ x, f (f x) = f x) (l : List Nat) (s : State) (k : Nat) :
    coreOf (l.foldl (fun s k => modCore s k f) s) k = if k ∈ l then f (coreOf s k) else coreOf s k := by
  induction l generalizing s with
  | nil => rfl
  | cons j l ih =>
    rw [List.foldl_cons, ih]
    by_cases hj : k = j
    · subst hj
      simp only [coreOf_modCore_same, hf, List.mem_cons_self, if_true]
      split <;> rfl
    · simp only [coreOf_modCore_other _ _ hj, List.mem_cons, hj, false_or]

/-- Memory and the blocks of a state some of whose cores have changed. -/
theorem foldl_modCore_frame {α : Type} (c : α → Nat) (f : α → CoreSt → CoreSt) (l : List α) (s : State) :
    (l.foldl (fun s e => modCore s (c e) (f e)) s).mem = s.mem
      ∧ (l.foldl (fun s e => modCore s (c e) (f e)) s).blocks = s.blocks :=
  List.foldlRecOn (motive := fun t : State => t.mem = s.mem ∧ t.blocks = s.blocks) _ _ ⟨rfl, rfl⟩ fun _ ht _ _ => ht

/-- The cores of an operation. -/
theorem mem_arrCores {core k : Nat} {o : ArrOp} : k ∈ arrCores core o ↔ k = core ∨ o.fol = some k := by
  rw [arrCores, List.mem_cons, Option.mem_toList]

/-! ### The operations -/

/-- The rows that a drain writes, and those that it adds to them. -/
def drainSources (s : State) (o : ArrOp) : List (Nat × Nat) :=
  if o.mod % 4 = 0 then [] else rowLines s o.block o.a (resRow o.mod)
    (drainRows (((s.blocks[o.block]?).map (fun x => x.width)).getD 64) (halvesOf o.fol) o.reg o.band)

/-- What a drain leaves in the cores and in memory: its sticky bits are clear, the accumulators stand, and it has left its
queue (R191). -/
theorem performDrain_leaves {s : State} {core : Nat} {o : ArrOp} (hsrc : linesPresent s o.lines (drainSources s o) = true)
    (hown : linesPresent s (ownRaised (coreOf s core)) o.lines = true) :
    (∀ k, k = core ∨ o.fol = some k → (coreOf (performDrain s core o) k).asticky = 0
        ∧ (coreOf (performDrain s core o) k).acc = (coreOf s k).acc)
      ∧ (coreOf (performDrain s core o) core).array = (coreOf s core).array.filter (fun p => p.n != o.n)
      ∧ (performDrain s core o).mem = s.mem := by
  obtain ⟨t, ht⟩ : ∃ t, performDrain s core o = t := ⟨_, rfl⟩
  rw [ht]
  unfold performDrain at ht
  extract_lets b width rows src half out fl u v w y bad at ht
  rw [if_neg (by rw [show linesPresent s o.lines src = true from hsrc, hown]; simp)] at ht
  have hu : CoresStand s u := by
    unfold u
    split
    · exact .drainRegs ..
    · refine .foldl ?_ _ s
      exact fun _ _ => .padWrite ..
  have hv : CoresStand s v := hu.trans (.lowerLines ..)
  have hw : ∀ k, coreOf w k = if k ∈ arrCores core o then { coreOf v k with asticky := 0 } else coreOf v k :=
    fun k => coreOf_foldl_modCore (f := fun x => { x with asticky := 0 }) (fun _ => rfl) _ v k
  have hwm : w.mem = v.mem := (foldl_modCore_frame id (fun _ x => { x with asticky := 0 }) (arrCores core o) v).1
  have hy : CoresStand w y := .modCord ..
  have hend : CoresStand (retireArr y core o) t := ht ▸ .poisonKill ..
  have hret := retireArr_core y core o
  obtain ⟨hsame, hother⟩ := coreOf_retireArr y core o
  have hget : ∀ k, k ∈ arrCores core o → coreOf y k = { coreOf s k with asticky := 0 } := fun k hk => by
    rw [hy.coreOf, hw, if_pos hk, hv.coreOf]
  refine ⟨fun k hk => ?_, ?_, ?_⟩
  · rw [hend.coreOf]
    by_cases hc : k = core
    · rw [hc, hsame, hget core (mem_arrCores.mpr (.inl rfl))]
      exact ⟨rfl, rfl⟩
    · rw [hother k hc, hget k (mem_arrCores.mpr hk)]
      exact ⟨rfl, rfl⟩
  · rw [hend.coreOf, hsame, hget core (mem_arrCores.mpr (.inl rfl))]
  · rw [hend.mem, hret.mem, modCore_mem, hy.mem, hwm, hv.mem]

/-- ARRAY_ZERO_LOAD_PERFORM of MZERO: the arrays hold +0 with clean bits. -/
theorem exec_mzero {s : State} {core : Nat} {o : ArrOp} (ho : headOp s core [.mzero, .maccld] = some o)
    (hk : o.kind = .mzero) : ∃ t, exec (.arrayZeroLoadPerform core) s = .next t
      ∧ (∀ k, k = core ∨ o.fol = some k → (coreOf t k).acc = [] ∧ (coreOf t k).apoison = [] ∧ (coreOf t k).asticky = 0)
      ∧ (coreOf t core).array = (coreOf s core).array.filter (fun p => p.n != o.n)
      ∧ t.mem = s.mem ∧ ∀ i : Nat, (t.blocks[i]?).map Block.window = (s.blocks[i]?).map Block.window := by
  let u := (arrCores core o).foldl (fun s k => modCore s k zeroTile) s
  have hx : exec (.arrayZeroLoadPerform core) s = .next (retireArr u core o) := by
    change execArrayZeroLoadPerform core s = _
    simp only [execArrayZeroLoadPerform, ho, hk]
    rfl
  have hu : ∀ k, coreOf u k = if k ∈ arrCores core o then zeroTile (coreOf s k) else coreOf s k :=
    coreOf_foldl_modCore (f := zeroTile) (fun _ => rfl) _ s
  have hm : u.mem = s.mem ∧ u.blocks = s.blocks := foldl_modCore_frame id (fun _ => zeroTile) (arrCores core o) s
  obtain ⟨hsame, hother⟩ := coreOf_retireArr u core o
  refine ⟨_, hx, fun k hk => ?_, ?_, ?_, fun i => ?_⟩
  · by_cases hc : k = core
    · rw [hc, hsame, hu, if_pos (mem_arrCores.mpr (.inl rfl))]
      exact ⟨rfl, rfl, rfl⟩
    · rw [hother k hc, hu, if_pos (mem_arrCores.mpr hk)]
      exact ⟨rfl, rfl, rfl⟩
  · rw [hsame, hu, if_pos (mem_arrCores.mpr (.inl rfl))]
    rfl
  · rw [(retireArr_core u core o).mem, modCore_mem, hm.1]
  · rw [window_of_bytes (bytesOf_retireArr u core o) i, hm.2]

/-- ARRAY_ZERO_LOAD_PERFORM of MACCLD once its lines are present. -/
theorem exec_maccld {s : State} {core : Nat} {o : ArrOp} (ho : headOp s core [.mzero, .maccld] = some o)
    (hk : o.kind = .maccld)
    (hp : linesPresent s [] (rowLines s o.block o.a (tileRow o.ty) (opndRows (halvesOf o.fol) 32)) = true) :
    exec (.arrayZeroLoadPerform core) s = .next (poisonKill
      (retireArr (((arrCores core o).zipIdx).foldl (fun t e => modCore t e.1 (loadTile s o e.2)) s) core o) o
      ((opndRows (halvesOf o.fol) 32).any (fun e => padRowPoison s o.block o.a (tileRow o.ty) e.1 e.2))) := by
  change execArrayZeroLoadPerform core s = _
  simp only [execArrayZeroLoadPerform, ho, hk, hp]
  rfl

/-- ARRAY_MMA_PERFORM. -/
theorem exec_mma {s : State} {core : Nat} {o : ArrOp} (ho : headOp s core [.mma, .mmas] = some o) :
    exec (.arrayMmaPerform core) s = .next (performMma s core o) := by
  change execArrayMmaPerform core s = _
  simp only [execArrayMmaPerform, ho]

/-- ARRAY_DRAIN_PERFORM: a drain raises its lines first where they had no room (R157). -/
theorem exec_mdrain {s : State} {core : Nat} {o : ArrOp} (ho : headOp s core [.mdrain] = some o) :
    (o.due = [] → exec (.arrayDrainPerform core) s = .next (performDrain s core o))
      ∧ (o.due ≠ [] → canRaise s o.due = true → exec (.arrayDrainPerform core) s = .next (raiseDue s core o))
      ∧ (o.due ≠ [] → canRaise s o.due = false → exec (.arrayDrainPerform core) s = .next s) := by
  have hx : exec (.arrayDrainPerform core) s = .next (if o.due.isEmpty then performDrain s core o
      else if canRaise s o.due then raiseDue s core o else s) := by
    change execArrayDrainPerform core s = _
    simp only [execArrayDrainPerform, ho]
  rw [hx]
  refine ⟨fun hd => ?_, fun hd hr => ?_, fun hd hr => ?_⟩
  · rw [if_pos (by simp [hd])]
  · rw [if_neg (by simpa using hd), if_pos hr]
  · rw [if_neg (by simpa using hd), if_neg (by simp [hr])]

/-- FIRMWARE_EMULATION of an emulated operation at the head of its array, where the cord has no request. -/
theorem exec_firmwareEmulation_array {s : State} {x : Block} {o : ArrOp} {rest : List ArrOp}
    (hx : s.blocks[o.block]? = some x) (hr : (coreOf s x.core).requests = []) (ha : (coreOf s x.core).array = o :: rest)
    (he : o.emulated = true) :
    exec (.firmwareEmulation o.block o.cord o.n) s = .next (performMma s x.core o) := by
  change execFirmwareEmulation o.block o.cord o.n s = _
  simp [execFirmwareEmulation, hx, hr, ha, he]

/-- Settles O51: each operation by its kind; what it leaves in the cores is what it does to the array's own fields. -/
theorem arraysWork : Obligations.ArraysWork := by
  intro s core o
  refine ⟨fun ho hk => exec_mzero ho hk, fun ho hk hp => exec_maccld ho hk hp, fun ho => exec_mma ho, fun ho => exec_mdrain ho,
    fun hsrc hown => ?_, ?_⟩
  · obtain ⟨hcores, -, hmem⟩ := performDrain_leaves hsrc hown
    exact ⟨hcores, hmem⟩
  · rintro b c x rest hx rfl hr ha he rfl rfl
    exact exec_firmwareEmulation_array hx hr ha he

end Sys2Proof.Machine
end

/-! ## A grid from its record to its completion word (O52) -/

section
open Sys2Proof Sys2Proof.Machine

namespace Sys2Proof.Machine

/-- A grid that was changed. -/
theorem gridOf_modGrid_same (s : State) (g : Nat) (f : Grid → Grid) : gridOf (modGrid s g f) g = (gridOf s g).map f := by
  simp [gridOf, modGrid]

/-! ### Launch records -/

/-- Tests that a launch stops: only cores change. -/
theorem abortTests_frame (s : State) (x : Grid) : (abortTests s x).mem = s.mem ∧ (abortTests s x).blocks = s.blocks
    ∧ (abortTests s x).grids = s.grids ∧ (abortTests s x).ctxs = s.ctxs := by
  unfold abortTests
  split
  · exact List.foldlRecOn (motive := fun t : State => t.mem = s.mem ∧ t.blocks = s.blocks ∧ t.grids = s.grids
      ∧ t.ctxs = s.ctxs) _ _ ⟨rfl, rfl, rfl, rfl⟩ fun _ ht _ _ => ht
  · exact ⟨rfl, rfl, rfl, rfl⟩

/-- LAUNCH_RECORD_ACCEPT of the record at the head of its queue. -/
theorem exec_launchRecordAccept {s : State} {g part q : Nat} {x : Grid} (hx : gridOf s g = some x)
    (hh : headOf s part q = some g) (hst : x.stage = .queued) :
    (acceptCheck s x ≠ 0 → exec (.launchRecordAccept part q) s = .next (failGrid s g (acceptCheck s x)))
      ∧ (acceptCheck s x = 0 → ∃ t y, exec (.launchRecordAccept part q) s = .next t ∧ gridOf t g = some y
        ∧ y.stage = (if recordWaits x.record = [] then .ready else .accepted)
        ∧ y.order = (ctxOf s x.part x.ctx).accepted + 1 ∧ (ctxOf t x.part x.ctx).accepted = (ctxOf s x.part x.ctx).accepted + 1
        ∧ y.waits.length = (recordWaits x.record).length ∧ y.waits.all (fun b => !b) = true
        ∧ t.mem = s.mem ∧ t.blocks = s.blocks) := by
  constructor
  · intro hc
    change execLaunchRecordAccept part q s = _
    simp only [execLaunchRecordAccept, hh, hx, hst, bne_iff_ne.mpr hc]
    rfl
  · intro hc
    let n := (ctxOf s x.part x.ctx).accepted + 1
    let ws := (recordWaits x.record).map (fun _ => false)
    let u := abortTests (modCtx s x.part x.ctx (fun c => { c with accepted := n })) x
    obtain ⟨hm, hb, hg, hct⟩ : u.mem = s.mem ∧ u.blocks = s.blocks ∧ u.grids = s.grids
        ∧ u.ctxs = (modCtx s x.part x.ctx (fun c => { c with accepted := n })).ctxs := abortTests_frame _ x
    have hy : gridOf u g = some x := by rw [gridOf, hg, ← gridOf, hx]
    refine ⟨modGrid u g (fun y => { y with stage := if ws.isEmpty then .ready else .accepted, waits := ws, order := n }),
      { x with stage := if ws.isEmpty then .ready else .accepted, waits := ws, order := n }, ?_, ?_, ?_, rfl, ?_,
      List.length_map _, ?_, hm, hb⟩
    · change execLaunchRecordAccept part q s = _
      simp only [execLaunchRecordAccept, hh, hx, hst, hc]
      rfl
    · rw [gridOf_modGrid_same, hy, Option.map_some]
    · simp [ws]
    · change (ctxOf u x.part x.ctx).accepted = _
      rw [ctxOf, hct, ← ctxOf, ctxOf_modCtx_same]
    · simp [ws]

/-- LAUNCH_WAIT_SATISFIED, by the word that the record waits for. -/
theorem exec_launchWaitSatisfied {s t : State} {g k va v w : Nat} {x : Grid} (hx : gridOf s g = some x)
    (hst : x.stage = .accepted) (hk : (recordWaits x.record)[k]? = some (va, v)) (hw : waitWord s x va = some (w, t)) :
    (bit w 63 = true → exec (.launchWaitSatisfied g k) s = .next (failGrid t g 0x0107))
      ∧ (bit w 63 = false → bits w 47 0 < bits v 47 0 → exec (.launchWaitSatisfied g k) s = .next t)
      ∧ (bit w 63 = false → bits v 47 0 ≤ bits w 47 0 → exec (.launchWaitSatisfied g k) s = .next (modGrid t g (fun y =>
          { y with waits := x.waits.set k true,
                   stage := if (x.waits.set k true).all (fun b => b) then .ready else .accepted }))) := by
  have he : exec (.launchWaitSatisfied g k) s = .next (if bit w 63 then failGrid t g 0x0107
      else if bits w 47 0 < bits v 47 0 then t
      else modGrid t g (fun y => { y with waits := x.waits.set k true,
                                          stage := if (x.waits.set k true).all (fun b => b) then .ready else .accepted })) := by
    change execLaunchWaitSatisfied g k s = _
    simp only [execLaunchWaitSatisfied, hx, hst, hk, hw]
  rw [he]
  refine ⟨fun h => ?_, fun h hlt => ?_, fun h hle => ?_⟩
  · rw [if_pos h]
  · rw [if_neg (by simp [h]), if_pos hlt]
  · rw [if_neg (by simp [h]), if_neg (not_lt.mpr hle)]

/-! ### Placement -/

/-- A braid to be placed anew goes first, where its context may relaunch it (R313, log 113). -/
theorem duePending_cases (s : State) (x : Grid) :
    (∀ j, pendingBraid x = some j → mayPlace s x true = true → duePending s x = some j)
      ∧ ((pendingBraid x = none ∨ mayPlace s x true = false) → duePending s x = none) := by
  unfold duePending
  refine ⟨fun j hj hm => by rw [if_pos hm, hj], fun h => ?_⟩
  obtain hj | hm := h
  · rw [hj, ite_self]
  · rw [if_neg (by simp [hm])]

/-- BLOCK_PLACEMENT and AVOIDED_PLACEMENT_TIMEOUT place as `placeNext` does. -/
theorem exec_placement {g : Nat} {i : Instr} {any : Bool}
    (hi : i = Instr.blockPlacement g ∧ any = false ∨ i = Instr.avoidedPlacementTimeout g ∧ any = true) (s : State) :
    exec i s = .next (placeNext s g any) := by
  obtain ⟨rfl, rfl⟩ | ⟨rfl, rfl⟩ := hi <;> rfl

/-- A braid placed anew. -/
theorem placeNext_pending {s : State} {g j : Nat} {x : Grid} {any : Bool} {cs : List Nat} (hx : gridOf s g = some x)
    (hj : pendingBraid x = some j) (hm : mayPlace s x true = true) (ho : x.over = false) (hc : chooseSeat s x any = some cs) :
    placeNext s g any = placeBraid s g x j cs := by
  simp only [placeNext, hx, (duePending_cases s x).1 j hj hm, ho, hc]
  rfl

/-- The next blocks of a grid. -/
theorem placeNext_next {s : State} {g : Nat} {x : Grid} {any : Bool} (hx : gridOf s g = some x)
    (hp : pendingBraid x = none ∨ mayPlace s x true = false) (hpl : placing s g = true) (ht : itsTurn s g x any = true) :
    (∀ cs, x.isGbar = false → chooseSeat s x any = some cs → placeNext s g any = leaveQueue
        (modGrid (placeBraid (serveQueue s x) g x (x.next / x.braidSize) cs) g (fun y =>
          { y with next := x.next + x.braidSize })) g)
      ∧ ∀ t, x.isGbar = true → placeAll g x.blockCount s = some t → placeNext s g any = leaveQueue (serveQueue t x) g := by
  have hd := (duePending_cases s x).2 hp
  constructor
  · intro cs hg hc
    simp only [placeNext, hx, hd, hpl, ht, hg, hc]
    rfl
  · intro t hg hc
    simp only [placeNext, hx, hd, hpl, ht, hg, hc]
    rfl

/-- A lane of a new cord (R293). -/
theorem firstCord_lane (s : State) (x : Grid) (core side c slot : Nat) (act : Option Nat) (since : Nat) {l : Nat}
    (hl : l < x.width) : (firstCord s x core side c slot act since).lane l = firstStrand x c l := by
  simp [firstCord, Cord.lane, hl]

/-! ### The end of a grid -/

/-- BLOCK_RETIRE of a block whose cords have ended and whose children are over. -/
theorem exec_blockRetire {s : State} {b : Nat} {y : Block} (hy : s.blocks[b]? = some y)
    (he : y.cords.all (fun c => c.ended) = true) (hc : childrenOver s b = true) :
    let t := modBlock s b (fun y => { y with retired := true })
    exec (.blockRetire b) s = .next (if braidDone t (y.grid, y.braid) then retireBraid t (y.grid, y.braid) else t) := by
  change execBlockRetire b s = _
  simp only [execBlockRetire, hy, he, hc]
  rfl

/-- STAGED_STEP_RELEASE: nothing while the context is saved, else the operations staged of the braid whose turn it is. -/
theorem exec_stagedStepRelease {s : State} {g : Nat} {x : Grid} (hx : gridOf s g = some x) :
    ((ctxOf s x.part x.ctx).life = .saved → exec (.stagedStepRelease g) s = .next s)
      ∧ ∀ i, holder s g x = some i → (ctxBit s x 3 = true ∨ ((tabGet x.braids i).map Braid.kept).getD false = true) →
        (ctxOf s x.part x.ctx).life ≠ .saved → gridTurn 11 s g = true →
        exec (.stagedStepRelease g) s = .next (releaseStep (publishBraid (flushStaged s (g, i)) (g, i)) (g, i)) := by
  constructor
  · intro hl
    change execStagedStepRelease g s = _
    have hs : ticketStands s x = true := by simp [ticketStands, hl]
    simp only [execStagedStepRelease, hx, hs]
    split
    · rfl
    · simp
  · intro i hh hk hl ht
    change execStagedStepRelease g s = _
    have hs : ticketStands s x = false := by simp [ticketStands, hl]
    have hb : (ctxBit s x 3 || keptBraid x i) = true := by rw [Bool.or_eq_true]; exact hk
    simp only [execStagedStepRelease, hx, hh, hs, hb, ht]
    rfl

/-- A grid that runs is not over. -/
theorem over_of_gridDone {x : Grid} (h : gridDone x = true) : x.over = false := by
  have hst : x.stage = .running := by
    simp only [gridDone, Bool.and_eq_true, beq_iff_eq] at h
    exact h.1.1
  simp only [Grid.over, hst]

/-- GRID_COMPLETE. -/
theorem exec_gridComplete {s : State} {g : Nat} {x : Grid} (hx : gridOf s g = some x) :
    (x.over = true → exec (.gridComplete g) s = .next (payOwed s g))
      ∧ (gridDone x = true → complScope x < 3 → exec (.gridComplete g) s = .next (endGrid s g x))
      ∧ (gridDone x = true → 3 ≤ complScope x → coresQuiet (x.cores.foldl publishAll s) g x = true →
        exec (.gridComplete g) s = .next (endGrid (x.cores.foldl publishAll s) g x)) := by
  refine ⟨fun ho => ?_, fun hd hs => ?_, fun hd hs hq => ?_⟩
  · change execGridComplete g s = _
    simp only [execGridComplete, hx, ho, if_true]
  · change execGridComplete g s = _
    have hw : wide (complScope x) = false := decide_eq_false (not_le.mpr hs)
    simp only [execGridComplete, hx, over_of_gridDone hd, hd, hw]
    rfl
  · change execGridComplete g s = _
    have hw : wide (complScope x) = true := decide_eq_true hs
    simp only [execGridComplete, hx, over_of_gridDone hd, hd, hw, hq]
    rfl

/-- Settles O52: each step by the stage of its grid. -/
theorem gridSteps : Obligations.GridSteps := by
  intro s g x hx
  obtain ⟨hover, hnarrow, hwide⟩ := exec_gridComplete hx
  obtain ⟨hsaved, hrelease⟩ := exec_stagedStepRelease hx
  refine ⟨fun part q hh hst => exec_launchRecordAccept hx hh hst,
    fun k va v w t hst hk hw => exec_launchWaitSatisfied hx hst hk hw, fun i any hi => ?_,
    fun core side c slot act since l hl => ?_, fun b y hy he hc => exec_blockRetire hy he hc, hsaved, hrelease, hover, hnarrow, hwide⟩
  · simp only [exec_placement hi]
    exact ⟨fun j cs hj hm ho hc => congrArg _ (placeNext_pending hx hj hm ho hc),
      fun cs hp hpl ht hg hc => congrArg _ ((placeNext_next hx hp hpl ht).1 cs hg hc),
      fun t hp hpl ht hg hc => congrArg _ ((placeNext_next hx hp hpl ht).2 t hg hc)⟩
  · rw [firstCord_lane _ _ _ _ _ _ _ _ hl]
    refine ⟨rfl, rfl, rfl, fun r => ?_, ?_⟩
    · simp [firstStrand, Strand.reg]
    · simp [firstStrand]

end Sys2Proof.Machine
end

/-! ## Contexts (O53) -/

section
open Sys2Proof Sys2Proof.Machine Sys2Proof.Claims

namespace Sys2Proof.Machine

/-! ### A context that changes -/

/-- A context changed in two ways that agree on it. -/
theorem modCtx_congr {s : State} {p c : Nat} {f g : Ctx → Ctx} (h : f (ctxOf s p c) = g (ctxOf s p c)) :
    modCtx s p c f = modCtx s p c g := by
  rw [modCtx, modCtx, h]

/-- A context that a change leaves as it was leaves every context. -/
theorem ctxOf_modCtx_id {s : State} {p c : Nat} {f : Ctx → Ctx} (h : f (ctxOf s p c) = ctxOf s p c) (p' c' : Nat) :
    ctxOf (modCtx s p c f) p' c' = ctxOf s p' c' := by
  by_cases hk : ctxKey p' c' = ctxKey p c
  · rw [ctxOf, hk, modCtx, tabGet_tabPut_same, Option.getD_some, h, ctxOf, ctxOf, hk]
  · rw [ctxOf, modCtx, tabGet_tabPut_other _ _ hk, ctxOf]

/-- A context whose life goes on from one stage to the next. -/
theorem lifeFrom_of_life {s : State} {p c : Nat} {a b : CtxLife} (h : (ctxOf s p c).life = a) :
    lifeFrom s p c a b = modCtx s p c (fun y => { y with life := b }) :=
  modCtx_congr (if_pos (by simp [h]))

/-! ### Control words, creation and destruction -/

/-- CONTROL_WORDS_WRITE: only a saved context takes control words, and only legal ones. -/
theorem exec_controlWordsWrite (s : State) (part ctx : Nat) (d0 d1 : DWord) :
    ((ctxOf s part ctx).life = .saved → controlBad (d1 ++ d0) = false →
        exec (.controlWordsWrite part ctx d0 d1) s = .next (modCtx s part ctx (fun y => { y with control := d1 ++ d0 })))
      ∧ (((ctxOf s part ctx).life ≠ .saved ∨ controlBad (d1 ++ d0) = true) →
        ∃ t, exec (.controlWordsWrite part ctx d0 d1) s = .next t ∧ ∀ p c, ctxOf t p c = ctxOf s p c) := by
  constructor
  · intro hl hb
    change execControlWordsWrite part ctx d0 d1 s = _
    have hc : ((ctxOf s part ctx).life == .saved && !controlBad (controlWords d0 d1)) = true := by simp [hl, controlWords, hb]
    refine congrArg Host.Outcome.next (modCtx_congr ?_)
    exact if_pos hc
  · intro h
    refine ⟨_, rfl, ctxOf_modCtx_id (if_neg fun hc => ?_)⟩
    rw [Bool.and_eq_true, beq_iff_eq, Bool.not_eq_true'] at hc
    obtain h | h := h
    · exact h hc.1
    · exact Bool.false_ne_true (hc.2.symm.trans h)

/-- CONTEXT_CREATION where every die of the partition has a slot. -/
theorem exec_contextCreation {s : State} {part ctx : Nat} (d0 d1 : DWord) (k : Bool) (hp : part < 8) (hc : ctx < 64)
    (hl : (ctxOf s part ctx).life = .absent ∨ (ctxOf s part ctx).life = .reset)
    (hr : (diesOf s part).all (slotRoom s part ctx) = true) :
    ∃ t, exec (.contextCreation part ctx d0 d1 k) s = .next t
      ∧ ctxOf t part ctx
        = { life := .running, control := if controlBad (d1 ++ d0) then 0 else d1 ++ d0, intlk := k, born := s.grids.length }
      ∧ t.mem = s.mem ∧ t.blocks = s.blocks := by
  let u := (diesOf s part).foldl (fun s d => modDie s d (takeSlot part ctx)) s
  obtain ⟨hm, hb, hg⟩ : u.mem = s.mem ∧ u.blocks = s.blocks ∧ u.grids = s.grids :=
    List.foldlRecOn (motive := fun t : State => t.mem = s.mem ∧ t.blocks = s.blocks ∧ t.grids = s.grids) _ _
      ⟨rfl, rfl, rfl⟩ fun _ ht _ _ => ht
  have hgo : (part < 8 && ctx < 64 && ((ctxOf s part ctx).life == .absent || (ctxOf s part ctx).life == .reset)
      && (diesOf s part).all (slotRoom s part ctx)) = true := by
    simp [hp, hc, hl, hr]
  have he : exec (.contextCreation part ctx d0 d1 k) s = .next (modCtx (forgetSteps u part ctx) part ctx (fun _ => {
      life := .running, control := if controlBad (d1 ++ d0) then 0 else d1 ++ d0, intlk := k, born := u.grids.length })) := by
    change execContextCreation part ctx d0 d1 k s = _
    exact congrArg _ (if_pos hgo)
  exact ⟨_, he, by rw [ctxOf_modCtx_same, hg], hm, hb⟩

/-- A table no longer holds an entry that was taken out of it. -/
theorem tabGet_tabDel_same {α : Type} (t : Tab α) (a : Nat) : tabGet (tabDel t a) a = none := by
  rw [tabGet_eq_none_iff]
  exact fun x hx => by simpa using (List.mem_filter.mp hx).2

/-- CONTEXT_DESTRUCTION of a context that was reset, or that holds nothing any more. -/
theorem exec_contextDestruction {s : State} {part ctx : Nat}
    (h : (ctxOf s part ctx).life = .reset ∨ (hasBlocks s part ctx = false ∧ hasGrids s part ctx = false)) :
    ∃ t, exec (.contextDestruction part ctx) s = .next t ∧ (ctxOf t part ctx).life = .absent ∧ t.mem = s.mem := by
  have he : exec (.contextDestruction part ctx) s
      = .next { releaseSlots s part ctx with ctxs := tabDel s.ctxs (ctxKey part ctx) } := by
    change execContextDestruction part ctx s = _
    refine congrArg _ (if_pos ?_)
    simpa using h
  refine ⟨_, he, ?_, rfl⟩
  rw [ctxOf, tabGet_tabDel_same]
  rfl

/-! ### Pre-emption, save and restore -/

/-- PREEMPT_REQUEST and CONTEXT_RESTORE. -/
theorem exec_preempt_restore (s : State) (part ctx : Nat) :
    ((ctxOf s part ctx).life = .running →
        exec (.preemptRequest part ctx) s = .next (modCtx s part ctx (fun y => { y with life := .draining })))
      ∧ ((ctxOf s part ctx).life = .saved →
        exec (.contextRestore part ctx) s = .next (modCtx s part ctx (fun y => { y with life := .running }))) :=
  ⟨fun h => congrArg _ (lifeFrom_of_life h), fun h => congrArg _ (lifeFrom_of_life h)⟩

/-- What a save marks in a grid: of a deterministic context, the braids that still stage operations (R315). -/
theorem keepStaged_grid {s : State} {part ctx i : Nat} {g : Grid} (hg : s.grids[i]? = some g) :
    (¬(g.part = part ∧ g.ctx = ctx ∧ ctxBit s g 3 = true) → (keepStaged s part ctx).grids[i]? = some g)
      ∧ (g.part = part → g.ctx = ctx → ctxBit s g 3 = true → ∃ h, (keepStaged s part ctx).grids[i]? = some h
        ∧ h = { g with braids := h.braids }
        ∧ h.braids = g.braids.map (fun r => (r.1, { r.2 with kept := r.2.kept || braidStages s (i, r.1) }))) := by
  have hx : (keepStaged s part ctx).grids[i]? = some (if g.within part ctx && ctxBit s g 3 then
      { g with braids := g.braids.map (fun r => (r.1, { r.2 with kept := r.2.kept || braidStages s (i, r.1) })) }
      else g) := by
    simp only [keepStaged, List.getElem?_mapIdx, hg, Option.map_some]
  have hw : (g.within part ctx && ctxBit s g 3) = true ↔ g.part = part ∧ g.ctx = ctx ∧ ctxBit s g 3 = true := by
    simp [Grid.within, and_assoc]
  rw [hx]
  refine ⟨fun hn => by rw [if_neg (fun h => hn (hw.mp h))], fun hp hc hb => ?_⟩
  rw [if_pos (hw.mpr ⟨hp, hc, hb⟩)]
  exact ⟨_, rfl, rfl, rfl⟩

/-- CONTEXT_SAVE. -/
theorem exec_contextSave (s : State) (part ctx : Nat) :
    ((ctxOf s part ctx).life = .draining → hasBlocks s part ctx = false → ∃ t, exec (.contextSave part ctx) s = .next t
        ∧ t = modCtx { s with grids := t.grids } part ctx (fun y => { y with life := .saved })
        ∧ t.grids.length = s.grids.length
        ∧ ∀ i g, s.grids[i]? = some g →
          (¬(g.part = part ∧ g.ctx = ctx ∧ ctxBit s g 3 = true) → t.grids[i]? = some g)
          ∧ (g.part = part → g.ctx = ctx → ctxBit s g 3 = true → ∃ h, t.grids[i]? = some h ∧ h = { g with braids := h.braids }
            ∧ h.braids = g.braids.map (fun r => (r.1, { r.2 with kept := r.2.kept || braidStages s (i, r.1) }))))
      ∧ (((ctxOf s part ctx).life ≠ .draining ∨ hasBlocks s part ctx = true) →
        exec (.contextSave part ctx) s = .next s) := by
  constructor
  · intro hl hb
    have hlife : (ctxOf (keepStaged s part ctx) part ctx).life = .draining := hl
    have he : exec (.contextSave part ctx) s
        = .next (modCtx (keepStaged s part ctx) part ctx (fun y => { y with life := .saved })) := by
      change execContextSave part ctx s = _
      rw [execContextSave, if_neg (by simp [hl, hb]), lifeFrom_of_life hlife]
    exact ⟨_, he, rfl, List.length_mapIdx, fun i g hg => keepStaged_grid hg⟩
  · intro h
    change execContextSave part ctx s = _
    exact congrArg _ (if_pos (by simpa [or_comm] using h))

/-! ### Resets and hangs -/

/-- PREEMPT_DEADLINE_EXPIRY. -/
theorem exec_preemptDeadlineExpiry (s : State) (part ctx : Nat) :
    ((ctxOf s part ctx).life = .draining → (ctxOf s part ctx).fatal = none →
        exec (.preemptDeadlineExpiry part ctx) s = .next (forcedReset s part ctx 0x0202))
      ∧ ((ctxOf s part ctx).fatal ≠ none → exec (.preemptDeadlineExpiry part ctx) s = .next s) := by
  constructor
  · intro hl hf
    exact congrArg _ (if_pos (by simp [hl, hf]))
  · intro hf
    exact congrArg _ (if_neg (by simp [hf]))

/-- A context that was reset by force. -/
theorem ctxOf_forcedReset (s : State) (part ctx status : Nat) :
    (ctxOf (forcedReset s part ctx status) part ctx).life = .reset ∧ (ctxOf (forcedReset s part ctx status) part ctx).fatal = none := by
  unfold forcedReset
  extract_lets gs t u v w
  rw [ctxOf_modCtx_same]
  exact ⟨rfl, rfl⟩

/-- HANG_DEADLINE_EXPIRY of a cord whose clock runs. -/
theorem exec_hangDeadlineExpiry {s : State} {b c : Nat} {y : Block} {z : Cord} (hy : s.blocks[b]? = some y)
    (hz : cordOf s b c = some z) (hs : clockStands s b c y z = false) (hd : hangDue s b z = true) :
    let more := Nat.min (announced s b c y.core z) (200000 - z.ext)
    (more = 0 → exec (.hangDeadlineExpiry b c) s = .next (fatal s b 0x0204 0 0))
      ∧ (more ≠ 0 → exec (.hangDeadlineExpiry b c) s = .next (modCord s b c (fun v => { v with ext := v.ext + more }))) := by
  have he : exec (.hangDeadlineExpiry b c) s = .next (if hangExtension s b c y.core z = 0 then fatal s b 0x0204 0 0
      else modCord s b c (fun v => { v with ext := v.ext + hangExtension s b c y.core z })) := by
    change execHangDeadlineExpiry b c s = _
    simp only [execHangDeadlineExpiry, hy, hz, hs, hd]
    rfl
  rw [he]
  exact ⟨fun h => congrArg _ (if_pos h), fun h => congrArg _ (if_neg h)⟩

/-- REPLAY_FOREIGN_TIMEOUT of a context that waits for a step from outside. -/
theorem exec_replayForeignTimeout {s : State} {part ctx : Nat} (hl : ctxLog (ctxOf s part ctx) = 2)
    (ha : (ctxOf s part ctx).life ≠ .absent) (hw : (logLeft s (ctxOf s part ctx)).any (fun e => e.1.kind == 1) = true)
    (hf : (ctxOf s part ctx).fatal = none) :
    exec (.replayForeignTimeout part ctx) s
      = .next (modCtx s part ctx (fun y => { y with fatal := some (0x0205, 0, 0) })) := by
  change execReplayForeignTimeout part ctx s = _
  unfold execReplayForeignTimeout
  extract_lets x
  rw [if_pos (by simp [x, hl, hw, ha])]
  refine congrArg _ (modCtx_congr ?_)
  simp only [hf]

end Sys2Proof.Machine
end

/-! ## The dump of a context, and code objects (O53) -/

section
open Sys2Proof Sys2Proof.Machine Sys2Proof.Claims

namespace Sys2Proof.Machine

/-! ### Numbers in runs of bytes -/

/-- The bytes of a number from one on. -/
theorem drop_leBytes (m k x : Nat) : (leBytes m x).drop k = leBytes (m - k) (x / 256 ^ k) := by
  induction k generalizing m x with
  | zero => simp
  | succ k ih =>
    cases m with
    | zero => simp [leBytes]
    | succ m =>
      rw [leBytes, List.drop_succ_cons, ih, Nat.add_sub_add_right, Nat.div_div_eq_div_mul, ← Nat.pow_succ']

/-- The first bytes of a number. -/
theorem take_leBytes {m n : Nat} (h : n ≤ m) (x : Nat) : (leBytes m x).take n = leBytes n x := by
  induction n generalizing m x with
  | zero => simp [leBytes]
  | succ n ih =>
    obtain ⟨k, rfl⟩ : ∃ k, m = k + 1 := ⟨m - 1, by omega⟩
    rw [leBytes, leBytes, List.take_succ_cons, ih (by omega)]

/-- A number that stands within the bytes of another. -/
theorem numAt_leBytes {m off n : Nat} (h : off + n ≤ m) (x : Nat) (rest : List Byte) :
    numAt (leBytes m x ++ rest) off n = x / 256 ^ off % 256 ^ n := by
  have hl : ((leBytes m x).drop off).length = m - off := by rw [List.length_drop, leBytes_length]
  rw [numAt, List.drop_append_of_le_length (by rw [leBytes_length]; omega), List.take_append_of_le_length (by omega),
    drop_leBytes, take_leBytes (by omega), leNat_leBytes]

/-- A run of bytes filled up with zeros to a multiple of 256. -/
theorem padded_pad256 (bs : List Byte) : Padded (pad256 bs) bs := by
  refine ⟨by simp [pad256], ?_, ?_, fun x hx => ?_⟩
  · rw [pad256, List.length_append, List.length_replicate]
    omega
  · rw [pad256, List.length_append, List.length_replicate]
    omega
  · rw [pad256, List.drop_left] at hx
    exact List.eq_of_mem_replicate hx

/-! ### The dump -/

/-- The fields of a dump's header (Table 17-12). -/
theorem dumpHeader_fields {x : Ctx} {ctx total time ncord nfault status cause pc : Nat} (hc : cause < 2 ^ 32)
    (hx : ctx < 2 ^ 16) (hs : status < 2 ^ 16) :
    let h := dumpHeader x ctx total time ncord nfault status cause pc
    h % 256 ^ 4 = 1 ∧ h / 256 ^ 4 % 256 ^ 4 = cause ∧ h / 256 ^ 8 % 256 ^ 8 = pc % 2 ^ 57 ∧ h / 256 ^ 16 % 256 ^ 2 = ctx
      ∧ h / 256 ^ 18 % 256 ^ 2 = status ∧ h / 256 ^ 20 % 256 ^ 2 = nfault % 2 ^ 16 ∧ h / 256 ^ 22 % 256 ^ 2 = ncord % 2 ^ 16
      ∧ h / 256 ^ 24 % 256 ^ 8 = time % 2 ^ 64 ∧ h / 256 ^ 32 % 256 ^ 8 = total % 2 ^ 64
      ∧ (total < 2 ^ 64 → h / 256 ^ 40 % 256 ^ 8 = x.logPos % 2 ^ 64) := by
  intro h
  have hh : h = 1 + cause * 2 ^ 32 + (pc % 2 ^ 57) * 2 ^ 64 + ctx * 2 ^ 128 + status * 2 ^ 144 + (nfault % 2 ^ 16) * 2 ^ 160
      + (ncord % 2 ^ 16) * 2 ^ 176 + (time % 2 ^ 64) * 2 ^ 192 + total * 2 ^ 256 + x.logPos * 2 ^ 320 := by
    unfold h dumpHeader
    omega
  clear_value h
  refine ⟨?_, ?_, ?_, ?_, ?_, ?_, ?_, ?_, ?_, fun ht => ?_⟩ <;> omega

/-- The bytes of a dump are those that the spec lays out, with what Config holds behind them. -/
theorem dumpOf_dumpBytes {s : State} {part ctx status cause : Nat} (hc : cause < 2 ^ 32) (hx : ctx < 2 ^ 16)
    (hs : status < 2 ^ 16) (time pc : Nat) (state : List Byte) :
    DumpOf s part ctx time status cause pc (dumpBytes s part ctx time status cause pc state) := by
  obtain ⟨bs, hbs⟩ : ∃ bs, dumpBytes s part ctx time status cause pc state = bs := ⟨_, rfl⟩
  rw [hbs]
  unfold dumpBytes at hbs
  extract_lets x images entries rest at hbs
  obtain ⟨h, hh⟩ : ∃ h, dumpHeader x ctx (256 + rest.length) time images.length entries.length status cause pc = h := ⟨_, rfl⟩
  have hf := dumpHeader_fields (x := x) (total := 256 + rest.length) (time := time) (ncord := images.length)
    (nfault := entries.length) (pc := pc) hc hx hs
  rw [hh] at hbs hf
  have hp : pad256 (leBytes 64 h) = leBytes 64 h ++ List.replicate 192 0 := by rw [pad256, leBytes_length]
  have hlen : bs.length = 256 + rest.length := by
    rw [← hbs, hp, List.length_append, List.length_append, leBytes_length, List.length_replicate]
  have hat : ∀ off n, off + n ≤ 64 → numAt bs off n = h / 256 ^ off % 256 ^ n := fun off n hn => by
    rw [← hbs, hp, List.append_assoc, numAt_leBytes hn]
  obtain ⟨h0, h4, h8, h16, h18, h20, h22, h24, h32, h40⟩ := hf
  refine ⟨pad256 (leBytes 64 h), pad256 (leBytes 16 x.control.toNat), pad256 entries.flatten, pad256 images.flatten,
    pad256 (descBytes x), state, by rw [← hbs]; simp only [rest, List.append_assoc], ?_, ?_, ?_, ?_, ?_, ?_, ?_, ?_, ?_, ?_,
    ?_, fun hb => ?_, padded_pad256 _, padded_pad256 _, padded_pad256 _, padded_pad256 _⟩
  · rw [hp, List.length_append, leBytes_length, List.length_replicate]
  · have hd := (padded_pad256 (leBytes 64 h)).2.2.2
    rwa [leBytes_length] at hd
  · rw [hat 0 4 (by omega), Nat.pow_zero, Nat.div_one, h0]
  · rw [hat 4 4 (by omega), h4]
  · rw [hat 8 8 (by omega), h8]
  · rw [hat 16 2 (by omega), h16]
  · rw [hat 18 2 (by omega), h18]
  · rw [hat 20 2 (by omega), h20]
  · rw [hat 22 2 (by omega), h22]
  · rw [hat 24 8 (by omega), h24]
  · rw [hat 32 8 (by omega), h32, hlen]
  · rw [hat 40 8 (by omega), h40 (hlen ▸ hb)]

/-- A dump resets its context. -/
theorem ctxOf_dumpContext (s : State) (part ctx status cause pc : Nat) :
    ctxOf (dumpContext s part ctx status cause pc) part ctx = ctxOf (forcedReset (tick s).2 part ctx status) part ctx := by
  unfold dumpContext
  extract_lets t bs u v
  have hv : v.ctxs = u.ctxs := rfl
  have hl : (logEvent v 0x0040 part (ctx + status <<< 16)).ctxs = v.ctxs := rfl
  rw [ctxOf, hl, hv, ctxOf]

/-- A partition that a change names holds what the change makes of it. -/
theorem partOf_modPart_same (s : State) (p : Nat) (f : Part → Part) : partOf (modPart s p f) p = f (partOf s p) := by
  rw [partOf, modPart, tabGet_tabPut_same, Option.getD_some]

/-- A dump stands in its partition's reserved memory. -/
theorem reserved_dumpContext (s : State) (part ctx status cause pc : Nat) :
    (partOf (dumpContext s part ctx status cause pc) part).reserved
      = dumpBytes s part ctx (tick s).1 status cause pc (Config.savedState s.free) := by
  unfold dumpContext
  extract_lets t bs u v
  have hlog : ∀ (w : State) k i d, (logEvent w k i d).parts = w.parts := fun _ _ _ _ => rfl
  have hsend : ∀ (w : State) m, (send w m).parts = w.parts := fun _ _ => rfl
  rw [partOf, hlog, hsend, ← partOf, partOf_modPart_same]

/-- FATAL_ERROR_DUMP: it waits for the cords of the context, and resets the context. -/
theorem exec_fatalErrorDump {s : State} {part ctx status cause pc : Nat}
    (hf : (ctxOf s part ctx).fatal = some (status, cause, pc)) :
    (allSuspended s part ctx = false → exec (.fatalErrorDump part ctx) s = .next s)
      ∧ (allSuspended s part ctx = true → cause < 2 ^ 32 → ctx < 2 ^ 16 → status < 2 ^ 16 →
        ∃ time bs t, exec (.fatalErrorDump part ctx) s = .next t
          ∧ DumpOf s part ctx time status cause pc bs
          ∧ (partOf t part).reserved = bs ∧ .dump part ctx bs ∈ t.out ∧ (ctxOf t part ctx).life = .reset
          ∧ (ctxOf t part ctx).fatal = none) := by
  constructor
  · intro ha
    change execFatalErrorDump part ctx s = _
    simp only [execFatalErrorDump, hf, ha]
    rfl
  · intro ha hc hx hs
    have he : exec (.fatalErrorDump part ctx) s = .next (dumpContext s part ctx status cause pc) := by
      change execFatalErrorDump part ctx s = _
      simp only [execFatalErrorDump, hf, ha]
      rfl
    obtain ⟨hl, hn⟩ := ctxOf_forcedReset (tick s).2 part ctx status
    rw [← ctxOf_dumpContext (cause := cause) (pc := pc)] at hl hn
    refine ⟨(tick s).1, dumpBytes s part ctx (tick s).1 status cause pc (Config.savedState s.free),
      dumpContext s part ctx status cause pc, he, dumpOf_dumpBytes hc hx hs _ pc _, ?_, ?_, hl, hn⟩
    · exact reserved_dumpContext s part ctx status cause pc
    · exact List.mem_append_right _ (List.mem_singleton_self _)

/-! ### Code objects -/

/-- The checks of a code object's head (Table 18-21). -/
theorem objectRefused_iff (o : CodeObject) : objectRefused o = true ↔ ¬(o.head.toNat % 2 ^ 32 = 0x4C444E58
    ∧ o.head.toNat / 2 ^ 32 % 2 ^ 16 ≤ 1 ∧ o.head.toNat / 2 ^ 64 % 4 ≤ 1) := by
  have h : objectRefused o = true ↔ ¬(o.head.toNat % 2 ^ 32 = 0x4C444E58) ∨ 1 < o.head.toNat / 2 ^ 32 % 2 ^ 16
      ∨ 2 ≤ o.head.toNat / 2 ^ 64 % 4 := by
    simp [objectRefused, CodeObject.magic, CodeObject.formver, CodeObject.form, CodeObject.field, bits_eq, or_assoc]
  rw [h]
  omega

/-- The form of a code object stands in two bits of its head. -/
theorem form_eq (o : CodeObject) : o.form = o.head.toNat / 2 ^ 64 % 4 := by
  rw [CodeObject.form, CodeObject.field, bits_eq]
  rfl

/-- CODE_OBJECT_LOAD: what is accepted is installed, and what is refused changes nothing. -/
theorem exec_codeObjectLoad (s : State) (part ctx : Nat) (o : CodeObject) :
    ((ctxOf s part ctx).life ≠ .absent → objectRefused o = false → o.head.toNat / 2 ^ 64 % 4 = 0 →
        versionAtAny (ctxOf s part ctx) o.base o.len = false → placedWell s part ctx o.data = true →
        exec (.codeObjectLoad part ctx o) s = .next (installObject s part ctx o))
      ∧ ((objectRefused o = true ∨ placedWell s part ctx o.data = false
          ∨ (o.head.toNat / 2 ^ 64 % 4 = 0 ∧ versionAtAny (ctxOf s part ctx) o.base o.len = true)) →
        exec (.codeObjectLoad part ctx o) s = .next s) := by
  have he : exec (.codeObjectLoad part ctx o) s = .next
      (if (ctxOf s part ctx).life == .absent || objectRefused o || !placedWell s part ctx o.data then s
        else if o.form = 1 then ((o.portable.map (installPortable s part ctx o)).getD s)
        else if versionAtAny (ctxOf s part ctx) o.base o.len then s
        else installObject s part ctx o) := rfl
  rw [he, ← form_eq]
  constructor
  · intro hl hr hf hv hp
    rw [if_neg (by simp [hl, hr, hp]), if_neg (by omega), if_neg (by simp [hv])]
  · intro h
    by_cases hstop : ((ctxOf s part ctx).life == .absent || objectRefused o || !placedWell s part ctx o.data) = true
    · rw [if_pos hstop]
    · simp only [Bool.or_eq_true, not_or, Bool.not_eq_true', Bool.not_eq_true, Bool.not_eq_false] at hstop
      obtain h | h | ⟨hf, hv⟩ := h
      · exact absurd h (by simp [hstop.1.2])
      · exact absurd h (by simp [hstop.2])
      · rw [if_neg (by simp [hstop]), if_neg (by omega), if_pos hv]

/-- CODE_OBJECT_LOAD of a portable object: its native version is installed (R396, log 107). -/
theorem exec_codeObjectLoad_portable {s : State} {part ctx : Nat} {o : CodeObject} {p : Portable} {code : List (Nat × Byte)}
    (hl : (ctxOf s part ctx).life ≠ .absent) (hr : objectRefused o = false) (hf : o.head.toNat / 2 ^ 64 % 4 = 1)
    (hpl : placedWell s part ctx o.data = true) (hp : o.portable = some p) (hok : portableOk p = true) (hb : o.base % 4 = 0) :
    let c := choicesOf p (freeFrom s)
    let v : Version := { base := o.base, len := 4 * (translateCode p c).length, step := Config.stepping, intlk := false,
                         consts := o.kernels, shape := some (translateShape p c) }
    versionAtAny (ctxOf s part ctx) v.base v.len = false → codeBytes s part ctx o.base (translateCode p c) = some code →
    exec (.codeObjectLoad part ctx o) s
      = .next (installWith { s with free := s.free + 1 + p.regions.length } part ctx o v code) := by
  intro c v hv hc
  have hform : o.form = 1 := (form_eq o).trans hf
  have hgo : ((ctxOf s part ctx).life == .absent || objectRefused o || !placedWell s part ctx o.data) = false := by
    simp [hl, hr, hpl]
  have hi : installPortable s part ctx o p = installWith { s with free := s.free + 1 + p.regions.length } part ctx o v code := by
    have hbad : (!portableOk p || o.base % 4 != 0 || versionAtAny (ctxOf s part ctx) (translated o p c).base (translated o p c).len)
        = false := by
      rw [hok, hb]
      exact hv
    simp only [installPortable]
    rw [if_neg (by rw [hbad]; exact Bool.false_ne_true), hc]
    rfl
  change execCodeObjectLoad part ctx o s = _
  simp only [execCodeObjectLoad, hgo, hform, hp, Option.map_some, Option.getD_some, hi]
  rfl

/-! ### Code versions -/

/-- CODE_VERSION_REMOVE of a superseded version that nothing refers to. -/
theorem exec_codeVersionRemove {s : State} {part ctx v : Nat} {x : Version}
    (hx : tabGet (ctxOf s part ctx).versions v = some x) (hs : x.superseded = true) (hu : versionUsed s part ctx v x = false) :
    exec (.codeVersionRemove part ctx v) s = .next (modCtx s part ctx (fun c => { c with
      versions := c.versions.filter (fun e => e.1 != v)
      removed := (x.next.map (fun e => (x.base, x.len, e))).toList ++ c.removed })) := by
  change execCodeVersionRemove part ctx v s = _
  simp only [execCodeVersionRemove, hx, hs, hu]
  rfl

/-- A new version has a number of its own. -/
theorem newVersion_ne {x : Ctx} {n : Nat} {v : Version} (h : tabGet x.versions n = some v) : n ≠ newVersion x := by
  obtain ⟨e, he, rfl⟩ : ∃ e ∈ x.versions, e.1 = n := by
    by_contra hn
    exact absurd (tabGet_eq_none_iff.mpr fun e he hen => hn ⟨e, he, hen⟩) (by simp [h])
  have hfold : ∀ (l : List (Nat × Version)) (k : Nat), k ≤ l.foldl (fun n v => Nat.max n (v.1 + 1)) k
      ∧ ∀ e ∈ l, e.1 < l.foldl (fun n v => Nat.max n (v.1 + 1)) k := by
    intro l
    induction l with
    | nil => simp
    | cons e l ih =>
      intro k
      obtain ⟨hk, hl⟩ := ih (Nat.max k (e.1 + 1))
      have h1 : k ≤ Nat.max k (e.1 + 1) := Nat.le_max_left ..
      have h2 : e.1 + 1 ≤ Nat.max k (e.1 + 1) := Nat.le_max_right ..
      refine ⟨h1.trans hk, fun f hf => ?_⟩
      obtain rfl | hf := List.mem_cons.mp hf
      · exact h2.trans hk
      · exact hl f hf
  exact Nat.ne_of_lt ((hfold x.versions 0).2 _ he)

/-- REOPTIMISED_TRANSLATION_INSTALL: the former version is superseded by one of its own. -/
theorem exec_reOptimisedTranslationInstall {s : State} {part ctx old base len : Nat} {v : Version}
    (hv : tabGet (ctxOf s part ctx).versions old = some v) (hs : v.superseded = false)
    (ha : versionAtAny (ctxOf s part ctx) base len = false) :
    ∃ t, exec (.reOptimisedTranslationInstall part ctx old base len) s = .next t
      ∧ tabGet (ctxOf t part ctx).versions old = some { v with superseded := true, next := some base }
      ∧ t.mem = s.mem := by
  have he : exec (.reOptimisedTranslationInstall part ctx old base len) s = .next (modCtx s part ctx (fun c =>
      { c with versions := tabPut (tabPut (c.versions.map (fun e => (e.1, directOn v base e.2))) old
          { v with superseded := true, next := some base }) (newVersion c) (successor v base len) })) := by
    change execReOptimisedTranslationInstall part ctx old base len s = _
    simp only [execReOptimisedTranslationInstall, hv, hs, ha]
    rfl
  refine ⟨_, he, ?_, rfl⟩
  rw [ctxOf_modCtx_same]
  exact (tabGet_tabPut_other _ _ (newVersion_ne hv)).trans (tabGet_tabPut_same ..)

/-- Settles O53: what a context becomes, by its life; the bytes of a dump, part by part; and what is installed of a code
object, by its checks. -/
theorem contextsAndCode : Obligations.ContextsAndCode := by
  refine ⟨fun s part ctx => ?_, fun s part ctx => ?_⟩
  · obtain ⟨hpre, hres⟩ := exec_preempt_restore s part ctx
    obtain ⟨hsave, hnot⟩ := exec_contextSave s part ctx
    obtain ⟨hdue, hheld⟩ := exec_preemptDeadlineExpiry s part ctx
    refine ⟨fun d0 d1 => (exec_controlWordsWrite s part ctx d0 d1).1, fun d0 d1 => (exec_controlWordsWrite s part ctx d0 d1).2,
      fun d0 d1 k => exec_contextCreation d0 d1 k, exec_contextDestruction, hpre, hsave, hnot, hres, hdue, hheld, ?_,
      fun b c y z => exec_hangDeadlineExpiry, exec_replayForeignTimeout, fun status cause pc => exec_fatalErrorDump⟩
    rintro t status rfl
    exact ctxOf_forcedReset s part ctx status
  · exact ⟨fun o => (exec_codeObjectLoad s part ctx o).1, fun o => (exec_codeObjectLoad s part ctx o).2,
      fun o p code => exec_codeObjectLoad_portable, objectRefused_iff, fun v x => exec_codeVersionRemove,
      fun old base len v => exec_reOptimisedTranslationInstall⟩

end Sys2Proof.Machine
end

/-! ## What a cord's events do to it (O54) -/

section
open Sys2Proof Sys2Proof.Machine Sys2Proof.Claims

namespace Sys2Proof.Machine

section
variable {s : State} {b c : Nat} {blk : Block} {x : Cord}

/-! ### Suspension and release -/

/-- CORD_SUSPEND by a debugger, once the results of the cord are written. -/
theorem exec_cordSuspend (hx : cordOf s b c = some x) (he : x.ended = false) (hr : resultsIn x = true) :
    ∃ t y, exec (.cordSuspend b c .debugger) s = .next t ∧ cordOf t b c = some y ∧ .debugger ∈ y.suspend
      ∧ y.debugger = true ∧ y.strands = x.strands ∧ y.s = x.s ∧ y.queue = x.queue := by
  have hw : ¬ suspendWaits s b c = true := by simp [suspendWaits, hx, hr]
  have hex : exec (.cordSuspend b c .debugger) s
      = .next (modCord s b c (fun x => if x.ended then x else suspendFor .debugger x)) :=
    congrArg Host.Outcome.next (if_neg hw)
  refine ⟨_, _, hex, cordOf_modCord_of_some hx _, ?_⟩
  rw [if_neg (by simp [he])]
  refine ⟨?_, rfl, rfl, rfl, rfl⟩
  change SuspendWhy.debugger ∈ if x.suspend.contains .debugger then x.suspend else x.suspend ++ [.debugger]
  split
  · exact List.contains_iff_mem.mp ‹_›
  · exact List.mem_append_right _ (List.mem_singleton_self _)

/-- CORD_SUSPEND waits for the results of its cord. -/
theorem exec_cordSuspend_waits (hx : cordOf s b c = some x) (he : x.ended = false) (hr : resultsIn x = false)
    (why : SuspendWhy) : exec (.cordSuspend b c why) s = .next s :=
  congrArg _ (if_pos (by simp [suspendWaits, hx, he, hr]))

/-- A reason that was taken away no longer suspends. -/
theorem not_mem_unhold (x : Cord) (w : SuspendWhy) : w ∉ (Cord.unhold x w).suspend := by
  simp [Cord.unhold]

/-- DEBUGGER_RELEASE of a cord that the debugger is attached to. -/
theorem exec_debuggerRelease (hx : cordOf s b c = some x) (hd : x.debugger = true) :
    ∃ t y, exec (.debuggerRelease b c) s = .next t ∧ cordOf t b c = some y ∧ .debugger ∉ y.suspend ∧ .trap ∉ y.suspend
      ∧ y.strands = x.strands ∧ y.queue = (if x.given = true then x.queue.tail else x.queue) ∧ y.given = false
      ∧ y.round = x.round := by
  refine ⟨_, _, rfl, cordOf_modCord_of_some hx _, ?_⟩
  rw [if_pos hd]
  exact ⟨not_mem_unhold _ _, fun h => not_mem_unhold x .trap (List.mem_of_mem_filter h), rfl, rfl, rfl, rfl⟩

/-! ### Reports and late causes -/

/-- IMPRECISE_FAULT_REPORT: a cause of the open region, of a handler's instruction, or of an uncovered stretch. -/
theorem exec_impreciseFaultReport {n : Nat} {r : Report} (hx : cordOf s b c = some x) (hr : x.reports[n]? = some r)
    (he : x.ended = false) :
    let t := modCord s b c (fun y => { y with reports := y.reports.eraseIdx n })
    (r.region = true → x.region.isSome = true →
        exec (.impreciseFaultReport b c n) s = .next (modCord t b c (regionCause r)))
      ∧ (r.handler = true → (r.region = false ∨ x.region = none) →
        exec (.impreciseFaultReport b c n) s = .next (fatal t b 0x0201 r.cause.code r.pc.toNat))
      ∧ (r.handler = false → (r.region = false ∨ x.region = none) →
        exec (.impreciseFaultReport b c n) s
          = .next (queueRec t b c (reportRec r 2 2 x.lastEnd x.lastRet (lowestPc x)))) := by
  intro t
  have hex : exec (.impreciseFaultReport b c n) s = .next (if r.region && x.region.isSome then modCord t b c (regionCause r)
      else if r.handler then fatal t b 0x0201 r.cause.code r.pc.toNat
      else queueRec t b c (reportRec r 2 2 x.lastEnd x.lastRet (lowestPc x))) := by
    change execImpreciseFaultReport b c n s = _
    simp only [execImpreciseFaultReport, hx, hr, he]
    rfl
  have hout : r.region = false ∨ x.region = none → ¬ (r.region && x.region.isSome) = true := by
    rintro (h | h) <;> simp [h]
  rw [hex]
  exact ⟨fun hg hs => by rw [if_pos (by simp [hg, hs])], fun hh ho => by rw [if_neg (hout ho), if_pos hh],
    fun hh ho => by rw [if_neg (hout ho), if_neg (by simp [hh])]⟩

/-- LATE_FAULT_RECORD: a cause of a cord that has ended goes into its grid's status, another into the queue. -/
theorem exec_lateFaultRecord {n : Nat} {r : Report} (hb : s.blocks[b]? = some blk) (hx : cordOf s b c = some x)
    (hr : x.lates[n]? = some r) :
    let t := modCord s b c (fun y => { y with lates := y.lates.eraseIdx n })
    (x.ended = true → exec (.lateFaultRecord b c n) s = .next (modGrid t blk.grid (fun g => { g with
        fail := some (g.fail.getD (r.pc.toNat, blk.index, r.cause.code, r.detail))
        first := if g.first = 0 then 0x0206 else g.first })))
      ∧ (r.handler = false → x.ended = false →
        exec (.lateFaultRecord b c n) s = .next (queueRec t b c (reportRec r 3 0 r.pc r.ret 0)))
      ∧ (r.handler = true → x.ended = false →
        exec (.lateFaultRecord b c n) s = .next (fatal t b 0x0201 r.cause.code r.pc.toNat)) := by
  intro t
  have hex : exec (.lateFaultRecord b c n) s = .next (if x.ended then lateOfEnded t b r
      else if r.handler then fatal t b 0x0201 r.cause.code r.pc.toNat
      else queueRec t b c (reportRec r 3 0 r.pc r.ret 0)) := by
    change execLateFaultRecord b c n s = _
    simp only [execLateFaultRecord, hx, hr]
    rfl
  have hblk : t.blocks[b]? = some (blk.modCord c (fun y => { y with lates := y.lates.eraseIdx n })) := by
    change (s.blocks.modify b _)[b]? = _
    rw [List.getElem?_modify_eq, hb]
    rfl
  rw [hex]
  refine ⟨fun he => ?_, fun hh he => by rw [if_neg (by simp [he]), if_neg (by simp [hh])],
    fun hh he => by rw [if_neg (by simp [he]), if_pos hh]⟩
  rw [if_pos he, lateOfEnded, hblk]
  rfl

/-! ### Ends of regions -/

/-- UNCOVERED_STORE_REPORT: a region with a store that no shadow covers ends. -/
theorem exec_uncoveredStoreReport {g : Region} (hx : cordOf s b c = some x) (hg : x.region = some g) (hu : g.uncov = true)
    (ht : g.told = false) :
    ∃ t y h, exec (.uncoveredStoreReport b c) s = .next t ∧ cordOf t b c = some y ∧ y.region = some h ∧ h.told = true
      ∧ h.ending = some (g.ending.getD .uncovered) ∧ y.strands = x.strands := by
  refine ⟨_, _, { g with told := true, ending := some (g.ending.getD .uncovered) }, rfl, cordOf_modCord_of_some hx _, ?_, rfl,
    rfl, rfl⟩
  simp [hg, hu, ht]

/-- REGION_COUNT_LIMIT: a region ends after its 256th instruction. -/
theorem exec_regionCountLimit {g : Region} (hx : cordOf s b c = some x) (hg : x.region = some g) (hn : 256 ≤ g.count)
    (he : g.ending = none) :
    ∃ t y h, exec (.regionCountLimit b c) s = .next t ∧ cordOf t b c = some y ∧ y.region = some h
      ∧ h.ending = some .limit ∧ y.strands = x.strands := by
  have hl : x.atLimit = true := by simp [Cord.atLimit, hg, hn, he]
  refine ⟨_, _, { g with ending := some .limit }, rfl, cordOf_modCord_of_some hx _, ?_, rfl, ?_⟩
  · simp [hl, hg]
  · rw [if_pos hl]

/-- REGION_END of a region that has drained. -/
theorem exec_regionEnd {g : Region} {e : Ending} (hx : cordOf s b c = some x) (hg : x.region = some g)
    (he : g.ending = some e) (hw : x.withdrawing = false) (hq : regionQuiet (viewCord s b x) = true) :
    let t := settle (modCord (closeCells s b c) b c (fun y =>
      keepRegionOps (uncover (endPoint x g e).1 (endPoint x g e).2 (outcome x e) y))) b
    exec (.regionEnd b c) s = .next (match endRecord x e with
      | some r => raiseEnd t b c x e r
      | none => t) := by
  intro t
  change execRegionEnd b c s = _
  simp only [execRegionEnd, hx, hg, he, hw, hq]
  rfl

/-- The record of a region's end is queued outside the handler; in it a trap is a double fault (R330). -/
theorem raiseEnd_cases (t : State) (b c : Nat) (x : Cord) (e : Ending) (r : TrapRec) :
    (x.handler = false → raiseEnd t b c x e r = queueRec t b c r)
      ∧ (x.handler = true → e = .trap r → r.cause ≠ 0x30 → r.cause ≠ 0x31 →
        raiseEnd t b c x e r = fatal t b 0x0201 r.cause.toNat r.pc.toNat) := by
  refine ⟨fun hh => ?_, fun hh he h30 h31 => ?_⟩
  · cases e with
    | trap q => exact if_neg (by simp [hh])
    | _ => rfl
  · rw [he]
    refine if_pos ?_
    rw [hh, Bool.true_and, Bool.and_eq_true, bne_iff_ne, bne_iff_ne]
    exact ⟨h30, h31⟩

/-! ### Twin issue -/

/-- The physical lanes that the passes of a cord's ready strands and their twins run on (R36). -/
theorem twinLane_iff (s : State) (blk : Block) (x : Cord) (side lane : Nat) :
    twinLane s blk x side lane = true ↔ side = blk.side ∧ ∃ l ∈ x.readyLanes, ∃ pass, pass < 2
      ∧ physLane (coreOf s blk.core) side l pass = some lane := by
  have hpass : ∀ l, (∃ pass, pass < 2 ∧ physLane (coreOf s blk.core) side l pass = some lane)
      ↔ physLane (coreOf s blk.core) side l 0 = some lane ∨ physLane (coreOf s blk.core) side l 1 = some lane := by
    refine fun l => ⟨?_, ?_⟩
    · rintro ⟨pass, hp, h⟩
      obtain rfl | rfl : pass = 0 ∨ pass = 1 := by omega
      · exact Or.inl h
      · exact Or.inr h
    · rintro (h | h)
      · exact ⟨0, by omega, h⟩
      · exact ⟨1, by omega, h⟩
  simp only [twinLane, hpass, Bool.and_eq_true, Bool.or_eq_true, beq_iff_eq, List.any_eq_true]

/-- A record that comes to a cord changes its queue at most, and DROP. -/
theorem cordOf_queueRec (hx : cordOf s b c = some x) (r : TrapRec) :
    ∃ q d, cordOf (queueRec s b c r) b c = some { x with queue := q, drop := d } := by
  rw [queueRec]
  simp only [hx]
  split
  · exact ⟨_, _, hx⟩
  · split
    · exact ⟨_, _, cordOf_modCord_of_some hx _⟩
    · split
      · exact ⟨_, _, cordOf_modCord_of_some hx _⟩
      · refine ⟨x.queue, x.drop, (cordOf_congr ?_ b c).trans hx⟩
        unfold killBraid
        split <;> rfl

/-- A corrected event counts in its cord, whose strands it leaves alone (R347). -/
theorem cordOf_corrected (hx : cordOf s b c = some x) (side lane : Nat) :
    ∃ y, cordOf (corrected s b c side lane x) b c = some y ∧ y.ncorr = (if x.ncorr = 255 then 255 else x.ncorr + 1)
      ∧ y.strands = x.strands := by
  obtain ⟨z, hz⟩ : ∃ z, { x with ncorr := if x.ncorr == 255 then 255 else x.ncorr + 1 } = z := ⟨_, rfl⟩
  have hn : z.ncorr = if x.ncorr = 255 then 255 else x.ncorr + 1 := by
    rw [← hz]
    simp only [beq_iff_eq]
  have hs : z.strands = x.strands := by rw [← hz]
  have hc : cordOf (modCord s b c (fun y => { y with ncorr := if y.ncorr == 255 then 255 else y.ncorr + 1 })) b c = some z :=
    hz ▸ cordOf_modCord_of_some hx _
  unfold corrected
  extract_lets u m
  split
  · obtain ⟨q, d, hq⟩ := cordOf_queueRec (s := m.2) hc (correctedRec x side lane m.1)
    exact ⟨_, hq, hn, hs⟩
  · exact ⟨z, hc, hn, hs⟩

/-- TWIN_MISMATCH of a cord in Checked mode. -/
theorem exec_twinMismatch {g : Grid} (hb : s.blocks[b]? = some blk) (hx : cordOf s b c = some x)
    (hg : gridOfBlock s b = some g) (hc : ctxBit s g 0 = true) (he : x.ended = false) (side lane : Nat) (resolved : Bool) :
    exec (.twinMismatch b c side lane resolved) s = .next (if twinLane s blk x side lane = false then s
      else if resolved then corrected s b c side lane x else killBraid s b) := by
  change execTwinMismatch b c side lane resolved s = _
  simp only [execTwinMismatch, hb, hx, hg, hc, he, Bool.not_true, Bool.false_or, Bool.not_eq_true']

end

/-- Settles O54: an event of a cord at a time, by the cord's own fields; what it queues changes no strand. -/
theorem cordEvents : Obligations.CordEvents := by
  intro s b c blk x hb hx
  refine ⟨exec_cordSuspend hx, exec_cordSuspend_waits hx, exec_debuggerRelease hx,
    fun n r hr he => exec_impreciseFaultReport hx hr he, fun n r hr => exec_lateFaultRecord hb hx hr,
    fun g => exec_uncoveredStoreReport hx, fun g => exec_regionCountLimit hx,
    fun g e hg he hw hq => ⟨exec_regionEnd hx hg he hw hq, raiseEnd_cases _ b c x e⟩, fun g side lane hg hc he => ⟨?_, ?_⟩,
    fun g side lane hg hc he ht => ⟨?_, ?_⟩⟩
  · exact twinLane_iff s blk x side lane
  · intro ht resolved
    rw [exec_twinMismatch hb hx hg hc he, if_pos ht]
  · rw [exec_twinMismatch hb hx hg hc he, if_neg (by simp [ht]), if_neg Bool.false_ne_true]
  · obtain ⟨y, hy, hn, hs⟩ := cordOf_corrected hx side lane
    exact ⟨_, y, by rw [exec_twinMismatch hb hx hg hc he, if_neg (by simp [ht]), if_pos rfl], hy, hn, hs⟩

end Sys2Proof.Machine
end

/-! ## Withdrawal, the slow gear and the killing of braids (O55) -/

section
open Sys2Proof Sys2Proof.Machine Sys2Proof.Claims

namespace Sys2Proof.Machine

/-! ### Cells given back -/

/-- A retracted cell leaves the blocks and the cores. -/
theorem retractCell_frame (s : State) (dw : Nat) (p : Cell → Bool) :
    (retractCell s dw p).blocks = s.blocks ∧ (retractCell s dw p).cores = s.cores := by
  unfold retractCell
  split <;> exact ⟨rfl, rfl⟩

/-- Cells retracted one after another leave the blocks and the cores. -/
theorem foldl_retractCell_frame (p : Cell → Bool) (cs : List Cell) (s : State) :
    (cs.foldl (fun s x => retractCell s x.dw p) s).blocks = s.blocks
      ∧ (cs.foldl (fun s x => retractCell s x.dw p) s).cores = s.cores := by
  induction cs generalizing s with
  | nil => exact ⟨rfl, rfl⟩
  | cons c cs ih =>
    obtain ⟨hb, hc⟩ := retractCell_frame s c.dw p
    obtain ⟨hbs, hcs⟩ := ih (retractCell s c.dw p)
    exact ⟨hbs.trans hb, hcs.trans hc⟩

/-- The bytes of a retracted cell come back, with their poison, and no other byte of memory changes. -/
theorem retractCell_bytes {s : State} {dw : Nat} {p : Cell → Bool} {k : Cell} (hm : Safety.MemOk s)
    (hk : (cellsAt s dw).find? p = some k) :
    memRead (retractCell s dw p).mem dw k.former.length = k.former
      ∧ (∀ i ∈ k.fpoison, dw + i ∈ (retractCell s dw p).poison)
      ∧ ∀ a, (a < dw ∨ dw + k.former.length ≤ a) → memGet (retractCell s dw p).mem a = memGet s.mem a := by
  simp only [retractCell, hk]
  exact ⟨memRead_memWrite hm dw k.former, fun i hi => List.mem_append_right _ (List.mem_map_of_mem hi),
    fun a ha => memGet_memWrite_other _ _ _ ha⟩

/-! ### What a withdrawal restores -/

/-- The operations of a region that are dropped are not seen in the rest of the cord. -/
theorem dropRegionOps_eq (c : Cord) :
    ∃ ops reports f, dropRegionOps c = { c with ops := ops, reports := reports, f := f } := by
  obtain ⟨f, hf⟩ := foldl_flagDown_eq (c.ops.filter (fun o => o.region))
    { c with ops := c.ops.filter (fun o => !o.region), reports := c.reports.filter (fun r => !r.region) }
  exact ⟨_, _, f, hf⟩

/-- The queue of a region that removed no record, or only the one that was under delivery at its entry. -/
theorem requeue_cases (g : Region) (q : List TrapRec) :
    (g.popped = [] → requeue g q = q) ∧ ∀ p, g.popped = [(p, true)] → requeue g q = p :: q := by
  refine ⟨fun h => ?_, fun p h => ?_⟩
  · simp only [requeue, h, List.filter_nil, List.map_nil, List.foldr_nil]
    split
    · exact List.take_append_drop 1 q
    · rfl
  · simp [requeue, h]

/-- A register that is not among those written one after another keeps its value. -/
theorem foldl_set_other {l n : Nat} : ∀ (vs : List (Nat × List Word)) (v : List Word), n ∉ vs.map Prod.fst →
    (vs.foldl (fun v e => v.set e.1 (e.2.getD l 0)) v).getD n 0 = v.getD n 0
  | [], _, _ => rfl
  | e :: vs, v, h => by
    obtain ⟨he, hvs⟩ := not_or.mp (fun hm => h (List.mem_cons.mpr hm))
    rw [List.foldl_cons, foldl_set_other vs _ hvs, List.getD_eq_getElem?_getD, List.getElem?_set_ne (Ne.symm he),
      ← List.getD_eq_getElem?_getD]

/-- A register that is written once among others holds what was written. -/
theorem foldl_set_mem {l n : Nat} {vals : List Word} : ∀ (vs : List (Nat × List Word)) (v : List Word),
    (n, vals) ∈ vs → (vs.map Prod.fst).Nodup → n < v.length →
    (vs.foldl (fun v e => v.set e.1 (e.2.getD l 0)) v).getD n 0 = vals.getD l 0
  | [], _, h, _, _ => absurd h List.not_mem_nil
  | e :: vs, v, h, hd, hn => by
    obtain ⟨he, hvs⟩ := List.nodup_cons.mp hd
    rw [List.foldl_cons]
    obtain rfl | h := List.mem_cons.mp h
    · rw [foldl_set_other vs _ he]
      simp [hn]
    · exact foldl_set_mem vs _ h hvs (by simpa using hn)

/-- The cord that a withdrawal leaves. -/
def withdrawnCord (g : Region) (r : TrapRec) (c : Cord) : Cord :=
  { boundary c.liveLanes (restoreCord g (Cord.unhold (dropRegionOps c) .slowGear)) with
    region := some (reenter g), slow := some { held := r } }

/-- What a withdrawal restores in the cord as a whole. -/
theorem withdrawnCord_frame (g : Region) (r : TrapRec) (x : Cord) :
    let y := withdrawnCord g r x
    y.s = g.s ∧ y.k = g.k ∧ y.fpflags = g.fp ∧ y.handler = g.handler ∧ (g.popped = [] → y.queue = x.queue)
      ∧ (∀ p, g.popped = [(p, true)] → y.queue = p :: x.queue) ∧ y.retired = BitVec.ofNat 64 g.ret
      ∧ (y.slow.map SlowGear.held) = some r := by
  obtain ⟨ops, reports, f, hd⟩ := dropRegionOps_eq x
  obtain ⟨ops', f', hp⟩ := passTags_eq (Cord.unhold (dropRegionOps x) .slowGear)
    (parkedSince g (Cord.unhold (dropRegionOps x) .slowGear))
  have hq : (withdrawnCord g r x).queue = requeue g x.queue := by
    change requeue g (passTags _ _).queue = _
    rw [hp, hd]
    rfl
  exact ⟨rfl, rfl, rfl, rfl, fun h => hq.trans ((requeue_cases g _).1 h), fun p h => hq.trans ((requeue_cases g _).2 p h),
    rfl, rfl⟩

/-- A strand of the cord that a withdrawal leaves: as the shadow holds it, past a boundary where it is live. -/
theorem withdrawnCord_lane {g : Region} (r : TrapRec) {x : Cord} {l : Nat} (hl : l < x.strands.length) :
    (withdrawnCord g r x).lane l = if (x.lane l).live then
      { restoreLane g l (x.lane l) with epoch := (restoreLane g l (x.lane l)).epoch + 1 }
      else restoreLane g l (x.lane l) := by
  obtain ⟨ops, reports, f, hd⟩ := dropRegionOps_eq x
  obtain ⟨ops', f', hp⟩ := passTags_eq (Cord.unhold (dropRegionOps x) .slowGear)
    (parkedSince g (Cord.unhold (dropRegionOps x) .slowGear))
  have hs : (restoreCord g (Cord.unhold (dropRegionOps x) .slowGear)).strands = x.strands.mapIdx (restoreLane g) := by
    change (passTags _ _).strands.mapIdx _ = _
    rw [hp, hd]
    rfl
  have hlane : (restoreCord g (Cord.unhold (dropRegionOps x) .slowGear)).lane l = restoreLane g l (x.lane l) := by
    rw [Cord.lane, hs]
    simp [Cord.lane, hl]
  change (boundary x.liveLanes _).lane l = _
  rw [boundary_lane, hlane, hs, List.length_mapIdx]
  simp only [Cord.mem_liveLanes, hl, true_and, and_true]

/-- A lane as the shadow holds it. -/
theorem restoreLane_of_shadow {g : Region} {l : Nat} {h : Shadow} (hh : g.lanes[l]? = some h) (t : Strand) :
    let u := restoreLane g l t
    u.pc = h.pc ∧ u.p = h.p ∧ u.tret = h.tret ∧ u.park = h.park ∧ u.refs = h.refs ∧ u.epoch = t.epoch
      ∧ (∀ n vals, (n, vals) ∈ g.vs → (g.vs.map Prod.fst).Nodup → n < t.v.length → u.reg n = vals.getD l 0)
      ∧ ∀ n, n ∉ g.vs.map Prod.fst → u.reg n = t.reg n := by
  simp only [restoreLane, hh]
  exact ⟨trivial, trivial, trivial, trivial, trivial, trivial, fun n vals => foldl_set_mem g.vs t.v,
    fun n => foldl_set_other g.vs t.v⟩

/-! ### What a withdrawal leaves of the state -/

/-- A core past the boundary of a withdrawal. -/
theorem departCore_boundary (s : State) (core : Nat) :
    let k := coreOf (departCore s core) core
    k.clean = [] ∧ k.bcut = k.seq ∧ k.phase = (coreOf s core).phase + 1 := by
  simp only [departCore, coreBoundary, countPhase, dropClean, coreOf_modCore_same]
  split <;> exact ⟨rfl, rfl, rfl⟩

/-- A withdrawal leaves its cord restored, and takes its core past a boundary (R233). -/
theorem withdraw_leaves {s : State} {b c : Nat} {x : Cord} (hx : cordOf s b c = some x) (core : Nat) (g : Region)
    (r : TrapRec) :
    cordOf (withdraw s b c core g r) b c = some (withdrawnCord g r x)
      ∧ ∃ t, coreOf t core = coreOf s core ∧ coreOf (withdraw s b c core g r) core = coreOf (departCore t core) core := by
  obtain ⟨hb, hc⟩ := foldl_retractCell_frame (fun y => y.region == some (b, c)) (regionCells s b c) s
  unfold withdraw
  extract_lets u v w
  have hv : v = modCord u b c (withdrawnCord g r) := rfl
  have hw : w = departCore v core := rfl
  have hcord : cordOf w b c = some (withdrawnCord g r x) := by
    have hu : cordOf u b c = some x := (cordOf_congr hb b c).trans hx
    have hwv : w.blocks = v.blocks := rfl
    rw [cordOf_congr hwv, hv]
    exact cordOf_modCord_of_some hu _
  have hcore : coreOf v core = coreOf s core := by
    rw [hv, coreOf, modCord_cores, hc, ← coreOf]
  split
  · exact ⟨(cordOf_congr (Passive.killBraid w b).blocks b c).trans hcord, v, hcore, (CoresStand.killBraid w b).coreOf core⟩
  · exact ⟨hcord, v, hcore, rfl⟩

/-! ### The events -/

section
variable {s : State} {b c : Nat} {blk : Block} {x : Cord}

/-- REGION_WITHDRAWAL of a region with a cause, once its stores are performed. -/
theorem exec_regionWithdrawal {g : Region} {r : TrapRec} (hb : s.blocks[b]? = some blk) (hx : cordOf s b c = some x)
    (hg : x.region = some g) (hr : g.cause = some r) (hz : x.slow = none) (hi : resultsIn x = true)
    (hs : storesIn (viewCord s b x) = true) :
    exec (.regionWithdrawal b c) s = .next (if doomed s b then s else match unrecoverable s b c g with
      | some reason => abandon s b c x g r reason
      | none => withdraw s b c blk.core g r) := by
  change execRegionWithdrawal b c s = _
  simp only [execRegionWithdrawal, hb, hx, hg, hr, hz, hi, hs]
  rfl

/-- SLOW_GEAR_STEP where the slow gear may choose. -/
theorem exec_slowGearStep {z : SlowGear} (hb : s.blocks[b]? = some blk) (hx : cordOf s b c = some x)
    (hz : x.slow = some z) (hr : slowReady (viewCord s b x) = true) (hf : fetchHeld s b c blk.core = false) :
    exec (.slowGearStep b c) s = .next
      (match (stepping x).find? (fun l => !z.served.contains l && !z.stopped.contains l && !z.waiting.contains l) with
      | some l => lookAt s b c blk.core l x z
      | none => modCord s b c (fun y => endRound y z)) := by
  change execSlowGearStep b c s = _
  simp only [execSlowGearStep, hb, hx, hz, hr, hf]
  rfl

end

/-- BRAID_KILL of a braid that is to be killed. -/
theorem exec_braidKill {s : State} {g i : Nat} {y : Grid} {r : Braid} (hg : gridOf s g = some y)
    (hr : braidRec s (g, i) = some r) (hk : r.toKill = true) :
    exec (.braidKill g i) s = .next (if r.retired || r.pending then modBraid s (g, i) (fun r => { r with toKill := false })
      else killNow s (g, i) y r) := by
  change execBraidKill g i s = _
  simp only [execBraidKill, hg, hr, hk]
  rfl

/-- Settles O55: what a withdrawal restores is `restoreCord`'s, a strand at a time; each event of the region, the slow gear
or the braid takes the branch that its conditions name. -/
theorem regionsAndBraids : Obligations.RegionsAndBraids := by
  intro s b c blk x hb hx
  refine ⟨fun g r hg hr hz hi hs => ?_, fun g r => ?_, fun g r => ?_, fun z hz hr hf => ?_, fun dw p k hm hk => ?_,
    fun g i y r hg hr hk => ?_⟩
  · rw [exec_regionWithdrawal hb hx hg hr hz hi hs]
    exact ⟨fun hd => by rw [if_pos hd], fun hd hu => by rw [if_neg (by simp [hd]), hu],
      fun n hd hu => by rw [if_neg (by simp [hd]), hu]⟩
  · obtain ⟨hs, hk, hf, hh, hq, hp, hret, hz⟩ := withdrawnCord_frame g r x
    refine ⟨_, (withdraw_leaves hx blk.core g r).1, hs, hk, hf, hh, hq, hp, hret, hz, fun l h hl hsh => ?_⟩
    obtain ⟨hpc, hpr, htret, hpark, hrefs, hep, hset, hoth⟩ := restoreLane_of_shadow hsh (x.lane l)
    rw [withdrawnCord_lane r hl]
    cases hlive : (x.lane l).live with
    | true => exact ⟨hpc, hpr, htret, hpark, hrefs, fun _ => congrArg (· + 1) hep, hset, hoth⟩
    | false => exact ⟨hpc, hpr, htret, hpark, hrefs, fun h => absurd h Bool.false_ne_true, hset, hoth⟩
  · obtain ⟨-, t, ht, hcore⟩ := withdraw_leaves hx blk.core g r
    simp only [hcore, ← ht]
    exact departCore_boundary t blk.core
  · rw [exec_slowGearStep hb hx hz hr hf]
    exact ⟨fun l hl => by rw [hl], fun hn => by rw [hn]⟩
  · exact retractCell_bytes hm hk
  · rw [exec_braidKill hg hr hk]
    exact ⟨fun hret hpen => by rw [if_neg (by simp [hret, hpen])], fun h => by rw [if_pos (by simpa using h)]⟩

end Sys2Proof.Machine
end

/-! ## The mailbox commands (O56) -/

section
open Sys2Proof Sys2Proof.Machine Sys2Proof.Claims

namespace Sys2Proof.Machine

/-! ### How a command ends -/

/-- A doubleword without its highest bit. -/
theorem and_below63 (v : DWord) : v &&& 0x7FFFFFFFFFFFFFFF = BitVec.ofNat 64 (v.toNat % 2 ^ 63) := by
  apply BitVec.eq_of_toNat_eq
  rw [BitVec.toNat_and, BitVec.toNat_ofNat]
  have h : (0x7FFFFFFFFFFFFFFF : DWord).toNat = 2 ^ 63 - 1 := rfl
  rw [h, Nat.and_two_pow_sub_one_eq_mod]
  omega

/-- What the end of a command writes. -/
theorem endCommand_eq (m : Mgmt) (result : Nat) (resp : List Byte) : endCommand m result resp = { m with
    mbbuf := if result = 0 then memWrite m.mbbuf 0 resp else m.mbbuf
    mbstat := BitVec.ofNat 64 (1 + 256 * result + 2 ^ 32 * (if result = 0 then resp.length else 0))
    mbcmd := BitVec.ofNat 64 (m.mbcmd.toNat % 2 ^ 63) } := by
  rw [endCommand, and_below63]
  split
  · rw [show resp.length * 2 ^ 32 + result * 2 ^ 8 + 1 = 1 + 256 * result + 2 ^ 32 * resp.length by omega]
  · rw [show ([] : List Byte).length * 2 ^ 32 + result * 2 ^ 8 + 1 = 1 + 256 * result + 2 ^ 32 * 0 by simp; omega]
    rfl

section
variable {s : State} {i : Instr} {op n : Nat} {lenOk : Nat → Bool} {run : List Byte → State → Ran}

/-- GO of a command of an opcode is set. -/
theorem started_iff (s : State) (op : Nat) :
    started s op = true ↔ s.mgmt.mbcmd.toNat / 2 ^ 63 = 1 ∧ s.mgmt.mbcmd.toNat % 2 ^ 16 = op := by
  have hb : s.mgmt.mbcmd.getLsbD 63 = true ↔ s.mgmt.mbcmd.toNat / 2 ^ 63 = 1 := by
    rw [BitVec.getLsbD, Nat.testBit_eq_decide_div_mod_eq, decide_eq_true_eq]
    have := s.mgmt.mbcmd.isLt
    omega
  rw [started, Bool.and_eq_true, hb, beq_iff_eq, bits_eq, Nat.pow_zero, Nat.div_one]

/-- A command that was started, of its opcode. -/
theorem started_of_command (h : Command s op n) : started s op = true := by
  rw [started, h.go, h.opIs, beq_self_eq_true]
  rfl

/-- After a failed signature a command that is not always taken ends with RESULT 4 (R364). -/
theorem ends_stopped (he : exec i s = mailbox op lenOk run s) (hs : started s op = true) (hf : signatureStop s = true)
    (ht : alwaysTaken op = false) : ends i s s 4 [] := by
  simp only [ends, he, mailbox, hs, hf, ht, modMgmt, endCommand_eq]
  rfl

/-- A command that is accepted was not stopped by a failed signature, where that stops it. -/
theorem notStopped_of_command (hc : Command s op n) (ht : alwaysTaken op = false) : signatureStop s = false := by
  cases hf : signatureStop s with
  | false => rfl
  | true => exact absurd (hc.accepted hf) (by simp [ht])

/-- A command of a wrong length ends with RESULT 2. -/
theorem ends_length (he : exec i s = mailbox op lenOk run s) (hc : Command s op n) (hl : 32768 < n ∨ lenOk n = false) :
    ends i s s 2 [] := by
  have hstop : (signatureStop s && !alwaysTaken op) = false := by
    cases hf : signatureStop s with
    | false => rfl
    | true => simp [hc.accepted hf]
  have hlen : (decide (32768 < n) || !lenOk n) = true := by simpa using hl
  simp only [ends, he, mailbox, started_of_command hc, hc.lenIs, hstop, hlen, modMgmt, endCommand_eq]
  rfl

/-- A command that passes these checks runs, and ends with what it gives. -/
theorem ends_run {x : Host.Outcome State Fault Refusal} (he : exec i s = x) (hx : x = mailbox op lenOk run s)
    (hc : Command s op n) (hl : lenOk n = true) (hn : n ≤ 32768)
    {result : Nat} {resp : List Byte} {t : State} (hr : run (request s n) s = (result, resp, t)) :
    ends i s t result resp := by
  have hstop : (signatureStop s && !alwaysTaken op) = false := by
    cases hf : signatureStop s with
    | false => rfl
    | true => simp [hc.accepted hf]
  have hlen : (decide (32768 < n) || !lenOk n) = false := by simp [hl, hn]
  have hrun : run (memRead s.mgmt.mbbuf 0 n) s = (result, resp, t) := hr
  simp only [ends, he, hx, mailbox, started_of_command hc, hc.lenIs, hstop, hlen, hrun, modMgmt, endCommand_eq]
  rfl

end

/-! ### The requests -/

/-- A field of a request. -/
theorem req_request (s : State) {n off k : Nat} (h : off + k ≤ n) :
    req (request s n) off k = leNat (memRead s.mgmt.mbbuf off k) := by
  have hr : ((request s n).drop off).take k = memRead s.mgmt.mbbuf off k := by
    refine List.ext_getElem (by simp [request, memRead]; omega) fun i _ _ => ?_
    simp [request, memRead]
  rw [req, hr]

/-- A field at the start of a request. -/
theorem req_zero (bs : List Byte) (n : Nat) : req bs 0 n = leNat (bs.take n) := rfl

/-- The bytes of a request. -/
theorem request_length (s : State) (n : Nat) : (request s n).length = n := by
  simp [request, memRead]

/-- A PART_RESET that is not held runs as any command. -/
theorem partReset_runs {s : State} (h : resetHeld s = false) : exec .partReset s = mailbox 0x0021 (fun n => n == 1) (fun bs s =>
    if 7 < req bs 0 1 then (3, [], s) else if stageOf s != 3 then (4, [], s) else (0, [], partReset s (req bs 0 1) 0)) s :=
  if_neg (by simp [h])

/-- Each command of the table, but for a PART_RESET that is held, runs through the mailbox (R363). -/
theorem commandTable_runs {s : State} {e : Instr × Nat × (State → Nat → Bool)} (he : e ∈ commandTable)
    (hr : e.2.1 = 0x0021 → resetHeld s = false) : ∃ run, exec e.1 s = mailbox e.2.1 (e.2.2 s) run s := by
  have hrun : ∀ {i : Instr} {x : Host.Outcome State Fault Refusal} {op lenOk run}, exec i s = x → x = mailbox op lenOk run s →
      ∃ run, exec i s = mailbox op lenOk run s := fun h h' => ⟨_, h.trans h'⟩
  simp only [commandTable, List.mem_cons, List.not_mem_nil, or_false] at he
  obtain rfl | rfl | rfl | rfl | rfl | rfl | rfl | rfl | rfl | rfl := he
  · exact hrun (x := execVersion s) rfl rfl
  · exact hrun (x := execFwUpload s) rfl rfl
  · exact hrun (x := execFwCommit s) rfl rfl
  · exact hrun (x := execPartSet s) rfl rfl
  · exact ⟨_, partReset_runs (hr rfl)⟩
  · exact hrun (x := execDevSet s) rfl rfl
  · exact hrun (x := execCommSet s) rfl rfl
  · exact hrun (x := execRingSet s) rfl rfl
  · exact hrun (x := execAttest s) rfl rfl
  · exact hrun (x := execEventRead s) rfl rfl

/-- A PART_RESET is held only with a length of 1. -/
theorem resetHeld_of_length {s : State} {e : Instr × Nat × (State → Nat → Bool)} {n : Nat} (he : e ∈ commandTable)
    (hop : e.2.1 = 0x0021) (hc : Command s e.2.1 n) (hl : 32768 < n ∨ e.2.2 s n = false) : resetHeld s = false := by
  have hone : ∀ e ∈ commandTable, e.2.1 = 0x0021 → e.2.2 s 1 = true := by simp [commandTable]
  have hn : n ≠ 1 := by
    rintro rfl
    obtain h | h := hl
    · omega
    · exact Bool.false_ne_true (h.symm.trans (hone e he hop))
  simp [resetHeld, hc.lenIs, hn]

/-- Counting the collectives of a communicator anew changes nothing else of a block (R194, R381). -/
theorem restartColls_block {s : State} {b : Nat} {x : Block} (hx : s.blocks[b]? = some x) (p c : Nat) :
    ∃ y, (restartColls s p c).blocks[b]? = some y ∧ y = { x with colls := y.colls } ∧ ∀ k, tabGet y.colls k
      = if partOfBlock s b = p ∧ k = c then none else tabGet x.colls k := by
  have hy : (restartColls s p c).blocks[b]?
      = some (if partOfBlock s b == p then { x with colls := tabDel x.colls c } else x) := by
    simp only [restartColls, List.getElem?_mapIdx, hx, Option.map_some]
  refine ⟨_, hy, ?_, fun k => ?_⟩
  · split <;> rfl
  · by_cases hp : partOfBlock s b = p
    · by_cases hk : k = c
      · subst hk
        simp [hp, tabGet_tabDel_same]
      · simp [hp, hk, tabGet_tabDel_other _ hk]
    · simp [hp]

/-- Settles O56: every command goes through `mailbox`, whose checks come first; its own checks then choose what it ends
with. -/
theorem mailboxCommands : Obligations.MailboxCommands := by
  intro s
  refine ⟨fun e he hs hf ht => ?_, fun e he n hc hl => ?_, fun hc => ?_, fun n hc h8 hn => ?_, fun n hc h8 hn => ?_,
    fun hc hbad => ?_, fun hc => ?_, fun hc => ?_, fun hc hst hp => ?_, fun hc => ?_, fun hc => ?_, fun hc => ?_,
    fun k hc => ?_, fun k hc hle => ?_, fun p c b x hx => restartColls_block hx p c, fun hc => ?_, fun hc => ?_,
    fun hc hst => ?_, fun hc hst => ?_, fun hc => ?_, fun hc hbad => ?_, started_iff s⟩
  · obtain ⟨run, hrun⟩ := commandTable_runs (s := s) he fun _ => by simp [resetHeld, hf]
    exact ends_stopped hrun hs hf ht
  · obtain ⟨run, hrun⟩ := commandTable_runs (s := s) he fun hop => resetHeld_of_length he hop hc hl
    exact ends_length hrun hc hl
  · exact ends_run (x := execVersion s) rfl rfl hc rfl (by omega) rfl
  · intro off ha hb
    refine ends_run (x := execFwUpload s) rfl rfl hc (by simp [h8]) hn ?_
    have hgo : ¬ (off % 8 != 0 || decide (2 ^ 26 < off + ((request s n).length - 8))) = true := by
      rw [request_length]
      simpa [ha] using hb
    exact if_neg hgo
  · intro off hbad
    refine ends_run (x := execFwUpload s) rfl rfl hc (by simp [h8]) hn ?_
    have hstop : (off % 8 != 0 || decide (2 ^ 26 < off + ((request s n).length - 8))) = true := by
      rw [request_length]
      simpa using hbad
    exact if_pos hstop
  · refine ends_run (x := execFwCommit s) rfl rfl hc rfl (by omega) ?_
    dsimp only
    rw [if_pos (by simpa [or_assoc] using hbad)]
  · intro n i h1 h2 h3 image
    have hgo : ¬ (decide (n < 520) || decide (2 ^ 26 < n) || decide (3 < i)) = true := by simp [-Nat.reducePow, h1, h2, h3]
    refine ⟨fun hs => ?_, fun hs => ?_⟩
    · refine ends_run (x := execFwCommit s) rfl rfl hc rfl (by omega) ?_
      dsimp only
      rw [if_neg hgo, if_neg (by simp [hs, n, image])]
    · refine ends_run (x := execFwCommit s) rfl rfl hc rfl (by omega) ?_
      dsimp only
      rw [if_neg hgo, if_pos (by simp [hs, n, image])]
  · intro r p
    refine ⟨fun hbad => ?_, fun hb hcl hst hrun => ?_, fun hb hcl hok => ?_⟩
    · refine ends_run (x := execPartSet s) rfl rfl hc rfl (by omega) ?_
      dsimp only
      rw [if_pos (by simpa [r] using hbad)]
    · refine ends_run (x := execPartSet s) rfl rfl hc rfl (by omega) ?_
      dsimp only
      rw [if_neg (by simp [hb, hcl, r]), if_pos (by simp [hst, hrun, p, r])]
    · refine ends_run (x := execPartSet s) rfl rfl hc rfl (by omega) ?_
      dsimp only
      rw [if_neg (by simp [hb, hcl, r]), if_neg (by simpa [p, r, imp_iff_not_or] using hok)]
  · have hstop := notStopped_of_command hc rfl
    have htgt : resetTarget s = req (request s 1) 0 1 := rfl
    refine ⟨fun hw => ?_, fun hw => ?_⟩
    · have hheld : resetHeld s = false := by simp [resetHeld, htgt, hw]
      refine ends_run (partReset_runs hheld) rfl hc rfl (by omega) ?_
      rw [if_neg (by omega), if_neg (by simp [hst])]
    · refine if_pos ?_
      simp [resetHeld, htgt, started_of_command hc, hc.lenIs, hstop, hp, hst, hw]
  · have htgt : resetTarget s = req (request s 1) 0 1 := rfl
    refine ⟨fun h7 => ?_, fun h7 hst => ?_⟩
    · have hheld : resetHeld s = false := by simp [resetHeld, htgt, Nat.not_le.mpr h7]
      refine ends_run (partReset_runs hheld) rfl hc rfl (by omega) ?_
      rw [if_pos h7]
    · have hheld : resetHeld s = false := by simp [resetHeld, hst]
      refine ends_run (partReset_runs hheld) rfl hc rfl (by omega) ?_
      rw [if_neg (by omega), if_pos (by simp [hst])]
  · intro q h1 h2 h3 hst
    refine ends_run (x := execDevSet s) rfl rfl hc rfl (by omega) ?_
    dsimp only
    rw [if_neg (by simp [q, h1, h2, h3]), if_neg (by omega)]
  · intro q
    refine ⟨fun hbad => ?_, fun h1 h2 h3 hst => ?_⟩
    · refine ends_run (x := execDevSet s) rfl rfl hc rfl (by omega) ?_
      dsimp only
      rw [if_pos (by simpa [q, or_assoc] using hbad)]
    · refine ends_run (x := execDevSet s) rfl rfl hc rfl (by omega) ?_
      dsimp only
      rw [if_neg (by simp [q, h1, h2, h3]), if_pos hst]
  · intro q hk h1 h2 h3 hall
    have hlen : (8 + 16 * k == 8 + 16 * leNat (memRead s.mgmt.mbbuf 2 2)) = true := by
      rw [← req_request s (n := 8 + 16 * k) (by omega), ← hk]
      exact beq_self_eq_true _
    have hgo : ¬ (decide (7 < req q 0 1) || decide (1024 < req q 2 2) || req q 4 4 != 0
        || (List.range (req q 2 2)).any (memberBad q)) = true := by
      rw [← hk]
      simpa [h1, h2, h3] using hall
    refine ⟨fun hst => ?_, fun hst => ?_⟩
    · refine ends_run (x := execCommSet s) rfl rfl hc hlen (by omega) ?_
      dsimp only
      rw [if_neg hgo, if_pos (by simpa using hst)]
    · refine ends_run (x := execCommSet s) rfl rfl hc hlen (by omega) ?_
      dsimp only
      have hk' : req (request s (8 + 16 * k)) 2 2 = k := hk.symm
      rw [if_neg hgo, if_neg (by simp [hst]), hk']
      rfl
  · intro q hk hbad
    have hlen : (8 + 16 * k == 8 + 16 * leNat (memRead s.mgmt.mbbuf 2 2)) = true := by
      rw [← req_request s (n := 8 + 16 * k) (by omega), ← hk]
      exact beq_self_eq_true _
    refine ends_run (x := execCommSet s) rfl rfl hc hlen hle ?_
    dsimp only
    rw [if_pos]
    rw [← hk]
    simpa [or_assoc] using hbad
  · intro q h1 h2 h3 h4 h5 h6
    have hgo : ¬ (decide (7 < req q 0 1) || decide (15 < req q 1 1) || decide (63 < req q 2 2) || req q 4 4 != 0
        || req q 8 8 % 64 != 0 || decide (2 ^ 57 ≤ req q 8 8)) = true := by simp [-Nat.reducePow, h1, h2, h3, h4, h5, h6]
    refine ⟨fun hst => ?_, fun hst => ?_⟩
    · refine ends_run (x := execRingSet s) rfl rfl hc rfl (by omega) ?_
      dsimp only
      rw [if_neg hgo, if_pos (by simpa using hst)]
    · refine ends_run (x := execRingSet s) rfl rfl hc rfl (by omega) ?_
      dsimp only
      rw [if_neg hgo, if_neg (by simp [hst])]
      rfl
  · intro q hbad
    refine ends_run (x := execRingSet s) rfl rfl hc rfl (by omega) ?_
    dsimp only
    rw [if_pos (by simpa [q, or_assoc] using hbad)]
  · refine ends_run (x := execAttest s) rfl rfl hc rfl (by omega) ?_
    dsimp only
    rw [if_neg (by omega)]
  · refine ends_run (x := execAttest s) rfl rfl hc rfl (by omega) ?_
    dsimp only
    rw [if_pos hst]
  · intro n h1 h2
    have hn : req (request s 2) 0 2 = n := by rw [req_zero, List.take_of_length_le (request_length s 2).le]
    refine ends_run (x := execEventRead s) rfl rfl hc rfl (by omega) ?_
    dsimp only
    rw [hn, if_neg (by simp; omega)]
  · have hn : req (request s 2) 0 2 = leNat (request s 2) := by rw [req_zero, List.take_of_length_le (request_length s 2).le]
    refine ends_run (x := execEventRead s) rfl rfl hc rfl (by omega) ?_
    dsimp only
    rw [hn, if_pos (by simpa using hbad)]

end Sys2Proof.Machine
end

/-! ## A partition's reset (O57) -/

section
open Sys2Proof Sys2Proof.Machine Sys2Proof.Claims

namespace Sys2Proof.Machine

/-! ### What resets leave -/

/-- The stage of start-up and the partition records stand, and a context's life is as it was, or reset. -/
structure OnlyResets (s t : State) : Prop where
  boot : t.mgmt.bootstat = s.mgmt.bootstat
  configured : t.mgmt.configured = s.mgmt.configured
  stored : t.mgmt.stored = s.mgmt.stored
  lives : ∀ p c, (ctxOf t p c).life = (ctxOf s p c).life ∨ (ctxOf t p c).life = .reset

namespace OnlyResets

variable {s t r : State}

/-- Nothing has changed. -/
theorem refl (s : State) : OnlyResets s s := ⟨rfl, rfl, rfl, fun _ _ => Or.inl rfl⟩

/-- One change after another. -/
theorem trans (h : OnlyResets s t) (h' : OnlyResets t r) : OnlyResets s r := by
  refine ⟨h'.boot.trans h.boot, h'.configured.trans h.configured, h'.stored.trans h.stored, fun p c => ?_⟩
  obtain hl | hl := h'.lives p c
  · rw [hl]
    exact h.lives p c
  · exact Or.inr hl

/-- The management block and the contexts stand. -/
theorem of_eq (hm : t.mgmt = s.mgmt) (hc : t.ctxs = s.ctxs) : OnlyResets s t :=
  ⟨by rw [hm], by rw [hm], by rw [hm], fun p c => Or.inl (by rw [ctxOf, hc, ctxOf])⟩

/-- A fold of such steps. -/
theorem foldl {α : Type} {f : State → α → State} (h : ∀ s a, OnlyResets s (f s a)) (l : List α) (s : State) :
    OnlyResets s (l.foldl f s) := by
  induction l generalizing s with
  | nil => exact refl s
  | cons a l ih => exact (h s a).trans (ih _)

/-- A context changed that lives on as it did, or is reset. -/
theorem modCtx (s : State) (p k : Nat) {f : Ctx → Ctx} (h : ∀ x, (f x).life = x.life ∨ (f x).life = .reset) :
    OnlyResets s (modCtx s p k f) := by
  refine ⟨rfl, rfl, rfl, fun p' k' => ?_⟩
  by_cases hk : ctxKey p' k' = ctxKey p k
  · have hs : ctxOf s p' k' = ctxOf s p k := by rw [ctxOf, hk, ctxOf]
    rw [ctxOf, hk, Machine.modCtx, tabGet_tabPut_same, Option.getD_some, hs]
    exact h _
  · rw [ctxOf, Machine.modCtx, tabGet_tabPut_other _ _ hk, ctxOf]
    exact Or.inl rfl

/-- A log entry. -/
theorem record (s : State) (p k : Nat) (e : LogEntry) : OnlyResets s (record s p k e) := by
  unfold Machine.record
  extract_lets x
  split
  · exact refl s
  · split
    · exact modCtx _ _ _ fun _ => Or.inl rfl
    · have hb : ∀ t a bs q, OnlyResets t (putBytes t a bs q) := fun _ _ _ _ => of_eq rfl rfl
      exact (hb ..).trans (modCtx _ _ _ fun _ => Or.inl rfl)

/-- A step that others have not seen. -/
theorem foreignFor (s : State) (p k pa : Nat) : OnlyResets s (foreignFor s p k pa) := by
  unfold Machine.foreignFor
  extract_lets t x
  have ht : OnlyResets s t := record ..
  split
  · split
    · exact ht.trans (modCtx t p k fun _ => Or.inl rfl)
    · exact ht
  · exact ht

/-- A step from outside noted. -/
theorem noteForeign (s : State) (pa size : Nat) : OnlyResets s (noteForeign s pa size) := by
  have hn : OnlyResets s (noteOthers s pa size (2 ^ 64)) := by
    refine foldl (fun s k => ?_) _ s
    unfold noteOther
    extract_lets p c x
    split
    · exact modCtx _ _ _ fun _ => Or.inl rfl
    · exact foreignFor ..
  refine hn.trans (foldl ?_ _ _)
  exact fun _ _ => of_eq rfl rfl

/-- Bytes written at their homes. -/
theorem homeWrites (by_ : Option BraidId) (bs : List Byte) (s : State) (pa : Nat) :
    OnlyResets s (homeWrites s by_ pa bs) := by
  induction bs generalizing s pa with
  | nil => exact refl s
  | cons b bs ih =>
    have hb : OnlyResets s (homeWrite s by_ pa b false) := of_eq rfl rfl
    exact hb.trans (ih _ _)

/-- A word that the device writes. -/
theorem writeWord {pa x : Nat} (h : writeWord s pa x = some t) : OnlyResets s t := by
  unfold Machine.writeWord at h
  split at h
  · split at h
    · cases h
    · obtain rfl := Option.some.inj h
      exact (homeWrites none (leBytes 8 x) s pa).trans (noteForeign ..)
  · obtain rfl := Option.some.inj h
    exact of_eq rfl rfl
  · cases h
  · obtain rfl := Option.some.inj h
    exact refl s

/-- What the device writes where a walk leads it. -/
theorem deviceWalk {part ctx va : Nat} {n : Need} {pa : Nat} (h : deviceWalk s part ctx va n = some (pa, t)) :
    OnlyResets s t := by
  unfold Machine.deviceWalk at h
  extract_lets d slot at h
  split at h
  · cases h
  · split at h
    · cases h
      exact of_eq rfl rfl
    · cases h

/-- The completion word that a grid owes. -/
theorem payOwed (s : State) (g : Nat) : OnlyResets s (payOwed s g) := by
  unfold Machine.payOwed
  split
  · exact refl s
  · split
    next hw =>
      split
      next ht => exact ((deviceWalk hw).trans (writeWord ht)).trans (of_eq rfl rfl)
      · exact refl s
    · exact refl s

/-- A grid that fails. -/
theorem failGrid (s : State) (g code : Nat) : OnlyResets s (failGrid s g code) := by
  unfold Machine.failGrid
  split
  · exact refl s
  · split
    · exact refl s
    · refine trans ?_ (payOwed ..)
      have hq : OnlyResets s (unqueue s g) := by
        unfold unqueue
        split
        · exact of_eq rfl rfl
        · exact refl s
      exact hq.trans (of_eq rfl rfl)

/-- Blocks discarded. -/
theorem discardBlocks (s : State) (bs : List Nat) : OnlyResets s (discardBlocks s bs) := by
  unfold Machine.discardBlocks
  extract_lets t
  have hk : ∀ s b, OnlyResets s (killBlock s b) := fun s b => by
    unfold killBlock
    split
    · exact refl s
    · exact of_eq rfl rfl
  have hd : OnlyResets s (dropFaults s bs.contains) := of_eq rfl rfl
  have ht : OnlyResets s t := hd.trans (foldl hk bs _)
  exact ht.trans (of_eq rfl rfl)

/-- The cells of a context given back or kept. -/
theorem releaseCells (s : State) (part ctx : Nat) : OnlyResets s (releaseCells s part ctx) := by
  refine foldl (fun s c => ?_) _ s
  have hr : ∀ s p, OnlyResets s (retractCell s c.dw p) := fun s p => by
    unfold retractCell
    split
    · exact refl s
    · exact of_eq rfl rfl
  have hx : OnlyResets s (takeFree s).2 := of_eq rfl rfl
  dsimp only
  split
  · exact hx.trans (hr _ _)
  · exact hx.trans (of_eq rfl rfl)

/-- A context reset by force. -/
theorem forcedReset (s : State) (part ctx status : Nat) : OnlyResets s (forcedReset s part ctx status) := by
  unfold Machine.forcedReset
  extract_lets gs t u v w
  have ht : OnlyResets s t := (discardBlocks ..).trans (of_eq rfl rfl)
  have hu : OnlyResets s u := ht.trans (releaseCells ..)
  have hv : OnlyResets s v := by
    refine hu.trans (foldl (fun s g => ?_) gs u)
    have hg : OnlyResets s (modGrid s g (fun x => { x with braids := x.braids.map (fun r => (r.1, r.2.stopped)) })) :=
      of_eq rfl rfl
    exact hg.trans (failGrid ..)
  have hw : OnlyResets s w := hv.trans (of_eq rfl rfl)
  exact hw.trans (modCtx _ _ _ fun _ => Or.inr rfl)

/-- An event logged. -/
theorem logEvent (s : State) (kind subject detail : Nat) : OnlyResets s (logEvent s kind subject detail) := by
  have hp : ∀ (m : Mgmt) e, (m.push e).bootstat = m.bootstat ∧ (m.push e).configured = m.configured
      ∧ (m.push e).stored = m.stored := fun m e => by
    unfold Mgmt.push
    split <;> exact ⟨rfl, rfl, rfl⟩
  obtain ⟨hb, hc, hs⟩ := hp (tick s).2.mgmt { kind := kind, subject := subject, detail := detail, time := (tick s).1 }
  exact ⟨hb, hc, hs, fun _ _ => Or.inl rfl⟩

/-- A dump of a context, which resets it. -/
theorem dumpContext (s : State) (part ctx status cause pc : Nat) : OnlyResets s (dumpContext s part ctx status cause pc) := by
  unfold Machine.dumpContext
  extract_lets t bs u v
  have ht : OnlyResets s t.2 := ⟨rfl, rfl, rfl, fun _ _ => Or.inl rfl⟩
  have hu : OnlyResets s u := ht.trans (forcedReset ..)
  have hv : OnlyResets s v := hu.trans (of_eq rfl rfl)
  exact hv.trans (logEvent ..)

/-- A context that its partition's reset comes to. -/
theorem resetContext (p : Nat) (s : State) (c : Nat) : OnlyResets s (resetContext p s c) := by
  unfold Machine.resetContext
  split
  · exact refl s
  · split
    · exact dumpContext ..
    · exact forcedReset ..

/-- A cluster that is replaced. -/
theorem replaceCluster (s : State) (c : Nat) : OnlyResets s (replaceCluster s c) := by
  unfold Machine.replaceCluster
  split
  · exact refl s
  · split
    · exact refl s
    · refine trans ?_ (logEvent ..)
      have hk : OnlyResets s (keepCluster s c) := by
        refine foldl ?_ _ s
        exact fun _ _ => ⟨rfl, rfl, rfl, fun _ _ => Or.inl rfl⟩
      have hm : OnlyResets s (markBad (keepCluster s c) (physCluster s c)) := hk.trans (of_eq rfl rfl)
      refine hm.trans (foldl ?_ _ _)
      exact fun _ _ => of_eq rfl rfl

end OnlyResets

/-- A context that its partition's reset has come to is absent or reset. -/
theorem life_resetContext (p : Nat) (s : State) (c : Nat) :
    (ctxOf (resetContext p s c) p c).life = .absent ∨ (ctxOf (resetContext p s c) p c).life = .reset := by
  unfold resetContext
  split
  · exact Or.inl (beq_iff_eq.mp ‹_›)
  · split
    · rw [ctxOf_dumpContext]
      exact Or.inr (ctxOf_forcedReset ..).1
    · exact Or.inr (ctxOf_forcedReset ..).1

/-- The contexts that a partition's reset has come to are absent or reset. -/
theorem life_foldl_resetContext (p : Nat) {c : Nat} : ∀ (l : List Nat) (s : State), c ∈ l →
    (ctxOf (l.foldl (resetContext p) s) p c).life = .absent ∨ (ctxOf (l.foldl (resetContext p) s) p c).life = .reset
  | [], _, h => absurd h List.not_mem_nil
  | d :: l, s, h => by
    obtain rfl | h := List.mem_cons.mp h
    · have hl := (OnlyResets.foldl (OnlyResets.resetContext p) l (resetContext p s c)).lives p c
      obtain hl | hl := hl
      · rw [List.foldl_cons, hl]
        exact life_resetContext p s c
      · exact Or.inr hl
    · exact life_foldl_resetContext p l _ h

/-- Steps that leave the partitions leave them together. -/
theorem parts_foldl {α : Type} {f : State → α → State} (h : ∀ s a, (f s a).parts = s.parts) (l : List α) (s : State) :
    (l.foldl f s).parts = s.parts := by
  induction l generalizing s with
  | nil => rfl
  | cons a l ih => exact (ih _).trans (h s a)

/-- Replacing a cluster leaves the partitions. -/
theorem parts_replaceCluster (s : State) (c : Nat) : (replaceCluster s c).parts = s.parts := by
  unfold replaceCluster
  split
  · rfl
  · split
    · rfl
    next q _ =>
      have hk : (keepCluster s c).parts = s.parts := by
        refine parts_foldl ?_ _ s
        exact fun _ _ => rfl
      have hc : (moveToSpare s c q).parts = (markBad (keepCluster s c) (physCluster s c)).parts := by
        refine parts_foldl ?_ _ _
        exact fun _ _ => rfl
      exact hc.trans hk

/-- An event that is logged stands in the log. -/
theorem mem_logEvent (s : State) (kind subject detail : Nat) :
    ∃ e ∈ (logEvent s kind subject detail).mgmt.events, e.kind = kind ∧ e.subject = subject ∧ e.detail = detail := by
  have hp : ∀ (m : Mgmt) e, e ∈ (m.push e).events := fun m e => by
    unfold Mgmt.push
    split <;> exact List.mem_append_right _ (List.mem_singleton_self _)
  exact ⟨{ kind := kind, subject := subject, detail := detail, time := (tick s).1 }, hp (tick s).2.mgmt _, rfl, rfl, rfl⟩

/-- The record that a partition takes as it is configured. -/
theorem configure_same {s : State} {p : Nat} {q : List DWord} (h : nextRecord s p = some q) :
    (partOf (configure s p) p).record = q ∧ (partOf (configure s p) p).enabled = recEnabled q := by
  rw [configure, h]
  simp only [partOf_modPart_same, and_self]

/-- What a partition's reset leaves (R387). -/
theorem partReset_leaves (s : State) (n how : Nat) :
    let t := partReset s n how
    (partOf t n).comms = [] ∧ ((partOf t n).running = true ↔ (partOf t n).enabled = true ∧ stageOf s = 3)
      ∧ (∀ q, nextRecord s n = some q → (partOf t n).record = q ∧ (partOf t n).enabled = recEnabled q)
      ∧ (∀ c, c < 64 → (ctxOf t n c).life = .absent ∨ (ctxOf t n c).life = .reset)
      ∧ ∃ e ∈ t.mgmt.events, e.kind = 0x0030 ∧ e.subject = n ∧ e.detail = how := by
  unfold partReset
  extract_lets u v cls w x y
  have hu : OnlyResets s u := OnlyResets.foldl (OnlyResets.resetContext n) _ s
  have hlives : ∀ c, c < 64 → (ctxOf u n c).life = .absent ∨ (ctxOf u n c).life = .reset := fun c hc =>
    life_foldl_resetContext n _ s (List.mem_range.mpr hc)
  clear_value u
  have hv : OnlyResets u v := by
    unfold v configure
    split <;> exact OnlyResets.of_eq rfl rfl
  have hw : OnlyResets v w := OnlyResets.foldl OnlyResets.replaceCluster cls v
  have hx : OnlyResets w x := by
    refine OnlyResets.foldl ?_ _ w
    exact fun _ _ => OnlyResets.of_eq rfl rfl
  have hparts : x.parts = v.parts := by
    have hxw : x.parts = w.parts := by
      refine parts_foldl ?_ _ w
      exact fun _ _ => rfl
    exact hxw.trans (parts_foldl parts_replaceCluster cls v)
  have hstage : stageOf x = stageOf s := by
    rw [stageOf, (hv.trans (hw.trans hx)).boot, hu.boot, ← stageOf]
  have hrec : nextRecord u n = nextRecord s n := by
    rw [nextRecord, hu.configured, hu.stored, ← nextRecord]
  have hlog : ∀ (t : State) k i d, (logEvent t k i d).parts = t.parts := fun _ _ _ _ => rfl
  have hpart : partOf (logEvent y 48 n how) n
      = { partOf x n with comms := [], running := (partOf x n).enabled && stageOf x == 3 } := by
    rw [partOf, hlog, ← partOf]
    exact partOf_modPart_same ..
  have hxv : partOf x n = partOf v n := by rw [partOf, hparts, ← partOf]
  rw [hpart]
  refine ⟨rfl, ?_, fun q hq => ?_, fun c hc => ?_, mem_logEvent ..⟩
  · rw [Bool.and_eq_true, beq_iff_eq, hstage]
  · rw [hxv]
    exact configure_same (hrec.trans hq)
  · have hlate : OnlyResets u (logEvent y 48 n how) :=
      ((hv.trans (hw.trans hx)).trans (OnlyResets.of_eq rfl rfl : OnlyResets x y)).trans (OnlyResets.logEvent ..)
    obtain hl | hl := hlate.lives n c
    · rw [hl]
      exact hlives c hc
    · exact Or.inr hl

/-! ### Register writes -/

/-- A write to a register that is not aligned does nothing. -/
theorem registerWrite_unaligned (s : State) (who : MgmtWho) {off : Nat} (v : DWord) (h : off % 8 ≠ 0) :
    registerWrite s who off v = s := if_pos (by simpa using h)

/-- A write to a register at its address. -/
theorem registerWrite_aligned (s : State) (who : MgmtWho) {off : Nat} (v : DWord) (h : off % 8 = 0) :
    registerWrite s who off v = match who with
      | .host => hostWrite s off v
      | .control => controlWrite s off v
      | .image p => if doorbellPage p ≤ off && off < doorbellPage p + 0x80 then ringWrite s p off else s
      | .function p => functionWrite s p off v := if_neg (by simpa using h)

/-- The host's cap of a die (Table 18-6). -/
theorem hostWrite_hostcap (s : State) (v : DWord) {die : Nat} (h : die < 4) :
    hostWrite s (0x1008 + 0x40 * die) v = modDie s die (fun d => { d with hostcap := v.toNat % 65536 }) := by
  have hd : (0x1008 + 0x40 * die - 0x1000) / 0x40 = die := by omega
  have hr : (0x1000 ≤ 0x1008 + 0x40 * die && 0x1008 + 0x40 * die < 0x1100) = true := by simp; omega
  have hb : bits v.toNat 15 0 = v.toNat % 65536 := by
    rw [bits_eq, Nat.pow_zero, Nat.div_one]
    rfl
  rw [hostWrite, if_neg (by omega), if_neg (by omega), if_neg (by omega), if_pos hr, if_pos (by omega), hd, hb]

/-- A write to a die's control space by a control core (R362). -/
theorem controlWrite_die (s : State) (v : DWord) {die off : Nat} (h : die < 4) (ho : off < 0x100000) :
    controlWrite s (0x100000 + 0x100000 * die + off) v = dieWrite s die off v := by
  have hd : (0x100000 + 0x100000 * die + off - 0x100000) / 0x100000 = die := by omega
  have hm : (0x100000 + 0x100000 * die + off) % 0x100000 = off := by omega
  rw [controlWrite, if_pos (by simp; omega), hd, hm]

/-- A service or a rejection of a fault entry, written by a control core (R374). -/
theorem dieWrite_fault (s : State) (die : Nat) {i : Nat} (v : DWord) (hi : i < 1024) :
    (v.toNat / 2 % 4 = 1 → dieWrite s die (32 * i) v = serviceEntry s die i)
      ∧ (v.toNat / 2 % 4 = 2 → dieWrite s die (32 * i) v = rejectEntry s die i) := by
  have hb : bits v.toNat 2 1 = v.toNat / 2 % 4 := by
    rw [bits_eq]
    rfl
  have hn : 32 * i / 32 = i := by omega
  unfold dieWrite
  rw [if_pos (by omega), if_neg (by simp), hb, hn]
  exact ⟨fun h => by simp only [h], fun h => by simp only [h]⟩

/-- The base of a die's fault queue (R375). -/
theorem dieWrite_fqBase (s : State) (die : Nat) (v : DWord) :
    dieWrite s die 0x10000 v = modDie s die (fun d => { d with fqBase := v.toNat / 4096 % 2 ^ 40 * 4096 }) := by
  rw [dieWrite, if_neg (by omega), if_pos rfl, bits_eq]
  rfl

/-- A doorbell page as it reads (R357). -/
theorem functionRead_eq (s : State) (part ctx : Nat) {off : Nat} (h : off < 4096) :
    functionRead s part (4096 * ctx + off)
      = if ctx < 64 ∧ (ctxOf s part ctx).life ≠ .absent ∧ off = 8 then (tabGet (partOf s part).sub ctx).getD 0 else 0 := by
  have hd : (4096 * ctx + off) / 4096 = ctx := by omega
  have hm : (4096 * ctx + off) % 4096 = off := by omega
  unfold functionRead
  dsimp only
  rw [hd, hm]
  by_cases hgone : 64 ≤ ctx ∨ (ctxOf s part ctx).life = .absent
  · rw [if_pos (by simpa using hgone), if_neg]
    rintro ⟨hc, hl, -⟩
    obtain h64 | habs := hgone
    · omega
    · exact hl habs
  · obtain ⟨hc, hl⟩ := not_or.mp hgone
    have hlt : ctx < 64 := Nat.not_le.mp hc
    rw [if_neg (by simp [hc, hl])]
    simp only [hlt, hl, ne_eq, not_false_eq_true, true_and]

/-- A submission at a doorbell page (R357). -/
theorem functionWrite_submit (s : State) (part : Nat) {ctx : Nat} (v : DWord) (h : ctx < 64) :
    functionWrite s part (4096 * ctx) v = submitWrite s part ctx v := by
  have hd : 4096 * ctx / 4096 = ctx := by omega
  unfold functionWrite
  dsimp only
  rw [hd, if_neg (by omega), if_pos (by omega)]

/-! ### The fluid inputs -/

/-- A fluid table whose points ascend and are not zero is taken, and another refused (R372). -/
theorem fluidSubmit_cases (s : State) :
    (ascending (fluidPoints s.mgmt) = true → (fluidPoints s.mgmt).all (fun p => p.2 != 0) = true →
        fluidSubmit s = modMgmt s (fun m => { m with
          fluidctl := 1, fluid := true, inTsat := signed16 m.tsat.toNat, inPoints := fluidPoints s.mgmt }))
      ∧ ((ascending (fluidPoints s.mgmt) = false ∨ (fluidPoints s.mgmt).any (fun p => p.2 == 0) = true) →
        fluidSubmit s = logEvent (modMgmt s (fun m => { m with fluidctl := 0 })) 0x0021 0 0) := by
  refine ⟨fun ha hz => if_pos (by rw [ha, hz]; rfl), fun h => if_neg ?_⟩
  rw [Bool.and_eq_true, not_and_or]
  obtain ha | hz := h
  · exact Or.inl (by simp [ha])
  · refine Or.inr ?_
    obtain ⟨p, hp, h0⟩ := List.any_eq_true.mp hz
    exact fun hall => absurd (List.all_eq_true.mp hall p hp) (by simpa using h0)

/-- An event that is logged changes the log and the clock of the management block only. -/
theorem logEvent_fluid (s : State) (kind subject detail : Nat) :
    (logEvent s kind subject detail).mgmt.fluid = s.mgmt.fluid
      ∧ (logEvent s kind subject detail).mgmt.fluidctl = s.mgmt.fluidctl := by
  have hp : ∀ (m : Mgmt) e, (m.push e).fluid = m.fluid ∧ (m.push e).fluidctl = m.fluidctl := fun m e => by
    unfold Mgmt.push
    split <;> exact ⟨rfl, rfl⟩
  exact hp (tick s).2.mgmt _

/-- A partition's reset waits while a cord of a context that a fatal error has stopped is not suspended. -/
theorem resetWaits_iff (s : State) (n : Nat) : resetWaits s n = true ↔ ∃ c, c < 64 ∧ (ctxOf s n c).life ≠ .absent
    ∧ (ctxOf s n c).fatal ≠ none ∧ allSuspended s n c = false := by
  simp [resetWaits, and_assoc, Option.isSome_iff_ne_none]

/-- Settles O57: a partition's reset changes contexts only by resetting them; a register write acts by its address. -/
theorem managementSteps : Obligations.ManagementSteps := by
  intro s v
  have hwrite : ∀ who off, exec (.managementRegisterWrite who off v) s = .next (registerWrite s who off v) := fun _ _ => rfl
  refine ⟨fun n hn => ⟨fun hw => congrArg _ (if_pos ?_), fun hw => congrArg _ (if_neg ?_)⟩, resetWaits_iff s,
    fun n how hn => partReset_leaves s n how, fun die hd => ?_, fun die hd => ?_, fun die i hd hi hv => ?_,
    fun die i hd hi hv => ?_, fun part ctx hc => ?_, fun off ho => ?_, fun part ctx off ho => functionRead_eq s part ctx ho,
    fun who off ho => ?_, ⟨_, rfl, rfl, rfl, rfl⟩, fun off ho => ?_, ⟨_, rfl, rfl, rfl⟩, fun ha hz => ?_, fun h => ?_,
    ⟨_, rfl, rfl, rfl⟩⟩
  · simp [hn, hw]
  · simp [hw]
  · rw [hwrite, registerWrite_aligned _ _ _ (by omega)]
    exact congrArg _ (hostWrite_hostcap s v hd)
  · rw [hwrite, registerWrite_aligned _ _ _ (by omega)]
    have hoff : 0x110000 + 0x100000 * die = 0x100000 + 0x100000 * die + 0x10000 := by omega
    rw [hoff]
    exact congrArg _ ((controlWrite_die s v hd (by omega)).trans (dieWrite_fqBase s die v))
  · rw [hwrite, registerWrite_aligned _ _ _ (by omega)]
    exact congrArg _ ((controlWrite_die s v hd (by omega)).trans ((dieWrite_fault s die v hi).1 hv))
  · rw [hwrite, registerWrite_aligned _ _ _ (by omega)]
    exact congrArg _ ((controlWrite_die s v hd (by omega)).trans ((dieWrite_fault s die v hi).2 hv))
  · rw [hwrite, registerWrite_aligned _ _ _ (by omega)]
    exact congrArg _ (functionWrite_submit s part v hc)
  · rw [hwrite, hwrite]
    by_cases ha : off % 8 = 0
    · rw [registerWrite_aligned _ _ _ ha, registerWrite_aligned _ _ _ ha]
      exact congrArg _ (if_neg (by simp; omega))
    · rw [registerWrite_unaligned _ _ _ ha, registerWrite_unaligned _ _ _ ha]
  · rw [hwrite, registerWrite_unaligned _ _ _ ho]
  · have hi : exec (.i3cPrivateWrite off v) s
        = .next (registerWrite { s with mgmt := { s.mgmt with i3cOff := off % 2 ^ 24 } } .host (off % 2 ^ 24) v) := rfl
    rw [Nat.mod_eq_of_lt ho] at hi
    exact ⟨_, rfl, hi⟩
  · have hf : exec .fluidTableSubmit s = .next (fluidSubmit s) := rfl
    rw [hf, (fluidSubmit_cases s).1 ha hz]
    exact ⟨_, rfl, rfl, rfl, rfl, rfl⟩
  · have hf : exec .fluidTableSubmit s = .next (fluidSubmit s) := rfl
    rw [hf, (fluidSubmit_cases s).2 h]
    obtain ⟨e, he, hk, -, -⟩ := mem_logEvent (modMgmt s (fun m => { m with fluidctl := 0 })) 0x0021 0 0
    obtain ⟨hfl, hctl⟩ := logEvent_fluid (modMgmt s (fun m => { m with fluidctl := 0 })) 0x0021 0 0
    exact ⟨_, rfl, hfl, hctl, e, he, hk⟩

end Sys2Proof.Machine
end

/-! ## Ports, rings and accesses from outside (O58) -/

section
open Sys2Proof Sys2Proof.Machine Sys2Proof.Claims

namespace Sys2Proof.Machine

/-! ### Accesses from outside -/

/-- A byte read at its home is memory's, and the read changes cells at most. -/
theorem homeRead_eq (s : State) (by_ : Option BraidId) (pa : Nat) :
    (homeRead s by_ pa).1 = memGet s.mem pa ∧ (homeRead s by_ pa).2.mem = s.mem ∧ (homeRead s by_ pa).2.out = s.out := by
  unfold homeRead
  extract_lets seen
  cases seen <;> exact ⟨rfl, rfl, rfl⟩

/-- Bytes read from outside are memory's, and the read changes cells at most. -/
theorem foreignRead_eq (n pa : Nat) (s : State) :
    (foreignRead pa n s).1 = memRead s.mem pa n ∧ (foreignRead pa n s).2.mem = s.mem ∧ (foreignRead pa n s).2.out = s.out := by
  induction n generalizing pa s with
  | zero => exact ⟨rfl, rfl, rfl⟩
  | succ n ih =>
    obtain ⟨hb, hm, ho⟩ := homeRead_eq s none pa
    obtain ⟨hbs, hms, hos⟩ := ih (pa + 1) (homeRead s none pa).2
    refine ⟨?_, hms.trans hm, hos.trans ho⟩
    rw [foreignRead]
    dsimp only
    rw [hb, hbs, hm, memRead, memRead, List.range_succ_eq_map, List.map_cons, List.map_map, Nat.add_zero]
    refine congrArg _ (List.map_congr_left fun i _ => ?_)
    rw [Function.comp_apply, Nat.succ_eq_add_one, show pa + 1 + i = pa + (i + 1) by omega]

/-- Bytes written at their homes are one write of memory. -/
theorem homeWrites_mem (by_ : Option BraidId) (bs : List Byte) (s : State) (pa : Nat) :
    (homeWrites s by_ pa bs).mem = memWrite s.mem pa bs := by
  induction bs generalizing s pa with
  | nil => rfl
  | cons b bs ih => exact ih _ _

section
variable {s : State}

/-- HOST_MEMORY_ACCESS in device memory, of a kind that the host link completes. -/
theorem exec_hostMemoryAccess (s : State) (pa : Nat) (a : Outside) : exec (.hostMemoryAccess pa a) s = .next
    (if pa + outSize a ≤ 1024 * 10 ^ 9 ∧ hostCompletes pa a = true then outsideAccess s pa a else send s (.refused pa)) := by
  change execHostMemoryAccess pa a s = _
  simp only [execHostMemoryAccess, inHbm, Bool.and_eq_true, decide_eq_true_eq]

/-- A read from outside answers with the bytes of memory. -/
theorem outsideAccess_read (s : State) (pa n : Nat) : (outsideAccess s pa (.read n)).out
    = s.out ++ [.answer pa (memRead s.mem pa n)] ∧ (outsideAccess s pa (.read n)).mem = s.mem := by
  obtain ⟨hb, hm, ho⟩ := foreignRead_eq n pa s
  refine ⟨?_, hm⟩
  change (foreignRead pa n s).2.out ++ [Msg.answer pa (foreignRead pa n s).1] = _
  rw [ho, hb]

/-- A write from outside stands in memory, and changes no other byte. -/
theorem outsideAccess_write (hm : Safety.MemOk s) (pa : Nat) (bs : List Byte) :
    memRead (outsideAccess s pa (.write bs)).mem pa bs.length = bs
      ∧ ∀ a, (a < pa ∨ pa + bs.length ≤ a) → memGet (outsideAccess s pa (.write bs)).mem a = memGet s.mem a := by
  have h : (outsideAccess s pa (.write bs)).mem = memWrite s.mem pa bs := homeWrites_mem none bs s pa
  rw [h]
  exact ⟨memRead_memWrite hm pa bs, fun a ha => memGet_memWrite_other _ _ _ ha⟩

/-- An offset that no peer reaches lies in no populated window (Table 11-2). -/
theorem not_inWindows_of_reject {peer pa n : Nat} (h : reachPeer s peer pa = .reject 7) (hn : 0 < n) :
    (inHbm pa n || inTier2 pa n) = false := by
  have hp : populated pa = false := by
    unfold reachPeer at h
    cases hp : populated pa with
    | false => rfl
    | true =>
      simp only [hp, if_true] at h
      split at h
      · cases h
      · split at h <;> cases h
  simp only [populated, inHbm, inTier2, Bool.or_eq_false_iff, Bool.and_eq_false_iff, decide_eq_false_iff_not] at hp ⊢
  omega

end

/-! ### Ports -/

/-- A port that a change names holds what the change makes of it. -/
theorem portOf_modPort_same (s : State) (n : Nat) (f : Port → Port) : portOf (modPort s n f) n = f (portOf s n) := by
  rw [portOf, modPort, tabGet_tabPut_same, Option.getD_some]

/-- The grades of a rate of corrected errors (R380). -/
theorem gradeFor_eq_iff (corrected flits : Nat) {g : Nat} (hg : g < 3) : gradeFor corrected flits = g ↔
    (g = 0 ∧ corrected * 10 ^ 12 < flits ∨ g = 1 ∧ flits ≤ corrected * 10 ^ 12 ∧ corrected * 10 ^ 12 < 100 * flits
      ∨ g = 2 ∧ 100 * flits ≤ corrected * 10 ^ 12 ∧ corrected * 10 ^ 12 < 10000 * flits
      ∨ g = 0 ∧ corrected = 0 ∧ flits = 0) := by
  unfold gradeFor
  dsimp only
  split
  · omega
  · split
    · omega
    · split
      · omega
      · split <;> omega

/-- A counter that goes on up to its top. -/
theorem growBy_toNat (x free : Nat) : (growBy x free (2 ^ 64 - 1)).toNat = Nat.min (2 ^ 64 - 1) (x + free) := by
  rw [growBy, BitVec.toNat_ofNat, Nat.mod_eq_of_lt]
  exact Nat.lt_of_le_of_lt (Nat.min_le_left ..) (by omega)

/-- GRADE_RECOMPUTE: the counters go on, the grade is that of the last 60 s, and a worse one is logged. -/
theorem exec_gradeRecompute (s : State) (port corrected flits : Nat) :
    ∃ t, exec (.gradeRecompute port corrected flits) s = .next t ∧
      let p := portOf s port
      let q := portOf t port
      q.recent = ((flits, corrected) :: p.recent).take 60
      ∧ q.grade = gradeFor (q.recent.map Prod.snd).sum (q.recent.map Prod.fst).sum
      ∧ q.flits.toNat = Nat.min (2 ^ 64 - 1) (p.flits.toNat + flits)
      ∧ (∃ a e, a + e = corrected ∧ q.crccor = BitVec.ofNat 64 (Nat.min (2 ^ 32 - 1) (p.crccor.toNat + a))
        ∧ q.feccor = BitVec.ofNat 64 (Nat.min (2 ^ 32 - 1) (p.feccor.toNat + e)))
      ∧ (2 ≤ q.grade → p.grade < q.grade →
          ∃ e ∈ t.mgmt.events, e.kind = 0x0001 ∧ e.subject = port ∧ e.detail = q.grade) := by
  obtain ⟨k, hk, hkc⟩ : ∃ k, (takeFree s).1.toNat % (corrected + 1) = k ∧ k ≤ corrected :=
    ⟨_, rfl, Nat.le_of_lt_succ (Nat.mod_lt _ (Nat.succ_pos corrected))⟩
  obtain ⟨u, hu⟩ : ∃ u, portSecond s port corrected flits = u := ⟨_, rfl⟩
  have hs : portOf u port = { portOf s port with
      flits := growBy (portOf s port).flits.toNat flits (2 ^ 64 - 1)
      crccor := growBy (portOf s port).crccor.toNat k (2 ^ 32 - 1)
      feccor := growBy (portOf s port).feccor.toNat (corrected - k) (2 ^ 32 - 1)
      recent := ((flits, corrected) :: (portOf s port).recent).take 60
      ctemp := (portOf u port).ctemp
      margin := (portOf u port).margin } := by
    rw [← hu, ← hk]
    unfold portSecond
    extract_lets a b replayed
    rw [portOf_modPort_same]
    rfl
  have hg : ∀ t, portOf t port = { portOf u port with grade := gradeOf (portOf u port) } →
      (portOf t port).recent = ((flits, corrected) :: (portOf s port).recent).take 60
      ∧ (portOf t port).grade = gradeFor ((portOf t port).recent.map Prod.snd).sum ((portOf t port).recent.map Prod.fst).sum
      ∧ (portOf t port).flits.toNat = Nat.min (2 ^ 64 - 1) ((portOf s port).flits.toNat + flits)
      ∧ ∃ a e, a + e = corrected
        ∧ (portOf t port).crccor = BitVec.ofNat 64 (Nat.min (2 ^ 32 - 1) ((portOf s port).crccor.toNat + a))
        ∧ (portOf t port).feccor = BitVec.ofNat 64 (Nat.min (2 ^ 32 - 1) ((portOf s port).feccor.toNat + e)) := by
    intro t ht
    rw [ht]
    refine ⟨by rw [hs], rfl, ?_, k, corrected - k, Nat.add_sub_cancel' hkc, by rw [hs]; rfl, by rw [hs]; rfl⟩
    rw [hs]
    exact growBy_toNat _ _
  have he : exec (.gradeRecompute port corrected flits) s = .next
      (if 2 ≤ gradeOf (portOf u port) && (portOf s port).grade < gradeOf (portOf u port) then
        logEvent (modPort u port (fun p => { p with grade := gradeOf (portOf u port) })) 0x0001 port (gradeOf (portOf u port))
      else modPort u port (fun p => { p with grade := gradeOf (portOf u port) })) := by
    rw [← hu]
    rfl
  have hmod : portOf (modPort u port (fun p => { p with grade := gradeOf (portOf u port) })) port
      = { portOf u port with grade := gradeOf (portOf u port) } := portOf_modPort_same ..
  have hlog : ∀ (t : State) k i d, portOf (logEvent t k i d) port = portOf t port := fun _ _ _ _ => rfl
  refine ⟨_, he, ?_⟩
  split
  · obtain ⟨hrec, hgr, hfl, hcnt⟩ := hg _ ((hlog _ _ _ _).trans hmod)
    refine ⟨hrec, hgr, hfl, hcnt, fun _ _ => ?_⟩
    rw [hlog, hmod]
    exact mem_logEvent ..
  next hno =>
    obtain ⟨hrec, hgr, hfl, hcnt⟩ := hg _ hmod
    refine ⟨hrec, hgr, hfl, hcnt, fun h2 hlt => ?_⟩
    rw [hmod] at h2 hlt
    exact absurd (by simpa using ⟨h2, hlt⟩) hno

/-! ### Rings -/

section
variable {s : State} {part r : Nat} {x : Ring} {w : RingWorld}

/-- RING_DESCRIPTOR_FINISH of a ring with a descriptor to finish, whose addresses are translated and reachable. -/
theorem exec_ringDescriptorFinish (hx : tabGet (partOf s part).rings r = some x)
    (hm : ringMiss s part r [(x.addr, 64, .read), (x.addr + 40, 8, .write)] = none)
    (hw : ringWaits s part r [(x.addr, 64, .read)] = false) (hc : consHeld s part r x = false)
    (hr : ringReach s part r x.addr 64 .read = true) :
    let y := ringRead s part r (addrs x.addr 64)
    let h := leNat y.1
    let a := headBase h + 32 * (headCons h % headSize h)
    headEn h = true → headErr h = 0 → x.seen = true → headCons h ≠ x.prod →
    ringMiss y.2 part r [(a, 32, .read), (a + 24, 8, .write)] = none →
    ringWaits y.2 part r [(a, 32, .read)] = false → ringReach y.2 part r a 32 .read = true →
    let z := ringRead y.2 part r (addrs a 32)
    ∀ t, serveDesc z.2 part r x h a (leNat z.1) w = .ok t → exec (.ringDescriptorFinish part r w) s = .next t := by
  intro y h a hen herr hseen hprod hmiss hwaits hreach z t ht
  change execRingDescriptorFinish part r w s = _
  have hgo : (!headEn h || headErr h != 0 || !x.seen || headCons h == x.prod) = false := by simp [hen, herr, hseen, hprod]
  have hy : ringRead s part r (addrs x.addr 64) = y := rfl
  have hh : leNat y.1 = h := rfl
  have ha : headBase h + 32 * (headCons h % headSize h) = a := rfl
  have hz : ringRead y.2 part r (addrs a 32) = z := rfl
  simp only [execRingDescriptorFinish, hx, hm, hw, hc, hr, hy, hh, ha, hgo, hmiss, hwaits, hreach, hz, ht, Bool.or_self,
    Bool.not_true, Bool.false_eq_true, if_false]

/-- What a descriptor that is in order is served with. -/
theorem serveDesc_cases (s : State) (part r : Nat) (w : RingWorld) (h a d : Nat) (hd : descReserved (headKind h) d = false)
    (hb : x.bad = false) :
    (w.status ≠ 0 → w.status ≠ 4 → serveDesc s part r x h a d w = .ok (closeDesc s part r x h a 3 none))
      ∧ ((w.status = 0 ∨ w.status = 4) →
        let m := descMoves (headKind h) d w.len
        let b := d % 2 ^ 64
        ringMiss s part r [(b, m.1, .read), (b, m.2, .write)] = none →
        ringWaits s part r [(b, m.1, .read), (b, m.2, .write)] = false → ringReach s part r b m.1 .read = true →
        ringReach s part r b m.2 .write = true →
        ∃ u, serveDesc s part r x h a d w = .ok (closeDesc u part r x h a
          (if headKind h = 1 ∧ d / 2 ^ 192 % 2 ^ 32 < w.len then 4 else 0) (if headKind h = 1 then some w.len else none))) := by
  refine ⟨fun h0 h4 => ?_, fun hst => ?_⟩
  · have hs : (w.status != 0 && w.status != 4) = true := by simp [h0, h4]
    simp only [serveDesc, hd, hb, hs]
    rfl
  · intro m b hm hw hr1 hr2
    have hs : (w.status != 0 && w.status != 4) = false := by
      obtain h | h := hst <;> simp [h]
    have hbuf : bits d 63 0 = b := by rw [bits_eq, Nat.pow_zero, Nat.div_one]
    have hcut : frameCut (headKind h) d w.len = true ↔ headKind h = 1 ∧ d / 2 ^ 192 % 2 ^ 32 < w.len := by
      rw [frameCut, Bool.and_eq_true, beq_iff_eq, decide_eq_true_eq, bits_eq]
    simp only [serveDesc, hd, hb, hs, hbuf]
    have hreach : (!ringReach s part r b (descMoves (headKind h) d w.len).1 .read
        || !ringReach s part r b (descMoves (headKind h) d w.len).2 .write) = false := by
      rw [hr1, hr2]
      rfl
    have hready : ringWaits s part r [(b, (descMoves (headKind h) d w.len).1, .read),
        (b, (descMoves (headKind h) d w.len).2, .write)] = false := hw
    rw [hm]
    simp only [hready, hreach, hcut, Bool.false_eq_true, if_false]
    exact ⟨_, rfl⟩

end

/-- Settles O58: the conditions of each event choose its branch; a read or write from outside is one of memory's bytes. -/
theorem portsAndOutside : Obligations.PortsAndOutside := by
  intro s
  refine ⟨fun pa n h => ?_, fun pa bs hm h => ?_, fun pa a h => ?_, fun peer pa a hr hw => ?_, fun peer pa a hr hn => ?_,
    fun peer pa a hr => ?_, fun peer pa a hr => ?_, fun port window hp hu hn h1 h2 => ?_, fun port hw => ⟨?_, ?_⟩,
    fun port hp hu => ?_, fun port corrected flits => exec_gradeRecompute s port corrected flits,
    fun corrected flits g hg => gradeFor_eq_iff corrected flits hg, fun part r => rfl, rfl,
    fun part r x w hx hm hw hc hr => ?_⟩
  · obtain ⟨ho, hmem⟩ := outsideAccess_read s pa n
    exact ⟨_, by rw [exec_hostMemoryAccess, if_pos ⟨h, rfl⟩], ho, hmem⟩
  · exact ⟨_, by rw [exec_hostMemoryAccess, if_pos ⟨h, rfl⟩], outsideAccess_write hm pa bs⟩
  · rw [exec_hostMemoryAccess, if_neg]
    rintro ⟨hle, hc⟩
    obtain h | h := h
    · omega
    · exact Bool.false_ne_true (h.symm.trans hc)
  · change execPeerAccessArrival peer pa a s = _
    simp only [execPeerAccessArrival, hr]
    rw [if_pos (by simpa using hw)]
  · change execPeerAccessArrival peer pa a s = _
    simp only [execPeerAccessArrival, hr]
    rw [if_neg (by simp [not_inWindows_of_reject hr hn])]
  · change execPeerAccessArrival peer pa a s = _
    simp only [execPeerAccessArrival, hr]
  · change execPeerAccessArrival peer pa a s = _
    simp only [execPeerAccessArrival, hr]
  · exact congrArg _ (if_pos (by simp [hp, hu, hn, h1, h2]))
  · exact congrArg _ (if_pos hw)
  · exact congrArg _ (if_pos hw)
  · exact congrArg _ (if_pos (by simp [hp, hu]))
  · intro y h a hen herr hseen hprod hmiss hwaits hreach z
    exact ⟨exec_ringDescriptorFinish hx hm hw hc hr hen herr hseen hprod hmiss hwaits hreach,
      fun d hd hb => serveDesc_cases s part r w h a d hd hb⟩

end Sys2Proof.Machine
end

/-! ## Power-on and start-up (O59) -/

section
open Sys2Proof Sys2Proof.Machine Sys2Proof.Claims

namespace Sys2Proof.Machine

/-! ### Stages -/

/-- The stage and the ERRCODE of a BOOTSTAT that is set. -/
theorem bootWord_fields {stage err : Nat} (hs : stage < 256) (he : err < 65536) :
    bits (bootWord stage err).toNat 7 0 = stage ∧ bits (bootWord stage err).toNat 31 16 = err := by
  have hb : (bootWord stage err).toNat = stage + err * 65536 := by
    rw [bootWord, BitVec.toNat_ofNat]
    omega
  rw [hb, bits_eq, bits_eq]
  omega

/-- A state at a stage with an ERRCODE. -/
theorem setStage_fields (s : State) {stage err : Nat} (hs : stage < 256) (he : err < 65536) :
    stageOf (setStage s stage err) = stage ∧ errOf (setStage s stage err) = err := bootWord_fields hs he

/-- An ERRCODE has 16 bits. -/
theorem errOf_lt (s : State) : errOf s < 65536 := by
  rw [errOf, bits_eq]
  exact Nat.mod_lt _ (by decide)

/-- POWER_ON: what is not volatile stays, and nothing else is there. -/
theorem exec_powerOn (s : State) (ok : Bool) : ∃ t, exec (.powerOn ok) s = .next t ∧ t.power = true ∧ stageOf t = 0
    ∧ errOf t = (if ok then 0 else 1) ∧ t.blocks = [] ∧ t.grids = [] ∧ t.mem = [] ∧ t.mgmt.triprec = s.mgmt.triprec
    ∧ t.mgmt.images = s.mgmt.images ∧ t.mgmt.stored = s.mgmt.stored ∧ t.mgmt.configured = [] := by
  obtain ⟨h0, he⟩ := bootWord_fields (stage := 0) (err := if ok then 0 else 1) (by omega) (by split <;> omega)
  exact ⟨powerUp s ok, rfl, rfl, h0, he, rfl, rfl, rfl, rfl, rfl, rfl, rfl⟩

/-! ### The core map -/

/-- A die keeps the clusters that were found bad. -/
def KeepsBad (s t : State) : Prop := ∀ d p, p ∈ (dieOf s d).bad → p ∈ (dieOf t d).bad

/-- A fold of steps that keep the bad clusters. -/
theorem keepsBad_foldl {α : Type} {f : State → α → State} (h : ∀ s a, KeepsBad s (f s a)) (l : List α) (s : State) :
    KeepsBad s (l.foldl f s) := by
  induction l generalizing s with
  | nil => exact fun _ _ hp => hp
  | cons a l ih => exact fun d p hp => ih _ d p (h s a d p hp)

/-- Another die is not changed. -/
theorem dieOf_modDie_other (s : State) {d e : Nat} (f : Die → Die) (h : e ≠ d) : dieOf (modDie s d f) e = dieOf s e := by
  rw [dieOf, modDie, tabGet_tabPut_other _ _ h, dieOf]

/-- A cluster that is marked bad is bad, and so is what was bad before. -/
theorem markBad_bad (s : State) (q : Nat) : q ∈ (dieOf (markBad s q) (q / 42)).bad ∧ KeepsBad s (markBad s q) := by
  constructor
  · rw [markBad, dieOf_modDie_same]
    dsimp only
    split
    · exact List.contains_iff_mem.mp ‹_›
    · exact List.mem_append_right _ (List.mem_singleton_self _)
  · intro d p hp
    by_cases hd : d = q / 42
    · subst hd
      rw [markBad, dieOf_modDie_same]
      dsimp only
      split
      · exact hp
      · exact List.mem_append_left _ hp
    · rwa [markBad, dieOf_modDie_other _ _ hd]

/-- Marking clusters bad, one after another, marks each. -/
theorem foldl_markBad_bad {p : Nat} : ∀ (l : List Nat) (s : State), p ∈ l → p ∈ (dieOf (l.foldl markBad s) (p / 42)).bad
  | [], _, h => absurd h List.not_mem_nil
  | q :: l, s, h => by
    obtain rfl | h := List.mem_cons.mp h
    · exact keepsBad_foldl (fun s q => (markBad_bad s q).2) l _ _ _ (markBad_bad s p).1
    · exact foldl_markBad_bad l _ h

/-- Carrying clusters elsewhere, and keeping their maps, leaves the dies. -/
theorem dies_foldl {α : Type} {f : State → α → State} (h : ∀ s a, (f s a).dies = s.dies) (l : List α) (s : State) :
    (l.foldl f s).dies = s.dies := by
  induction l generalizing s with
  | nil => rfl
  | cons a l ih => exact (ih _).trans (h s a)

/-- The dies of a state whose clusters are carried elsewhere. -/
theorem dies_carryCluster (s : State) (c p : Nat) : (carryCluster s c p).dies = s.dies := by
  refine dies_foldl ?_ _ s
  exact fun _ _ => rfl

/-- The dies of a state whose maps are kept. -/
theorem dies_keepCluster (s : State) (c : Nat) : (keepCluster s c).dies = s.dies := by
  refine dies_foldl ?_ _ s
  exact fun _ _ => rfl

/-- A state with the same dies keeps the bad clusters. -/
theorem keepsBad_of_dies {s t : State} (h : t.dies = s.dies) : KeepsBad s t := fun d p hp => by
  rwa [dieOf, h, ← dieOf]

/-- A cluster that a spare takes over. -/
theorem keepsBad_avoidFailed (s : State) (c : Nat) : KeepsBad s (avoidFailed s c) := by
  unfold avoidFailed
  split
  · exact fun _ _ hp => hp
  · split
    next q _ =>
      intro d p hp
      have hk := keepsBad_of_dies (dies_keepCluster s c) d p hp
      have hm := (markBad_bad (keepCluster s c) (physCluster s c)).2 d p hk
      exact keepsBad_of_dies (dies_carryCluster _ c q) d p hm
    · exact fun _ _ hp => hp

/-- The map that start-up takes leaves the dies. -/
theorem dies_takeMap (s : State) (ms : List (Nat × Nat)) : (takeMap s ms).dies = s.dies := by
  unfold takeMap
  split
  · have hk : (ms.foldl (fun s e => keepCluster s e.1) s).dies = s.dies := by
      refine dies_foldl ?_ ms s
      exact fun s e => dies_keepCluster s e.1
    refine Eq.trans ?_ hk
    refine dies_foldl ?_ ms _
    exact fun s e => dies_carryCluster s e.1 e.2
  · rfl

/-- The clusters that the core test has failed are bad. -/
theorem buildMap_bad (s : State) (w : StartupWorld) {p : Nat} (hw : p ∈ w.failed) (hp : p < 168) :
    p ∈ (dieOf (buildMap s w) (p / 42)).bad := by
  have hm := foldl_markBad_bad (w.failed.filter (fun p => p < 168)) s (List.mem_filter.mpr ⟨hw, decide_eq_true hp⟩)
  exact keepsBad_foldl keepsBad_avoidFailed _ _ _ _ (keepsBad_of_dies (dies_takeMap _ w.maps) _ _ hm)

/-- The cores of a cluster that is carried elsewhere, one after another. -/
theorem carry_cores (s : State) (c p n : Nat) :
    let t := (List.range n).foldl (fun s i => setCore s (4 * c + i) (coreOn s.mgmt (4 * p + i))) s
    t.mgmt = s.mgmt ∧ (∀ i, i < n → coreOf t (4 * c + i) = coreOn s.mgmt (4 * p + i))
      ∧ ∀ k, (∀ i, i < n → k ≠ 4 * c + i) → coreOf t k = coreOf s k := by
  induction n with
  | zero => exact ⟨rfl, fun i hi => absurd hi (Nat.not_lt_zero i), fun _ _ => rfl⟩
  | succ n ih =>
    obtain ⟨hm, hin, hout⟩ := ih
    rw [List.range_succ, List.foldl_append, List.foldl_cons, List.foldl_nil, hm]
    refine ⟨hm, fun i hi => ?_, fun k hk => ?_⟩
    · by_cases he : i = n
      · rw [he, coreOf_setCore_same]
      · rw [coreOf, setCore, tabGet_tabPut_other _ _ (by omega), ← coreOf]
        exact hin i (by omega)
    · rw [coreOf, setCore, tabGet_tabPut_other _ _ (hk n (by omega)), ← coreOf]
      exact hout k fun i hi => hk i (by omega)

/-- A cluster among those of a map is carried as the map says, where the map says it once. -/
theorem foldl_carry {e : Nat × Nat} {i : Nat} (hi : i < 4) : ∀ (l : List (Nat × Nat)) (s : State),
    (∀ x ∈ l, x.1 = e.1 → x.2 = e.2) → (e ∈ l ∨ coreOf s (4 * e.1 + i) = coreOn s.mgmt (4 * e.2 + i)) →
    (l.foldl (fun s e => carryCluster s e.1 e.2) s).mgmt = s.mgmt
      ∧ coreOf (l.foldl (fun s e => carryCluster s e.1 e.2) s) (4 * e.1 + i) = coreOn s.mgmt (4 * e.2 + i)
  | [], s, _, h => ⟨rfl, h.resolve_left List.not_mem_nil⟩
  | x :: l, s, hl, h => by
    obtain ⟨u, hu, hm, hin, hout⟩ : ∃ u, carryCluster s x.1 x.2 = u ∧ u.mgmt = s.mgmt
        ∧ (∀ i, i < 4 → coreOf u (4 * x.1 + i) = coreOn s.mgmt (4 * x.2 + i))
        ∧ ∀ k, (∀ i, i < 4 → k ≠ 4 * x.1 + i) → coreOf u k = coreOf s k := ⟨_, rfl, carry_cores s x.1 x.2 4⟩
    have hright : e ∈ l ∨ coreOf u (4 * e.1 + i) = coreOn u.mgmt (4 * e.2 + i) := by
      rw [hm]
      by_cases hx : x.1 = e.1
      · rw [← hx, ← hl x List.mem_cons_self hx]
        exact Or.inr (hin i hi)
      · obtain h | h := h
        · exact Or.inl ((List.mem_cons.mp h).resolve_left fun he => hx (he ▸ rfl))
        · exact Or.inr ((hout _ fun j hj => by omega).trans h)
    obtain ⟨hg, hc⟩ := foldl_carry hi l u (fun y hy => hl y (List.mem_cons_of_mem _ hy)) hright
    rw [List.foldl_cons, hu, ← hm]
    exact ⟨hg, hc⟩

/-- The logical core map that start-up takes. -/
theorem takeMap_cases (s : State) (ms : List (Nat × Nat)) : (mapsOk s ms = false → takeMap s ms = s)
    ∧ (mapsOk s ms = true → ∀ e ∈ ms, ∀ i, i < 4 →
      coreOf (takeMap s ms) (4 * e.1 + i) = coreOn (takeMap s ms).mgmt (4 * e.2 + i)) := by
  refine ⟨fun h => if_neg (by simp [h]), fun h e he i hi => ?_⟩
  have hone : ∀ x ∈ ms, x.1 = e.1 → x.2 = e.2 := fun x hx h1 => by
    have hall := List.all_eq_true.mp h e he
    simp only [Bool.and_eq_true, List.all_eq_true] at hall
    obtain ⟨⟨-, hpair⟩, -⟩ := hall
    simpa [h1] using hpair x hx
  obtain ⟨hm, hc⟩ := foldl_carry hi ms (ms.foldl (fun s e => keepCluster s e.1) s) hone (Or.inl he)
  rw [takeMap, if_pos h, hm]
  exact hc

/-- A bad cluster's logical cluster is taken over by a spare that is not bad and carries nothing. -/
theorem avoidFailed_spare {s : State} {c p : Nat} (hb : physCluster s c ∈ (dieOf s (c / 40)).bad)
    (hp : spareOf s (c / 40) = some p) : avoidFailed s c = moveToSpare s c p ∧ p ∉ (dieOf s (c / 40)).bad
      ∧ ∀ i, i < 40 → physCluster s (40 * (c / 40) + i) ≠ p := by
  have hs := List.find?_some hp
  refine ⟨?_, ?_, ?_⟩
  · rw [avoidFailed, if_neg (by simpa using hb), hp]
  · simp at hs
    exact hs.1
  · simp at hs
    exact hs.2

/-- A core that nothing has touched. -/
theorem coreOn_maps (m : Mgmt) (p : Nat) : (coreOn m p).phys = p
    ∧ (coreOn m p).mapA = ((tabGet m.maps p).map Prod.fst).getD (Config.fuseMap p 0)
    ∧ (coreOn m p).mapB = ((tabGet m.maps p).map Prod.snd).getD (Config.fuseMap p 1) := by
  refine ⟨rfl, ?_, ?_⟩
  · simp only [coreOn, idleMap]
    cases tabGet m.maps p <;> rfl
  · simp only [coreOn, idleMap]
    cases tabGet m.maps p <;> rfl

/-! ### The configuration -/

/-- Another partition is not changed. -/
theorem partOf_modPart_other (s : State) {p q : Nat} (f : Part → Part) (h : q ≠ p) : partOf (modPart s p f) q = partOf s q := by
  rw [partOf, modPart, tabGet_tabPut_other _ _ h, partOf]

/-- Configuring a partition leaves the management block, and the other partitions. -/
theorem configure_frame (s : State) (p : Nat) : (configure s p).mgmt = s.mgmt
    ∧ ∀ q, q ≠ p → partOf (configure s p) q = partOf s q := by
  unfold configure
  split
  · exact ⟨rfl, fun q hq => partOf_modPart_other _ _ hq⟩
  · exact ⟨rfl, fun _ _ => rfl⟩

/-- The partitions among some that are configured take the records that are set for them. -/
theorem foldl_configure {p : Nat} {q : List DWord} : ∀ (l : List Nat) (s : State), nextRecord s p = some q →
    (p ∈ l ∨ (partOf s p).record = q ∧ (partOf s p).enabled = recEnabled q) →
    (partOf (l.foldl configure s) p).record = q ∧ (partOf (l.foldl configure s) p).enabled = recEnabled q
  | [], _, _, h => h.resolve_left List.not_mem_nil
  | k :: l, s, hq, h => by
    obtain ⟨hm, hother⟩ := configure_frame s k
    have hq' : nextRecord (configure s k) p = some q := by rw [nextRecord, hm, ← nextRecord, hq]
    refine foldl_configure l _ hq' ?_
    by_cases hk : p = k
    · subst hk
      exact Or.inr (configure_same hq)
    · rw [hother p hk]
      exact h.imp_left fun hm => (List.mem_cons.mp hm).resolve_left hk

/-! ### STARTUP_STAGE_ADVANCE -/

/-- Stage 0: the firmware's signatures are checked. -/
theorem exec_startup_stage0 {s : State} (w : StartupWorld) (he : errOf s = 0) (hs : stageOf s = 0) :
    exec (.startupStageAdvance w) s = .next (if w.fault = 1 then setStage s 0 1 else setStage s 1 0) := by
  change execStartupStageAdvance w s = _
  simp only [execStartupStageAdvance, he, hs]
  rfl

/-- Stage 1: the core map is built; a fault stops start-up, or warns. -/
theorem exec_startup_stage1 {s : State} (w : StartupWorld) (he : errOf s = 0) (hs : stageOf s = 1) :
    let t := buildMap s w
    ((w.fault = 0x0101 ∨ w.fault ≠ 0x0101 ∧ fewClusters t = true) →
        exec (.startupStageAdvance w) s = .next (setStage t 1 (if w.fault = 0x0101 then 0x0101 else 0x0102)))
      ∧ (w.fault ≠ 0x0101 → fewClusters t = false → exec (.startupStageAdvance w) s
        = .next (setStage ((List.range 8).foldl configure t) 2 (if w.fault = 0x0103 then 0x0103 else 0))) := by
  intro t
  have hex : exec (.startupStageAdvance w) s
      = .next (if stageOneFault t w.fault = 0x0101 || stageOneFault t w.fault = 0x0102 then setStage t 1 (stageOneFault t w.fault)
        else setStage (configureAll t) 2 (if stageOneFault t w.fault = 0 then 0 else stageOneFault t w.fault)) := by
    change execStartupStageAdvance w s = _
    simp only [execStartupStageAdvance, he, hs]
    rfl
  rw [hex]
  constructor
  · intro h
    have hf : stageOneFault t w.fault = if w.fault = 0x0101 then 0x0101 else 0x0102 := by
      obtain h | ⟨hne, hfew⟩ := h
      · simp [stageOneFault, h]
      · simp [stageOneFault, hne, hfew]
    have hstop : (stageOneFault t w.fault = 0x0101 || stageOneFault t w.fault = 0x0102) = true := by
      rw [hf]
      split <;> rfl
    rw [if_pos hstop, hf]
  · intro hne hfew
    have hf : stageOneFault t w.fault = if w.fault = 0x0103 then 0x0103 else 0 := by simp [stageOneFault, hne, hfew]
    have hgo : ¬ (stageOneFault t w.fault = 0x0101 || stageOneFault t w.fault = 0x0102) = true := by
      rw [hf]
      split <;> simp
    rw [if_neg hgo, hf]
    split <;> rfl

/-- Stage 2: the partitions that are enabled start. -/
theorem exec_startup_stage2 {s : State} (w : StartupWorld) (he : errOf s = 0 ∨ errOf s = 0x0103) (hs : stageOf s = 2) :
    ∃ t, exec (.startupStageAdvance w) s = .next t ∧ stageOf t = 3 ∧ errOf t = errOf s
      ∧ ∀ e ∈ t.parts, e.2.running = e.2.enabled := by
  have hex : exec (.startupStageAdvance w) s = .next (setStage (startPartitions s) 3 (errOf s)) := by
    change execStartupStageAdvance w s = _
    have hgo : ¬ (errOf s != 0 && errOf s != 0x0103) = true := by
      obtain h | h := he <;> simp [h]
    simp only [execStartupStageAdvance, hs, hgo]
    rfl
  obtain ⟨hst, herr⟩ := setStage_fields (startPartitions s) (stage := 3) (by omega) (errOf_lt s)
  refine ⟨_, hex, hst, herr, fun e hm => ?_⟩
  obtain ⟨x, -, rfl⟩ := List.mem_map.mp hm
  rfl

end Sys2Proof.Machine
end

/-! ## Sensors, power and tests (O59) -/

section
open Sys2Proof Sys2Proof.Machine Sys2Proof.Claims

namespace Sys2Proof.Machine

/-! ### Trips, sensors and droops -/

/-- HARDWARE_TRIP powers the module down, with its cause. -/
theorem exec_hardwareTrip {s : State} {cause die reading : Nat} (hp : s.power = true)
    (h : cause = 1 ∧ 1100 ≤ reading ∨ cause = 2 ∧ reading < 460 ∨ cause = 3 ∧ 600 < reading) :
    ∃ t, exec (.hardwareTrip cause die reading) s = .next t ∧ t.power = false
      ∧ t.mgmt.triprec = BitVec.ofNat 64 (cause + (if cause = 1 then die % 256 else 0xFF) * 256 + reading % 65536 * 65536) := by
  refine ⟨_, congrArg Host.Outcome.next (if_pos ?_), rfl, rfl⟩
  simpa [hp, or_assoc] using h

/-- The hang clock of a cord after a sample of its core (R318). -/
theorem cordOf_runClocks {s : State} {b c : Nat} {x : Block} {y : Cord} (core : Nat) (hx : s.blocks[b]? = some x)
    (hy : cordOf s b c = some y) : cordOf (runClocks s core) b c = some { y with
      idle := if x.core = core ∧ clockStands s b c x y = false then y.idle + 1 else y.idle } := by
  have hc : x.cords[c]? = some y := by simpa [cordOf, hx] using hy
  rw [cordOf, runClocks]
  simp only [List.getElem?_mapIdx, hx, Option.map_some, Option.bind_some]
  by_cases hcore : x.core = core
  · rw [if_pos (by simpa using hcore)]
    simp only [List.getElem?_mapIdx, hc, Option.map_some]
    cases clockStands s b c x y <;> simp [hcore]
  · rw [if_neg (by simpa using hcore), hc]
    simp [hcore]

/-- Avoidance after a reading: it begins at 95 °C and ends at 89 °C without a droop in 4 ms (R295). -/
theorem sampleCore_avoided (tj : Int) (k : CoreSt) : (sampleCore tj k).temp = tj
    ∧ (k.avoided = false → 950 ≤ tj → (sampleCore tj k).avoided = true)
    ∧ (k.avoided = true → 890 < tj → (sampleCore tj k).avoided = true)
    ∧ (k.avoided = true → tj ≤ 890 → k.dtimes = [] → (sampleCore tj k).avoided = false) := by
  refine ⟨rfl, fun ha ht => ?_, fun ha ht => ?_, fun ha ht hd => ?_⟩
  · simp [sampleCore, avoidAfter, ha, ht]
  · simp [sampleCore, avoidAfter, ha, Int.not_le.mpr ht]
  · simp [sampleCore, avoidAfter, ha, ht, hd]

/-- SENSOR_SAMPLE. -/
theorem exec_sensorSample (s : State) (core : Nat) (tj : Int) (p : PowerSample) :
    ∃ t, exec (.sensorSample core tj p) s = .next t ∧ (coreOf t core).temp = tj
      ∧ ((coreOf s core).avoided = false → 950 ≤ tj → (coreOf t core).avoided = true)
      ∧ ((coreOf s core).avoided = true → 890 < tj → (coreOf t core).avoided = true)
      ∧ ((coreOf s core).avoided = true → tj ≤ 890 → (coreOf s core).dtimes = [] → (coreOf t core).avoided = false)
      ∧ (dieOf t (dieOfCore core)).pmeas = p.pmeas % 65536 ∧ t.mem = s.mem
      ∧ ∀ b c x y, s.blocks[b]? = some x → cordOf s b c = some y → cordOf t b c = some { y with
          idle := if x.core = core ∧ clockStands s b c x y = false then y.idle + 1 else y.idle } := by
  obtain ⟨t, ht⟩ : ∃ t, modDie (modCore (runClocks s core) core (sampleCore tj)) (dieOfCore core) (fun d => { d with
    pmeas := p.pmeas % 65536, qpeak := p.qpeak % 256, vcore := p.vcore % 65536 }) = t := ⟨_, rfl⟩
  have hcore : coreOf t core = sampleCore tj (coreOf s core) := by
    rw [← ht]
    exact coreOf_modCore_same ..
  obtain ⟨htemp, hbegin, hgo, hend⟩ := sampleCore_avoided tj (coreOf s core)
  refine ⟨t, congrArg Host.Outcome.next ht, ?_⟩
  rw [hcore]
  refine ⟨htemp, hbegin, hgo, hend, ?_, by rw [← ht]; rfl, fun b c x y hx hy => ?_⟩
  · rw [← ht, dieOf_modDie_same]
  · have hb : t.blocks = (runClocks s core).blocks := by rw [← ht]; rfl
    exact (cordOf_congr hb b c).trans (cordOf_runClocks core hx hy)

/-- DROOP_EVENT. -/
theorem exec_droopEvent (s : State) (core : Nat) : ∃ t, exec (.droopEvent core) s = .next t
    ∧ (coreOf t core).droops = Nat.min ((coreOf s core).droops + 1) 0xFFFFFFFF
    ∧ (2 ≤ ((coreOf s core).dtimes.filter (fun a => a ≤ 100)).length → (coreOf t core).avoided = true) := by
  refine ⟨_, rfl, by rw [coreOf_modCore_same], fun h => ?_⟩
  rw [coreOf_modCore_same]
  have h3 : 3 ≤ ((0 :: (coreOf s core).dtimes).filter (fun a => a ≤ 100)).length := by
    rw [List.filter_cons_of_pos (by decide), List.length_cons]
    omega
  simp only [threeDroops, h3, decide_true, Bool.or_true]

/-! ### The cap and the clock -/

/-- What a step for every die leaves of a die: it takes the step once, in a state with the same management block and with
that die as it was. -/
theorem dieOf_foldl {Q : State → Prop} {g : State → Nat → State} (ho : ∀ s d e, e ≠ d → dieOf (g s d) e = dieOf s e)
    (hq : ∀ s d, Q s → Q (g s d)) {d : Nat} : ∀ (l : List Nat) (s : State), Q s → l.Nodup → d ∈ l →
    ∃ t, Q t ∧ dieOf t d = dieOf s d ∧ dieOf (l.foldl g s) d = dieOf (g t d) d
  | [], _, _, _, h => absurd h List.not_mem_nil
  | k :: l, s, hs, hn, h => by
    obtain ⟨hk, hn⟩ := List.nodup_cons.mp hn
    have hrest : ∀ (l : List Nat) (s : State), d ∉ l → dieOf (l.foldl g s) d = dieOf s d := by
      intro l
      induction l with
      | nil => exact fun _ _ => rfl
      | cons j l ih =>
        intro s hd
        obtain ⟨hj, hl⟩ := not_or.mp (fun hm => hd (List.mem_cons.mpr hm))
        exact (ih _ hl).trans (ho s j d hj)
    by_cases hd : d = k
    · subst hd
      exact ⟨s, hs, rfl, hrest l _ hk⟩
    · obtain ⟨t, hqt, htd, ht⟩ := dieOf_foldl ho hq l (g s k) (hq s k hs) hn ((List.mem_cons.mp h).resolve_left hd)
      exact ⟨t, hqt, htd.trans (ho s k d hd), ht⟩

/-- Steps that leave memory leave it together. -/
theorem mem_foldl {α : Type} {f : State → α → State} (h : ∀ s a, (f s a).mem = s.mem) (l : List α) (s : State) :
    (l.foldl f s).mem = s.mem := by
  induction l generalizing s with
  | nil => rfl
  | cons a l ih => exact (ih _).trans (h s a)

/-- The cap of a die (R392). -/
theorem capOf_cases (m : Mgmt) (free : DWord) (x : Die) : (m.fluid = false → capOf m free x = Nat.min 5200 x.hostcap)
    ∧ (m.fluid = true → x.qpeak ≠ 0 →
      capOf m free x = Nat.min (Nat.min 5200 x.hostcap) (fluidLimit (chfAt m.inTsat m.inPoints) x))
    ∧ (m.fluid = true → x.qpeak = 0 → capOf m free x ≤ Nat.min 5200 x.hostcap) := by
  refine ⟨fun hf => if_pos (by simp [hf]), fun hf hq => ?_, fun hf hq => ?_⟩
  · rw [capOf, if_neg (by simp [hf]), if_neg hq, hostLimit, fluidPower, fluidLimit]
    rw [Nat.mul_comm x.pmeas 8, Nat.mul_right_comm]
  · rw [capOf, if_neg (by simp [hf]), if_pos hq]
    exact Nat.min_le_left ..

/-- POWER_CAP_COMPUTE. -/
theorem exec_powerCapCompute (s : State) : ∃ t, exec .powerCapCompute s = .next t ∧ t.mem = s.mem
    ∧ ∀ d, d < 4 → let x := dieOf s d
      (s.mgmt.fluid = false → (dieOf t d).capeff = Nat.min 5200 x.hostcap)
      ∧ (s.mgmt.fluid = true → x.qpeak ≠ 0 →
        (dieOf t d).capeff = Nat.min (Nat.min 5200 x.hostcap) (fluidLimit (chfAt s.mgmt.inTsat s.mgmt.inPoints) x))
      ∧ (s.mgmt.fluid = true → x.qpeak = 0 → (dieOf t d).capeff ≤ Nat.min 5200 x.hostcap) := by
  have hmem : ((List.range 4).foldl capDie s).mem = s.mem := by
    refine mem_foldl ?_ _ s
    exact fun _ _ => rfl
  refine ⟨_, rfl, hmem, fun d hd => ?_⟩
  obtain ⟨t, hm, htd, ht⟩ := dieOf_foldl (Q := fun t => t.mgmt = s.mgmt) (g := capDie)
    (fun s d e h => dieOf_modDie_other _ _ h) (fun _ _ h => h) (List.range 4) s rfl List.nodup_range (List.mem_range.mpr hd)
  have hcap : (dieOf ((List.range 4).foldl capDie s) d).capeff = capOf s.mgmt (takeFree t).1 (dieOf s d) := by
    rw [ht, capDie, dieOf_modDie_same, hm]
    change capOf s.mgmt _ (dieOf t d) = _
    rw [htd]
  intro x
  rw [hcap]
  exact capOf_cases s.mgmt _ x

/-- The critical heat flux between the points of a table (R392). -/
theorem chfAt_cases (t : Int) (p q : Int × Nat) (rest : List (Int × Nat)) : chfAt t [p] = (p.2, 1)
    ∧ (t ≤ p.1 → chfAt t (p :: q :: rest) = (p.2, 1))
    ∧ (p.1 < t → t ≤ q.1 → let v := chfAt t (p :: q :: rest)
        v.2 ≠ 0 ∧ (v.1 : Int) * (q.1 - p.1) = v.2 * (p.2 * (q.1 - t) + q.2 * (t - p.1)))
    ∧ (p.1 < t → q.1 < t → chfAt t (p :: q :: rest) = chfAt t (q :: rest)) := by
  refine ⟨rfl, fun h => by rw [chfAt, if_pos h], fun h1 h2 => ?_,
    fun h1 h2 => by rw [chfAt, if_neg (by omega), if_neg (by omega)]⟩
  rw [chfAt, if_neg (by omega), if_pos h2]
  dsimp only
  refine ⟨by omega, ?_⟩
  have hd : ((q.1 - p.1).toNat : Int) = q.1 - p.1 := Int.toNat_of_nonneg (by omega)
  have hx : ((t - p.1).toNat : Int) = t - p.1 := Int.toNat_of_nonneg (by omega)
  rw [Nat.cast_add, Nat.cast_mul, Nat.cast_mul, Nat.cast_sub (by omega), hd, hx]
  ring

/-- A die after a window of its clock (R393). -/
theorem clockWindow_fclk (d : Die) : (d.capeff < d.pmeas → (clockWindow d).fclk = Nat.max 12 (d.fclk - 1))
    ∧ (d.pmeas ≤ d.capeff → 95 * d.capeff ≤ d.pmeas * 100 → (clockWindow d).fclk = d.fclk)
    ∧ (d.pmeas ≤ d.capeff → d.pmeas * 100 < 95 * d.capeff → 9 ≤ d.underMs →
        (clockWindow d).fclk = Nat.min 24 (d.fclk + 1)) :=
  ⟨fun h => by rw [clockWindow, if_pos h], fun h1 h2 => by rw [clockWindow, if_neg (by omega), if_neg (by omega)],
    fun h1 h2 h3 => by rw [clockWindow, if_neg (by omega), if_pos h2, if_pos h3]⟩

/-- CLOCK_STEP. -/
theorem exec_clockStep (s : State) : ∃ t, exec .clockStep s = .next t ∧ t.mem = s.mem ∧ ∀ d, d < 4 →
    ((dieOf s d).capeff < (dieOf s d).pmeas → (dieOf t d).fclk = Nat.max 12 ((dieOf s d).fclk - 1))
    ∧ ((dieOf s d).pmeas ≤ (dieOf s d).capeff → 95 * (dieOf s d).capeff ≤ (dieOf s d).pmeas * 100 →
        (dieOf t d).fclk = (dieOf s d).fclk)
    ∧ ((dieOf s d).pmeas ≤ (dieOf s d).capeff → (dieOf s d).pmeas * 100 < 95 * (dieOf s d).capeff →
        9 ≤ (dieOf s d).underMs → (dieOf t d).fclk = Nat.min 24 ((dieOf s d).fclk + 1)) := by
  have hmem : ((List.range 4).foldl (fun s d => modDie s d clockWindow) s).mem = s.mem := by
    refine mem_foldl ?_ _ s
    exact fun _ _ => rfl
  refine ⟨_, rfl, hmem, fun d hd => ?_⟩
  obtain ⟨t, -, htd, ht⟩ := dieOf_foldl (Q := fun _ => True) (g := fun s d => modDie s d clockWindow)
    (fun s d e h => dieOf_modDie_other _ _ h) (fun _ _ h => h) (List.range 4) s trivial List.nodup_range
    (List.mem_range.mpr hd)
  rw [ht, dieOf_modDie_same, htd]
  exact clockWindow_fclk (dieOf s d)

/-! ### The event of a die above its cap -/

/-- An event stands in a log where at most `r` further events cannot push it out. -/
def Stays (r : Nat) (e : Event) (l : List Event) : Prop := ∃ i : Nat, l[i]? = some e ∧ (r ≤ i ∨ l.length + r ≤ 4096 + i)

/-- An event that is pushed stays for 4,095 more. -/
theorem stays_push (m : Mgmt) (e : Event) {r : Nat} (hr : r < 4096) : Stays r e (m.push e).events := by
  unfold Mgmt.push
  split
  · refine ⟨m.events.length, by simp, ?_⟩
    simp only [List.length_append, List.length_singleton]
    omega
  · refine ⟨(m.events.drop 1).length, by simp, ?_⟩
    simp only [List.length_append, List.length_drop, List.length_singleton]
    omega

/-- Another event is pushed behind it. -/
theorem Stays.push {m : Mgmt} {e : Event} {r : Nat} (h : Stays (r + 1) e m.events) (f : Event) : Stays r e (m.push f).events := by
  obtain ⟨i, hi, hr⟩ := h
  have hlt : i < m.events.length := (List.getElem?_eq_some_iff.mp hi).1
  unfold Mgmt.push
  split
  · refine ⟨i, by rw [List.getElem?_append_left hlt, hi], ?_⟩
    simp only [List.length_append, List.length_singleton]
    omega
  · refine ⟨i - 1, ?_, Or.inl (by omega)⟩
    rw [List.getElem?_append_left (by rw [List.length_drop]; omega), List.getElem?_drop, show 1 + (i - 1) = i by omega, hi]

/-- A die above its cap raises its event once; another die is not changed (R393). -/
theorem overcap_frame (s : State) (k : Nat) : (overcap s k).mem = s.mem
    ∧ (∀ e, e ≠ k → dieOf (overcap s k) e = dieOf s e)
    ∧ ((dieOf s k).atMin = 100 → (dieOf (overcap s k) k).atMin = 101) := by
  have hlog : ∀ (t : State) k i d e, dieOf (logEvent t k i d) e = dieOf t e := fun _ _ _ _ _ => rfl
  unfold overcap
  extract_lets d
  split
  · refine ⟨rfl, fun e he => ?_, fun _ => ?_⟩
    · rw [hlog, dieOf_modDie_other _ _ he]
    · rw [hlog, dieOf_modDie_same]
  next h => exact ⟨rfl, fun _ _ => rfl, fun ha => absurd ha h⟩

/-- An event outlasts the look at a die. -/
theorem stays_overcap {s : State} {e : Event} {r : Nat} (h : Stays (r + 1) e s.mgmt.events) (k : Nat) :
    Stays r e (overcap s k).mgmt.events := by
  unfold overcap
  extract_lets d
  split
  · exact Stays.push (m := (tick (modDie s k _)).2.mgmt) h _
  · obtain ⟨i, hi, hr⟩ := h
    exact ⟨i, hi, by omega⟩

/-- An event outlasts the looks at some dies. -/
theorem stays_foldl_overcap {e : Event} : ∀ (l : List Nat) (s : State), Stays l.length e s.mgmt.events →
    Stays 0 e (l.foldl overcap s).mgmt.events
  | [], _, h => h
  | k :: l, _, h => stays_foldl_overcap l _ (stays_overcap h k)

/-- Of some dies each that has been above its cap for 100 ms raises its event. -/
theorem event_foldl_overcap {d : Nat} : ∀ (l : List Nat) (s : State), l.length ≤ 4096 → d ∈ l → (dieOf s d).atMin = 100 →
    ∃ e ∈ (l.foldl overcap s).mgmt.events, e.kind = 0x0020 ∧ e.subject = d
      ∧ e.detail = (dieOf s d).pmeas + 2 ^ 16 * (dieOf s d).capeff
  | [], _, _, h, _ => absurd h List.not_mem_nil
  | k :: l, s, hl, h, ha => by
    rw [List.length_cons] at hl
    by_cases hd : d = k
    · subst hd
      have hs : ∃ e, Stays l.length e (overcap s d).mgmt.events ∧ e.kind = 0x0020 ∧ e.subject = d
          ∧ e.detail = (dieOf s d).pmeas + (dieOf s d).capeff * 65536 := by
        rw [overcap, if_pos ha]
        exact ⟨_, stays_push (tick (modDie s d _)).2.mgmt _ (by omega), rfl, rfl, rfl⟩
      obtain ⟨e, he, hk, hsub, hdet⟩ := hs
      obtain ⟨i, hi, -⟩ := stays_foldl_overcap l _ he
      exact ⟨e, List.mem_of_getElem? hi, hk, hsub, by omega⟩
    · obtain ⟨-, hother, -⟩ := overcap_frame s k
      rw [← hother d hd] at ha ⊢
      exact event_foldl_overcap l _ (by omega) ((List.mem_cons.mp h).resolve_left hd) ha

/-- PERSISTENT_OVERCAP: every die that has been above its cap for 100 ms raises its event. -/
theorem exec_persistentOvercap (s : State) : ∃ t, exec .persistentOvercap s = .next t ∧ t.mem = s.mem
    ∧ ∀ d, d < 4 → (dieOf s d).atMin = 100 → (dieOf t d).atMin = 101 ∧ ∃ e ∈ t.mgmt.events, e.kind = 0x0020
      ∧ e.subject = d ∧ e.detail = (dieOf s d).pmeas + 2 ^ 16 * (dieOf s d).capeff := by
  refine ⟨_, rfl, mem_foldl (fun s k => (overcap_frame s k).1) _ s, fun d hd ha => ⟨?_, ?_⟩⟩
  · obtain ⟨t, -, htd, ht⟩ := dieOf_foldl (Q := fun _ => True) (g := overcap) (fun s k e h => (overcap_frame s k).2.1 e h)
      (fun _ _ h => h) (List.range 4) s trivial List.nodup_range (List.mem_range.mpr hd)
    rw [ht]
    exact (overcap_frame t d).2.2 (htd ▸ ha)
  · exact event_foldl_overcap _ s (by simp) (List.mem_range.mpr hd) ha

/-! ### Field tests and fuses -/

/-- AWL_TEST_COMPLETE on a core that is tested. -/
theorem exec_awlTestComplete {s : State} {core : Nat} (h : (coreOf s core).awl = true) :
    exec (.awlTestComplete core .pass) s = .next (modCore s core (fun k => { k with awl := false, awlFails := 0 }))
      ∧ exec (.awlTestComplete core .aborted) s = .next (modCore s core (fun k => { k with awl := false }))
      ∧ ∀ side lane, ((coreOf s core).awlFails = 0 → exec (.awlTestComplete core (.lane side lane)) s
            = .next (modCore s core (fun k => { k with awlFails := 1 })))
        ∧ ((coreOf s core).awlFails ≠ 0 → ∃ t, exec (.awlTestComplete core (.lane side lane)) s = .next t
            ∧ (coreOf t core).fuses = (coreOf s core).fuses ++ [(side, lane)] ∧ (coreOf t core).awl = false) := by
  have hgo : ¬ (!(coreOf s core).awl) = true := by simp [h]
  refine ⟨congrArg Host.Outcome.next (if_neg hgo), congrArg Host.Outcome.next (if_neg hgo), fun side lane => ⟨fun h0 => ?_, fun h0 => ?_⟩⟩
  · have he : exec (.awlTestComplete core (.lane side lane)) s = .next (awlFailed s core (fun s =>
        modCore s core (fun k => { k with fuses := k.fuses ++ [(side, lane)] }))) := congrArg Host.Outcome.next (if_neg hgo)
    rw [he, awlFailed, if_pos h0]
  · have he : exec (.awlTestComplete core (.lane side lane)) s = .next (awlFailed s core (fun s =>
        modCore s core (fun k => { k with fuses := k.fuses ++ [(side, lane)] }))) := congrArg Host.Outcome.next (if_neg hgo)
    rw [he, awlFailed, if_neg h0]
    refine ⟨_, rfl, ?_, ?_⟩ <;> rw [coreOf_modCore_same, coreOf_modCore_same]

/-! ### Uncorrectable errors -/

/-- UNCORRECTABLE_ECC_ERROR in memory poisons the bytes that it names, where memory is homed. -/
theorem exec_uncorrectableEccError_memory (s : State) (pa n : Nat) :
    ∃ t, exec (.uncorrectableEccError (.memory pa n)) s = .next t ∧ t.mem = s.mem
      ∧ ∀ a, a ∈ t.poison ↔ a ∈ s.poison ∨ (pa ≤ a ∧ a < pa + n ∧ placeOf a = .homed) := by
  refine ⟨_, rfl, rfl, fun a => ?_⟩
  have hrange : (∃ i, i < n ∧ pa + i = a) ↔ pa ≤ a ∧ a < pa + n :=
    ⟨fun ⟨i, hi, h⟩ => by omega, fun h => ⟨a - pa, by omega, by omega⟩⟩
  simp only [List.mem_append, List.mem_filter, List.mem_map, List.mem_range, hrange, Bool.and_eq_true, beq_iff_eq,
    Bool.not_eq_true', List.contains_eq_mem, decide_eq_false_iff_not]
  tauto

/-- UNCORRECTABLE_ECC_ERROR in an array poisons the accumulator. -/
theorem exec_uncorrectableEccError_array (s : State) (core : Nat) {i : Nat} (hi : i < 2048) :
    ∃ t, exec (.uncorrectableEccError (.array core i)) s = .next t ∧ i ∈ (coreOf t core).apoison
      ∧ (coreOf t core).acc = (coreOf s core).acc := by
  refine ⟨_, rfl, ?_⟩
  rw [coreOf_modCore_same]
  split
  · exact ⟨List.mem_append_right _ (List.mem_singleton_self _), rfl⟩
  next h => exact ⟨by simpa [hi] using h, rfl⟩

/-- Settles O59: start-up goes by its stage and fault; sensors, caps and clocks act on one core or die each; an event stays
in the log while fewer than 4,096 follow it. -/
theorem powerAndTests : Obligations.PowerAndTests := by
  intro s
  refine ⟨exec_powerOn s, fun w he hs hf => by rw [exec_startup_stage0 w he hs, if_neg hf],
    fun w he hs hf => by rw [exec_startup_stage0 w he hs, if_pos hf], fun w => exec_startup_stage1 w,
    fun w p hw hp => buildMap_bad s w hw hp, takeMap_cases s, fun c p => avoidFailed_spare, coreOn_maps,
    fun p q hq hp => foldl_configure _ s hq (Or.inl (List.mem_range.mpr hp)), fun w => exec_startup_stage2 w,
    fun cause die reading => exec_hardwareTrip, exec_sensorSample s, exec_droopEvent s, exec_powerCapCompute s, chfAt_cases,
    exec_clockStep s, exec_persistentOvercap s, fun core side lane hm hr => congrArg _ (if_pos ?_),
    fun core hc hi hr ha => congrArg _ (if_pos ?_), fun core => exec_awlTestComplete,
    exec_uncorrectableEccError_memory s, fun core i => exec_uncorrectableEccError_array s core, ?_⟩
  · simp [hm, hr]
  · simp [hc, hi, hr, ha]
  · rintro w (⟨core, rfl⟩ | ⟨line, rfl⟩) <;> exact ⟨_, rfl, rfl, rfl, rfl, rfl⟩

end Sys2Proof.Machine
end

/-! ## Array operations that complete (O60) -/

section
open Sys2Proof Sys2Proof.Machine Sys2Proof.Claims

namespace Sys2Proof.Machine

/-! ### Tiles -/

/-- The sums of a tile depend on the 64 rows of B that it has. -/
theorem addTile_congr (o : ArrOp) (ra rb : Nat → FVal) (rowA : Nat → Nat) {f g : Nat → Nat} (h : ∀ j, j < 64 → f j = g j)
    (k : Nat) (x : CoreSt) : addTile o ra rb rowA f k x = addTile o ra rb rowA g k x := by
  unfold addTile
  extract_lets fa fb sc rs rs'
  have hrs : rs = rs' := by
    refine List.flatMap_congr fun r _ => ?_
    refine List.map_congr_left fun j hj => ?_
    rw [h j (List.mem_range.mp hj)]
  rw [hrs]

/-- The cores of a list, each once, changed in one pass. -/
theorem coreOf_foldl_zip {g : Nat → CoreSt → CoreSt} {k h : Nat} : ∀ (l : List (Nat × Nat)) (s : State),
    (l.map Prod.fst).Nodup → (k, h) ∈ l →
    coreOf (l.foldl (fun t e => modCore t e.1 (g e.2)) s) k = g h (coreOf s k)
  | [], _, _, hm => absurd hm List.not_mem_nil
  | e :: l, s, hn, hm => by
    obtain ⟨he, hn⟩ := List.nodup_cons.mp hn
    have hrest : ∀ (l : List (Nat × Nat)) (s : State), k ∉ l.map Prod.fst →
        coreOf (l.foldl (fun t e => modCore t e.1 (g e.2)) s) k = coreOf s k := by
      intro l
      induction l with
      | nil => exact fun _ _ => rfl
      | cons d l ih =>
        intro s hk
        obtain ⟨hd, hl⟩ := not_or.mp (fun hm => hk (List.mem_cons.mpr hm))
        exact (ih _ hl).trans (coreOf_modCore_other _ _ hd)
    obtain rfl | hm := List.mem_cons.mp hm
    · rw [List.foldl_cons, hrest l _ he, coreOf_modCore_same]
    · have hk : k ≠ e.1 := fun hk => he (hk ▸ List.mem_map_of_mem hm)
      rw [List.foldl_cons, coreOf_foldl_zip l _ hn hm, coreOf_modCore_other _ _ hk]

/-- The cores of an operation are different ones, where its follower is not its leader. -/
theorem arrCores_nodup {core : Nat} {o : ArrOp} (h : o.fol ≠ some core) : ((arrCores core o).zipIdx.map Prod.fst).Nodup := by
  rw [List.zipIdx_map_fst, arrCores]
  cases hf : o.fol with
  | none => simp
  | some k =>
    have hk : core ≠ k := fun hk => h (by rw [hf, hk])
    simp [hk]

/-- The leader is the first of an operation's cores. -/
theorem leader_mem (core : Nat) (o : ArrOp) : (core, 0) ∈ (arrCores core o).zipIdx := by
  simp [arrCores]

/-- A half of an operation. -/
theorem half_lt {core k h : Nat} {o : ArrOp} (hm : (k, h) ∈ (arrCores core o).zipIdx) : h < halvesOf o.fol := by
  have hlt := (List.mem_zipIdx hm).2.1
  rw [arrCores] at hlt
  cases hf : o.fol <;> simpa [hf, halvesOf] using hlt

/-- A row of the rows of some halves. -/
theorem getD_opndRows {n rows h j : Nat} (f : Nat × Nat → Nat) (hh : h < n) (hj : j < rows) :
    ((opndRows n rows).map f).getD (rows * h + j) 0 = f (h, j) := by
  have hlen : ∀ n, (opndRows n rows).length = rows * n := fun n => by
    simp [opndRows, Nat.mul_comm]
  have hget : (opndRows n rows)[rows * h + j]? = some (h, j) := by
    induction n with
    | zero => exact absurd hh (Nat.not_lt_zero h)
    | succ n ih =>
      have hsucc : opndRows (n + 1) rows = opndRows n rows ++ (List.range rows).map (fun r => (n, r)) := by
        simp [opndRows, List.range_succ]
      rw [hsucc]
      by_cases hn : h = n
      · rw [List.getElem?_append_right (by rw [hlen, hn]; omega), hlen, hn, Nat.add_sub_cancel_left]
        simp [hj]
      · have hlt : rows * h + j < rows * n := by
          have := Nat.mul_le_mul_left rows (show h + 1 ≤ n by omega)
          rw [Nat.mul_succ] at this
          omega
        rw [List.getElem?_append_left (by rw [hlen]; exact hlt)]
        exact ih (by omega)
  rw [List.getD_eq_getElem?_getD, List.getElem?_map, hget]
  rfl

/-! ### What an engine reads -/

namespace CoresStand

/-- Bytes that an engine reads. -/
theorem engBytes (s : State) (core b : Nat) (pas : List Nat) : CoresStand s (engBytes s core b pas).2.2 := by
  induction pas generalizing s with
  | nil => exact refl s
  | cons pa pas ih =>
    have hb : CoresStand s (engByte s core b pa).2.2 := by
      unfold engByte
      split
      · split
        · exact refl s
        · change CoresStand s (if _ then observe s _ _ else s)
          split
          · exact ⟨rfl, rfl⟩
          · exact refl s
      · exact ⟨rfl, rfl⟩
    exact hb.trans (ih _)

/-- The scales that an engine reads. -/
theorem readScales {s t : State} {b core : Nat} {vas : List Nat} {xs : List FVal} {p : Bool}
    (h : readScales s b core vas = .ok xs p t) : CoresStand s t := by
  induction vas generalizing s xs p with
  | nil =>
    cases h
    exact refl _
  | cons va vas ih =>
    unfold Machine.readScales at h
    split at h
    · cases h
    · split at h
      · cases h
      · cases h
      · cases h
      · dsimp only at h
        split at h
        next hr =>
          cases h
          exact (engBytes ..).trans (ih hr)
        next hno => exact (hno _ _ _ h).elim

/-- A late cause of an operation. -/
theorem arrLate (s : State) (o : ArrOp) (cause : Cause) (detail addr : Nat) : CoresStand s (arrLate s o cause detail addr) := by
  unfold Machine.arrLate reportLate
  split
  · split
    · exact ⟨rfl, rfl⟩
    · exact modCord ..
  · exact refl s

end CoresStand

/-! ### The operations -/

/-- A matrix operation whose operands are there leaves its sums, and its queue. -/
theorem performMma_done {s : State} {core : Nat} {o : ArrOp} {xs : List FVal} (hf : o.fol ≠ some core)
    (h : mmaReady s core o xs) : mmaDone s (performMma s core o) core o xs := by
  obtain ⟨hbad, ha, hb, p, t, hsc⟩ := h
  obtain ⟨u, hu⟩ : ∃ u, performMma s core o = u := ⟨_, rfl⟩
  have hmem : u.mem = s.mem := hu ▸ congrArg Prod.fst (bytesOf_performMma s core o)
  rw [hu]
  unfold performMma at hu
  extract_lets b rowsA rowsB lines na as bs ill at hu
  have hlines : linesPresent s [] lines = true := by
    have hpresent : ∀ {r : Option (List Word)} {l : List (Nat × Nat)}, (r = none → linesPresent s [] l = true) →
        linesPresent s [] (if r.isSome then [] else l) = true := fun {r} {l} hr => by
      cases r with
      | none => exact hr rfl
      | some _ => rfl
    have hrows : o.bRegs = none → linesPresent s [] (rowLines s b o.b 64 rowsB) = true := fun hn => by
      rw [show rowsB = opndRows (halvesOf o.fol) 64 by simp [rowsB, bRows, hn]]
      exact hb hn
    have happ : ∀ l l', linesPresent s [] l = true → linesPresent s [] l' = true → linesPresent s [] (l ++ l') = true :=
      fun l l' h h' => by rw [linesPresent, List.all_append, Bool.and_eq_true]; exact ⟨h, h'⟩
    exact happ _ _ (hpresent ha) (hpresent hrows)
  rw [hbad] at hu
  dsimp -zeta only at hu
  rw [if_neg (by simp [hlines]), hsc] at hu
  dsimp -zeta only at hu
  extract_lets v w bad at hu
  have ht : CoresStand s t := .readScales hsc
  have hw : CoresStand v w := by
    unfold w
    split
    · exact .arrLate ..
    · exact .refl v
  have hend : CoresStand (retireArr w core o) u := hu ▸ .poisonKill ..
  obtain ⟨hsame, hother⟩ := coreOf_retireArr w core o
  have hv : ∀ k h, (k, h) ∈ (arrCores core o).zipIdx → (coreOf v k).acc = mmaAcc s o xs h (coreOf s k)
      ∧ (coreOf v k).array = (coreOf s k).array := fun k h hm => by
    have hrow : ∀ j, j < 64 → bs.getD (if o.bRegs.isSome = true then j else 64 * h + j) 0
        = opndRow s o.block o.b o.bRegs (if o.bRegs.isSome then 0 else h) j := fun j hj => by
      unfold bs rowsB bRows
      cases o.bRegs with
      | none => exact getD_opndRows _ (half_lt hm) hj
      | some ws =>
        have h0 := getD_opndRows (n := 1) (h := 0) (fun e => opndRow s b o.b (some ws) e.1 e.2) Nat.one_pos hj
        rwa [Nat.mul_zero, Nat.zero_add] at h0
    rw [coreOf_foldl_zip (g := fun h => addTile o (scaleOf o.aDesc (xs.take na)) (scaleOf o.bDesc (xs.drop na))
        (fun r => as.getD (32 * h + r) 0) (fun j => bs.getD (if o.bRegs.isSome = true then j else 64 * h + j) 0) h)
      _ t (arrCores_nodup hf) hm, ht.coreOf, addTile_congr o _ _ _ hrow]
    exact ⟨rfl, rfl⟩
  refine ⟨fun k h hm => ?_, ?_, ?_⟩
  · rw [hend.coreOf]
    by_cases hk : k = core
    · rw [hk, hsame, hw.coreOf]
      exact (hv core h (hk ▸ hm)).1
    · rw [hother k hk, hw.coreOf]
      exact (hv k h hm).1
  · rw [hend.coreOf, hsame, hw.coreOf]
    rw [(hv core 0 (leader_mem core o)).2]
  · exact hmem

/-- ARRAY_ZERO_LOAD_PERFORM of MZERO, or of MACCLD whose lines are present. -/
theorem exec_zeroLoad {s : State} {core : Nat} {o : ArrOp} (ho : headOp s core [.mzero, .maccld] = some o)
    (hf : o.fol ≠ some core) (hp : o.kind = .mzero
      ∨ linesPresent s [] (rowLines s o.block o.a (tileRow o.ty) (opndRows (halvesOf o.fol) 32)) = true) :
    ∃ t, exec (.arrayZeroLoadPerform core) s = .next t
      ∧ (∀ k h, (k, h) ∈ (arrCores core o).zipIdx → (coreOf t k).apoison = [] ∧ (coreOf t k).acc
          = if o.kind = .mzero then [] else (loadTile s o h (coreOf s k)).acc)
      ∧ (coreOf t core).array = (coreOf s core).array.filter (fun p => p.n != o.n) ∧ t.mem = s.mem := by
  by_cases hk : o.kind = .mzero
  · obtain ⟨t, he, hcores, harr, hmem, -⟩ := exec_mzero ho hk
    refine ⟨t, he, fun k h hm => ?_, harr, hmem⟩
    obtain ⟨hacc, hpoison, -⟩ := hcores k (mem_arrCores.mp (List.fst_mem_of_mem_zipIdx hm))
    rw [if_pos hk]
    exact ⟨hpoison, hacc⟩
  · have hkind : o.kind = .maccld := by
      unfold headOp at ho
      split at ho
      · split at ho
        next hc =>
          obtain rfl := Option.some.inj ho
          have hin := (Bool.and_eq_true _ _ ▸ hc).1
          simpa [hk] using hin
        · cases ho
      · cases ho
    have he := exec_maccld ho hkind (hp.resolve_left hk)
    obtain ⟨v, hv⟩ : ∃ v, ((arrCores core o).zipIdx).foldl (fun t e => modCore t e.1 (loadTile s o e.2)) s = v := ⟨_, rfl⟩
    rw [hv] at he
    have hcore : ∀ k h, (k, h) ∈ (arrCores core o).zipIdx → coreOf v k = loadTile s o h (coreOf s k) := fun k h hm => by
      rw [← hv]
      exact coreOf_foldl_zip (g := loadTile s o) _ s (arrCores_nodup hf) hm
    obtain ⟨hsame, hother⟩ := coreOf_retireArr v core o
    refine ⟨_, he, fun k h hm => ?_, ?_, ?_⟩
    · rw [(CoresStand.poisonKill ..).coreOf, if_neg hk]
      by_cases hc : k = core
      · rw [hc, hsame, hcore core h (hc ▸ hm)]
        exact ⟨rfl, rfl⟩
      · rw [hother k hc, hcore k h hm]
        exact ⟨rfl, rfl⟩
    · rw [(CoresStand.poisonKill ..).coreOf, hsame, hcore core 0 (leader_mem core o)]
      rfl
    · rw [(CoresStand.poisonKill ..).mem, (retireArr_core v core o).mem, modCore_mem, ← hv]
      exact (foldl_modCore_frame Prod.fst (fun e => loadTile s o e.2) (arrCores core o).zipIdx s).1

/-- The windows after a drain to the scratchpad are those that its rows were written to. -/
theorem performDrain_windows {s : State} {core : Nat} {o : ArrOp} (hr : o.reg = false)
    (hsrc : linesPresent s o.lines (drainSources s o) = true)
    (hown : linesPresent s (ownRaised (coreOf s core)) o.lines = true) (i : Nat) :
    ((performDrain s core o).blocks[i]?).map Block.window = ((drainedTo s core o).blocks[i]?).map Block.window := by
  obtain ⟨t, ht⟩ : ∃ t, performDrain s core o = t := ⟨_, rfl⟩
  rw [ht]
  unfold performDrain at ht
  extract_lets b width rows src half out fl u v w y bad at ht
  rw [if_neg (by rw [show linesPresent s o.lines src = true from hsrc, hown]; simp)] at ht
  have hu : u = drainedTo s core o := by
    unfold u
    rw [if_neg (by simp [hr])]
    unfold out rows
    rw [List.foldl_map, hr]
    rfl
  have hb : bytesOf t = bytesOf (drainedTo s core o) := by
    have hw : bytesOf w = bytesOf v := bytesOf_foldl (fun s k => bytesOf_modCore s k _) _ v
    have hy : bytesOf y = bytesOf w := bytesOf_modCord ..
    rw [← ht, bytesOf_poisonKill, bytesOf_retireArr, hy, hw, ← hu]
    exact bytesOf_lowerLines ..
  exact window_of_bytes hb i

/-- ARRAY_DRAIN_PERFORM of a drain to the scratchpad whose lines are raised and present. -/
theorem exec_padDrain {s : State} {core : Nat} {o : ArrOp} (ho : headOp s core [.mdrain] = some o) (hd : o.due = [])
    (hr : o.reg = false) (hsrc : o.mod % 4 ≠ 0 → linesPresent s o.lines (rowLines s o.block o.a (resRow o.mod)
      (drainRows (((s.blocks[o.block]?).map (fun x => x.width)).getD 64) (halvesOf o.fol) false o.band)) = true)
    (hown : linesPresent s (ownRaised (coreOf s core)) o.lines = true) :
    ∃ t, exec (.arrayDrainPerform core) s = .next t
      ∧ (∀ b : Nat, (t.blocks[b]?).map Block.window = ((drainedTo s core o).blocks[b]?).map Block.window)
      ∧ (coreOf t core).asticky = 0 ∧ (coreOf t core).acc = (coreOf s core).acc
      ∧ (coreOf t core).array = (coreOf s core).array.filter (fun p => p.n != o.n) ∧ t.mem = s.mem := by
  have hsrcs : linesPresent s o.lines (drainSources s o) = true := by
    rw [drainSources, hr]
    split
    · rfl
    · exact hsrc ‹_›
  obtain ⟨hcores, harr, hmem⟩ := performDrain_leaves hsrcs hown
  obtain ⟨hst, hacc⟩ := hcores core (Or.inl rfl)
  exact ⟨_, (exec_mdrain ho).1 hd, performDrain_windows hr hsrcs hown, hst, hacc, harr, hmem⟩

end Sys2Proof.Machine
end

/-! ## Device events that complete (O60) -/

section
open Sys2Proof Sys2Proof.Machine Sys2Proof.Claims

namespace Sys2Proof.Machine

/-! ### Queued results -/

/-- Registers are written whatever operations are outstanding. -/
theorem commit_ops (ws : List RegW) (c : Cord) (ops : List Op) :
    commit { c with ops := ops } ws = { commit c ws with ops := ops } := by
  unfold commit
  induction ws generalizing c with
  | nil => rfl
  | cons w ws ih =>
    have hw : applyW { c with ops := ops } w = { applyW c w with ops := ops } := by cases w <;> rfl
    rw [List.foldl_cons, List.foldl_cons, hw, ih]

/-- What a complete operation leaves of its cord. -/
theorem completeOp_leaves (x : Cord) (op : Op) (ws : List RegW) :
    (∀ l r, ((completeOp x op ws).lane l).reg r = ((commit x (op.kept ws)).lane l).reg r)
      ∧ (∀ p ∈ (completeOp x op ws).ops, p.id ≠ op.id) ∧ (completeOp x op ws).f = (flagDown x op.flag).f := by
  have hc : completeOp x op ws = flagDown { commit x (op.kept ws) with
      ops := ((noteLate (some op.id) (op.kept ws) x).ops.filter (fun p => p.id != op.id)) } op.flag := by
    rw [completeOp, noteLate, commit_ops]
  obtain ⟨st, s, k, fp, hcommit⟩ := commit_eq (op.kept ws) x
  obtain ⟨f, hf⟩ := flagDown_eq { commit x (op.kept ws) with
    ops := ((noteLate (some op.id) (op.kept ws) x).ops.filter (fun p => p.id != op.id)) } op.flag
  refine ⟨fun l r => ?_, fun p hp => ?_, ?_⟩
  · rw [hc, hf]
    rfl
  · rw [hc, hf] at hp
    simpa using (List.mem_filter.mp hp).2
  · rw [hc, hcommit]
    cases op.flag <;> rfl

/-- QUEUED_RESULT_WRITE of a result that no piece is due of and that names no cause. -/
theorem exec_queuedResult_whole {s : State} {b c n : Nat} {x : Cord} {op : Op} {ws : List RegW} (hx : cordOf s b c = some x)
    (ho : opOf x n = some op) (hk : op.kind = .queued ws none) (hp : op.piece = false) (hw : op.ws = []) :
    ∃ t y, exec (.queuedResultWrite b c n) s = .next t ∧ cordOf t b c = some y
      ∧ (∀ l r, (y.lane l).reg r = ((commit x (op.kept ws)).lane l).reg r)
      ∧ (∀ p ∈ y.ops, p.id ≠ n) ∧ y.f = (flagDown x op.flag).f := by
  have hid : op.id = n := by
    rw [opOf] at ho
    simpa using List.find?_some ho
  obtain ⟨hreg, hops, hf⟩ := completeOp_leaves x op ws
  exact ⟨_, completeOp x op ws, exec_queuedResultWrite hx ho hk (by simp [hp, hw, queuedOver]),
    cordOf_modCord_of_some hx _, hreg, fun p hq => hid ▸ hops p hq, hf⟩

/-! ### The engines -/

section
variable {s : State} {core n : Nat} {q : Request}

/-- The units of a copy that converts nothing are its bytes. -/
theorem copyUnits_bytes (h : q.cv = false) : copyUnit q = 1 ∧ copyUnits q = q.len := by
  have hu : copyUnit q = 1 := by simp [copyUnit, h]
  exact ⟨hu, by rw [copyUnits, hu, Nat.add_sub_cancel, Nat.div_one]⟩

/-- Every row of a copy has its sides, where the first one has. -/
theorem copySides_isSome (h : (copySides q 0).isSome = true) (row : Nat) : ∃ src dst, copySides q row = some (src, dst) := by
  unfold copySides at h ⊢
  dsimp only at h ⊢
  split at h
  · exact ⟨_, _, rfl⟩
  · cases h

/-- A run of a copy that converts nothing, whose bytes can be read and written. -/
theorem moveRun_bytes (hc : q.cv = false) {row i k : Nat} {src dst : Side} {bs : List Byte} {p : List Bool} {t u : State}
    (hs : copySides q row = some (src, dst)) (hk : i + k ≤ q.len)
    (hr : engRead s q.block core q.raised (src.at_ i) k = .ok bs p t)
    (hw : engWrite t q.block core (dst.at_ i) bs p = .ok [] [] u) :
    moveRun s core q row i k
      = counted u core q (row * q.len + i) k bs.length (dst.at_ i) (fun r => copyTotal r ≤ r.counted) := by
  obtain ⟨hu, hus⟩ := copyUnits_bytes hc
  have hlen : Nat.min q.len (i + k) - i = k := by
    rw [show Nat.min q.len (i + k) = i + k from Nat.min_eq_right hk]
    omega
  simp only [moveRun, hu, hus, hs, hlen, hc, Nat.mul_one, hr, hw, Bool.not_false, if_true, Bool.false_eq_true, if_false,
    counted, decide_eq_true_eq] <;> rfl

/-- COPY_DELIVERY of a copy that converts nothing and whose runs can be read and written. -/
theorem exec_copyDelivery_bytes (hq : reqOf s core n = some q) (ha : q.accepted = true) (hf : q.finished = false)
    (he : q.engine = .copy) (hc : q.cv = false) (hsides : (copySides q 0).isSome = true)
    (hgo : runsGo { s with free := s.free + 1 } core q) (h : ∃ u, u < q.len * q.rows ∧ undelivered q u) :
    ∃ row i k src dst bs p t u, row < q.rows ∧ 0 < k ∧ i + k ≤ q.len
      ∧ (∀ j, j < k → undelivered q (row * q.len + i + j)) ∧ copySides q row = some (src, dst)
      ∧ engRead { s with free := s.free + 1 } q.block core q.raised (src.at_ i) k = .ok bs p t
      ∧ engWrite t q.block core (dst.at_ i) bs p = .ok [] [] u
      ∧ exec (.copyDelivery core n) s = .next (counted u core q (row * q.len + i) k bs.length (dst.at_ i)
          (fun r => copyTotal r ≤ r.counted)) := by
  have hus := (copyUnits_bytes hc).2
  obtain ⟨row, i, k, hrow, hk, -, hik, hund, hex⟩ := exec_copyDelivery hq ha hf he (by rwa [hus])
  rw [hus] at hik hund
  obtain ⟨src, dst, hs⟩ := copySides_isSome hsides row
  obtain ⟨bs, p, t, u, hr, hw⟩ := hgo row i k src dst hrow hk hik hs
  exact ⟨row, i, k, src, dst, bs, p, t, u, hrow, hk, hik, hund, hs, hr, hw, by rw [hex, moveRun_bytes hc hs hik hr hw]⟩

/-- GSE_ELEMENT_MOVE of an element whose index, source and destination can be reached. -/
theorem exec_gseElementMove_whole {k : Nat} {ix : Side} {idx : List Byte} {pi : List Bool} {t : State} {src dst : Side}
    {bs : List Byte} {p' : List Bool} {t' u : State} (hq : reqOf s core n = some q) (ha : q.accepted = true)
    (hf : q.finished = false) (he : q.engine = .gse) (hc : q.gcv = false) (hk : k < q.gcount)
    (hm : tabGet q.moved k = none) (hix : sideOf (q.field 191 128) = some ix)
    (hi : engRead s q.block core q.raised (ix.at_ (k * q.iw)) q.iw = .ok idx pi t) (hpi : pi.any id = false)
    (hs : gseSides q k (leNat idx) = some (src, dst)) (ho : gseOutside t q src dst = false)
    (hr : engRead t q.block core q.raised src (gseElt q) = .ok bs p' t')
    (hw : engWrite t' q.block core dst bs p' = .ok [] [] u) :
    exec (.gseElementMove core n k) s
      = .next (counted u core q k 1 bs.length dst (fun r => q.gcount ≤ r.moved.length)) := by
  have hlen : gseSrcLen q = gseElt q := by simp [gseSrcLen, hc]
  rw [exec_gseElementMove hq ha hf he hk hm]
  simp only [gseMove, hix, hi, hpi, moveElement, hs, ho, hlen, hr, hc, hw, Bool.not_false, if_true, Bool.false_eq_true,
    if_false, counted, decide_eq_true_eq] <;> rfl

/-- COLLECTIVE_PERFORM of a rank whose source can be read. -/
theorem exec_collectivePerform_source {w : CollWorld} {rank : Nat} {vals : List Nat} {ill : Bool} {p : List Bool} {t : State}
    (hq : reqOf s core n = some q) (ha : q.accepted = true) (hf : q.finished = false) (he : q.engine = .coll)
    (hres : q.result = none) (hsrc : q.source = none) (hk : reqRank s q = some rank)
    (herr : collError s q (collLocal s q) (heardWorld s q w) = 0)
    (hr : collRead s core q (reqComm s q).length rank = .ok vals ill p t) :
    exec (.collectivePerform core n w) s = .next (modReq
      (reqObject t q 0 (if collReads q (reqComm s q).length rank = 0 then 0 else 1) (if ill then 5 else 0)) core q.n
      (fun r => { r with source := some (vals, ill, p), ill := r.ill || ill })) := by
  obtain ⟨-, -, hrank⟩ := exec_collectivePerform hq ha hf he w
  obtain ⟨-, hread, -⟩ := hrank rank hres hk
  rw [hread herr hsrc, readSource, hr]

/-- COLLECTIVE_PERFORM of a rank whose result can be written. -/
theorem exec_collectivePerform_result {w : CollWorld} {res : List Nat} {p : List Bool} {dst : Side} {rs : List Byte}
    {p' : List Bool} {t u : State} (hq : reqOf s core n = some q) (ha : q.accepted = true) (hf : q.finished = false)
    (he : q.engine = .coll) (hres : q.result = some (res, p)) (hd : sideOf (q.field 127 64) = some dst)
    (hsc : resultScales s core q res = .ok rs p' t) (hne : collBytes q res rs ≠ [])
    (hw : engWrite t q.block core dst (collBytes q res rs)
      (collBytePoisons q p p' (collBytes q res rs).length) = .ok [] [] u) :
    exec (.collectivePerform core n w) s = .next (
      let v := countBytes u core q dst (collBytes q res rs).length false
      match reqOf v core q.n with
      | some r => finishReq v core r
      | none => v) := by
  obtain ⟨hresult, -, -⟩ := exec_collectivePerform hq ha hf he w
  have hempty : ¬ (collBytes q res rs).isEmpty = true := by simpa using hne
  rw [hresult _ hres, writeResult, hd, hsc]
  dsimp only
  rw [if_neg hempty, hw]
  dsimp only
  cases reqOf (countBytes u core q dst (collBytes q res rs).length false) core q.n <;> rfl

end

/-- Settles O60: each event by the lemma that says what it does; a matrix operation changes each of its cores once, and a
drain writes the windows as `drainedTo` says. -/
theorem eventsComplete : Obligations.EventsComplete := by
  intro s core n
  refine ⟨fun b c x op ws => exec_queuedResult_whole, fun o ho hb => exec_storeArrivalAtHome ho hb, fun line => ⟨rfl, rfl⟩,
    fun q hq ha hf => ⟨exec_copyDelivery_bytes hq ha hf, fun k ix idx pi t src dst bs p' t' u he hc hk hm hix hi hpi hs ho hr hw =>
      exec_gseElementMove_whole hq ha hf he hc hk hm hix hi hpi hs ho hr hw,
      fun w rank vals ill p t he hres hsrc hk herr hr => exec_collectivePerform_source hq ha hf he hres hsrc hk herr hr,
      fun w res p dst rs p' t u he hres hd hsc hne hw => exec_collectivePerform_result hq ha hf he hres hd hsc hne hw⟩,
    fun o xs ho hf hm => ⟨_, exec_mma ho, performMma_done hf hm⟩, fun o => exec_zeroLoad, fun o => exec_padDrain, ?_⟩
  rintro c blk o xs rest hx rfl hr ha he rfl hf hm
  exact ⟨_, exec_firmwareEmulation_array hx hr ha he, performMma_done hf hm⟩

end Sys2Proof.Machine
end
